-- ==== Sys2Proof/Word.lean ====
section
/-! DEFINITION. The word types of the H940: scalars and lanes hold 32 bits (R64, R67), addresses and PCs 64 (R36,
R182), masks one bit per lane for at most 128 lanes (R58, R61). -/
namespace Sys2Proof

/-- A 32-bit word: a scalar, one lane of a register, an instruction word. -/
abbrev Word := BitVec 32

/-- A byte of memory. -/
abbrev Byte := BitVec 8

/-- A 64-bit value: an address, a PC, a scalar pair. -/
abbrev Dword := BitVec 64

/-- A lane mask; bit i belongs to lane i (R61). A wave of width W uses bits 0 to W − 1. -/
abbrev Mask := BitVec 128

end Sys2Proof
end

