-- ==== Sys2Proof/Machine/Bits.lean ====
section
/-! DEFINITION. Bit fields, signed readings and byte order, over natural numbers (R85, "How the text is written"). -/
namespace Sys2Proof.Machine

/-- The field x<hi:lo>. -/
def fld (x hi lo : Nat) : Nat := (x >>> lo) % 2 ^ (hi + 1 - lo)

/-- Bit i of x. -/
def bit (x i : Nat) : Bool := x.testBit i

/-- A Bool as 0 or 1. -/
def b2n (b : Bool) : Nat := if b then 1 else 0

/-- The low n bits of x as a two's-complement integer (R85). -/
def sx (n x : Nat) : Int :=
  let y := x % 2 ^ n
  if y < 2 ^ (n - 1) then y else (y : Int) - 2 ^ n

/-- An integer modulo 2^n (R85). -/
def wrap (n : Nat) (v : Int) : Nat := (v % 2 ^ n).toNat

/-- The least of a range's values not below `lo` and not above `hi`. -/
def clampI (lo hi v : Int) : Int := if v < lo then lo else if hi < v then hi else v

/-- x rounded up to a multiple of n. -/
def roundUp (n x : Nat) : Nat := (x + n - 1) / n * n

/-- Number of set bits among the low n bits. -/
def popcount : Nat → Nat → Nat
  | 0, _ => 0
  | n + 1, x => x % 2 + popcount n (x / 2)

/-- The low n bits in reverse order. -/
def bitrev : Nat → Nat → Nat
  | 0, _ => 0
  | n + 1, x => (x % 2) * 2 ^ n + bitrev n (x / 2)

/-- The lanes below n whose bit is set, in increasing order: `active(m)` of the pseudocode. -/
def lanesBelow (n : Nat) (m : Mask) : List Nat := (List.range n).filter fun i => m.getLsbD i

/-- The lanes of a mask. -/
def lanesOf (m : Mask) : List Nat := lanesBelow 128 m

/-- Lowest set lane. -/
def lowLane (m : Mask) : Option Nat := (List.range 128).find? fun i => m.getLsbD i

/-- The mask with exactly these lanes. -/
def maskOf (l : List Nat) : Mask := l.foldl (fun m i => m ||| (1#128 <<< i)) 0

/-- The mask of all W lanes (R62). -/
def fullMask (w : Nat) : Mask := BitVec.ofNat 128 (2 ^ w - 1)

/-- n little-endian bytes of a value (R85). -/
def leBytes : Nat → Nat → List Byte
  | 0, _ => []
  | n + 1, x => BitVec.ofNat 8 x :: leBytes n (x / 256)

/-- The value of little-endian bytes (R85). -/
def ofLe : List Byte → Nat
  | [] => 0
  | b :: l => b.toNat + 256 * ofLe l

/-- Element of a list by number, or a default. -/
def nth {α : Type} (d : α) (l : List α) (n : Nat) : α := (l[n]?).getD d

/-- Replace the first element that satisfies a test, or append. -/
def upsert {α : Type} (p : α → Bool) (x : α) : List α → List α
  | [] => [x]
  | y :: l => if p y then x :: l else y :: upsert p x l

/-- Apply a function to the elements that satisfy a test. -/
def mapIf {α : Type} (p : α → Bool) (f : α → α) (l : List α) : List α := l.map fun x => if p x then f x else x

/-- Insert before the first element that is not smaller, by key. -/
def insertBy {α : Type} (key : α → Nat) (x : α) : List α → List α
  | [] => [x]
  | y :: l => if key y < key x then y :: insertBy key x l else x :: y :: l

/-- A list sorted by a key; equal keys keep their order. -/
def sortBy {α : Type} (key : α → Nat) (l : List α) : List α := l.foldr (insertBy key) []

/-- The sum of a list's images. -/
def sumBy {α : Type} (f : α → Nat) (l : List α) : Nat := l.foldl (fun n x => n + f x) 0

end Sys2Proof.Machine
end

