-- ==== Sys2Proof/Machine/Float.lean ====
section
/-! DEFINITION. Floating-point values, formats and rounding (R86–R106): every operation forms its exact value and rounds it
once. -/
namespace Sys2Proof.Machine

/-! ## Formats (R86) -/

/-- What a format does with values beyond its largest finite one (R97). -/
inductive Over where
  /-- has infinities: the IEEE result of the mode -/
  | ieee
  /-- E4M3: the largest finite value, or NaN under SATNAN -/
  | satNan
  /-- saturates always -/
  | sat
  deriving DecidableEq, Repr

/-- A format: widths of exponent and mantissa, bias, its largest finite code, its canonical NaN code if it has NaN, what it
does on overflow, and its class of MODE bits (R101): 0 FP32, 1 FP16 and BF16, 2 FP8, 3 FP6 and FP4. -/
structure Fmt where
  e : Nat
  m : Nat
  bias : Nat
  maxCode : Nat
  nan : Option Nat
  beyond : Over
  cls : Nat
  deriving DecidableEq, Repr

def fp32 : Fmt := ⟨8, 23, 127, 0x7F7FFFFF, some 0x7FC00000, .ieee, 0⟩
def fp16 : Fmt := ⟨5, 10, 15, 0x7BFF, some 0x7E00, .ieee, 1⟩
def bf16 : Fmt := ⟨8, 7, 127, 0x7F7F, some 0x7FC0, .ieee, 1⟩
def e4m3 : Fmt := ⟨4, 3, 7, 0x7E, some 0x7F, .satNan, 2⟩
def e5m2 : Fmt := ⟨5, 2, 15, 0x7B, some 0x7E, .ieee, 2⟩
def e3m2 : Fmt := ⟨3, 2, 3, 0x1F, none, .sat, 3⟩
def e2m3 : Fmt := ⟨2, 3, 1, 0x1F, none, .sat, 3⟩
def e2m1 : Fmt := ⟨2, 1, 1, 0x7, none, .sat, 3⟩

/-- Bits of a format's codes. -/
def Fmt.width (f : Fmt) : Nat := 1 + f.e + f.m

/-- Exponent of a format's smallest step. -/
def Fmt.tiny (f : Fmt) : Int := 1 - (f.bias : Int) - f.m

/-- A floating element type: one of the formats of R86, or MXINT8 (R89). -/
inductive FTy where
  | float (f : Fmt)
  | mxi8
  deriving DecidableEq, Repr

/-- The element type of a type code (R49). -/
def ftyOf (code : Nat) : Option FTy :=
  match code with
  | 9 => some (.float fp32)
  | 10 => some (.float fp16)
  | 11 => some (.float bf16)
  | 12 => some (.float e4m3)
  | 13 => some (.float e5m2)
  | 14 => some (.float e3m2)
  | 15 => some (.float e2m3)
  | 16 => some (.float e2m1)
  | 17 => some .mxi8
  | _ => none

/-- Bits of an element. -/
def FTy.width : FTy → Nat
  | .float f => f.width
  | .mxi8 => 8

/-! ## Values -/

/-- A value: NaN, an infinity, or (−1)^neg · m · 2^e. -/
inductive FV where
  | nan
  | inf (neg : Bool)
  | fin (neg : Bool) (m : Nat) (e : Int)
  deriving DecidableEq, Repr

/-- +0. -/
def FV.zero : FV := .fin false 0 0

/-- An integer as a value. -/
def FV.ofInt (v : Int) : FV := .fin (v < 0) v.natAbs 0

def FV.neg : FV → FV
  | .nan => .nan
  | .inf n => .inf !n
  | .fin n m e => .fin (!n) m e

/-- The value of a code (R87, R88, R89), a subnormal reading as the zero of its sign under DAZ (R101). -/
def FTy.decode (t : FTy) (daz : Bool) (bits : Nat) : FV :=
  match t with
  | .mxi8 => let q := sx 8 bits; .fin (q < 0) q.natAbs (-6)
  | .float f =>
    let b := bits % 2 ^ f.width
    let s := bit b (f.width - 1)
    let mag := b % 2 ^ (f.width - 1)
    let ex := mag / 2 ^ f.m
    let man := mag % 2 ^ f.m
    if f.maxCode < mag ∧ f.nan.isSome then (if f.beyond = .ieee ∧ mag = f.maxCode + 1 then .inf s else .nan)
    else if ex = 0 then .fin s (if daz then 0 else man) f.tiny
    else .fin s (man + 2 ^ f.m) (f.tiny + ex - 1)

/-- DAZ and FTZ bits of a class in MODE (R72). -/
def dazOf (mode cls : Nat) : Bool := bit mode (2 * cls)
def ftzOf (mode cls : Nat) : Bool := bit mode (2 * cls + 1)

/-- The DAZ bit of an element type. -/
def FTy.daz (t : FTy) (mode : Nat) : Bool := match t with | .float f => dazOf mode f.cls | .mxi8 => false

/-! ## Rounding (R97, R98) -/

/-- A magnitude to be rounded: exactly m · 2^e, or, where `more` holds, a value strictly between that and the next. -/
structure Mag where
  m : Nat
  e : Int
  more : Bool := false
  deriving DecidableEq, Repr

/-- x · 2^k truncated. -/
def shl (x : Nat) (k : Int) : Nat := if 0 ≤ k then x <<< k.toNat else x >>> (-k).toNat

/-- Rounding onto the multiples of 2^u: the number of steps. Modes as R50 numbers them; `d` is the draw of RS. -/
def Mag.steps (x : Mag) (u : Int) (rnd d : Nat) (neg : Bool) : Nat :=
  let t := shl x.m (x.e - (u - 17))
  let more := x.more || shl t ((u - 17) - x.e) ≠ x.m
  let q := t / 2 ^ 17
  let r := t % 2 ^ 17
  let up := match rnd with
    | 2 => false
    | 3 => !neg && (r ≠ 0 || more)
    | 4 => neg && (r ≠ 0 || more)
    | 5 => decide (65536 ≤ r / 2 + d)
    | _ => decide (65536 < r) || (r = 65536 && (more || q % 2 = 1))
  if up then q + 1 else q

/-- Exponent of the leading bit. -/
def Mag.top (x : Mag) : Int := Nat.log2 x.m + x.e

/-- The code of a magnitude rounded into a format, before overflow: steps from zero on the grid continued with an unbounded
exponent, as a number that orders as the magnitudes do. -/
def Fmt.code (f : Fmt) (x : Mag) (rnd d : Nat) (neg : Bool) : Nat :=
  if x.m = 0 then 0
  else
    let u := max f.tiny (x.top - f.m)
    x.steps u rnd d neg + (u - f.tiny).toNat * 2 ^ f.m

/-- Result of an overflow (R97). -/
def Fmt.overflow (f : Fmt) (satNan : Bool) (rnd : Nat) (neg : Bool) : Nat :=
  let s := b2n neg * 2 ^ (f.width - 1)
  match f.beyond with
  | .sat => s + f.maxCode
  | .satNan => if satNan then f.nan.getD 0 else s + f.maxCode
  | .ieee =>
    if rnd = 2 || (rnd = 3 && neg) || (rnd = 4 && !neg) then s + f.maxCode else s + f.maxCode + 1

/-- A magnitude rounded into a format, with overflow and then FTZ (R97, R98, R101). -/
def Fmt.round (f : Fmt) (ftz satNan : Bool) (rnd d : Nat) (neg : Bool) (x : Mag) : Nat :=
  let c := f.code x rnd d neg
  let s := b2n neg * 2 ^ (f.width - 1)
  if f.maxCode < c then f.overflow satNan rnd neg
  else if ftz ∧ c < 2 ^ f.m then s else s + c

/-- The two's-complement code of a signed MXINT8 magnitude, never 0x80 (R89). -/
def mxi8Code (neg : Bool) (q : Nat) : Nat :=
  let q := min q 127
  if neg then (256 - q) % 256 else q

/-- An exact value rounded into an element type. -/
def FTy.round (t : FTy) (ftz satNan : Bool) (rnd d : Nat) (v : FV) : Nat :=
  match t, v with
  | .mxi8, .nan => 0
  | .mxi8, .inf n => mxi8Code n 127
  | .mxi8, .fin n m e => mxi8Code n (Mag.steps ⟨m, e, false⟩ (-6) rnd d n)
  | .float f, .nan => f.nan.getD 0
  | .float f, .inf n => if f.beyond = .ieee then b2n n * 2 ^ (f.width - 1) + f.maxCode + 1 else f.overflow satNan rnd n
  | .float f, .fin n m e => f.round ftz satNan rnd d n ⟨m, e, false⟩

/-- A result written under the modes of its type (R72, R97, R101). -/
def FTy.write (t : FTy) (mode rnd d : Nat) (v : FV) : Nat :=
  t.round (match t with | .float f => ftzOf mode f.cls | .mxi8 => false) (bit mode 9) rnd d v

/-- A value rounded to an integer of n bits, saturating (R102). -/
def FV.toInt (v : FV) (n : Nat) (signed : Bool) (rnd d : Nat) : Int :=
  let lo : Int := if signed then -(2 ^ (n - 1)) else 0
  let hi : Int := if signed then 2 ^ (n - 1) - 1 else 2 ^ n - 1
  match v with
  | .nan => 0
  | .inf s => if s then lo else hi
  | .fin s m e =>
    let q : Int := if 128 < (Nat.log2 m : Int) + e ∧ m ≠ 0 then 2 ^ 128 else (Mag.steps ⟨m, e, false⟩ 0 rnd d s : Int)
    clampI lo hi (if s then -q else q)

/-! ## Arithmetic (R92, R93, R103) -/

/-- The signed integer of a finite value at an exponent not above its own. -/
def mantAt (neg : Bool) (m : Nat) (e e' : Int) : Int :=
  let q : Int := (m : Int) * 2 ^ (e - e').toNat
  if neg then -q else q

/-- A sum of finite terms (R92): a zero takes the sign that every zero term has, −0 under RD, and +0 otherwise. -/
def sumFin (rd : Bool) (l : List (Bool × Nat × Int)) : FV :=
  let e := l.foldl (fun a t => min a t.2.2) (l.head?.elim 0 (·.2.2))
  let v := l.foldl (fun a t => a + mantAt t.1 t.2.1 t.2.2 e) (0 : Int)
  if v = 0 then
    if l.all fun t => t.2.1 = 0 && t.1 then .fin true 0 0
    else if l.all fun t => t.2.1 = 0 && !t.1 then .zero
    else .fin rd 0 0
  else .fin (v < 0) v.natAbs e

/-- A sum of values: NaN for a NaN or infinities of both signs, and an infinity for infinities of one (R93, R106). -/
def sumFV (rd : Bool) (l : List FV) : FV :=
  let infs := l.filterMap fun v => match v with | .inf n => some n | _ => none
  let fins := l.filterMap fun v => match v with | .fin n m e => some (n, m, e) | _ => none
  if l.any fun v => v = .nan then .nan
  else match infs with
    | [] => sumFin rd fins
    | n :: t => if t.all (· = n) then .inf n else .nan

/-- The exact product. -/
def mulFV (a b : FV) : FV :=
  match a, b with
  | .nan, _ => .nan
  | _, .nan => .nan
  | .inf x, .inf y => .inf (x != y)
  | .inf x, .fin y m _ => if m = 0 then .nan else .inf (x != y)
  | .fin x m _, .inf y => if m = 0 then .nan else .inf (x != y)
  | .fin x m e, .fin y n f => .fin (x != y) (m * n) (e + f)

def addFV (rd : Bool) (a b : FV) : FV := sumFV rd [a, b]
def fmaFV (rd : Bool) (a b c : FV) : FV := sumFV rd [mulFV a b, c]

/-- Order of two values; `none` is unordered. -/
def cmpFV (a b : FV) : Option Ordering :=
  match a, b with
  | .nan, _ => none
  | _, .nan => none
  | .inf x, .inf y => some (if x = y then .eq else if x then .lt else .gt)
  | .inf x, .fin _ _ _ => some (if x then .lt else .gt)
  | .fin _ _ _, .inf y => some (if y then .gt else .lt)
  | .fin x m e, .fin y n f =>
    some (compare (mantAt x m e (min e f)) (mantAt y n f (min e f)))

/-- minimumNumber and maximumNumber, −0 below +0 (R92, R113). -/
def minMaxFV (big : Bool) (a b : FV) : FV :=
  let sgn := fun v => match v with | FV.fin n _ _ => n | .inf n => n | .nan => false
  match cmpFV a b with
  | none => if a = .nan then b else a
  | some .eq => if sgn a = sgn b then a else if sgn a = big then b else a
  | some .lt => if big then b else a
  | some .gt => if big then a else b

/-- An exact result, which may lie between two numbers of the form m · 2^e. -/
inductive FX where
  | nan
  | inf (neg : Bool)
  | mag (neg : Bool) (x : Mag)
  deriving DecidableEq, Repr

/-- An exact result rounded into FP32 (R103). -/
def FX.to32 (r : FX) (mode rnd d : Nat) : Nat :=
  match r with
  | .nan => 0x7FC00000
  | .inf n => b2n n * 2 ^ 31 + 0x7F800000
  | .mag n x => fp32.round (ftzOf mode 0) false rnd d n x

def FV.toFX : FV → FX
  | .nan => .nan
  | .inf n => .inf n
  | .fin n m e => .mag n ⟨m, e, false⟩

/-- The quotient (R93). -/
def divFV (a b : FV) : FX :=
  match a, b with
  | .nan, _ => .nan
  | _, .nan => .nan
  | .inf _, .inf _ => .nan
  | .inf x, .fin y _ _ => .inf (x != y)
  | .fin x _ _, .inf y => .mag (x != y) ⟨0, 0, false⟩
  | .fin x m e, .fin y n f =>
    if n = 0 then (if m = 0 then .nan else .inf (x != y))
    else if m = 0 then .mag (x != y) ⟨0, 0, false⟩
    else .mag (x != y) ⟨m * 2 ^ 100 / n, e - f - 100, decide (m * 2 ^ 100 % n ≠ 0)⟩

/-- The integer square root, bit by bit from bit b. -/
def isqrtAux : Nat → Nat → Nat → Nat
  | 0, n, r => if (r + 1) * (r + 1) ≤ n then r + 1 else r
  | b + 1, n, r => isqrtAux b n (if (r + 2 ^ (b + 1)) * (r + 2 ^ (b + 1)) ≤ n then r + 2 ^ (b + 1) else r)

/-- The integer square root. -/
def isqrt (n : Nat) : Nat := isqrtAux (Nat.log2 n / 2 + 1) n 0

/-- √(m · 2^e) for positive m. -/
def sqrtMag (m : Nat) (e : Int) : Mag :=
  let odd := e % 2 = 1
  let m' := (if odd then 2 * m else m) * 2 ^ 128
  let r := isqrt m'
  ⟨r, (if odd then e - 1 else e) / 2 - 64, decide (r * r ≠ m')⟩

/-- The square root (R93): −0 of −0, NaN of a negative number. -/
def sqrtFV : FV → FX
  | .nan => .nan
  | .inf n => if n then .nan else .inf false
  | .fin n m e => if m = 0 then .mag n ⟨0, 0, false⟩ else if n then .nan else .mag false (sqrtMag m e)

/-- 1/√a (R114). -/
def rsqrtFV : FV → FX
  | .nan => .nan
  | .inf n => if n then .nan else .mag false ⟨0, 0, false⟩
  | .fin n m e =>
    if m = 0 then .inf n
    else if n then .nan
    else
      let odd := e % 2 = 1
      let m' := if odd then 2 * m else m
      let r := isqrt (2 ^ 256 / m')
      .mag false ⟨r, -((if odd then e - 1 else e) / 2) - 128, decide (r * r * m' ≠ 2 ^ 256)⟩

/-! ## The functions of R103 that are no quotient and no root

Each is computed to some 500 bits and truncated. A true value lies so near the computed one, and so far from every point
where rounding to FP32 changes, that the rounded result is that of the exact value (notes/assumptions/8.md). -/

/-- Fraction bits of the fixed-point numbers below. -/
def fpx : Nat := 512

/-- 2 · atanh(p/q) in fixed point: the terms from the k-th on; `t` is (p/q)^(2k+1). -/
def atanhAux : Nat → Nat → Nat → Nat → Nat → Nat
  | 0, _, _, _, _ => 0
  | n + 1, k, t, p, q => 2 * t / (2 * k + 1) + atanhAux n (k + 1) (t * p * p / (q * q)) p q

/-- ln((q + p)/(q − p)), for p/q at most 1/3. -/
def atanh2 (p q : Nat) : Nat := atanhAux 170 0 (p * 2 ^ fpx / q) p q

/-- ln 2. -/
def ln2 : Nat := atanh2 1 3

/-- The terms of e^r from the k-th on; `t` is r^(k−1)/(k−1)!. -/
def expAux : Nat → Nat → Nat → Nat → Nat
  | 0, _, t, _ => t
  | n + 1, k, t, r => t + expAux n (k + 1) (t * r / 2 ^ fpx / k) r

/-- e^r for r below 1, in fixed point. -/
def expFix (r : Nat) : Nat := expAux 110 1 (2 ^ fpx) r

/-- 2^(n + f/2^fpx) for an integer n and a fraction f. -/
def exp2Mag (n : Int) (f : Nat) : Mag :=
  if f = 0 then ⟨1, n, false⟩ else ⟨expFix (f * ln2 / 2 ^ fpx), n - fpx, true⟩

/-- 2^a (R114): exact for an integer; beyond ±2^12 the exponent is cut off there, where the result overflows or vanishes
just as well. -/
def exp2FV : FV → FX
  | .nan => .nan
  | .inf n => if n then .mag false ⟨0, 0, false⟩ else .inf false
  | .fin s m e =>
    if m = 0 then .mag false ⟨1, 0, false⟩
    else if 12 ≤ (Nat.log2 m : Int) + e then .mag false ⟨1, if s then -4096 else 4096, false⟩
    else
      let fix : Int := mantAt s m (e + fpx) 0
      .mag false (exp2Mag (fix / 2 ^ fpx) (fix % 2 ^ fpx).toNat)

/-- log₂ a (R114). -/
def log2FV : FV → FX
  | .nan => .nan
  | .inf n => if n then .nan else .inf false
  | .fin s m e =>
    if m = 0 then .inf true
    else if s then .nan
    else
      let k : Int := Nat.log2 m
      let one := 2 ^ (Nat.log2 m)
      if m = one then let v := k + e; .mag (v < 0) ⟨v.natAbs, 0, false⟩
      else
        let frac := atanh2 (m - one) (m + one) * 2 ^ fpx / ln2
        let v : Int := (k + e) * 2 ^ fpx + frac
        .mag (v < 0) ⟨v.natAbs, -(fpx : Int), true⟩

/-- e^−x in fixed point for a magnitude below 2^10. -/
def expNeg (m : Nat) (e : Int) : Nat :=
  let x : Nat := shl m (e + fpx)
  let n := x / ln2 + 1
  expFix (n * ln2 - x) / 2 ^ n

/-- tanh a (R114). Below 2^−40 it lies just under a. -/
def tanhFV : FV → FX
  | .nan => .nan
  | .inf n => .mag n ⟨1, 0, false⟩
  | .fin s m e =>
    if m = 0 then .mag s ⟨0, 0, false⟩
    else if (Nat.log2 m : Int) + e < -40 then .mag s ⟨m * 2 ^ 100 - 1, e - 100, true⟩
    else if 5 ≤ (Nat.log2 m : Int) + e then .mag s ⟨2 ^ 100 - 1, -100, true⟩
    else
      let y := expNeg m (e + 1)
      .mag s ⟨(2 ^ fpx - y) * 2 ^ fpx / (2 ^ fpx + y), -(fpx : Int), true⟩

/-- 1/(1 + e^−a) (R114). -/
def sigmFV : FV → FX
  | .nan => .nan
  | .inf n => if n then .mag false ⟨0, 0, false⟩ else .mag false ⟨1, 0, false⟩
  | .fin s m e =>
    if m = 0 then .mag false ⟨1, -1, false⟩
    else if 8 ≤ (Nat.log2 m : Int) + e then
      (if s then .mag false ⟨1, -300, true⟩ else .mag false ⟨2 ^ 100 - 1, -100, true⟩)
    else if (Nat.log2 m : Int) + e < -100 then
      (if s then .mag false ⟨2 ^ 100 - 1, -101, true⟩ else .mag false ⟨2 ^ 100, -101, true⟩)
    else
      let y := expNeg m e
      .mag false ⟨(if s then y else 2 ^ fpx) * 2 ^ fpx / (2 ^ fpx + y), -(fpx : Int), true⟩

/-! ## MX blocks (R95, R96) -/

/-- Whether |a| < |b| for finite values. -/
def magLt (m : Nat) (e : Int) (n : Nat) (f : Int) : Bool :=
  decide (m * 2 ^ (e - min e f).toNat < n * 2 ^ (f - min e f).toNat)

/-- Exponent of the largest binade that R96 names. -/
def emaxOf (t : FTy) : Int :=
  match t with
  | .mxi8 => 0
  | .float f => if f = e4m3 then 8 else if f = e5m2 then 15 else if f = e3m2 then 4 else 2

/-- An element of a block saturated to the largest finite value, and flushed (R96). -/
def quantElem (t : FTy) (ftz : Bool) (rnd d : Nat) (v : FV) : Nat :=
  match t, v with
  | .float f, .fin n m e =>
    let c := min (f.code ⟨m, e, false⟩ rnd d n) f.maxCode
    b2n n * 2 ^ (f.width - 1) + (if ftz ∧ c < 2 ^ f.m then 0 else c)
  | t, v => t.round ftz false rnd d v

/-- MXQuantise of R96, with the draws of its elements: the scale code and the element codes. -/
def mxQuantise (t : FTy) (ftz : Bool) (rnd : Nat) (vs : List (FV × Nat)) : Nat × List Nat :=
  if vs.any fun p => match p.1 with | .fin _ _ _ => false | _ => true then (0xFF, vs.map fun _ => 0)
  else
    let amax : Nat × Int := vs.foldl (fun a p => match p.1 with
      | .fin _ m e => if magLt a.1 a.2 m e then (m, e) else a
      | _ => a) (0, 0)
    let x := clampI (-127) 127 (if amax.1 = 0 then -127 else (Nat.log2 amax.1 : Int) + amax.2 - emaxOf t)
    ((x + 127).toNat, vs.map fun p => quantElem t ftz rnd p.2 (match p.1 with
      | .fin n m e => .fin n m (e - x)
      | v => v))

/-- The value of a block's element under its scale code (R90, R95). -/
def mxValue (v : FV) (scale : Nat) : FV :=
  if scale % 256 = 0xFF then .nan
  else match v with
    | .fin n m e => .fin n m (e + (scale % 256 : Nat) - 127)
    | v => v

/-- Whether a block of R96 rounds anything, and so draws (R100). -/
def mxRounds (vs : List FV) : Bool := vs.all fun v => match v with | .fin _ _ _ => true | _ => false

/-! ## The Lathe's sums (R105, R106) -/

/-- One block's contribution: the exact sum of the products, scaled by both factors. -/
def blockSum (ps : List (FV × FV)) (sa sb : Option Nat) : FV :=
  let scaled := fun (v : FV) (x : Option Nat) => match x with | none => v | some x => mxValue v x
  if ps.any (fun p => p.1 = .nan || p.2 = .nan) || sa = some 0xFF || sb = some 0xFF then .nan
  else scaled (scaled (sumFV false (ps.map fun p => mulFV p.1 p.2)) sa) sb

/-- An accumulator with a block added (R105). -/
def accAdd (mode acc : Nat) (s : FV) : Nat :=
  (FTy.float fp32).write mode 1 0 (addFV false ((FTy.float fp32).decode false acc) s)

end Sys2Proof.Machine
end

