-- ==== Sys2Proof/Machine/Flags.lean ====
section
/-! DEFINITION. The flag computations, all of which go to mask bits: comparisons (R50, R112, R115), carry and borrow (R112),
the class of a number (R116), and saturation (R110). The device keeps no arithmetic flags (R93). -/
namespace Sys2Proof.Machine

/-- Integer comparison by CMP code 0–5. -/
def cmpInt (cmp : Nat) (a b : Int) : Bool :=
  match cmp with
  | 0 => a = b
  | 1 => a ≠ b
  | 2 => a < b
  | 3 => a ≤ b
  | 4 => b < a
  | _ => b ≤ a

/-- Floating comparison by CMP code 0–7 (R115). -/
def cmpFloat (cmp : Nat) (a b : FV) : Bool :=
  match cmpFV a b, cmp with
  | none, 1 => true
  | none, 7 => true
  | none, _ => false
  | some o, 0 => o = .eq
  | some o, 1 => o ≠ .eq
  | some o, 2 => o = .lt
  | some o, 3 => o ≠ .gt
  | some o, 4 => o = .gt
  | some o, 5 => o ≠ .lt
  | some _, 6 => true
  | some _, _ => false

/-- Sum and carry out of 32 bits (R112). -/
def carryAdd (a b c : Nat) : Nat × Bool := ((a + b + c) % 2 ^ 32, decide (2 ^ 32 ≤ a + b + c))

/-- Difference and borrow (R112). -/
def borrowSub (a b c : Nat) : Nat × Bool := (wrap 32 ((a : Int) - b - c), decide (a < b + c))

/-- The class number of an FP32 code (R116). -/
def classOf32 (x : Nat) : Nat :=
  let s := bit x 31
  let e := fld x 30 23
  let m := fld x 22 0
  if e = 255 then (if m ≠ 0 then 8 else if s then 0 else 7)
  else if e = 0 then (if m = 0 then (if s then 3 else 4) else if s then 2 else 5)
  else if s then 1 else 6

/-! ## Integer types (R49, R85, R107) -/

/-- An integer type: its bits, and whether it is signed. -/
structure IntTy where
  n : Nat
  signed : Bool
  deriving DecidableEq, Repr

/-- The integer type of a type code; code 0 is `b32` (R110). -/
def intTy (code : Nat) : IntTy :=
  match code with
  | 1 => ⟨8, true⟩
  | 2 => ⟨16, true⟩
  | 3 => ⟨32, true⟩
  | 4 => ⟨64, true⟩
  | 5 => ⟨8, false⟩
  | 6 => ⟨16, false⟩
  | 8 => ⟨64, false⟩
  | _ => ⟨32, false⟩

/-- Whether a type code takes pairs. -/
def wideTy (code : Nat) : Bool := code = 4 || code = 8

/-- The n bits read. -/
def IntTy.bits (t : IntTy) (x : Nat) : Nat := x % 2 ^ t.n

/-- The value read, by the type's signedness. -/
def IntTy.val (t : IntTy) (x : Nat) : Int := if t.signed then sx t.n x else (t.bits x : Int)

/-- An integer written as a result: wrapped to n bits and extended to 32 by the type's signedness (R85, R107). -/
def IntTy.out (t : IntTy) (v : Int) : Nat := if t.signed then wrap (max 32 t.n) (sx t.n (wrap t.n v)) else wrap t.n v

/-- Least and largest value of the type. -/
def IntTy.lo (t : IntTy) : Int := if t.signed then -(2 ^ (t.n - 1)) else 0
def IntTy.hi (t : IntTy) : Int := if t.signed then 2 ^ (t.n - 1) - 1 else 2 ^ t.n - 1

/-- The exact result, wrapped or clamped to the type's range (R110). -/
def IntTy.result (t : IntTy) (sat : Bool) (v : Int) : Nat := t.out (if sat then clampI t.lo t.hi v else v)

end Sys2Proof.Machine
end

