-- ==== Sys2Proof/Config.lean ====
section
/-! DEFINITION. What an implementation fixes, and the free values: constants with no body, so that nothing can be
proved of their values. -/
namespace Sys2Proof.Config

/-- A value the manual leaves open or that depends on placement and time (CLK, a remote answer, the measured energy
of a rail, …): the n-th such value of a run. Nothing is known of it (notes/assumptions/3.md). -/
opaque freeValue : Nat → BitVec 64

/-- What D holds where it is a scalar and an atomic has several active lanes, by the lanes and old values of the address group of the
lowest one: the manual states no such value (notes/assumptions/96.md). -/
opaque scalarOld : List (Nat × Nat) → BitVec 64

/-- The bits of a mask register after a JOIN, of lanes that neither side owns: by the two sides' masks and the lanes they own
(notes/assumptions/96.md). -/
opaque mergeBits : BitVec 128 → BitVec 128 → BitVec 128 → BitVec 128 → BitVec 128

/-- The SHA-512 of a byte string (R246, R357, R378). The manual names the standard and does not define it
(notes/assumptions/4.md). -/
opaque sha512 : List (BitVec 8) → BitVec 512

/-- Whether an Ed25519 signature verifies: key, message, signature (R341, R420). Named by the manual and not
defined in it (notes/assumptions/4.md). -/
opaque ed25519Verify : BitVec 256 → List (BitVec 8) → BitVec 512 → Bool

/-- The Ed25519 signature of the device identity key (R378, R424, R440); the key never leaves Headstock. -/
opaque identitySign : List (BitVec 8) → BitVec 512

/-- The public identity key (R426). -/
opaque identityKey : BitVec 256

/-- The device serial number (R378, R426). -/
opaque serial : BitVec 64

/-- Silicon revision (R426). -/
opaque revision : BitVec 16

/-- The units of 2^−32 µJ of one calibrated event: event class, operating class and rail factor (R370). The manual
gives no per-class energies (notes/assumptions/5.md). -/
opaque calibratedUnits : Nat → Nat → Nat → Nat

/-- The home slice, on a device, of what a function of it exports at a 4 KiB block of a window's offsets: its export entry and page tables
say (R430, R434; notes/assumptions/113.md). -/
opaque remoteHome : Nat → Nat → Nat → Nat

/-- The certificate that binds the identity key to the serial number (R424). -/
opaque certificate : List (BitVec 8)

/-- The public half of the key that signs firmware images (R420). -/
opaque imageKey : BitVec 256

end Sys2Proof.Config
end

