-- ==== Sys2Proof/Machine/Sparse.lean ====
section
/-! DEFINITION. Sparse maps: lists of (key, value) with strictly rising keys and no entry equal to what an unlisted key
reads as, so that equal maps are equal lists. Memory, register files, tiles and register blocks are all held so. -/
namespace Sys2Proof.Machine

/-- A map from numbers to values with a default that its accessors name. -/
abbrev Sp (α : Type) := List (Nat × α)

/-- The value at a key; `d` where the key is not listed. -/
def spGet {α : Type} (d : α) : Sp α → Nat → α
  | [], _ => d
  | (k, v) :: m, a => if k = a then v else spGet d m a

/-- The map with a key set; setting the default removes the entry. -/
def spSet {α : Type} [DecidableEq α] (d : α) : Sp α → Nat → α → Sp α
  | [], a, x => if x = d then [] else [(a, x)]
  | (k, v) :: m, a, x =>
    if a < k then (if x = d then (k, v) :: m else (a, x) :: (k, v) :: m)
    else if a = k then (if x = d then m else (a, x) :: m)
    else (k, v) :: spSet d m a x

/-- Several keys set, the later over the earlier. -/
def spSets {α : Type} [DecidableEq α] (d : α) (m : Sp α) (l : List (Nat × α)) : Sp α :=
  l.foldl (fun m p => spSet d m p.1 p.2) m

/-- Every key is above a bound, the keys rise strictly, and no value is the default. -/
def spAbove {α : Type} [DecidableEq α] (d : α) : Nat → Sp α → Bool
  | _, [] => true
  | b, (k, v) :: m => decide (b ≤ k) && decide (v ≠ d) && spAbove d (k + 1) m

/-- The canonical form of a map. -/
def spWf {α : Type} [DecidableEq α] (d : α) (m : Sp α) : Bool := spAbove d 0 m

/-- The entries whose key satisfies a test. -/
def spFilter {α : Type} (p : Nat → Bool) (m : Sp α) : Sp α := m.filter fun e => p e.1

/-- n consecutive keys from a, lowest first. -/
def spRange {α : Type} (d : α) (m : Sp α) (a n : Nat) : List α := (List.range n).map fun i => spGet d m (a + i)

/-- Values stored at consecutive keys from a. -/
def spWrite {α : Type} [DecidableEq α] (d : α) (m : Sp α) (a : Nat) : List α → Sp α
  | [] => m
  | x :: l => spWrite d (spSet d m a x) (a + 1) l

end Sys2Proof.Machine
end

