-- ==== Sys2Proof/Syntax.lean ====
section
/-! DEFINITION. The instructions and the device's other steps: one constructor per row of spec/opcode_table.json.
A base row holds the short operand codes of R39, a `_LONG` row one of the forms with a literal or with descriptors
(R38, R42), and a row without a base row any form. The rows after the instructions are the steps of the device's
other agents, each with the data that says which of the possible happenings it is. -/
namespace Sys2Proof

/-- The operand fields of a base-form word (R39): short operand codes. -/
structure Short where
  /-- bits 17:11 -/
  d : BitVec 7
  /-- bits 24:18 -/
  a : BitVec 7
  /-- bits 31:25 -/
  b : BitVec 7
  deriving DecidableEq, Repr

/-- The fields of an extended form (R42): the modifier field, bits 31:11 of the first word, and four descriptors. -/
structure Ext where
  modif : BitVec 21
  d : BitVec 16
  a : BitVec 16
  b : BitVec 16
  c : BitVec 16
  deriving DecidableEq, Repr

/-- The forms other than LEN 00 (R38). -/
inductive Long where
  /-- LEN 01: base with literal -/
  | lit (o : Short) (l : Dword)
  /-- LEN 10: extended -/
  | ext (e : Ext)
  /-- LEN 11: extended with literal -/
  | extLit (e : Ext) (l : Dword)
  deriving DecidableEq, Repr

/-- Any of the four forms of R38. -/
inductive Form where
  | base (o : Short)
  | long (l : Long)
  deriving DecidableEq, Repr

/-- The words of a bind record that Tailstock writes (R346). -/
structure BindWords where
  fn : Nat := 0
  child : Nat := 0
  cls : Nat := 0
  cores : BitVec 8 := 0
  share : Nat := 0
  grid : Nat := 0
  first : Nat := 0
  last : Nat := 0
  print : Nat := 0
  deriving DecidableEq, Repr

/-- What a host pushes over port 0 of C0 in recovery (R422). -/
structure RecoveryPush where
  /-- firmware image: bytes, version and signature (R420) -/
  image : Option (List Byte × Nat × BitVec 512) := none
  /-- fabric record: its 32 bytes (R423) -/
  record : Option (List Byte) := none
  deriving DecidableEq, Repr

/-- A fabric access that arrives at this device as a target (R430). -/
structure RemoteReq where
  dev : Nat := 0
  srcFn : Nat := 0
  tfn : Nat := 0
  offset : Nat := 0
  bytes : Nat := 0
  /-- 0 load, 1 store, 2 atomic, 3 COMB, whose id is `offset`, 4 CWB, `aop` 1 for `.inv` -/
  kind : Nat := 0
  data : Dword := 0
  /-- of an atomic: operation, type, MODE and the value CAS expects -/
  aop : Nat := 0
  ty : Nat := 0
  mode : Word := 0
  expected : Dword := 0
  /-- further lanes of an atomic's address group: data, and the value CAS expects (R190, R432) -/
  more : List (Dword × Dword) := []
  deriving DecidableEq, Repr

/-- What the Chady debug port does (R243, R244, R151). -/
inductive PortAct where
  | writeSym (blk wid sid sym : Nat) (lanes : Mask) (value : Word)
  | readSym (blk wid sid sym : Nat)
  /-- a symbolic register by its name in the symbol map and, of an array, the element (R443) -/
  | writeName (blk wid sid : Nat) (name : List Byte) (elem : Nat) (lanes : Mask) (value : Word)
  | readName (blk wid sid : Nat) (name : List Byte) (elem : Nat)
  /-- the binding view: registers and spill slots -/
  | bindingView (blk wid sid : Nat)
  | setBreakpoint (fn : Nat) (pc : Dword)
  | arm (fn : Nat) (on : Bool)
  deriving DecidableEq, Repr

/-- Which happening a step of another agent is: the device holds this data beside its agenda (`State.arg`), because the
order and the choice among possible happenings belong to the device's timing (R442). A step reads the fields it names. -/
structure EvArg where
  /-- block, wave in the block, split of the wave -/
  blk : Nat := 0
  wid : Nat := 0
  sid : Nat := 0
  /-- core, quarter, cluster, slice, die -/
  core : Nat := 0
  quarter : Nat := 0
  cluster : Nat := 0
  die : Nat := 0
  /-- bind slot (R346), darkroom slot (R270) -/
  slot : Nat := 0
  /-- in-flight operation -/
  op : Nat := 0
  /-- lanes whose access is performed now (R185, R193) -/
  lanes : Mask := 0
  /-- lowest lane of an address group (R190) -/
  lane : Nat := 0
  /-- elements of a tile and the k-blocks added to each by now (R215) -/
  steps : List (Nat × Nat) := []
  /-- units of a job moved now (R218) -/
  units : Nat := 0
  /-- function and child (R359, R362) -/
  fn : Nat := 0
  child : Nat := 0
  /-- virtual address -/
  va : Dword := 0
  /-- translation-fault token (R287) -/
  token : Nat := 0
  /-- launch queue (R338) -/
  q : Nat := 0
  /-- grid handle, and a second one -/
  grid : Nat := 0
  other : Nat := 0
  /-- code page (R357), gang number (R255), pool (R364), granule (R280), register offset (R359) -/
  page : Nat := 0
  gang : Nat := 0
  pool : Nat := 0
  offset : Nat := 0
  /-- values written or delivered -/
  value : Dword := 0
  value2 : Dword := 0
  /-- operating class, current budget, temperatures in 1/16 °C (R274, R272, R417) -/
  cls : Nat := 0
  budget : Nat := 0
  temp16 : Int := 0
  inlet16 : Int := 0
  /-- measured units of each rail in the epoch, above what was booked (R372, R374) -/
  rails : List Int := []
  /-- fabric: adapter or device id, port or die pair, window or export entry (R427–R436) -/
  adapter : Nat := 0
  dev : Nat := 0
  port : Nat := 0
  entry : Nat := 0
  tag : Bool := false
  bind : BindWords := {}
  push : RecoveryPush := {}
  remote : RemoteReq := {}
  portAct : PortAct := .arm 0 false
  bytes : List Byte := []
  blocks : List Nat := []
  /-- cores of one die that share a walk (R284) -/
  cores : List Nat := []
  nonce : BitVec 256 := 0
  deriving DecidableEq, Repr, Inhabited

/-- One step of the H940, by its row of spec/opcode_table.json. The data of a step that is no instruction stands in
`EvArg`. -/
inductive Instr where
  /-- NOP (R136): Base-form NOP: has no effect; with a stall count of 1–15 it delays the wave's next issue by that many aclk, and with count 0 it is not issued. -/
  | nop (f : Short)
  /-- NOP_LONG (R136): NOP written in LEN 01, 10 or 11 with all operand and modifier bits zero; the literal is ignored. -/
  | nopLong (f : Long)
  /-- IADD (R110): Base form: integer add, wrapping, in every active lane or once as a scalar instruction. -/
  | iadd (f : Short)
  /-- IADD_LONG (R110): Literal or extended form of integer add, with type, .sat and mask selector. -/
  | iaddLong (f : Long)
  /-- ISUB (R110): Base form: integer subtract. -/
  | isub (f : Short)
  /-- ISUB_LONG (R110): Literal or extended form of integer subtract. -/
  | isubLong (f : Long)
  /-- IMUL (R110): Base form: low n bits of the product. -/
  | imul (f : Short)
  /-- IMUL_LONG (R110): Literal or extended form of IMUL. -/
  | imulLong (f : Long)
  /-- IMULH (R110): Base form: high n bits of the 2n-bit product. -/
  | imulh (f : Short)
  /-- IMULH_LONG (R110): Literal or extended form of IMULH. -/
  | imulhLong (f : Long)
  /-- IMAD (R110): Low n bits of a times b plus c; extended form only. -/
  | imad (f : Form)
  /-- IMIN (R110): Base form: lesser of two integers. -/
  | imin (f : Short)
  /-- IMIN_LONG (R110): Literal or extended form of IMIN. -/
  | iminLong (f : Long)
  /-- IMAX (R110): Base form: greater of two integers. -/
  | imax (f : Short)
  /-- IMAX_LONG (R110): Literal or extended form of IMAX. -/
  | imaxLong (f : Long)
  /-- IABS (R110): Absolute value of a signed integer, optionally saturating. -/
  | iabs (f : Form)
  /-- INEG (R110): Base form: integer negation. -/
  | ineg (f : Short)
  /-- INEG_LONG (R110): Literal or extended form of INEG. -/
  | inegLong (f : Long)
  /-- IADDC (R112): Add or subtract with carry held in a mask, per lane. -/
  | iaddc (f : Form)
  /-- AND (R110): Base form: bitwise AND. -/
  | andBits (f : Short)
  /-- AND_LONG (R110): Literal or extended form of AND. -/
  | andBitsLong (f : Long)
  /-- OR (R110): Base form: bitwise OR. -/
  | orBits (f : Short)
  /-- OR_LONG (R110): Literal or extended form of OR. -/
  | orBitsLong (f : Long)
  /-- XOR (R110): Base form: bitwise XOR. -/
  | xorBits (f : Short)
  /-- XOR_LONG (R110): Literal or extended form of XOR. -/
  | xorBitsLong (f : Long)
  /-- ANDN (R110): Base form: a AND NOT b. -/
  | andn (f : Short)
  /-- ANDN_LONG (R110): Literal or extended form of ANDN. -/
  | andnLong (f : Long)
  /-- NOT (R110): Base form: bitwise NOT. -/
  | notBits (f : Short)
  /-- NOT_LONG (R110): Literal or extended form of NOT. -/
  | notBitsLong (f : Long)
  /-- SHL (R111): Base form: shift left. -/
  | shl (f : Short)
  /-- SHL_LONG (R111): Literal or extended form of SHL. -/
  | shlLong (f : Long)
  /-- SHR (R111): Base form: logical shift right. -/
  | shr (f : Short)
  /-- SHR_LONG (R111): Literal or extended form of SHR. -/
  | shrLong (f : Long)
  /-- SAR (R111): Base form: arithmetic shift right. -/
  | sar (f : Short)
  /-- SAR_LONG (R111): Literal or extended form of SAR. -/
  | sarLong (f : Long)
  /-- ROTL (R111): Base form: rotate left. -/
  | rotl (f : Short)
  /-- ROTL_LONG (R111): Literal or extended form of ROTL. -/
  | rotlLong (f : Long)
  /-- BFX (R111): Extract a bit field; extended form only. -/
  | bfx (f : Form)
  /-- BFI (R111): Insert a bit field; extended form only. -/
  | bfi (f : Form)
  /-- POPC (R110): Base form: count set bits. -/
  | popc (f : Short)
  /-- POPC_LONG (R110): Literal or extended form of POPC. -/
  | popcLong (f : Long)
  /-- CLZ (R110): Base form: count leading zeros. -/
  | clz (f : Short)
  /-- CLZ_LONG (R110): Literal or extended form of CLZ. -/
  | clzLong (f : Long)
  /-- BREV (R110): Base form: reverse bit order. -/
  | brev (f : Short)
  /-- BREV_LONG (R110): Literal or extended form of BREV. -/
  | brevLong (f : Long)
  /-- PRMT (R111): Byte permute of two sources; extended form only. -/
  | prmt (f : Form)
  /-- LEA (R111): 64-bit base plus shifted 32-bit index; extended form only. -/
  | lea (f : Form)
  /-- ICMP (R112): Integer compare writing a mask per active lane. -/
  | icmp (f : Form)
  /-- SEL (R112): Per-lane select under a mask. -/
  | sel (f : Form)
  /-- FADD (R113): Base form: FP32 add rounded once. -/
  | fadd (f : Short)
  /-- FADD_LONG (R113): Literal or extended form of FADD. -/
  | faddLong (f : Long)
  /-- FSUB (R113): Base form: FP32 subtract. -/
  | fsub (f : Short)
  /-- FSUB_LONG (R113): Literal or extended form of FSUB. -/
  | fsubLong (f : Long)
  /-- FMUL (R113): Base form: FP32 multiply. -/
  | fmul (f : Short)
  /-- FMUL_LONG (R113): Literal or extended form of FMUL. -/
  | fmulLong (f : Long)
  /-- FFMA (R113): Fused multiply-add rounded once; extended form only. -/
  | ffma (f : Form)
  /-- FMIN (R113): Base form: minimumNumber. -/
  | fmin (f : Short)
  /-- FMIN_LONG (R113): Literal or extended form of FMIN. -/
  | fminLong (f : Long)
  /-- FMAX (R113): Base form: maximumNumber. -/
  | fmax (f : Short)
  /-- FMAX_LONG (R113): Literal or extended form of FMAX. -/
  | fmaxLong (f : Long)
  /-- FCMP (R115): FP32 compare writing a mask. -/
  | fcmp (f : Form)
  /-- FRCP (R113): Base form: reciprocal rounded RNE. -/
  | frcp (f : Short)
  /-- FRCP_LONG (R113): Literal or extended form of FRCP. -/
  | frcpLong (f : Long)
  /-- FRSQ (R113): Base form: reciprocal square root. -/
  | frsq (f : Short)
  /-- FRSQ_LONG (R113): Literal or extended form of FRSQ. -/
  | frsqLong (f : Long)
  /-- FSQRT (R113): Base form: square root. -/
  | fsqrt (f : Short)
  /-- FSQRT_LONG (R113): Literal or extended form of FSQRT. -/
  | fsqrtLong (f : Long)
  /-- FEXP2 (R113): Base form: 2 to the power a. -/
  | fexp2 (f : Short)
  /-- FEXP2_LONG (R113): Literal or extended form of FEXP2. -/
  | fexp2Long (f : Long)
  /-- FLOG2 (R113): Base form: base-2 logarithm. -/
  | flog2 (f : Short)
  /-- FLOG2_LONG (R113): Literal or extended form of FLOG2. -/
  | flog2Long (f : Long)
  /-- FTANH (R113): Base form: hyperbolic tangent. -/
  | ftanh (f : Short)
  /-- FTANH_LONG (R113): Literal or extended form of FTANH. -/
  | ftanhLong (f : Long)
  /-- FSIGM (R113): Base form: logistic sigmoid. -/
  | fsigm (f : Short)
  /-- FSIGM_LONG (R113): Literal or extended form of FSIGM. -/
  | fsigmLong (f : Long)
  /-- FRND (R113): Base form: round to an integral FP32 value. -/
  | frnd (f : Short)
  /-- FRND_LONG (R113): Literal or extended form of FRND. -/
  | frndLong (f : Long)
  /-- FSCALE (R113): Base form: a times 2 to the power b. -/
  | fscale (f : Short)
  /-- FSCALE_LONG (R113): Literal or extended form of FSCALE. -/
  | fscaleLong (f : Long)
  /-- FCLASS (R116): Classify a and write the selected bit of b into a mask. -/
  | fclass (f : Form)
  /-- FDIV (R113): Base form: FP32 divide rounded once. -/
  | fdiv (f : Short)
  /-- FDIV_LONG (R113): Literal or extended form of FDIV. -/
  | fdivLong (f : Long)
  /-- PADD (R117): Base form: packed 16-bit add. -/
  | padd (f : Short)
  /-- PADD_LONG (R117): Literal or extended form of PADD. -/
  | paddLong (f : Long)
  /-- PMUL (R117): Base form: packed 16-bit multiply. -/
  | pmul (f : Short)
  /-- PMUL_LONG (R117): Literal or extended form of PMUL. -/
  | pmulLong (f : Long)
  /-- PFMA (R117): Packed 16-bit fused multiply-add; extended form only. -/
  | pfma (f : Form)
  /-- PMAX (R117): Base form: packed maximumNumber. -/
  | pmax (f : Short)
  /-- PMAX_LONG (R117): Literal or extended form of PMAX. -/
  | pmaxLong (f : Long)
  /-- PMIN (R117): Base form: packed minimumNumber. -/
  | pmin (f : Short)
  /-- PMIN_LONG (R117): Literal or extended form of PMIN. -/
  | pminLong (f : Long)
  /-- PDOT2 (R117): Two-element dot product plus FP32 c, rounded once; extended form only. -/
  | pdot2 (f : Form)
  /-- CVT (R118): Convert between integer, float and MX element types. -/
  | cvt (f : Form)
  /-- MXQ (R119): Quantise each pass's 32 lanes into one MX block with a shared scale. -/
  | mxq (f : Form)
  /-- MXD (R120): Dequantise an MX element with its scale into FP32, FP16 or BF16. -/
  | mxd (f : Form)
  /-- PACK (R121): Write an element code into a slot of a 32-bit lane. -/
  | pack (f : Form)
  /-- UNPK (R121): Extract an element code from a slot of a 32-bit lane. -/
  | unpk (f : Form)
  /-- SHFL (R123): Base form: cross-lane shuffle among active lanes. -/
  | shfl (f : Short)
  /-- SHFL_LONG (R123): Literal or extended form of SHFL with mode and mask. -/
  | shflLong (f : Long)
  /-- BCAST (R123): Base form: broadcast one lane's value. -/
  | bcast (f : Short)
  /-- BCAST_LONG (R123): Literal or extended form of BCAST. -/
  | bcastLong (f : Long)
  /-- VOTE (R124): Base form: vote over active lanes. -/
  | vote (f : Short)
  /-- VOTE_LONG (R124): Extended form of VOTE with mode, mask operand or mask selector. -/
  | voteLong (f : Long)
  /-- WRED (R123): Base form: tree reduction over active lanes. -/
  | wred (f : Short)
  /-- WRED_LONG (R123): Extended form of WRED with type, operation and rounding. -/
  | wredLong (f : Long)
  /-- WSCAN (R123): Base form: inclusive scan over active lanes. -/
  | wscan (f : Short)
  /-- WSCAN_LONG (R123): Extended form of WSCAN. -/
  | wscanLong (f : Long)
  /-- MATCH (R123): Base form: lowest matching lane among active lanes. -/
  | matchLanes (f : Short)
  /-- MATCH_LONG (R123): Extended form of MATCH with .count or mask. -/
  | matchLanesLong (f : Long)
  /-- KAND (R125): Mask AND with optional negation of each source. -/
  | kand (f : Form)
  /-- KOR (R125): Mask OR. -/
  | kor (f : Form)
  /-- KXOR (R125): Mask XOR. -/
  | kxor (f : Form)
  /-- KNOT (R125): Mask NOT. -/
  | knot (f : Form)
  /-- KPOP (R125): Count the set bits of a mask into a scalar. -/
  | kpop (f : Form)
  /-- KFFS (R125): Index of the lowest set bit of a mask. -/
  | kffs (f : Form)
  /-- KMOV (R125): Copy a mask, or move it from or to scalars. -/
  | kmov (f : Form)
  /-- MOV (R127): Base form: copy a value. -/
  | mov (f : Short)
  /-- MOV_LONG (R127): Literal or extended form of MOV. -/
  | movLong (f : Long)
  /-- MOVL (R127): Base form: write a uniform value into one lane. -/
  | movl (f : Short)
  /-- MOVL_LONG (R127): Literal or extended form of MOVL. -/
  | movlLong (f : Long)
  /-- RDSR (R128): Read a special register into a scalar, pair or mask. -/
  | rdsr (f : Form)
  /-- WRSR (R128): Write a special register, with MODE, STATUS, RSEED and TRAP_PC behaviour. -/
  | wrsr (f : Form)
  /-- XSET (R129): Base form: set the index register, returning the old value. -/
  | xset (f : Short)
  /-- XSET_LONG (R129): Literal or extended form of XSET. -/
  | xsetLong (f : Long)
  /-- XADD (R129): Base form: add to the index register modulo 2^16. -/
  | xadd (f : Short)
  /-- XADD_LONG (R129): Literal or extended form of XADD. -/
  | xaddLong (f : Long)
  /-- BRA (R134): Base form: unconditional transfer to a pair target. -/
  | bra (f : Short)
  /-- BRA_LONG (R134): Unconditional transfer with displacement literal or extended pair. -/
  | braLong (f : Long)
  /-- BRC (R134): Conditional transfer on a uniform compare or on a mask. -/
  | brc (f : Form)
  /-- CALL (R135): Base form: write the return PC into a pair and transfer to a pair target. -/
  | call (f : Short)
  /-- CALL_LONG (R135): CALL with displacement literal or extended form. -/
  | callLong (f : Long)
  /-- RET (R135): Base form: transfer to the PC held in a pair. -/
  | ret (f : Short)
  /-- RET_LONG (R135): Extended form of RET. -/
  | retLong (f : Long)
  /-- SPLIT (R139): Divide a split's lanes into a real, serial or single fork. -/
  | split (f : Form)
  /-- JOIN (R140): Base form: park or merge the innermost fork. -/
  | join (f : Short)
  /-- JOIN_LONG (R140): Extended form of JOIN. -/
  | joinLong (f : Long)
  /-- EXIT (R142): Base form: withdraw every lane the split owns. -/
  | exit (f : Short)
  /-- EXIT_LONG (R142): EXIT with a mask selector, withdrawing the selected lanes. -/
  | exitLong (f : Long)
  /-- YIELD (R136): Base form: pass the issue slot to the quarter's other ready waves. -/
  | yield (f : Short)
  /-- YIELD_LONG (R136): Extended form of YIELD. -/
  | yieldLong (f : Long)
  /-- TRAP (R151): Base form: raise SWTRAP with a 64-bit operand. -/
  | trap (f : Short)
  /-- TRAP_LONG (R151): TRAP with a literal or extended operand. -/
  | trapLong (f : Long)
  /-- TRET (R150): Base form: return from the trap handler to TRAP_PC. -/
  | tret (f : Short)
  /-- TRET_LONG (R150): Extended form of TRET. -/
  | tretLong (f : Long)
  /-- BKPT (R151): Base form: breakpoint to the debug port or the handler. -/
  | bkpt (f : Short)
  /-- BKPT_LONG (R151): BKPT with a literal or extended operand. -/
  | bkptLong (f : Long)
  /-- SLEEP (R136): Base form: stop issuing for a number of aclk. -/
  | sleep (f : Short)
  /-- SLEEP_LONG (R136): SLEEP with a literal or extended operand. -/
  | sleepLong (f : Long)
  /-- LD (R187): Base form: global load with default type, order and policy. -/
  | ld (f : Short)
  /-- LD_LONG (R187): Global load with type, order, scope, policy, mask or literal offset. -/
  | ldLong (f : Long)
  /-- ST (R187): Base form: global store with defaults. -/
  | st (f : Short)
  /-- ST_LONG (R187): Global store with modifiers, mask or literal. -/
  | stLong (f : Long)
  /-- ATOM (R190): Global atomic without return, grouped by address. -/
  | atom (f : Form)
  /-- ATOMR (R190): Global atomic returning old values. -/
  | atomr (f : Form)
  /-- CAS (R190): Global compare-and-swap per lane in lane order. -/
  | cas (f : Form)
  /-- PREF (R191): Base form: prefetch lines, completing at issue. -/
  | pref (f : Short)
  /-- PREF_LONG (R191): PREF with policy, mask or literal. -/
  | prefLong (f : Long)
  /-- CWB (R269): Base form: write back dirty lines at their homes. -/
  | cwb (f : Short)
  /-- CWB_LONG (R269): CWB with .inv, mask or literal. -/
  | cwbLong (f : Long)
  /-- FENCE (R196): Base form: memory fence .ar at .dev. -/
  | fence (f : Short)
  /-- FENCE_LONG (R196): Memory fence with order and scope, or FENCE.job. -/
  | fenceLong (f : Long)
  /-- LDS (R192): Load from the core's scratchpad buffer. -/
  | lds (f : Form)
  /-- STS (R192): Store to the core's scratchpad buffer. -/
  | sts (f : Form)
  /-- ATOMS (R192): Scratchpad atomic or compare-and-swap. -/
  | atoms (f : Form)
  /-- LDRS (R259): Load from a gang member's scratchpad. -/
  | ldrs (f : Form)
  /-- STRS (R259): Store to a gang member's scratchpad. -/
  | strs (f : Form)
  /-- WAITC (R199): Base form: hold until the gld counter is at most a. -/
  | waitc (f : Short)
  /-- WAITC_LONG (R199): WAITC naming its path in the extended form. -/
  | waitcLong (f : Long)
  /-- BARA (R201): Base form: arrive at a named barrier with release. -/
  | bara (f : Short)
  /-- BARA_LONG (R201): BARA with scope or literal count. -/
  | baraLong (f : Long)
  /-- BARW (R201): Base form: wait for a barrier phase, then acquire. -/
  | barw (f : Short)
  /-- BARW_LONG (R201): BARW with scope. -/
  | barwLong (f : Long)
  /-- BARS (R201): Base form: arrive and wait at a barrier. -/
  | bars (f : Short)
  /-- BARS_LONG (R201): BARS with scope or literal count. -/
  | barsLong (f : Long)
  /-- DRAIN (R297): Base form: join a drain at .dev and act as a fence. -/
  | drain (f : Short)
  /-- DRAIN_LONG (R297): DRAIN at .die or .sys. -/
  | drainLong (f : Long)
  /-- TDSET (R208): Set a tile descriptor from buffers, format, role and k-blocks. -/
  | tdset (f : Form)
  /-- TDGET (R209): Read one word of a tile descriptor. -/
  | tdget (f : Form)
  /-- MMA (R212): Send an MX matrix multiply-accumulate to the Lathe. -/
  | mma (f : Form)
  /-- ACCZ (R213): Clear an accumulator tile through the Lathe. -/
  | accz (f : Form)
  /-- ACCRD (R214): Read accumulator elements into lanes. -/
  | accrd (f : Form)
  /-- ACCWR (R214): Write lane values into accumulator elements. -/
  | accwr (f : Form)
  /-- ACCLD (R213): Load a whole tile from global memory. -/
  | accld (f : Form)
  /-- ACCST (R213): Store a whole tile to global memory. -/
  | accst (f : Form)
  /-- JOB (R219): Check and submit a job card held in scalars. -/
  | job (f : Form)
  /-- JOBQ (R220): Check and submit a list of job cards from scratchpad. -/
  | jobq (f : Form)
  /-- OBJREG (R302): Register a combining object and its method. -/
  | objreg (f : Form)
  /-- OBJFREE (R303): Base form: free an object after serving admitted requests. -/
  | objfree (f : Short)
  /-- OBJFREE_LONG (R303): OBJFREE with a literal id. -/
  | objfreeLong (f : Long)
  /-- COMB (R305): Send one combining request per active lane to an object's home. -/
  | comb (f : Form)
  /-- CBATCH (R314): Base form: read the batch count into a scalar. -/
  | cbatch (f : Short)
  /-- CBATCH_LONG (R314): CBATCH .mask, .base or .size. -/
  | cbatchLong (f : Long)
  /-- CARG (R314): Base form: read argument word 0 of each request. -/
  | carg (f : Short)
  /-- CARG_LONG (R314): CARG with type, word and mask. -/
  | cargLong (f : Long)
  /-- CREPLY (R314): Base form: set each lane's reply. -/
  | creply (f : Short)
  /-- CREPLY_LONG (R314): CREPLY with type, mask or literal. -/
  | creplyLong (f : Long)
  /-- CEND (R315): Base form: end the batch and send the replies. -/
  | cend (f : Short)
  /-- CEND_LONG (R315): Extended form of CEND. -/
  | cendLong (f : Long)
  /-- RSHARE (R250): Base form: request a register share and hold until the wave runs at it. -/
  | rshare (f : Short)
  /-- RSHARE_LONG (R250): RSHARE with literal or extended operands. -/
  | rshareLong (f : Long)
  /-- RQUERY (R252): Base form: read the wave's current share. -/
  | rquery (f : Short)
  /-- RQUERY_LONG (R252): RQUERY of demand, minimum, base, slots or cap. -/
  | rqueryLong (f : Long)
  /-- LAUNCH (R349): Base form: launch a child grid from a launch record. -/
  | launch (f : Short)
  /-- LAUNCH_LONG (R349): Extended form of LAUNCH. -/
  | launchLong (f : Long)
  /-- CHWAIT (R350): Base form: wait for child grids to retire, then acquire. -/
  | chwait (f : Short)
  /-- CHWAIT_LONG (R350): CHWAIT with literal or extended operands. -/
  | chwaitLong (f : Long)
  /-- EREAD (R376): Base form: snapshot the partition counter into four scalars. -/
  | eread (f : Short)
  /-- EREAD_LONG (R376): EREAD .quota or .fn. -/
  | ereadLong (f : Long)
  /-- TARM (R389): Base form: disarm the block's THROTTLE trap and read THROTTLED. -/
  | tarm (f : Short)
  /-- TARM_LONG (R389): TARM .on or extended .off. -/
  | tarmLong (f : Long)
  /-- RDPR (R366): Read a privileged register by selector. -/
  | rdpr (f : Form)
  /-- WRPR (R366): Write a privileged register by selector, checked by Headstock. -/
  | wrpr (f : Form)
  /-- PRDONE (R384): Base form: park the wave in its pre-emption handler at the recorded PC. -/
  | prdone (f : Short)
  /-- PRDONE_LONG (R384): PRDONE with .sp or .acc flags. -/
  | prdoneLong (f : Long)
  /-- CTXSV (R384): Base form: park the wave asking for the full image. -/
  | ctxsv (f : Short)
  /-- CTXSV_LONG (R384): Extended form of CTXSV. -/
  | ctxsvLong (f : Long)
  /-- TLBINV (R289): Base form: invalidate translations of one virtual address. -/
  | tlbinv (f : Short)
  /-- TLBINV_LONG (R289): TLBINV .va, .all or .fn in extended form. -/
  | tlbinvLong (f : Long)
  /-- SHEET (R377): Base form: close a partition's window and write its signed contact sheet. -/
  | sheet (f : Short)
  /-- SHEET_LONG (R377): Extended form of SHEET. -/
  | sheetLong (f : Long)
  /-- ILLEGAL_OPCODE (R53): Issue of an instruction word whose opcode lies in 0x180–0x1FF raises ILLEGAL_OP with no effect. -/
  | illegalOpcode (opcode : BitVec 9) (f : Form)
  /-- RESERVED_OPCODE (R53): Issue of a reserved opcode in 0x000–0x17F raises FEATURE_ABSENT, stopping the block for hand-off. -/
  | reservedOpcode (opcode : BitVec 9) (f : Form)
  /-- HANG_REPORT (R80): HANGCNT reaches the hang limit: report logged and HANGRPT set, and HANG taken if HANGTRAP. -/
  | hangReport
  /-- SLEEP_EXPIRY (R136): A sleeping split's count runs out and it becomes ready again. -/
  | sleepExpiry
  /-- BURST_END (R175): 64 aclk pass without a vector-pipe pass, ending the burst and releasing its reservation. -/
  | burstEnd
  /-- CURRENT_GRANT (R273): The cluster arbiter grants the request at the head of its queue once the budget covers it. -/
  | currentGrant
  /-- LOAD_COMPLETE (R185): A load's values arrive in every active lane and its counter falls in order. -/
  | loadComplete
  /-- STORE_PERFORMED (R193): A store is performed at its home or in the scratchpad and its counter falls. -/
  | storePerformed
  /-- ATOMIC_PERFORMED (R190): An address group of an atomic is performed at its home and old values return. -/
  | atomicPerformed
  /-- LATHE_OP_START (R212): A Lathe operation whose edges are met and whose current is granted begins. -/
  | latheOpStart
  /-- LATHE_OP_COMPLETE (R206): An MMA, ACCZ, ACCLD or ACCST finishes writing and its mma counter falls. -/
  | latheOpComplete
  /-- ACCRD_COMPLETE (R206): ACCRD or ACCWR completes in every active lane. -/
  | accrdComplete
  /-- JOB_START (R226): A received job whose footprint edges are met starts on the job engine. -/
  | jobStart
  /-- JOB_COMPLETE (R206): Every write of a card is performed and the job counter falls. -/
  | jobComplete
  /-- TRANSLATION_WALK (R284): A TLB miss walks the page tables; a failure raises XLATE and writes a fault record. -/
  | translationWalk
  /-- XF_RESP_REPLAY (R288): Driver replies replay: the held instruction re-executes with a new walk. -/
  | xfRespReplay
  /-- XF_RESP_DELIVER (R288): Driver replies deliver: the held instruction raises XLATE to the handler. -/
  | xfRespDeliver
  /-- COMB_PACKET_ADMIT (R307): A waiting COMB packet is admitted whole to the Chuck when there is room. -/
  | combPacketAdmit
  /-- BATCH_START (R309): An idle executor picks an object and starts its method on up to 64 requests. -/
  | batchStart
  /-- METHOD_BUDGET_EXPIRY (R315): A batch would issue its 4,097th instruction and aborts with cause METHOD. -/
  | methodBudgetExpiry
  /-- COMB_COMPLETE (R305): Every active lane of a COMB has its reply or status and the cmb counter falls. -/
  | combComplete
  /-- DRAIN_COMPLETE (R296): Every node of the scope reports quiet for the old tag and the drain ends. -/
  | drainComplete
  /-- FABRIC_DRAIN_ACK (R436): A fabric target acknowledges a drain marker for tag X. -/
  | fabricDrainAck
  /-- Q_TAIL_DOORBELL (R339): A host store to Q_TAIL makes the records up to the new tail available. -/
  | qTailDoorbell
  /-- RECORD_ADMIT (R341): Tailstock admits a launch record and checks it with its header, signature and hash table. -/
  | recordAdmit
  /-- WAIT_RETEST (R343): Tailstock retests a grid's event waits after a signal or at least every 10 µs. -/
  | waitRetest
  /-- PRIORITY_AGING (R344): Every 4 ms of undispatched readiness raises a grid's effective priority by one. -/
  | priorityAging
  /-- LAUNCH_AGGREGATE (R351): Matching child launches arriving within 2 µs are merged into one grid. -/
  | launchAggregate
  /-- BIND_RECORD_INSTALL (R346): Tailstock writes a valid bind record and Headstock installs or discards it. -/
  | bindRecordInstall
  /-- BIND_SHARE_REWRITE (R347): A bind record rewrite changing only SHARE rebinds resident blocks. -/
  | bindShareRewrite
  /-- BIND_WITHDRAW (R347): A bind record written with VALID 0 returns undispatched blocks to Tailstock. -/
  | bindWithdraw
  /-- BLOCK_DISPATCH (R347): A block is placed on a core that can grant its resources, and its waves start. -/
  | blockDispatch
  /-- BLOCK_RETIRE (R345): A block whose waves have ended and counters are zero releases its resources. -/
  | blockRetire
  /-- GANG_RETIRE (R257): A gang whose waves ended and whose jobs completed releases all members' scratchpads. -/
  | gangRetire
  /-- GRID_RETIRE (R345): After the last block retires, a drain runs and the completion record and SIGNAL follow. -/
  | gridRetire
  /-- CODE_PAGE_VERIFY (R357): A code page's hash is checked at first fetch; a failure raises CODE_INTEGRITY and aborts the grid. -/
  | codePageVerify
  /-- REBIND (R247): The Enlarger pauses a wave and moves its registers to the print of a new share. -/
  | rebind
  /-- FORCED_GROWTH (R251): A blocked core grants a waiting RSHARE growth by lowering other waves' shares. -/
  | forcedGrowth
  /-- TURN_ADVANCE (R402): A deterministic grid's turn moves to the next block and its staged entries are released. -/
  | turnAdvance
  /-- QUOTA_DELIVERY (R380): A wave takes QUOTA at its first boundary after the crossing is signalled. -/
  | quotaDelivery
  /-- PREEMPT_DELIVERY (R381): A wave takes PREEMPT at its first boundary after it is signalled. -/
  | preemptDelivery
  /-- THROTTLE_DELIVERY (R389): A throttling change is delivered as THROTTLE to an armed block's lowest live wave. -/
  | throttleDelivery
  /-- HANDLER_BUDGET_OVERRUN (R386): A pre-emption handler exceeds its budget and the forced save follows. -/
  | handlerBudgetOverrun
  /-- BLOCK_SAVE (R386): Once all waves park or a forced save is due, the block's image is written to darkroom or save area. -/
  | blockSave
  /-- DARKROOM_SWAP (R270): A core saves the outgoing image and restores the incoming one concurrently. -/
  | darkroomSwap
  /-- BLOCK_RESTORE (R387): A saved block is restored on cores that can grant its resources. -/
  | blockRestore
  /-- POOL_SLICE_END (R364): A pool member's slice expires and it takes PREEMPT. -/
  | poolSliceEnd
  /-- CLUSTER_REASSIGN (R275): Headstock begins changing a cluster's operating class at Tailstock's request. -/
  | clusterReassign
  /-- CLASS_CHANGE_DONE (R275): After 20 µs the new operating point holds and CHANGING clears. -/
  | classChangeDone
  /-- BUDGET_CHANGE (R272): The power controller lowers or restores a cluster's current budget. -/
  | budgetChange
  /-- DIE_TEMP_CHANGE (R417): The hottest die temperature or inlet temperature moves into another band. -/
  | dieTempChange
  /-- CLOCK_GATE (R416): A core idle for 64 aclk is clock-gated. -/
  | clockGate
  /-- POWER_GATE (R416): A core without resident blocks for 100 µs is power-gated. -/
  | powerGate
  /-- CORE_WAKE (R416): A power-gated core finishes its 5 µs wake before its first dispatch. -/
  | coreWake
  /-- CALIBRATION_EPOCH (R372): Each millisecond the rail correction factors are recomputed and GC_EPOCH advances. -/
  | calibrationEpoch
  /-- PERIODIC_SHEET (R379): Every 10 s Headstock writes and persists a sheet of every partition. -/
  | periodicSheet
  /-- SH_REQ (R379): A host requests a contact sheet through its configuration block. -/
  | shReq
  /-- ACTIVATE (R365): PM_CTRL command 1 checks and activates a partition. -/
  | activate
  /-- RESUME (R365): PM_CTRL command 2 resumes a stopped partition. -/
  | resume
  /-- STOP (R365): PM_CTRL command 3 stops an active partition by PREEMPT and save. -/
  | stopPartition
  /-- QUIESCE (R365): PM_CTRL command 4 stops admission, aborts grids and drains at .sys. -/
  | quiesce
  /-- DESTROY (R365): PM_CTRL command 5 clears a quiesced partition's slots, objects and translations. -/
  | destroy
  /-- PM_QUOTA_WRITE (R393): A quota write sets the quota and clears OVER when the counter is within it. -/
  | pmQuotaWrite
  /-- HOMEMODE_WRITE (R280): A write to HOMEMODE flips a granule's home mode after draining its lines. -/
  | homemodeWrite
  /-- CC_WAYPART_WRITE (R266): A SCRW change carves or surrenders cluster-scratch ways in sequence. -/
  | ccWaypartWrite
  /-- PM_WAYS_WRITE (R266): A WAYS change is copied into CC_LIMIT and removes or adds ways. -/
  | pmWaysWrite
  /-- POOL_CL_WRITE (R390): A POOL_CL write assigns clusters to a time-shared pool or is refused. -/
  | poolClWrite
  /-- PRA_DATA_READ (R367): F0's host reads PRA_DATA, acting as RDPR. -/
  | praDataRead
  /-- PRA_DATA_WRITE (R367): F0's host writes PRA_DATA, acting as WRPR. -/
  | praDataWrite
  /-- CONFIG_REGISTER_WRITE (R369): A write to any other configuration or privileged register takes effect once accepted. -/
  | configRegisterWrite
  /-- DESC (R426): Management read returning the package description record. -/
  | descRead
  /-- QUOTE (R440): Management operation returning a signed attestation record for a nonce. -/
  | quoteRecord
  /-- FNHOST (R427): F0's host binds a function's configuration space to an adapter. -/
  | fnhost
  /-- WINDOW (R431): Write a function's fabric window entry after admitted accesses finish. -/
  | windowWrite
  /-- EXPORT (R431): Write a function's export entry after admitted accesses finish. -/
  | exportWrite
  /-- HANDOFF (R438): F0's host hands a grid's unstarted blocks to another device. -/
  | handoff
  /-- IMAGE (R422): In recovery a host pushes a firmware image or fabric record to the ROM loader. -/
  | imagePush
  /-- HANDOFF_TIMEOUT (R439): No HANDOFF within 1 s aborts the grid with FEATURE_ABSENT. -/
  | handoffTimeout
  /-- REMOTE_ACCESS_ARRIVAL (R430): A fabric access arrives at a target and is checked against the export table. -/
  | remoteAccessArrival
  /-- REMOTE_TIMEOUT (R433): A remote access without an answer within 100 ms is answered with an error. -/
  | remoteTimeout
  /-- DIE_LINK_DOWN (R413): A die link failing 16 retries of a flit is marked down and rerouted. -/
  | dieLinkDown
  /-- FABRIC_PORT_DOWN (R436): A Talgirak Link port failing 16 retries is marked down and traffic rerouted or answered. -/
  | fabricPortDown
  /-- CXL_LINK_FAIL (R437): An expander is removed or its link fails, and its range answers as poisoned. -/
  | cxlLinkFail
  /-- POWER_GOOD (R421): Power good starts bring-up from the always-on domain to F0's configuration space. -/
  | powerGood
  /-- COLD_POWER_LOSS (R379): Power is lost; counters later resume from the last persisted sheet with GAP set. -/
  | coldPowerLoss
  /-- WARM_RESET (R419): A warm reset writes KIND 2 sheets and clears the warm reset domain. -/
  | warmReset
  /-- FUNCTION_RESET (R418): A function reset aborts its grids and clears its queues, objects and images. -/
  | functionReset
  /-- HEADSTOCK_WATCHDOG (R426): The Headstock watchdog expires and resets the device with cause 3. -/
  | headstockWatchdog
  /-- CHADY_PORT_RESUME (R151): The Chady debug port resumes a wave stopped at an armed BKPT. -/
  | chadyPortResume
  /-- CHADY_PORT_WRITE (R244): The Chady debug port writes a symbolic register by name, or sets a breakpoint on a negative PC. -/
  | chadyPortWrite
  /-- FABRIC_DRAIN_MARKER (R436): A drain marker for tag X arrives at a fabric target, which acknowledges it once every message so tagged is performed or answered. -/
  | fabricDrainMarker
  /-- HANDOFF_ARRIVAL (R438): A target device receives a handed-off launch record and list of unstarted blocks, admits it under R341 and dispatches only the listed blocks. -/
  | handoffArrival
  /-- HANDOFF_RETIRE_REPORT (R438): The source reports that every block it ran has retired, letting the target write the grid's one completion record. -/
  | handoffRetireReport
  deriving DecidableEq, Repr

end Sys2Proof
end

