-- ==== Sys2Proof/Machine/State.lean ====
section
/-! DEFINITION. The state of the H940 as plain data: the waves and splits resident on its cores, the blocks and grids they
belong to, the operations in flight, memory, the object table and Chucks, the configuration and privileged registers,
the energy counters, and the package. INVENTORY.md lists every piece with the rule that names it. -/
namespace Sys2Proof.Machine

/-! ## Registers of a split -/

/-- A register that an instruction can name or write (R64–R72, R207). -/
inductive RegId where
  /-- symbolic register (R67) -/
  | sym (n : Nat)
  /-- o0–o7 as 0–7, l0 and l1 as 8 and 9 (R69) -/
  | orf (n : Nat)
  /-- scalar (R64) -/
  | scal (n : Nat)
  /-- k0–k15, and `exec` as 16 (R61) -/
  | mask (n : Nat)
  | xi
  | mode
  | status
  | rseed
  | trapPc
  /-- TRAP_EXEC, TRAP_CODE and TRAP_INFO, which only a trap entry writes -/
  | trapRec
  /-- the in-handler flag -/
  | inHandler
  /-- tile descriptor (R207) -/
  | td (n : Nat)
  deriving DecidableEq, Repr

/-- A fixed-latency result on its way (R56): the values of its register by lane (lane 0 alone for a uniform register, 0 or
1 for a bit of a mask; for RSEED the generator states of the lanes and, at 128, the register), and the counted
distance still missing. -/
structure Pend where
  reg : RegId
  vals : List (Nat × Dword)
  left : Nat
  /-- a result from before the entry of the handler that runs: its readers there see it once the handler's path covers its distance, and
  it lands after the return alone -/
  ghost : Bool := false
  deriving DecidableEq, Repr

/-- The two words of a tile descriptor (R207); both zero is the invalid descriptor of wave start. -/
structure TileDesc where
  w0 : Word := 0
  w1 : Word := 0
  deriving DecidableEq, Repr

/-- The registers of a split that are one value for all its lanes (R61, R64–R66, R71–R74, R99, R207). -/
structure Uni where
  /-- s0–s63, keyed by number; zero where not listed (R25, R64) -/
  scal : Sp Word := []
  /-- 16-bit index register (R65) -/
  xi : BitVec 16 := 0
  mode : Word := 0
  status : Word := 0
  rseed : Word := 0
  /-- k0–k15, keyed by number (R62) -/
  k : Sp Mask := []
  trapPc : Dword := 0
  trapExec : Mask := 0
  trapCode : Word := 0
  trapInfo : Dword := 0
  inHandler : Bool := false
  /-- td0–td15, keyed by number -/
  td : Sp TileDesc := []
  deriving DecidableEq, Repr

/-- A side of a serial fork that does not run: its lanes with everything they hold, and the PC it goes on at (R138, R140).
Operations in flight still write to it. -/
structure Side where
  owned : Mask
  exec : Mask
  uni : Uni
  vreg : Sp Word
  ofile : Sp Word
  gen : Sp Word
  poison : Sp Bool
  flaw : Sp Nat
  pend : List Pend
  held : List (List Pend) := []
  awaits : List (Nat × Mask)
  written : List RegId
  waitPhase : Sp Nat
  lastPc : Option Dword
  pc : Dword
  deriving DecidableEq, Repr

/-- The three kinds of a fork record (R138). -/
inductive ForkKind where
  | single
  /-- a live sibling holds the other side; `taken` says which side this split is -/
  | real (taken : Bool)
  /-- the taken side runs, and the other side waits with the values at the fork -/
  | serial (other : Side)
  /-- the other side runs; the taken side as it reached its JOIN, unless it ended -/
  | serialSecond (first : Option Side)
  deriving DecidableEq, Repr

/-- A record of the fork stack (R138). -/
structure Fork where
  /-- the fork, numbered within the wave -/
  fid : Nat
  kind : ForkKind
  /-- the lanes the forking split owned, and those of them on the taken side -/
  origin : Mask
  takenLanes : Mask
  /-- the registers the forking split had written since its own innermost fork (R66) -/
  outer : List RegId
  deriving DecidableEq, Repr

/-- Whether a split may issue (R160). -/
inductive RunState where
  | ready
  /-- held at its instruction, which is tried again when the device has moved (R160, R172, R173, R186, R381) -/
  | held
  /-- parked at a JOIN (R140) -/
  | parked
  /-- SLEEP with this count (R136) -/
  | sleeping (aclk : Nat)
  /-- held by a translation fault with this token (R285, R287) -/
  | xlate (token : Nat)
  /-- parked by PRDONE or CTXSV (R384) -/
  | prParked
  deriving DecidableEq, Repr

/-- A split of a wave: its lanes, its PC and everything it holds (R61–R74, R138). A wave that is not split is one of these. -/
structure Split where
  /-- number of the split within its wave -/
  sid : Nat
  /-- the lanes it owns and has not withdrawn (R139, R142) -/
  owned : Mask
  exec : Mask
  uni : Uni := {}
  /-- symbolic registers, key 128·number + lane (R67); only lanes it owns count -/
  vreg : Sp Word := []
  /-- o0–o7, l0, l1, key 128·number + lane (R69) -/
  ofile : Sp Word := []
  /-- RS generator state per lane (R99) -/
  gen : Sp Word := []
  /-- poisoned register words, key 128·(number of the register) + lane (R82, R187) -/
  poison : Sp Bool := []
  /-- register words with an error that no read has found yet, keyed alike: 1 a single-bit one, 2 an uncorrectable one (R81, R82).
  A mask has a word per 32 lanes, at the lowest of them -/
  flaw : Sp Nat := []
  pend : List Pend := []
  /-- results on their way that a trap, or a P delivery, has set aside: they keep their distances until the return, the latest entry's
  first (R56, R149) -/
  held : List (List Pend) := []
  /-- operations in flight that will write a register of this split (R186, R206), and the lanes whose value is discarded because
  the path has left the register's interval since (R230), or another side's value has prevailed at a JOIN (R66) -/
  awaits : List (Nat × Mask) := []
  forks : List Fork := []
  /-- registers written since the innermost fork (R66) -/
  written : List RegId := []
  /-- negative PC of the next instruction (R36) -/
  pc : Dword
  /-- PC of the last instruction the path reached (R230) -/
  lastPc : Option Dword := none
  /-- symbolic registers that the debug port has written since, with the PC of the split then (R244) -/
  ported : List (Nat × Dword) := []
  run : RunState := .ready
  /-- stall count of the instruction at the PC, from its control word (R34); set by the fetch -/
  cnt : Nat := 1
  /-- the bundle's YIELD bit, and whether no later instruction of the bundle issues (R33, R163); set by the fetch -/
  yieldBit : Bool := false
  lastOfBundle : Bool := false
  /-- PC of its last issue, for the count of R163 -/
  issuedPc : Option Dword := none
  /-- (block, wave, split) that issue first after a YIELD (R136) -/
  behind : List (Nat × Nat × Nat) := []
  /-- the instruction at the PC has issued and been booked, and now waits (R173) -/
  started : Bool := false
  /-- phase recorded at an arrival on a barrier, per barrier number (R201): 1 phase 0, 2 phase 1; 0 none -/
  waitPhase : Sp Nat := []
  /-- a BARS whose arrival is made and whose wait is left (R381) -/
  arrived : Bool := false
  /-- the share an RSHARE that is held asked for, plus 1 (R250) -/
  asked : Nat := 0
  /-- number of the next operation, plus 1, when a release that is held was reached: it names the accesses issued before it (R197) -/
  since : Nat := 0
  /-- order number of its last issue (R162) -/
  lastIssue : Nat := 0
  deriving DecidableEq, Repr

/-! ## Waves and blocks -/

/-- The pre-emption record of a wave in its pre-emption handler (R383). -/
structure PreRec where
  pc : Dword
  exec : Mask
  /-- handler budget in aclk (R383) -/
  budget : Nat
  /-- the arrival of a BARS at the boundary is made (R381) -/
  arrived : Bool := false
  /-- parked by PRDONE or CTXSV: resume PC, `.sp`, `.acc`, full image asked (R384) -/
  done : Option (Dword × Bool × Bool × Bool) := none
  /-- instructions issued since the entry -/
  issued : Nat := 0
  deriving DecidableEq, Repr

/-- A wave (R58). -/
structure Wave where
  wid : Nat
  /-- W: 32, 64 or 128 -/
  width : Nat
  quarter : Nat := 0
  /-- its live splits, but for the one that `State.cur` holds -/
  splits : List Split := []
  nextSid : Nat := 1
  nextFork : Nat := 0
  /-- lanes that have executed EXIT (R142) -/
  withdrawn : Mask := 0
  /-- HANGCNT (R71, R77) -/
  hangcnt : Nat := 0
  /-- dispatch sequence number within the core (R162) -/
  age : Nat := 0
  /-- bundles issued from since another wave of its quarter issued (R163) -/
  bundles : Nat := 0
  /-- (block, wave) that issue first once it has had its 64 bundles (R163) -/
  behind : List (Nat × Nat) := []
  /-- registers per lane of the print it runs, and the share it wants (R250) -/
  share : Nat := 0
  wanted : Nat := 0
  /-- its FENCE.job that are held: the split of each, and the number of the first operation behind it; later jobs and MMAs wait for the
  earlier ones (R196) -/
  jobFences : List (Nat × Nat) := []
  /-- 0 none, 1 tenant, 2 supervisor (R360) -/
  level : Nat := 0
  /-- pending asynchronous deliveries (R152) -/
  quotaDue : Bool := false
  preemptDue : Bool := false
  hangDue : Option Nat := none
  pre : Option PreRec := none
  /-- 1 while the Chady debug port has stopped it; 2 when resumed, until it issues again (R151, R244) -/
  debug : Nat := 0
  deriving DecidableEq, Repr

/-- A named-barrier slot (R200). -/
structure Bar where
  phase : Bool := false
  arrived : Nat := 0
  /-- `none` is ALL -/
  expect : Option Nat := none
  deriving DecidableEq, Repr

/-- A request of a COMB packet (R304, R307). -/
structure CombReq where
  op : Nat
  lane : Nat
  arg : BitVec 128
  fn : Nat
  child : Nat
  slot : Nat
  /-- number of its packet: packets of one device may hold equal requests (R320) -/
  pkt : Nat := 0
  deriving DecidableEq, Repr

/-- A COMB packet at a slice's ingress (R305, R307): a number, the object id and the requests. A local one has the number of its
operation. -/
structure Packet where
  id : Nat
  fn : Nat
  oid : Nat
  reqs : List CombReq
  /-- where it comes from: packets of one source arrive as they were sent (R308, R319) -/
  srcs : List Nat := []
  deriving DecidableEq, Repr

/-- A method wave's batch (R311–R315). -/
structure Method where
  slice : Nat
  fn : Nat
  slot : Nat
  reqs : List CombReq
  replies : Sp Dword := []
  issued : Nat := 0
  /-- units metered for the batch so far (R322) -/
  energy : Nat := 0
  deriving DecidableEq, Repr

/-- A place that an access names: physical memory (R278), cluster scratch (R267), a fabric window (R429), the scratchpad of a
block (R165, R258), or an accumulator tile (R214). -/
inductive Space where
  | mem
  | cscr (fn : Nat)
  | remote
  | scr (blk buf : Nat)
  | tile
  deriving DecidableEq, Repr

/-- One lane's access of an instruction: where, how wide, and its data (R187, R190). -/
structure Item where
  lane : Nat
  space : Space
  addr : Nat
  bytes : Nat
  va : Dword := 0
  data : Dword := 0
  expected : Dword := 0
  /-- the data is poisoned (R177, R223) -/
  bad : Bool := false
  deriving DecidableEq, Repr

/-- Where the result of an operation in flight goes. -/
structure Dst where
  reg : RegId
  /-- two registers, the low half in `reg` -/
  wide : Bool := false
  /-- a scalar or pair rather than lanes -/
  uniform : Bool := false
  deriving DecidableEq, Repr

/-- A job card's decoded words (R216, R217). -/
structure Card where
  kind : Nat
  dir : Bool
  strm : Bool
  rb : Nat
  rows : Nat
  g : Dword
  gp : Nat
  sp : Nat
  buf : Nat
  off : Nat
  w7 : Word
  pattern : Dword
  mode : Word
  /-- the translations it obtained: virtual page start, its size, physical start (R222) -/
  pages : List (Nat × Nat × Nat)
  deriving DecidableEq, Repr

/-- A byte range of a footprint (R225). -/
structure FpRange where
  space : Space
  start : Nat
  len : Nat
  deriving DecidableEq, Repr

/-- What an operation in flight does (R171, R185, R206). -/
inductive OpKind where
  | load (ty : Nat) (dst : Option Dst)
  | store
  | atom (aop ty : Nat) (dst : Option Dst) (mode : Word)
  | cwb (inv : Bool)
  | accrd (tile : Nat) (dst : Option Dst)
  | accwr (tile : Nat)
  | mma (tile : Nat) (da db : TileDesc) (mode : Word)
  | accz (tile : Nat)
  | accld (tile ty : Nat) (g : Dword) (pitch : Nat) (mode : Word) (pages : List (Nat × Nat × Nat))
  | accst (tile ty rnd : Nat) (g : Dword) (pitch : Nat) (mode : Word) (pages : List (Nat × Nat × Nat))
  | job (card : Card)
  /-- a JOBQ's whole list: complete when these card operations are (R206) -/
  | jobList (cards : List Nat)
  /-- `slot` is the object's id -/
  | comb (dst : Option Dst) (kmask : Nat) (slot : Nat) (rep64 : Bool) (reqs : List CombReq) (sent : Bool)
      (answers : List (Nat × Bool × Dword))
  | carg (dst : Option Dst)
  | objreg (dst : Dst) (value : Dword)
  | objfree (fn slot : Nat)
  | launch (dst : Dst) (value : Dword)
  | chwait (dst : Option Dst) (handle : Nat)
  /-- an operation that completes at its issue (TDSET, CBATCH, CREPLY; R206, R314) -/
  | instant
  deriving DecidableEq, Repr

/-- An operation in flight (R171, R172). The list of them stands in issue order. -/
structure Op where
  id : Nat
  blk : Nat
  wid : Nat
  sid : Nat
  /-- live splits whose program order it lies in: the split that issued it, those that forked from it later, and the split of a
  merge (R137, R141, R194) -/
  sids : List Nat := []
  fn : Nat
  child : Nat
  core : Nat
  /-- path of R171: 0 gld, 1 gst, 2 gat, 3 rsp, 4 job, 5 mma, 6 cmb; 7 counted on no path (a card of a list) -/
  path : Nat
  kind : OpKind
  items : List Item := []
  ord : Nat := 0
  scope : Nat := 0
  pol : Nat := 0
  /-- lanes whose access is performed -/
  donePart : Mask := 0
  /-- complete; it leaves the list when every earlier one of its path has (R172) -/
  complete : Bool := false
  /-- current: 0 not asked, 1 asked, 2 granted, 3 running (R175) -/
  stage : Nat := 0
  /-- units a job has moved, or k-blocks added to an element, by element (R215) -/
  moved : Nat := 0
  prog : Sp Nat := []
  /-- its work is done, and only writes of it that staging holds are left (R407) -/
  worked : Bool := false
  reads : List FpRange := []
  writes : List FpRange := []
  /-- staged by deterministic mode and not released (R400) -/
  staged : Bool := false
  /-- entries of staging that it holds, or that its writes will (R401) -/
  entries : Nat := 0
  /-- place in its block's staging order, as the staging port has received it; 0 while it is on its way there (R400) -/
  port : Nat := 0
  /-- place among the requests of its core where it was sent at its release from staging; 0: as it was issued (R402) -/
  send : Nat := 0
  /-- the job or ACCST whose staged write this is (R400, R407) -/
  parent : Option Nat := none
  /-- order in which a job or Lathe operation found its edges met (R212, R226) -/
  released : Option Nat := none
  /-- PC of its instruction -/
  pc : Dword := 0
  /-- in a Loupe grid: its clock vector, and what its writes publish (R410) -/
  stamp : Sp Nat := []
  pub : Sp Nat := []
  deriving DecidableEq, Repr

/-- Where a block stands. -/
inductive BlockPhase where
  | resident
  /-- every wave stopped by a grid abort or a block stop (R154, R439) -/
  | stopped
  /-- saved in a darkroom slot, or in the save area where `none`; whether the image holds the scratchpad (R386, R388) -/
  | saved (slot : Option Nat) (scr : Bool)
  deriving DecidableEq, Repr

/-- A block with everything granted to it (R165). -/
structure Block where
  id : Nat
  grid : Nat
  /-- partition that it runs in -/
  fn : Nat := 0
  child : Nat := 0
  /-- linear block index (R255) and coordinates -/
  index : Nat
  bidx : Nat := 0
  bidy : Nat := 0
  bidz : Nat := 0
  /-- PARAM: the parameter block's address (R71, R351) -/
  param : Dword := 0
  core : Nat := 0
  phase : BlockPhase := .resident
  /-- its waves, but for the one that `State.cur` holds -/
  waves : List Wave := []
  nwaves : Nat := 1
  /-- base share named by the bind record (R233) -/
  baseShare : Nat := 0
  /-- scratchpad bytes, key buffer offset placed by R237; zero where not listed (R167) -/
  scratch : List Host.Cell := []
  scrPoison : Sp Bool := []
  /-- accumulator elements, key 12288·tile + 128·row + column (R166) -/
  tiles : Sp Word := []
  tilePoison : Sp Bool := []
  /-- named barriers by symbolic number (R200, R237) -/
  bars : Sp Bar := []
  /-- successful LAUNCHes, and the child grid of each handle (R349) -/
  launches : Nat := 0
  children : List (Nat × Nat) := []
  /-- THROTTLE armed, an event due, the last value delivered (R389) -/
  armed : Bool := false
  throttle : Option Bool := none
  lastThrottle : Option Bool := none
  method : Option Method := none
  /-- a forced save is due (R386) -/
  forced : Bool := false
  /-- the slot it was bound by: 64 times its cluster, and its number there (R346) -/
  slot : Nat := 0
  /-- its parameter scalars are loaded (R443) -/
  loaded : Bool := true
  /-- number of its last save (R271) -/
  saveSeq : Nat := 0
  deriving DecidableEq, Repr

/-- The split that issues, with the wave and the block it belongs to, taken out of their lists. -/
structure Cur where
  blk : Block
  wave : Wave
  split : Split
  /-- slots that the unit of the instruction that issues reaches, and whether it writes them (R239) -/
  slots : List (Nat × Bool) := []
  deriving DecidableEq, Repr

/-! ## Kernels and grids -/

/-- An entry of the lifetime table (R234). -/
structure Life where
  num : Nat
  elems : Nat
  start : Nat
  stop : Nat
  deriving DecidableEq, Repr

/-- A buffer: its declared size and alignment (R443), and its placement (R237). -/
structure Buf where
  size : Nat
  align : Nat
  off : Nat
  deriving DecidableEq, Repr

/-- A parameter field (R443). -/
structure Par where
  off : Nat
  scal : Nat
  size : Nat
  deriving DecidableEq, Repr

/-- A kernel header (R354) with the tables behind its code (R443). -/
structure Kernel where
  addr : Dword := 0
  codeSize : Nat := 0
  widthCode : Nat := 0
  role : Nat := 0
  demand : Nat := 0
  minshare : Nat := 0
  nscal : Nat := 0
  nbar : Nat := 0
  bufBytes : Nat := 0
  nbuf : Nat := 0
  gang : Nat := 1
  cls : Nat := 3
  trap : Word := 0
  handler : Nat := 0
  prehandler : Nat := 0
  cycles : Nat := 0
  nsym : Nat := 0
  symmap : Nat := 0
  lifetab : Nat := 0
  hashIdx : Nat := 0
  /-- physical barrier slots after reuse (R237) -/
  barSlots : Nat := 0
  lives : List Life := []
  bufs : List Buf := []
  params : List Par := []
  /-- the kernel hash, which keys its prints (R246) -/
  hash : BitVec 512 := 0
  deriving DecidableEq, Repr

/-- The fields of a launch record (R340). -/
structure LaunchRec where
  prio : Nat := 0
  deflt : Bool := false
  serial : Bool := false
  cls : Nat := 3
  number : Word := 0
  hdr : Dword := 0
  param : Dword := 0
  gdimx : Nat := 1
  gdimy : Nat := 1
  gdimz : Nat := 1
  waves : Nat := 1
  tiles : Nat := 0
  lmem : Dword := 0
  lmemsz : Dword := 0
  hashtab : Dword := 0
  npages : Nat := 0
  sig : Dword := 0
  waits : List (Nat × Nat) := []
  signal : Nat := 0
  cpl : Dword := 0
  deriving DecidableEq, Repr

/-- What ended a grid early (R154, R342). -/
structure AbortInfo where
  status : Nat
  code : Word
  pc : Dword
  block : Nat
  wid : Nat
  info : Dword
  deriving DecidableEq, Repr

/-- An access that the Loupe has stamped (R409–R411). -/
structure LoupeAcc where
  op : Nat
  /-- 32·linear block index + WID -/
  wave : Nat
  stamp : Sp Nat
  pc : Dword
  writes : Bool
  /-- a load, a job read or an ACCLD -/
  reads : Bool
  /-- object of a COMB -/
  obj : Option Nat := none
  items : List Item
  deriving DecidableEq, Repr

/-- The Loupe of a grid (R409–R411). Waves are keyed 32·linear block index + WID. -/
structure Loupe where
  /-- clock vector of each wave; its own component counts its releases -/
  clocks : Sp (Sp Nat) := []
  /-- vector of each wave's last release fence, and what its loads have read since for an acquire fence -/
  fences : Sp (Sp Nat) := []
  seen : Sp (Sp Nat) := []
  /-- released values: where, the core that released them, and the vector -/
  locs : List (Item × Nat × Sp Nat) := []
  /-- arrivals of the running phase of a barrier, and of its phases that have completed -/
  bars : Sp (Sp Nat) := []
  passed : Sp (Sp Nat) := []
  /-- accesses of completed jobs and Lathe operations that no wait has covered, with their path -/
  jobs : List (Nat × LoupeAcc) := []
  accs : List LoupeAcc := []
  /-- pairs of operations that race, and the pairs of PCs recorded -/
  raced : List (Nat × Nat) := []
  pcs : List (Dword × Dword) := []
  recs : List (List Byte) := []
  deriving DecidableEq, Repr

/-- An admitted grid (R341–R345). -/
structure Grid where
  handle : Nat
  fn : Nat
  child : Nat
  /-- launch queue it came from; `none` for a child grid -/
  queue : Option Nat := none
  rcd : LaunchRec := {}
  kernel : Kernel := {}
  /-- effective class (R340) and priority (R344) -/
  cls : Nat := 3
  prio : Nat := 0
  depth : Nat := 1
  /-- parent grid, parent block and the handle there -/
  parent : Option (Nat × Nat × Nat) := none
  /-- the first member of the merged grid it is a later member of (R351) -/
  lead : Option Nat := none
  /-- waits met (R343) -/
  ready : Bool := false
  /-- blocks dispatched, and blocks retired, by linear index -/
  dispatched : Sp Bool := []
  retired : Sp Bool := []
  /-- blocks handed to another device or never to be started -/
  withdrawnBlocks : Sp Bool := []
  /-- code pages verified (R357) -/
  verified : Sp Bool := []
  /-- turn of a deterministic grid (R399) -/
  turn : Nat := 0
  abort : Option AbortInfo := none
  /-- FEATURE_ABSENT stop that waits for a HANDOFF: block index, WID, PC and TRAP_INFO (R439) -/
  absent : Option (Nat × Nat × Dword × Dword) := none
  /-- handed to: device, function, queue; and the target has reported its blocks retired (R438) -/
  handoff : Option (Nat × Nat × Nat) := none
  /-- received by handoff: this device runs only listed blocks; the source has reported (R438) -/
  fromHandoff : Option Bool := none
  /-- privilege level of its waves (R360) -/
  level : Nat := 0
  gangBars : Sp Bar := []
  loupe : Loupe := {}
  /-- retired, its status byte -/
  status : Option Nat := none
  deriving DecidableEq, Repr

/-! ## Units of the device -/

/-- A line of a first-level cache, most recently used first within the list (R169). -/
structure L1Line where
  core : Nat
  line : Nat
  data : List Byte
  poison : List Bool
  deriving DecidableEq, Repr

/-- A line that a slice holds, most recently used first within the list (R262, R263). The way says whose it is (R264). -/
structure SliceLine where
  slice : Nat
  line : Nat
  way : Nat
  dirty : Bool
  deriving DecidableEq, Repr

/-- A word of storage: 8 bytes of memory, of cluster scratch, or of a block's scratchpad (by place / 8), an element of a block's
tiles, or a line of a core's first-level cache (R177, R276, R281). -/
inductive Word8 where
  | mem (w : Nat)
  | cscr (w : Nat)
  | scr (blk w : Nat)
  | tile (blk key : Nat)
  | l1 (core line : Nat)
  deriving DecidableEq, Repr

/-- An error in the device's storage, which comes from outside it (R81, R177, R276, R281, R317). `hard` says that it is
uncorrectable. -/
inductive Upset where
  /-- a register word of a split: key and lane -/
  | reg (blk wid sid key lane : Nat)
  | word (w : Word8)
  /-- a line of a core's first-level cache -/
  | l1 (core line : Nat)
  /-- a word of a line that a slice holds, and its tag -/
  | slice (line word : Nat)
  | tag (line : Nat)
  /-- a wave's split table entries, fork stacks, counters, barrier slots or control state -/
  | control (blk wid : Nat)
  /-- control state of an image in a darkroom slot -/
  | image (slot : Nat)
  /-- transfers between a gang's cores: hard where 16 retries have failed -/
  | gangPath (blk : Nat)
  /-- a cluster's CC_LIMIT or CC_WAYPART of a function, or where none is named its arbiter or CL_CLASS -/
  | cluster (cl : Nat) (fn : Option Nat)
  /-- an admitted request of a Chuck, by its place -/
  | chuck (slice index : Nat)
  deriving DecidableEq, Repr

/-- A print that the Enlarger keeps (R246): function, kernel hash and share, and its place in the function's cache. -/
structure Print where
  fn : Nat
  hash : BitVec 512
  share : Nat
  place : Nat
  deriving DecidableEq, Repr

/-- A cached leaf translation (R282–R284): where, in the TLB of a core or in that of a cluster, whose number is 512 more; most recently
used first within the list. -/
structure TlbEntry where
  at_ : Nat
  fn : Nat
  child : Nat
  va : Nat
  size : Nat
  pa : Nat
  perm : BitVec 3
  deriving DecidableEq, Repr

/-- A registered object (R300–R302). -/
structure Obj where
  fn : Nat
  slot : Nat
  child : Nat
  base : Dword
  pa : Nat
  size : Nat
  argb : Nat
  repb : Nat
  kernel : Kernel
  /-- the code pages that its registration has verified: virtual and physical number (R302) -/
  pages : List (Nat × Nat) := []
  poisoned : Bool := false
  freeing : Bool := false
  deriving DecidableEq, Repr

/-- A slice's Chuck and executor (R307, R309). -/
structure Chuck where
  /-- packets waiting at the ingress, in arrival order -/
  ingress : List Packet := []
  /-- admitted requests, in admission order -/
  admitted : List CombReq := []
  /-- block that runs the batch -/
  running : Option Nat := none
  /-- function served last (round robin) -/
  lastFn : Nat := 0
  deriving DecidableEq, Repr

/-- Who holds a current reservation (R175). -/
inductive CurrentOwner where
  | op (id : Nat)
  | burst (core quarter : Nat)
  deriving DecidableEq, Repr

/-- A cluster's arbiter and class (R272–R274). -/
structure Cluster where
  budget : Nat := 4096
  held : List (CurrentOwner × Nat) := []
  queue : List (CurrentOwner × Nat) := []
  cls : Nat := 0
  changing : Option Nat := none
  /-- an uncorrectable error in its registers: it binds no work (R276) -/
  failed : Bool := false
  deriving DecidableEq, Repr

/-- An installed bind slot (R346). -/
structure Bind where
  cluster : Nat
  slot : Nat
  words : BindWords
  withdrawn : Bool := false
  deriving DecidableEq, Repr

/-- A drain controller's running drain: recorded tag, scope code, and fabric targets that owe an acknowledgement (R296, R436). -/
structure Drain where
  fn : Nat
  child : Nat
  tag : Bool
  scope : Nat
  /-- die of its requests at `.die` -/
  die : Nat := 0
  /-- it has started; otherwise it waits for the one that runs -/
  running : Bool := true
  /-- operations in flight when it began (tagged X) -/
  old : List Nat
  targets : List Nat := []
  done : Bool := false
  /-- blocks and splits whose DRAIN it serves -/
  serves : List (Nat × Nat × Nat) := []
  deriving DecidableEq, Repr

/-- A split held by a translation fault (R287). -/
structure XHold where
  fn : Nat
  child : Nat
  token : Nat
  blk : Nat
  wid : Nat
  sid : Nat
  info : Dword
  pc : Dword
  /-- passes of the instruction that is held (R59) -/
  passes : Nat := 1
  /-- the job whose gathered row is held, rather than a split, plus 1 (R218) -/
  job : Nat := 0
  deriving DecidableEq, Repr

/-- A contact-sheet window (R378): last END and CEND, sheet number, quota crossed in the window, and whether the next sheet is the first
after a cold power loss (R379). -/
structure SheetWin where
  endNs : Dword := 0
  cend : BitVec 96 := 0
  seq : Nat := 0
  crossed : Bool := false
  gap : Bool := false
  /-- of a persisted sheet, its 256 bytes -/
  bytes : List Byte := []
  deriving DecidableEq, Repr

/-- A drain marker of another device that waits: for whose messages, and the packets that are still to be answered (R436). -/
structure Marker where
  dev : Nat
  fn : Nat
  child : Nat
  tag : Bool
  pkts : List Nat
  deriving DecidableEq, Repr

/-- What leaves the device: an answer to a management operation, a host read, or a notification (R426, R427, R439). -/
structure Msg where
  tag : String
  dest : Nat
  bytes : List Byte
  deriving DecidableEq, Repr

/-- The last logged record of a function's error block (R444). -/
structure ErrRec where
  code : Nat := 0
  cause : Nat := 0
  wid : Nat := 0
  flags : Nat := 0
  grid : Word := 0
  block : Word := 0
  seq : Word := 0
  pc : Dword := 0
  info : Dword := 0
  deriving DecidableEq, Repr

/-- The package outside the dies' arithmetic (R413–R426, R437). -/
structure Hardware where
  /-- powered and through step 7 of bring-up (R421); `false` with power in recovery (R422) -/
  powered : Bool := true
  running : Bool := true
  /-- last reset (R426) -/
  cause : Nat := 0
  /-- firmware image: bytes, version, valid signature; and the fabric record (R420, R423) -/
  fwBytes : List Byte := []
  fwVersion : Nat := 0
  fwValid : Bool := true
  fwMin : Nat := 0
  /-- at reset the record of a device whose F0 host is adapter 0 and may use every port -/
  fabricRec : List Byte := [0x46, 0x52, 0x46, 0x43, 1, 0, 0, 0, 0, 0, 0xFF, 0, 0, 0, 0, 0,
    0, 0, 0, 0, 0, 0, 0, 0, 0, 0, 0, 0, 0x9B, 0x2C, 0xE1, 0xAC]
  fabricValid : Bool := true
  f0Host : Nat := 0
  /-- adapter bound to F1–F7 (R427), plus 1, keyed by function; 0 means none bound -/
  hosts : Sp Nat := []
  /-- retired cores (R1, R425) -/
  absentCores : List Nat := []
  /-- die temperatures and inlet in 1/16 °C (R417) -/
  temp : Sp Int := []
  inlet : Int := 0
  /-- die pairs whose link is down, fabric ports down, CXL ports lost (R413, R436, R437) -/
  linksDown : List Nat := []
  portsDown : List Nat := []
  cxlDown : List Nat := []
  /-- attached expanders: port and GiB, in port order (R437) -/
  cxl : List (Nat × Nat) := []
  /-- 0 running, 1 clock-gated, 2 power-gated, keyed by core (R416) -/
  gate : Sp Nat := []
  /-- always-on clock, ns (R414) -/
  clockNs : Dword := 0
  /-- Chady port: breakpoints (function, PC) and functions armed (R151, R244) -/
  breakpoints : List (Nat × Dword) := []
  armedFns : List Nat := []
  deriving DecidableEq, Repr

/-- An entry of the agenda: which agent moves next. -/
inductive Act where
  /-- a step of another agent, with its data -/
  | ev (i : Instr) (arg : EvArg)
  /-- this split issues -/
  | issue (blk wid sid : Nat)
  /-- an error arises in storage, uncorrectable where `hard` -/
  | upset (u : Upset) (hard : Bool)
  deriving DecidableEq, Repr

/-- The state of the machine. -/
structure State where
  /-- what moves next, first first; empty: `Step` chooses -/
  agenda : List Act := []
  /-- data of the step of another agent that is being taken -/
  arg : EvArg := {}
  cur : Option Cur := none
  blocks : List Block := []
  grids : List Grid := []
  ops : List Op := []
  nextOp : Nat := 0
  nextBlk : Nat := 0
  nextGrid : Nat := 1
  /-- physical memory bytes (R278); zero where not listed (notes/assumptions/2.md) -/
  mem : List Host.Cell := []
  /-- poisoned 8-byte words of memory, keyed by address / 8 (R281) -/
  memPoison : Sp Bool := []
  /-- cluster-scratch bytes, key 2^30·function + 2^24·cluster + offset (R267), and poisoned words -/
  cscr : List Host.Cell := []
  cscrPoison : Sp Bool := []
  /-- words with a single-bit error that no read has found yet (R177, R276, R281) -/
  soft : List Word8 := []
  /-- lines that the slices hold (R262) -/
  lines : List SliceLine := []
  /-- a shrink of a function's scratch in a slice that waits, key 64·function + slice: the ways it had, plus 1 (R266) -/
  shrinking : Sp Nat := []
  /-- writes of privileged registers by F0's host that wait: register, function, instance and value (R266, R280) -/
  hostWaits : List (Nat × Nat × Nat × Dword) := []
  /-- granules whose home mode is being changed, keyed by physical address / 65536: number of the first operation whose accesses to
  them are held, plus 1, times 2, and 1 more where the new mode is near (R280) -/
  flipping : Sp Nat := []
  /-- granules of bonded DRAM in near home mode, keyed by physical address / 65536 (R280) -/
  near : Sp Bool := []
  l1 : List L1Line := []
  tlb : List TlbEntry := []
  /-- configuration-space registers, key 65536·function + offset; reset value where not listed (R359) -/
  cfg : Sp Dword := []
  /-- privileged registers, key by `prKey`; reset value where not listed (R368) -/
  preg : Sp Dword := []
  /-- fabric windows, key 128·function + window; export entries, key 128·function + 2·entry + word (R429, R430) -/
  windows : Sp Dword := []
  /-- error blocks by function: corrected and uncorrectable counts, and the last record (R444) -/
  errCE : Sp Dword := []
  errUE : Sp Dword := []
  errRec : Sp ErrRec := []
  exports : Sp Dword := []
  objs : List Obj := []
  /-- generation of object table entries less 1, key 4096·function + slot (R300) -/
  objGen : Sp Nat := []
  chucks : Sp Chuck := []
  clusters : Sp Cluster := []
  binds : List Bind := []
  /-- prints, most recently used first (R246) -/
  prints : List Print := []
  /-- function whose grid was bound last (R344) -/
  lastBound : Nat := 0
  /-- phase tags, key 8·function + child (R295), and drains -/
  tags : Sp Bool := []
  drains : List Drain := []
  markers : List Marker := []
  xholds : List XHold := []
  nextToken : Nat := 0
  /-- partition counters in units of 2^−32 µJ, key 8·function + child (R375), and the house account (R374) -/
  counters : Sp (BitVec 96) := []
  house : Int := 0
  /-- partitions being quiesced (R365); child 7 is a function being reset (R418) -/
  quiescing : List (Nat × Nat) := []
  /-- functions that a crossing of their level-1 counter is stopping: every block of theirs is to be saved (R393) -/
  crossings : List Nat := []
  /-- calibration: calibrated units per rail this epoch, and nominal ones under 16 (R372, R374) -/
  booked : Sp Nat := []
  sheets : Sp SheetWin := []
  /-- persisted counters and sheets (R379) -/
  persisted : Sp SheetWin := []
  /-- darkroom slots in use: slot → 8·function + child of the image, + 1 (R270), those whose control state has an uncorrectable
  error (R276), and the saves made -/
  darkroom : Sp Nat := []
  badImages : List Nat := []
  saves : Nat := 0
  /-- locked code lines: grid handles and object slots that hold each page, as (physical page, grid) (R302, R357) -/
  locks : List (Nat × Nat) := []
  /-- partition last resident on each core, as 8·function + child + 1 (R170) -/
  lastOn : Sp Nat := []
  /-- twice a pool's entry, and 1 more: its member is resident; without that the entry from which on the next turn is given (R364, R390) -/
  poolTurn : Sp Nat := []
  hw : Hardware := {}
  out : List Msg := []
  /-- issue order number, and the number of free values taken (notes/assumptions/3.md) -/
  tick : Nat := 0
  fresh : Nat := 0
  deriving DecidableEq, Repr

/-! ## How a step can stop -/

/-- Faults of the model. None is raised: every fault of the H940 is a trap, a status or an abort, which are next states. -/
inductive Fault where
  /-- raised by no meaning; safe -/
  | none
  deriving DecidableEq, Repr

/-- Refusals of the model. -/
inductive Refusal where
  /-- raised by the arm of an instruction without a meaning; safe -/
  | notModelled (mnemonic : String)
  deriving DecidableEq, Repr

/-- The machine right after a cold reset has reached step 7 of bring-up (R421): F0 active, every other partition absent,
every queue disabled, no block resident, memory unlisted. -/
def State.reset : State := {}

end Sys2Proof.Machine
end

