-- ==== Sys2Proof/Machine/Regs.lean ====
section
/-! DEFINITION. Reading and writing the registers of a split by counted distance (R56, R57, R61, R64–R74, R230). -/
namespace Sys2Proof.Machine

/-- A number for each register, for the poison map. -/
def RegId.key : RegId → Nat
  | .sym n => n
  | .orf n => 8192 + n
  | .scal n => 8208 + n
  | .mask n => 8272 + n
  | .xi => 8289
  | .mode => 8290
  | .status => 8291
  | .rseed => 8292
  | .trapPc => 8293
  | .trapRec => 8294
  | .inHandler => 8295
  | .td n => 8296 + n

/-- Registers that hold a word per lane (R67, R69). -/
def RegId.perLane : RegId → Bool
  | .sym _ => true
  | .orf _ => true
  | _ => false

/-- The value of a register in a lane with no pending result applied; a mask answers its bit. -/
def Split.committed (sp : Split) (r : RegId) (i : Nat) : Dword :=
  match r with
  | .sym n => (spGet 0 sp.vreg (128 * n + i)).setWidth 64
  | .orf n => (spGet 0 sp.ofile (128 * n + i)).setWidth 64
  | .scal n => (spGet 0 sp.uni.scal n).setWidth 64
  | .mask n => if ((if n = 16 then sp.exec else spGet 0 sp.uni.k n).getLsbD i) then 1 else 0
  | .xi => sp.uni.xi.setWidth 64
  | .mode => sp.uni.mode.setWidth 64
  | .status => sp.uni.status.setWidth 64
  | .rseed => if i = 128 then sp.uni.rseed.setWidth 64 else (spGet 0 sp.gen i).setWidth 64
  | .trapPc => sp.uni.trapPc
  | .trapRec => sp.uni.trapInfo
  | .inHandler => if sp.uni.inHandler then 1 else 0
  | .td n => (spGet {} sp.uni.td n).w0.setWidth 64 ||| ((spGet {} sp.uni.td n).w1.setWidth 64 <<< 32)

/-- The value listed for a lane. -/
def valAt (l : List (Nat × Dword)) (i : Nat) : Option Dword := (l.find? fun p => p.1 = i).map (·.2)

/-- How a written value changes a register: STATUS clears the bits written as 1 (R74). -/
def RegId.over (r : RegId) (old new : Dword) : Dword := if r = .status then old &&& ~~~new else new

/-- The value a reader sees in a lane: that of the latest producer in program order whose latency is covered (R56). -/
def Split.read (sp : Split) (r : RegId) (i : Nat) : Dword :=
  sp.pend.foldl (fun v p => if p.reg = r ∧ p.left = 0 then ((valAt p.vals i).map (r.over v)).getD v else v)
    (sp.committed r i)

/-- A mask register as a reader sees it; `exec` holds only lanes the split owns (R61, R126). -/
def Split.readMask (sp : Split) (n : Nat) : Mask :=
  let m := sp.pend.foldl (fun (v : Mask) p =>
    if p.reg = .mask n ∧ p.left = 0 then
      p.vals.foldl (fun (v : Mask) (q : Nat × Dword) => if q.2 = 0 then v &&& ~~~(1#128 <<< q.1) else v ||| (1#128 <<< q.1)) v
    else v) (if n = 16 then sp.exec else spGet 0 sp.uni.k n)
  if n = 16 then m &&& sp.owned else m

/-- The counted distance by which a reader of a register falls short; 0 where the latest producer is covered (R56). -/
def Split.short (sp : Split) (r : RegId) : Nat :=
  sp.pend.foldl (fun n p => if p.reg = r then (if p.left = 0 then 0 else max n p.left) else n) 0

/-- Whether a register's word is poisoned in a lane (R82). -/
def Split.poisoned (sp : Split) (r : RegId) (i : Nat) : Bool := spGet false sp.poison (128 * r.key + i)

/-- Poison set or cleared in a lane. -/
def Split.setPoison (sp : Split) (r : RegId) (i : Nat) (b : Bool) : Split :=
  { sp with poison := spSet false sp.poison (128 * r.key + i) b }

/-- A word of a register has an error that no read has found: 1 single-bit, 2 uncorrectable; 0 none (R81, R82). -/
def Split.setFlaw (sp : Split) (r : RegId) (i n : Nat) : Split := { sp with flaw := spSet 0 sp.flaw (128 * r.key + i) n }

/-- A word written anew: its poison and its errors are gone (R82). -/
def Split.clean (sp : Split) (r : RegId) (i : Nat) : Split := (sp.setPoison r i false).setFlaw r i 0

/-- A result of a register is void in a lane, as a later one has overtaken it there (R56). -/
def Pend.void (r : RegId) (i : Nat) (p : Pend) : Pend :=
  if p.reg = r ∧ r ≠ .status then { p with vals := p.vals.filter (·.1 ≠ i) } else p

/-- Results from before the entry of a handler that a later one has overtaken in a lane are void there (R56). -/
def Split.overtake (sp : Split) (r : RegId) (i : Nat) : Split :=
  { sp with
    held := sp.held.map fun l => l.map (Pend.void r i)
    pend := sp.pend.map fun p => if p.ghost then p.void r i else p }

/-- One lane of a register set; the word's poison is cleared (R82). A write of bits of a mask's slice makes the whole slice's word anew, and
its error is gone with it (DESIGN CHOICE, notes/assumptions/111.md). -/
def Split.set (sp : Split) (r : RegId) (i : Nat) (v : Dword) : Split :=
  let sp := sp.overtake r i
  match r with
  | .sym n => ({ sp with vreg := spSet 0 sp.vreg (128 * n + i) (v.setWidth 32) } : Split).clean r i
  | .orf n => ({ sp with ofile := spSet 0 sp.ofile (128 * n + i) (v.setWidth 32) } : Split).clean r i
  | .scal n =>
    ({ sp with uni := { sp.uni with scal := spSet 0 sp.uni.scal n (v.setWidth 32) } } : Split).clean r i
  | .mask n =>
    let b : Mask := 1#128 <<< i
    let f := fun (m : Mask) => if v = 0 then m &&& ~~~b else m ||| b
    let sp := sp.setFlaw r (i / 32 * 32) 0
    if n = 16 then { sp with exec := f sp.exec &&& sp.owned }
    else { sp with uni := { sp.uni with k := spSet 0 sp.uni.k n (f (spGet 0 sp.uni.k n)) } }
  | .xi => ({ sp with uni := { sp.uni with xi := v.setWidth 16 } } : Split).setFlaw r 0 0
  | .mode => ({ sp with uni := { sp.uni with mode := v.setWidth 32 } } : Split).setFlaw r 0 0
  | .status => { sp with uni := { sp.uni with status := sp.uni.status &&& ~~~(v.setWidth 32) } }
  | .rseed =>
    if i = 128 then { sp with uni := { sp.uni with rseed := v.setWidth 32 } }
    else { sp with gen := spSet 0 sp.gen i (v.setWidth 32) }
  | .trapPc => { sp with uni := { sp.uni with trapPc := v } }
  | .trapRec => { sp with uni := { sp.uni with trapInfo := v } }
  | .inHandler => { sp with uni := { sp.uni with inHandler := v = 1 } }
  | .td n =>
    ({ sp with uni := { sp.uni with td := spSet {} sp.uni.td n ⟨v.setWidth 32, (v >>> 32).setWidth 32⟩ } } : Split).setFlaw r 0 0

/-- Several lanes set. -/
def Split.sets (sp : Split) (r : RegId) (l : List (Nat × Dword)) : Split := l.foldl (fun sp p => sp.set r p.1 p.2) sp

/-- Whether a result on its way lands now, behind those that have not: its latency is covered, no uncovered result of its register stands
before it, and it is not one that lands after a handler's return alone (R56). -/
def Pend.lands (p : Pend) (waiting : List Pend) : Bool :=
  p.left = 0 && !p.ghost && !(waiting.any fun q => q.reg = p.reg && !q.ghost)

/-- Pending results whose latency is covered are applied in program order; one behind an uncovered result of the same
register waits for it, so that the register's final value is that of the last producer (R56). -/
def Split.settle (sp : Split) : Split :=
  sp.pend.foldl (fun (a : Split) p => if p.lands a.pend then a.sets p.reg p.vals else { a with pend := a.pend ++ [p] }) { sp with pend := [] }

/-- A stall count passes (R34, R56). -/
def Split.advance (sp : Split) (n : Nat) : Split :=
  ({ sp with pend := sp.pend.map fun p => { p with left := p.left - n } } : Split).settle

/-- A register counts as written since the innermost fork (R66). -/
def Split.mark (sp : Split) (r : RegId) : Split :=
  if r.perLane || sp.written.contains r then sp else { sp with written := sp.written ++ [r] }

/-- A result of the given latency on its way to a register (R55, R56); a fixed latency to l0 or l1 is two aclk shorter, but not
below 1 (R70). -/
def Split.put (sp : Split) (r : RegId) (vals : List (Nat × Dword)) (lat : Nat) : Split :=
  let lat := if (r = .orf 8 ∨ r = .orf 9) ∧ lat ≠ 0 then max 1 (lat - 2) else lat
  ({ sp with pend := sp.pend ++ [{ reg := r, vals, left := lat }] } : Split).mark r

/-- A register written at once, behind every pending result (R186). -/
def Split.land (sp : Split) (r : RegId) (vals : List (Nat × Dword)) : Split := (sp.put r vals 0).settle

/-- The result of an operation in flight arrives: its register counted as written when the operation was issued, before a fork that has come
since (R66). -/
def Split.arrive (sp : Split) (r : RegId) (vals : List (Nat × Dword)) : Split :=
  ({ sp with pend := sp.pend ++ [{ reg := r, vals, left := 0 }] } : Split).settle

/-- Results on their way are set aside at the entry of a handler, whose readers see them over the handler's path. They come back at its end,
before those that are under way then, with the distances that they had and those of an instruction of count n that is still to
pass (R56, R149; notes/assumptions/91.md). -/
def Split.setAside (sp : Split) : Split :=
  { sp with held := sp.pend :: sp.held, pend := sp.pend.map fun p => { p with ghost := true } }
def Split.takeBack (sp : Split) (n : Nat) : Split :=
  { sp with
    pend := (sp.held.headD []).map (fun p => { p with left := p.left + n }) ++ sp.pend.filter (fun p => !p.ghost)
    held := sp.held.tail }

/-- Levels of results set aside made as many as n: inner ones come back, or empty ones are put on. -/
def Split.levelled (sp : Split) (n : Nat) : Split :=
  let t := (List.range (sp.held.length - n)).foldl (fun (x : Split) _ => x.takeBack 0) sp
  { t with held := List.replicate (n - t.held.length) [] ++ t.held }

/-- A clear of STATUS on its way leaves bits that hardware sets behind it. -/
def Pend.spares (bits : Word) (p : Pend) : Pend :=
  if p.reg = .status then { p with vals := p.vals.map fun v => (v.1, v.2 &&& ~~~(bits.setWidth 64)) } else p

/-- Sticky bits of STATUS set by hardware, which a WRSR on its way, issued before, does not clear (R74). -/
def Split.setStatus (sp : Split) (bits : Word) : Split :=
  { sp with
    uni := { sp.uni with status := sp.uni.status ||| bits }
    pend := sp.pend.map (Pend.spares bits)
    held := sp.held.map fun l => l.map (Pend.spares bits) }

/-! ## Sides of a serial fork (R138, R140) -/

/-- What a split holds, set aside to go on at a PC. -/
def Split.aside (sp : Split) (pc : Dword) : Side :=
  { owned := sp.owned, exec := sp.exec, uni := sp.uni, vreg := sp.vreg, ofile := sp.ofile, gen := sp.gen
    poison := sp.poison, flaw := sp.flaw, pend := sp.pend, held := sp.held, awaits := sp.awaits, written := sp.written, waitPhase := sp.waitPhase
    lastPc := sp.lastPc, pc }

/-- A split that holds what a side holds, with a fork stack. -/
def Side.on (x : Side) (sp : Split) (forks : List Fork) : Split :=
  { sp with
    owned := x.owned, exec := x.exec, uni := x.uni, vreg := x.vreg, ofile := x.ofile, gen := x.gen, poison := x.poison
    flaw := x.flaw, pend := x.pend, held := x.held, awaits := x.awaits, written := x.written, waitPhase := x.waitPhase, lastPc := x.lastPc, pc := x.pc
    forks, run := .ready, started := false, arrived := false }

/-- The side that a fork record keeps, changed. -/
def Fork.mapSide (f : Side → Side) (r : Fork) : Fork :=
  match r.kind with
  | .serial o => { r with kind := .serial (f o) }
  | .serialSecond (some o) => { r with kind := .serialSecond (some (f o)) }
  | _ => r

/-- The side that a fork record keeps. -/
def Fork.side? (r : Fork) : Option Side :=
  match r.kind with
  | .serial o => some o
  | .serialSecond o => o
  | _ => none

/-- A split, and every side that its fork stack keeps as a split of its own, at its own PC. -/
def Split.parts (sp : Split) : List Split := sp :: sp.forks.filterMap fun r => r.side?.map fun x => x.on sp []

/-- A change made to a split and to every side that its fork stack keeps. -/
def Split.everywhere (f : Split → Split) (sp : Split) : Split :=
  let sp' := f sp
  { sp' with forks := sp'.forks.map (Fork.mapSide fun x => (f (x.on sp [])).aside x.pc) }

/-- Words with an uncorrectable error that a save or a rebind moves: they arrive poisoned (R83). `p` says of which registers. -/
def Split.arrives (sp : Split) (p : Nat → Bool) : Split :=
  let hard := sp.flaw.filter fun e => e.2 = 2 && p (e.1 / 128)
  if hard.isEmpty then sp
  else { sp with flaw := sp.flaw.filter fun e => !hard.contains e, poison := spSets false sp.poison (hard.map fun e => (e.1, true)) }

/-! ## Lifetime intervals (R230, R234) -/

/-- Number of the interval of a symbolic register that holds an offset from the entry. -/
def Kernel.liveIdx (k : Kernel) (num : Nat) (off : Nat) : Option Nat :=
  k.lives.findIdx? fun l => l.num ≤ num && num < l.num + l.elems && l.start ≤ off && off ≤ l.stop

/-- Offset of a PC from the entry. -/
def Kernel.offOf (k : Kernel) (pc : Dword) : Nat := (pc - (k.addr + 64)).toNat

/-- Whether a symbolic register keeps its value when the path goes from one instruction to another. -/
def Kernel.keeps (k : Kernel) (num : Nat) (from? : Option Dword) (pc : Dword) : Bool :=
  match k.liveIdx num (k.offOf pc) with
  | none => false
  | some j => match from? with
    | none => true
    | some p => k.liveIdx num (k.offOf p) = some j

/-- Whether a symbolic register of a split keeps its value as the path reaches an instruction; one that the debug port has written at the
split's PC is of the interval there (R230, R244). -/
def Split.keepsAt (sp : Split) (k : Kernel) (n : Nat) (pc : Dword) : Bool :=
  k.keeps n sp.lastPc pc || sp.ported.any fun e => e.1 = n && k.keeps n (some e.2) pc

/-- The path of a split reaches an instruction: registers outside their intervals, or in another interval than before,
are discarded (R230). `dst` gives the symbolic destination of an operation in flight. -/
def Split.reach (sp : Split) (k : Kernel) (dst : Nat → Option Nat) (pc : Dword) : Split :=
  let keep := fun n => sp.keepsAt k n pc
  { sp with
    vreg := spFilter (fun key => keep (key / 128)) sp.vreg
    poison := spFilter (fun key => 8192 ≤ key / 128 || keep (key / 128)) sp.poison
    flaw := spFilter (fun key => 8192 ≤ key / 128 || keep (key / 128)) sp.flaw
    pend := sp.pend.filter fun p => match p.reg with
      | .sym n => keep n
      | _ => true
    awaits := sp.awaits.map fun a => (a.1, if ((dst a.1).map fun n => !keep n).getD false then BitVec.allOnes 128 else a.2)
    lastPc := some pc, ported := [] }

/-- The array that holds a symbolic number: first number and elements; a lone register counts as one (R68). -/
def Kernel.array (k : Kernel) (n : Nat) : Nat × Nat :=
  match k.lives.find? fun l => l.num ≤ n && n < l.num + l.elems with
  | some l => (l.num, l.elems)
  | none => (n, 1)

/-! ## Stochastic-rounding generators (R99, R100) -/

/-- The state a lane is seeded with. -/
def seedState (bidx bidy bidz gdimx gdimy wid : Nat) (v : Word) (i : Nat) : Word :=
  let blin := bidx + gdimx * (bidy + gdimy * bidz)
  let h := v ^^^ BitVec.ofNat 32 (0x9E3779B9 * (i + 1 + 128 * wid + 4096 * blin))
  let h := h ^^^ (h >>> 16)
  let h := h * 0x85EBCA6B
  let h := h ^^^ (h >>> 13)
  let h := h * 0xC2B2AE35
  let h := h ^^^ (h >>> 16)
  if h = 0 then 1 else h

/-- The generator's next state, which is also its draw. -/
def nextDraw (x : Word) : Word :=
  let x := x ^^^ (x <<< 13)
  let x := x ^^^ (x >>> 17)
  x ^^^ (x <<< 5)

/-- Generator state of a lane after n draws (the draws are the states). -/
def drawAfter : Nat → Word → Word
  | 0, x => x
  | n + 1, x => drawAfter n (nextDraw x)

/-- The n-th 16-bit draw of a lane from now, counting from 0 (R98). -/
def Split.drawAt (sp : Split) (i n : Nat) : Nat :=
  (drawAfter (n + 1) ((sp.read .rseed i).setWidth 32)).toNat / 65536

end Sys2Proof.Machine
end

