-- ==== Sys2Proof/Machine/Operands.lean ====
section
/-! DEFINITION. Operands: what each short code and descriptor names (R40, R42), which files a position accepts (R43–R46,
R108), the fields of the modifier (R47–R51), and the checks an instruction makes of its operands before it has any
effect (R54, R56, R68, R82, R152, R186). -/
namespace Sys2Proof.Machine

/-! ## Naming -/

/-- What an operand field names. -/
inductive Opnd where
  /-- the opcode does not take the operand -/
  | none
  | sym (n : Nat)
  /-- number + `xi` (R68) -/
  | symX (n : Nat)
  | scal (n : Nat)
  | orf (n : Nat)
  /-- k0–k15; 16 is `exec` -/
  | mask (n : Nat)
  | td (n : Nat)
  | acc (n : Nat)
  | zero
  | lane
  /-- special or privileged register -/
  | sreg (n : Nat)
  | small (v : Nat)
  | lit
  /-- a reserved code, or a number outside its file -/
  | bad
  deriving DecidableEq, Repr

/-- The operand of a short code (R40). -/
def shortOpnd (c : Nat) : Opnd :=
  if c < 0x40 then .sym c
  else if c < 0x60 then .scal (c - 0x40)
  else if c < 0x6A then .orf (c - 0x60)
  else if c = 0x6A then .zero
  else if c = 0x6B then .lane
  else if c < 0x70 then .bad
  else .small (c - 0x70)

/-- The operand of a 16-bit descriptor: file × 0x2000 + number (R42). -/
def extOpnd (d : Nat) : Opnd :=
  let n := d % 0x2000
  match d / 0x2000 with
  | 0 => if n ≤ 8190 then .sym n else .bad
  | 1 => if n ≤ 8190 then .symX n else .bad
  | 2 => if n ≤ 63 then .scal n else .bad
  | 3 => if n ≤ 9 then .orf n else .bad
  | 4 => if n ≤ 16 then .mask n else .bad
  | 5 => if n ≤ 15 then .td n else if n ≤ 23 then .acc (n - 16) else .bad
  | 6 => if n = 0 then .zero else if n = 1 then .lane else if 0x100 ≤ n then .sreg n else .bad
  | _ => if n = 0 then .lit else if 16 ≤ n && n ≤ 31 then .small (n - 16) else .bad

/-- The descriptor that names an operand, for TRAP_INFO (R156). -/
def Opnd.desc : Opnd → Nat
  | .none => 0
  | .sym n => n
  | .symX n => 0x2000 + n
  | .scal n => 0x4000 + n
  | .orf n => 0x6000 + n
  | .mask n => 0x8000 + n
  | .td n => 0xA000 + n
  | .acc n => 0xA010 + n
  | .zero => 0xC000
  | .lane => 0xC001
  | .sreg n => 0xC000 + n
  | .small v => 0xE010 + v
  | .lit => 0xE000
  | .bad => 0

/-- An operand with a value per lane. -/
def Opnd.perLane : Opnd → Bool
  | .sym _ => true
  | .symX _ => true
  | .orf _ => true
  | .lane => true
  | _ => false

/-- A scalar, a pair, `zero`, a small integer or a literal (R46). -/
def Opnd.uniform : Opnd → Bool
  | .scal _ => true
  | .zero => true
  | .small _ => true
  | .lit => true
  | _ => false

/-! ## Positions -/

/-- A kind of operand that a position may accept. -/
inductive Kind where
  /-- files 0 and 1 -/
  | vec
  | scal
  | orf
  /-- k0–k15 -/
  | kreg
  | exec
  | td
  | acc
  | zero
  | lane
  | small
  | lit
  /-- a buffer or a barrier: file 0 in a resource position (R44) -/
  | buf
  | bar
  /-- special and privileged registers -/
  | sreg
  | preg
  deriving DecidableEq, Repr

/-- One operand position: what it accepts, whether it is 64 bits wide, and how many scalars from the named one on it
takes, which number must be a multiple of `align`. A run from the file of o0–o7, l0 and l1 ends at o7 at the latest. -/
structure Slot where
  kinds : List Kind
  wide : Bool := false
  span : Nat := 1
  align : Nat := 1
  run : Bool := false
  deriving DecidableEq, Repr

namespace Slot
/-- Integer source (R108). -/
def int (wide : Bool := false) : Slot := { kinds := [.vec, .scal, .orf, .zero, .lane, .small, .lit], wide }
/-- Floating or packed source (R108). -/
def fp : Slot := { kinds := [.vec, .scal, .orf, .zero, .small, .lit] }
/-- Data, operand or new-value source, and lane offset, of a memory instruction (R180). -/
def data (wide : Bool := false) : Slot := { kinds := [.vec, .scal, .orf, .zero, .small, .lit], wide }
/-- Uniform source (R108, R133). -/
def uni (wide : Bool := false) : Slot := { kinds := [.scal, .zero, .small, .lit], wide }
/-- Destination (R108). -/
def dst (wide : Bool := false) : Slot := { kinds := [.vec, .scal, .orf, .zero], wide }
/-- Per-lane destination; `zero`, which a write of any lane is discarded by, counts as one (notes/assumptions/97.md). -/
def dstLane (wide : Bool := false) : Slot := { kinds := [.vec, .orf, .zero], wide }
/-- Scalar destination, or `zero`. -/
def dstScal : Slot := { kinds := [.scal, .zero] }
/-- A 64-bit scalar pair. -/
def pair : Slot := { kinds := [.scal], wide := true }
/-- A transfer target: a literal or a pair (R130). -/
def target : Slot := { kinds := [.scal, .lit], wide := true }
/-- Any mask. -/
def mask : Slot := { kinds := [.kreg, .exec] }
/-- k0–k15. -/
def kreg : Slot := { kinds := [.kreg] }
def buf : Slot := { kinds := [.buf] }
def bar : Slot := { kinds := [.bar] }
def td : Slot := { kinds := [.td] }
def acc : Slot := { kinds := [.acc] }
/-- Scratchpad constant (R180). -/
def const : Slot := { kinds := [.zero, .small, .lit] }
end Slot

/-- The limits that a kernel's header and a block's grant put on names (R45, R166). -/
structure Limits where
  nsym : Nat
  nscal : Nat
  nbuf : Nat
  nbar : Nat
  tiles : Nat
  /-- first number and elements of the array that holds a symbolic number -/
  array : Nat → Nat × Nat

/-- Whether a position takes values of registers by lane: a symbolic number in any other names a buffer or a barrier (R44). -/
def Slot.isLane (p : Slot) : Bool := !(p.kinds.contains .buf || p.kinds.contains .bar)

/-- Registers that an operand of a position takes. -/
def Slot.count (p : Slot) : Nat := if p.wide then 2 else p.span

/-- Whether a position accepts an operand. -/
def Slot.accepts (k : Limits) (p : Slot) : Opnd → Bool
  | .sym n =>
    (p.kinds.contains .vec && n < k.nsym && n + p.count ≤ (k.array n).1 + (k.array n).2) ||
    (p.kinds.contains .buf && n < k.nbuf) || (p.kinds.contains .bar && n < k.nbar)
  | .symX n => p.kinds.contains .vec && n < k.nsym && n + p.count ≤ (k.array n).1 + (k.array n).2
  | .scal n =>
    p.kinds.contains .scal && n % (if p.wide then 2 else p.align) = 0 &&
    n + p.count ≤ k.nscal
  | .orf n => p.kinds.contains .orf && (!p.wide || n % 2 = 0) && (!p.run || n + p.span ≤ 8)
  | .mask n => p.kinds.contains (if n = 16 then .exec else .kreg)
  | .td _ => p.kinds.contains .td
  | .acc n => p.kinds.contains .acc && n < k.tiles
  | .zero => p.kinds.contains .zero
  | .lane => p.kinds.contains .lane
  | .sreg n => p.kinds.contains (if n < 0x800 then .sreg else .preg)
  | .small _ => p.kinds.contains .small
  | .lit => p.kinds.contains .lit
  | .none => false
  | .bad => false

/-! ## The modifier field (R47–R51), as the number in bits 31:11 -/

namespace Mod
/-- MSEL and MNUM (R47). -/
def msel (m : Nat) : Nat := fld m 20 19
def mnum (m : Nat) : Nat := fld m 18 15
/-- Bits 25:11, the layout's own fields. -/
def own (m : Nat) : Nat := m % 2 ^ 15
/-- Layout V (R48). -/
def type (m : Nat) : Nat := fld m 14 10
def rnd (m : Nat) : Nat := fld m 9 7
def cmp (m : Nat) : Nat := fld m 6 3
def sub (m : Nat) : Nat := fld m 2 0
/-- Layout X. -/
def dtype (m : Nat) : Nat := fld m 14 10
def stype (m : Nat) : Nat := fld m 9 5
def xrnd (m : Nat) : Nat := fld m 4 2
def xsub (m : Nat) : Nat := fld m 1 0
/-- Layout M. -/
def mtype (m : Nat) : Nat := fld m 14 11
def ord (m : Nat) : Nat := fld m 10 8
def scope (m : Nat) : Nat := fld m 7 5
def pol (m : Nat) : Nat := fld m 4 3
end Mod

/-! ## Specifications and contexts -/

/-- What an opcode takes, for one value of its modifier field. -/
structure Spec where
  d : Option Slot := none
  a : Option Slot := none
  b : Option Slot := none
  c : Option Slot := none
  /-- D is read, D is written; C is written too (IADDC) -/
  dRead : Bool := false
  dWrite : Bool := true
  cWrite : Bool := false
  /-- A is written and not read (COMB) -/
  aWrite : Bool := false
  /-- the modifier holds a value the opcode accepts (R51) -/
  mOk : Bool := true
  /-- accepts a mask selector also where every operand is uniform (R13); never accepts one -/
  selAlways : Bool := false
  selNever : Bool := false
  /-- never a scalar instruction (R46, R112, R122) -/
  notScalar : Bool := false
  /-- executes once whatever `exec` holds, in one pass (R125, R132, R196, R204) -/
  wave : Bool := false
  /-- reads `exec` though it does not run under it (R134, R139) -/
  usesExec : Bool := false
  /-- a per-lane source with a scalar destination is accepted (R46) -/
  mix : Bool := false
  /-- reads the lanes' generators (R100) -/
  rs : Bool := false
  /-- registers that it reads beside its operands, with their descriptors (R129, R150) -/
  also : List (Nat × RegId) := []
  /-- has no form without descriptors (R125) -/
  noBase : Bool := false
  /-- NOP, whose empty operands are valid in every form (R43, R136) -/
  anyForm : Bool := false
  /-- D, and A, name what the instruction accepts beyond their files: a register number or a range of scalars -/
  dOk : Bool := true
  aOk : Bool := true
  /-- result latency in one pass, and of the scalar form (R52, R55) -/
  lat : Nat := 0
  slat : Nat := 0

/-- Why an instruction has no effect now. -/
inductive Exc where
  /-- the fault code of R155 and TRAP_INFO -/
  | fault (code : Nat) (info : Nat)
  | hold
  deriving DecidableEq, Repr

/-! Fault and trap codes (R155). -/
namespace Fc
def illegalOp : Nat := 0x01
def featureAbsent : Nat := 0x02
def maskedFeature : Nat := 0x03
def illegalBundle : Nat := 0x04
def branchAlign : Nat := 0x05
def operandClass : Nat := 0x06
def indexRange : Nat := 0x07
def understall : Nat := 0x08
def align : Nat := 0x10
def access : Nat := 0x11
def xlate : Nat := 0x12
def scratchRange : Nat := 0x13
def gangRange : Nat := 0x14
def jobCard : Nat := 0x15
def codeIntegrity : Nat := 0x20
def launchDepth : Nat := 0x21
def object : Nat := 0x22
def method : Nat := 0x23
def ecc : Nat := 0x30
def quota : Nat := 0x40
def preempt : Nat := 0x41
def throttle : Nat := 0x42
def bkpt : Nat := 0x50
def swtrap : Nat := 0x51
def hang : Nat := 0x60
end Fc

/-- The operand fields of a form as written, with the operands they name. -/
structure Raw where
  len : Nat
  m : Nat
  rd : Nat
  ra : Nat
  rb : Nat
  rc : Nat
  d : Opnd
  a : Opnd
  b : Opnd
  c : Opnd
  lit : Dword := 0
  deriving DecidableEq, Repr

/-- The fields of a form; in LEN 01 the literal stands for B where the opcode takes B, and otherwise for A (R41). -/
def Raw.of (takesB : Bool) : Form → Raw
  | .base o => ⟨0, 0, o.d.toNat, o.a.toNat, o.b.toNat, 0, shortOpnd o.d.toNat, shortOpnd o.a.toNat,
      shortOpnd o.b.toNat, .none, 0⟩
  | .long (.lit o l) => ⟨1, 0, o.d.toNat, o.a.toNat, o.b.toNat, 0, shortOpnd o.d.toNat,
      if takesB then shortOpnd o.a.toNat else .lit, if takesB then .lit else shortOpnd o.b.toNat, .none, l⟩
  | .long (.ext e) => ⟨2, e.modif.toNat, e.d.toNat, e.a.toNat, e.b.toNat, e.c.toNat, extOpnd e.d.toNat,
      extOpnd e.a.toNat, extOpnd e.b.toNat, extOpnd e.c.toNat, 0⟩
  | .long (.extLit e l) => ⟨3, e.modif.toNat, e.d.toNat, e.a.toNat, e.b.toNat, e.c.toNat, extOpnd e.d.toNat,
      extOpnd e.a.toNat, extOpnd e.b.toNat, extOpnd e.c.toNat, l⟩

/-- TRAP_INFO of OPERAND_CLASS: the offending descriptor or field, and the position (R156). -/
def classInfo (field pos : Nat) : Nat := (field % 2 ^ 21) * 2 ^ 16 + pos

/-- The defect of one operand position, if any. A field of an operand that the opcode does not take must be zero (R41, R42),
and LEN 10 carries no literal (R43). -/
def posDefect (k : Limits) (slot : Option Slot) (len raw : Nat) (o : Opnd) (pos : Nat) : Option Nat :=
  let info := classInfo (if o = .bad ∨ o = .none then raw else o.desc) pos
  match slot with
  | none => if raw = 0 then none else some info
  | some p => if p.accepts k o && !(len = 2 && o = .lit) then none else some info

/-- Whether the instruction is a scalar one (R46). -/
def Spec.scalar (sp : Spec) (r : Raw) : Bool :=
  !sp.notScalar && !sp.wave &&
  (sp.d.isNone || (match r.d with | .scal _ => true | .zero => true | _ => false)) &&
  (sp.a.isNone || r.a.uniform || (match r.a with | .sreg _ => true | _ => false)) &&
  (sp.b.isNone || r.b.uniform) && (sp.c.isNone || r.c.uniform)

/-- The first form or operand defect of an instruction, as TRAP_INFO of OPERAND_CLASS: the form, then D, A, B, C, the
modifier, and a LEN 11 without a literal reference (notes/assumptions/6.md). -/
def Spec.defect (sp : Spec) (k : Limits) (r : Raw) : Option Nat :=
  let litPos := if sp.b.isSome then 2 else if sp.a.isSome then 1 else 5
  let formBad := !sp.anyForm && ((r.len < 2 && (sp.c.isSome || sp.noBase)) || (r.len = 1 && litPos = 5))
  let field := fun pos raw o => if r.len = 1 && litPos = pos && raw ≠ 0 then some (classInfo raw pos)
    else posDefect k (match pos with | 0 => sp.d | 1 => sp.a | 2 => sp.b | _ => sp.c) r.len raw o pos
  let per := fun (p : Option Slot) (o : Opnd) => (p.map fun q => q.isLane && q.accepts k o).getD false && o.perLane
  let perLaneSrc := per sp.a r.a || per sp.b r.b || per sp.c r.c
  let mixBad := !sp.mix && sp.dWrite && perLaneSrc && (match r.d with | .scal _ => sp.d.isSome | _ => false)
  let selBad := Mod.msel r.m = 3 || (Mod.msel r.m = 0 && Mod.mnum r.m ≠ 0) ||
    (Mod.msel r.m ≠ 0 && (sp.selNever || (!sp.selAlways && (sp.scalar r || sp.wave))))
  let noRef := !sp.anyForm && r.len = 3 && r.d ≠ .lit && r.a ≠ .lit && r.b ≠ .lit && r.c ≠ .lit
  if formBad then some 5
  else (field 0 r.rd r.d).or <| (if mixBad || !sp.dOk then some (classInfo r.d.desc 0) else none).or <|
    (field 1 r.ra r.a).or <| (if !sp.aOk then some (classInfo r.a.desc 1) else none).or <| (field 2 r.rb r.b).or <| (field 3 r.rc r.c).or <|
    if !sp.mOk || selBad then some (classInfo r.m 4) else if noRef then some 5 else none

/-- An instruction whose checks have passed: what its meaning may read. -/
structure Ctx where
  /-- W (R58) -/
  w : Nat
  op : Nat
  m : Nat
  /-- lanes it runs in (R13, R47); for an instruction that executes once, the lanes of `exec` -/
  act : Mask
  /-- executes once for the wave or split -/
  once : Bool
  scalar : Bool
  lat : Nat
  /-- MODE, sampled at issue (R73) -/
  mode : Nat
  d : Opnd
  a : Opnd
  b : Opnd
  c : Opnd
  dWide : Bool
  aWide : Bool
  bWide : Bool
  cWide : Bool
  lit : Dword
  /-- symbolic registers that it names, and whether it writes them; none on an empty path (R239) -/
  names : List (Nat × Bool) := []
  /-- registers that it reads, with their descriptors (R82, R156) -/
  reads : List (Nat × RegId) := []
  deriving DecidableEq, Repr

/-- The lanes the instruction runs in, in increasing order. -/
def Ctx.lanes (x : Ctx) : List Nat := lanesBelow x.w x.act

/-- Registers an operand names: one, or two for a 64-bit operand. -/
def Opnd.regs (o : Opnd) (wide : Bool) : List RegId :=
  match o with
  | .sreg 0x10E => [.mode]
  | .sreg 0x10F => [.status]
  | .sreg 0x110 => [.rseed]
  | .sreg 0x114 => [.trapPc]
  | .sym n => if wide then [.sym n, .sym (n + 1)] else [.sym n]
  | .scal n => if wide then [.scal n, .scal (n + 1)] else [.scal n]
  | .orf n => if wide then [.orf n, .orf (n + 1)] else [.orf n]
  | .mask n => [.mask n]
  | .td n => [.td n]
  | _ => []

/-- Registers that an operand in a position names. -/
def Slot.regs (p : Option Slot) (o : Opnd) : List RegId :=
  match p, o with
  | some q, .scal n => (List.range q.count).map fun j => .scal (n + j)
  | some q, .sym n => if q.isLane then (List.range q.count).map fun j => .sym (n + j) else []
  | some q, .orf n => (List.range q.count).map fun j => .orf (n + j)
  | some q, o => o.regs q.wide
  | none, _ => []

/-- The value of an integer source in a lane; a narrow literal gives its low 32 bits (R43). -/
def Split.value (sp : Split) (o : Opnd) (wide : Bool) (lit : Dword) (i : Nat) : Dword :=
  match o with
  | .sym n => if wide then sp.read (.sym n) i ||| (sp.read (.sym (n + 1)) i <<< 32) else sp.read (.sym n) i
  | .orf n => if wide then sp.read (.orf n) i ||| (sp.read (.orf (n + 1)) i <<< 32) else sp.read (.orf n) i
  | .scal n => if wide then sp.read (.scal n) 0 ||| (sp.read (.scal (n + 1)) 0 <<< 32) else sp.read (.scal n) 0
  | .lane => BitVec.ofNat 64 i
  | .small v => BitVec.ofNat 64 v
  | .lit => if wide then lit else lit &&& 0xFFFFFFFF#64
  | _ => 0

def Ctx.vA (x : Ctx) (sp : Split) (i : Nat) : Nat := (sp.value x.a x.aWide x.lit i).toNat
def Ctx.vB (x : Ctx) (sp : Split) (i : Nat) : Nat := (sp.value x.b x.bWide x.lit i).toNat
def Ctx.vC (x : Ctx) (sp : Split) (i : Nat) : Nat := (sp.value x.c x.cWide x.lit i).toNat
def Ctx.vD (x : Ctx) (sp : Split) (i : Nat) : Nat := (sp.value x.d x.dWide x.lit i).toNat

/-- The element that an indexed operand reaches: INDEX_RANGE where it lies outside the array (R43, R68), and OPERAND_CLASS where the
element behind it, of a 64-bit operand, does (R67; notes/assumptions/7.md). -/
def resolveX (k : Limits) (xi : Nat) (o : Opnd) (count pos : Nat) : Except Exc Opnd :=
  match o with
  | .symX n =>
    let (base, el) := k.array n
    let e := n - base + xi
    if e + count ≤ el then .ok (.sym (base + e))
    else if el ≤ e then .error (.fault Fc.indexRange (xi * 2 ^ 16 + n))
    else .error (.fault Fc.operandClass (classInfo o.desc pos))
  | o => .ok o

/-- A register that an operation in flight is still to write: UNDERSTALL with shortfall 0xF under stall checking, and otherwise
a hold (R186); a register awaited by ACCRD always holds (R206). -/
def prematureAt (stall : Bool) (awaited : RegId → Option Bool) (desc : Nat) (r : RegId) : Option Exc :=
  match awaited r with
  | none => none
  | some holdOnly => some (if holdOnly || !stall then .hold else .fault Fc.understall (0xF * 2 ^ 16 + desc % 2 ^ 16))

/-- A read of a register: a premature access, or a counted distance that falls short under stall checking (R56, R186). -/
def readAt (sp : Split) (stall : Bool) (awaited : RegId → Option Bool) (desc : Nat) (r : RegId) : Option Exc :=
  (prematureAt stall awaited desc r).or <|
    if stall && sp.short r ≠ 0 then some (.fault Fc.understall (min (sp.short r) 15 * 2 ^ 16 + desc % 2 ^ 16)) else none

/-- Whether a register's word in a lane is poisoned or has an uncorrectable error (R82). -/
def Split.badWord (sp : Split) (r : RegId) (i : Nat) : Bool := sp.poisoned r i || spGet 0 sp.flaw (128 * r.key + i) = 2

/-- The first word of a register with an uncorrectable error that a reader meets: a word of `xi`, MODE, STATUS, a scalar, a descriptor
or a mask's slice on any path, a per-lane word in an active lane (R82). Its lane, or its slice's first one, stands in TRAP_INFO
with the descriptor (R156). -/
def eccReg (sp : Split) (w : Nat) (lanes : List Nat) (desc : Nat) (r : RegId) : Option Nat :=
  let at_ := if r.perLane then lanes else match r with
    | .mask _ => (List.range (w / 32)).map (32 * ·)
    | _ => [0]
  (at_.find? fun i => sp.badWord r i).map fun i => i * 2 ^ 16 + desc

/-- The first word with an uncorrectable error that an instruction reads, as TRAP_INFO (R82, R156). -/
def Ctx.ecc (x : Ctx) (sp : Split) : Option Nat := x.reads.findSome? fun p => eccReg sp x.w x.lanes p.1 p.2

/-- What a reader of registers finds among the errors of a split: single-bit ones, which it corrects, and uncorrectable ones in words of lanes
that are masked off, which it poisons (R81, R82). -/
def Split.softHits (sp : Split) (regs : List RegId) : Sp Nat := sp.flaw.filter fun e => e.2 = 1 && regs.any fun r => e.1 / 128 = r.key
def Split.hardHits (sp : Split) (act : Mask) (regs : List RegId) : Sp Nat :=
  sp.flaw.filter fun e => e.2 = 2 && e.1 / 128 < 8208 && !act.getLsbD (e.1 % 128) && regs.any fun r => e.1 / 128 = r.key

/-- A split after such a reader. -/
def Split.readsWords (sp : Split) (act : Mask) (regs : List RegId) : Split :=
  let hard := sp.hardHits act regs
  { sp with
    flaw := sp.flaw.filter fun e => !((sp.softHits regs).contains e || hard.contains e)
    poison := spSets false sp.poison (hard.map fun e => (e.1, true)) }

/-- Registers that an operand's reader reads, with the descriptor of each (R156): an indexed one reads `xi` as well. -/
def readRegs (o0 o : Opnd) (p : Option Slot) : List (Nat × RegId) :=
  (match o0 with | .symX _ => [(0xC0FF, RegId.xi)] | _ => []) ++ (Slot.regs p o).map fun r => (o0.desc, r)

/-- Every register that an instruction reads, with its descriptor: MODE, `exec` and the selector's mask, then D, A, B and C as they are
resolved (R13, R47, R73, R82). -/
def Spec.readsOf (s : Spec) (r : Raw) (d a b c : Opnd) : List (Nat × RegId) :=
  let sel := Mod.msel r.m
  let once := s.scalar r || s.wave
  let of := fun (p : Option Slot) (o0 o : Opnd) => if p.isSome then readRegs o0 o p else []
  let index := fun (p : Option Slot) (o0 : Opnd) => if p.isSome then readRegs o0 .none none else []
  [(0xC10E, RegId.mode)] ++ (if !once || s.usesExec || sel ≠ 0 then [(0x8010, RegId.mask 16)] else []) ++
  (if sel ≠ 0 then [(0x8000 + Mod.mnum r.m, RegId.mask (Mod.mnum r.m))] else []) ++ (if s.dRead then of s.d r.d d else index s.d r.d) ++
  (if s.aWrite then index s.a r.a else of s.a r.a a) ++ of s.b r.b b ++ of s.c r.c c ++ (if s.rs then [(0xC110, RegId.rseed)] else []) ++
  s.also

/-- Symbolic registers that an instruction names, and whether it writes them: what its unit fills and stores (R239). -/
def Spec.namesOf (s : Spec) (d a b c : Opnd) : List (Nat × Bool) :=
  let of := fun (p : Option Slot) (o : Opnd) (written : Bool) => (Slot.regs p o).filterMap fun r => match r with
    | .sym n => some (n, written)
    | _ => none
  ((if s.dRead || !s.dWrite then of s.d d false else []) ++ of s.a a s.aWrite ++ of s.b b false ++ of s.c c false ++
    (if s.dWrite then of s.d d true else []) ++ (if s.cWrite then of s.c c true else [])).eraseDups

/-- The checks of the operands of a decoded instruction, after its decoding faults: UNDERSTALL, then INDEX_RANGE (R152). A vector
instruction on an empty path raises neither (R54). What it names and reads is listed for the fills and the check of R82 that
follow. -/
def Spec.context (s : Spec) (k : Limits) (awaited : RegId → Option Bool) (w op : Nat) (r : Raw) (sp : Split) :
    Except Exc Ctx :=
  let once := s.scalar r || s.wave
  let mode := (sp.read .mode 0).toNat
  let stall := bit mode 8
  let sel := Mod.msel r.m
  let kN := sp.readMask (Mod.mnum r.m)
  let ex := sp.readMask 16 &&& fullMask w
  let act := if sel = 1 then ex &&& kN else if sel = 2 then ex &&& ~~~kN else ex
  let quiet := !once && act = 0
  let wd := fun (p : Option Slot) => (p.map (·.wide)).getD false
  let present := fun (p : Option Slot) (o : Opnd) => if p.isSome then o else Opnd.none
  let d0 := present s.d r.d
  let a0 := present s.a r.a
  let b0 := present s.b r.b
  let c0 := present s.c r.c
  let xi := (sp.read .xi 0).toNat
  let cnt := fun (p : Option Slot) => (p.map Slot.count).getD 1
  let res := fun o p => match resolveX k xi o (cnt p) 0 with | .ok o => o | .error _ => o
  let d := res d0 s.d
  let a := res a0 s.a
  let b := res b0 s.b
  let c := res c0 s.c
  let rd := readAt sp stall awaited
  let reads := fun (o0 o : Opnd) p =>
    (match o0 with | .symX _ => rd 0xC0FF .xi | _ => none).or ((Slot.regs p o).findSome? (rd o0.desc))
  let writes := fun (o0 o : Opnd) p =>
    (match o0 with | .symX _ => rd 0xC0FF .xi | _ => none).or
      ((Slot.regs p o).findSome? (prematureAt stall awaited o0.desc))
  let under : Option Exc :=
    if quiet then none else
    (rd 0xC10E .mode).or <| (if !once || s.usesExec || sel ≠ 0 then rd 0x8010 (.mask 16) else none).or <|
    (if sel ≠ 0 then rd (0x8000 + Mod.mnum r.m) (.mask (Mod.mnum r.m)) else none).or <|
    (if s.dRead then reads d0 d s.d else none).or <| (if s.aWrite then writes a0 a s.a else reads a0 a s.a).or <| (reads b0 b s.b).or <|
    (reads c0 c s.c).or <| (if s.dWrite then writes d0 d s.d else none).or <|
    (if s.cWrite then writes c0 c s.c else none).or <| (if s.rs then rd 0xC110 .rseed else none).or <|
    s.also.findSome? fun p => rd p.1 p.2
  let index : Option Exc :=
    if quiet then none else
    [(d0, s.d, 0), (a0, s.a, 1), (b0, s.b, 2), (c0, s.c, 3)].findSome? fun p =>
      match resolveX k xi p.1 (cnt p.2.1) p.2.2 with | .ok _ => none | .error e => some e
  match under.or index with
  | some e => .error e
  | none => .ok
    { w, op, m := r.m, act, once, scalar := s.scalar r
      lat := if s.scalar r then s.slat else if s.wave then s.lat else s.lat + w / 32 - 1
      mode, d, a, b, c, dWide := wd s.d, aWide := wd s.a, bWide := wd s.b, cWide := wd s.c, lit := r.lit
      names := if act = 0 then [] else s.namesOf d a b c, reads := s.readsOf r d a b c }

end Sys2Proof.Machine
end

