-- ==== Sys2Proof/Machine/Ops.lean ====
section
/-! DEFINITION. The named operations over the state: the split that issues, privileged registers, error registers (R444),
energy bookings (R370, R371, R375, R380), taking an exception and returning from one (R148–R156), and grid aborts (R154). -/
namespace Sys2Proof.Machine

/-! ## The split that issues -/

/-- A split back in its wave, splits in order of their numbers. -/
def Wave.withSplit (w : Wave) (sp : Split) : Wave := { w with splits := insertBy (·.sid) sp w.splits }

/-- A wave back in its block. -/
def Block.withWave (b : Block) (w : Wave) : Block := { b with waves := insertBy (·.wid) w b.waves }

/-- A block back among the blocks. -/
def State.withBlock (s : State) (b : Block) : State := { s with blocks := insertBy (·.id) b s.blocks }

/-- The split that issues goes back to its wave and block. -/
def State.unfocus (s : State) : State :=
  match s.cur with
  | none => s
  | some c => ({ s with cur := none } : State).withBlock (c.blk.withWave (c.wave.withSplit c.split))

/-- A split taken out of its wave and block to issue; no change where there is none. -/
def State.focus (s : State) (blk wid sid : Nat) : State :=
  let s := s.unfocus
  match s.blocks.find? (·.id = blk) with
  | none => s
  | some b => match b.waves.find? (·.wid = wid) with
    | none => s
    | some w => match w.splits.find? (·.sid = sid) with
      | none => s
      | some sp =>
        { s with
          blocks := s.blocks.filter (·.id ≠ blk)
          cur := some { blk := { b with waves := b.waves.filter (·.wid ≠ wid) }
                        wave := { w with splits := w.splits.filter (·.sid ≠ sid) }, split := sp } }

def State.grid? (s : State) (h : Nat) : Option Grid := s.grids.find? (·.handle = h)
def State.block? (s : State) (id : Nat) : Option Block := s.blocks.find? (·.id = id)
def State.obj? (s : State) (fn slot : Nat) : Option Obj := s.objs.find? fun o => o.fn = fn && o.slot = slot
def State.op? (s : State) (id : Nat) : Option Op := s.ops.find? (·.id = id)

/-! ## Destinations of operations in flight -/

/-- The register after another, for the second half of a pair. -/
def RegId.next : RegId → RegId
  | .sym n => .sym (n + 1)
  | .orf n => .orf (n + 1)
  | .scal n => .scal (n + 1)
  | r => r

def Dst.regs (d : Dst) : List RegId := if d.wide then [d.reg, d.reg.next] else [d.reg]

/-- Destination of an operation in flight. -/
def OpKind.dst : OpKind → Option Dst
  | .load _ d => d
  | .atom _ _ d _ => d
  | .accrd _ d => d
  | .carg d => d
  | .comb d _ _ _ _ _ _ => d
  | .objreg d _ => some d
  | .launch d _ => some d
  | .chwait d _ => d
  | _ => none

/-- The symbolic destination of an operation in flight (R230). -/
def State.symDst (s : State) (id : Nat) : Option Nat :=
  ((s.op? id).bind fun o => o.kind.dst).bind fun d => match d.reg with | .sym n => some n | _ => none

def State.mapGrid (s : State) (h : Nat) (f : Grid → Grid) : State := { s with grids := mapIf (·.handle = h) f s.grids }
def State.mapOp (s : State) (id : Nat) (f : Op → Op) : State := { s with ops := mapIf (·.id = id) f s.ops }

/-- A change made to a block, whether or not it holds the split that issues. -/
def State.mapBlock (s : State) (id : Nat) (f : Block → Block) : State :=
  { s with
    blocks := mapIf (·.id = id) f s.blocks
    cur := s.cur.map fun c => if c.blk.id = id then { c with blk := f c.blk } else c }

/-- A change made to every wave of the blocks that satisfy a test. -/
def State.mapWaves (s : State) (p : Block → Bool) (f : Wave → Wave) : State :=
  { s with
    blocks := s.blocks.map fun b => if p b then { b with waves := b.waves.map f } else b
    cur := s.cur.map fun c =>
      if p c.blk then { c with blk := { c.blk with waves := c.blk.waves.map f }, wave := f c.wave } else c }

/-- A change made to one wave. -/
def State.mapWave (s : State) (blk wid : Nat) (f : Wave → Wave) : State :=
  s.mapWaves (fun b => b.id = blk) fun w => if w.wid = wid then f w else w

/-- A change made to every split of a wave, the one that issues included. -/
def State.mapSplits (s : State) (blk wid : Nat) (f : Split → Split) : State :=
  { s with
    blocks := mapIf (·.id = blk) (fun b =>
      { b with waves := mapIf (·.wid = wid) (fun w => { w with splits := w.splits.map f }) b.waves }) s.blocks
    cur := s.cur.map fun c =>
      if c.blk.id = blk then
        if c.wave.wid = wid then { c with wave := { c.wave with splits := c.wave.splits.map f }, split := f c.split }
        else { c with blk := { c.blk with
          waves := mapIf (·.wid = wid) (fun w => { w with splits := w.splits.map f }) c.blk.waves } }
      else c }

/-- The split that issues, changed. -/
def State.mapSplit (s : State) (f : Split → Split) : State :=
  { s with cur := s.cur.map fun c => { c with split := f c.split } }

/-- The wave that issues, changed. -/
def State.mapCurWave (s : State) (f : Wave → Wave) : State :=
  { s with cur := s.cur.map fun c => { c with wave := f c.wave } }

/-- The kernel that a block runs: its grid's, or the method of the object it serves. -/
def State.kernelOf (s : State) (b : Block) : Kernel :=
  match b.method with
  | some m => ((s.obj? m.fn m.slot).map (·.kernel)).getD {}
  | none => ((s.grid? b.grid).map (·.kernel)).getD {}

/-- The grid of a block. -/
def State.gridOf (s : State) (b : Block) : Option Grid := if b.method.isSome then none else s.grid? b.grid

/-- The limits on names in a block's negative (R45, R166). -/
def Kernel.limits (k : Kernel) (tiles : Nat) : Limits :=
  { nsym := k.nsym, nscal := k.nscal, nbuf := k.nbuf, nbar := k.nbar, tiles, array := k.array }

/-- Tiles granted to a block (R166). -/
def State.tilesOf (s : State) (b : Block) : Nat := ((s.gridOf b).map (·.rcd.tiles)).getD 0

/-- A fresh free value. -/
def State.takeFree (s : State) : State × Dword := ({ s with fresh := s.fresh + 1 }, Config.freeValue s.fresh)

/-! ## Privileged and configuration registers -/

/-- Key of a privileged register's instance (R368). -/
def prKey (reg fn child inst : Nat) : Nat := ((reg * 8 + fn) * 8 + child) * 1024 + inst

/-- Reset values (R368, R264, R446). -/
def prReset (reg fn child : Nat) : Dword :=
  match reg with
  | 0x808 => 0x1A
  | 0x825 => 0xFFFFFFFFFFFFFFFF
  | 0x826 => 16384
  | 0x82B => if fn = 0 ∧ child = 0 then 1 else 0
  | 0x840 => if fn = 0 then 0xFFFF else 0
  | 0x865 => 0x1000
  | _ => 0

/-- The value a privileged register holds. -/
def State.pr (s : State) (reg fn child inst : Nat) : Dword :=
  (s.preg.find? fun p => p.1 = prKey reg fn child inst).elim (prReset reg fn child) (·.2)

/-- A privileged register set. -/
def State.setPr (s : State) (reg fn child inst : Nat) (v : Dword) : State :=
  { s with preg := spSet (prReset reg fn child) s.preg (prKey reg fn child inst) v }

/-- Configuration-space registers hold zero at reset (R338, R286, R265, R379). -/
def State.cfgReg (s : State) (fn off : Nat) : Dword := spGet 0 s.cfg (65536 * fn + off)
def State.setCfg (s : State) (fn off : Nat) (v : Dword) : State :=
  { s with cfg := spSet 0 s.cfg (65536 * fn + off) v }

/-- STATE of a partition (R365): 0 absent, 1 active, 2 stopping, 3 stopped, 4 quiesced. -/
def State.partState (s : State) (fn child : Nat) : Nat := (s.pr 0x82B fn child 0).toNat % 8
def State.setPartState (s : State) (fn child v : Nat) : State :=
  s.setPr 0x82B fn child 0 (BitVec.ofNat 64 ((s.pr 0x82B fn child 0).toNat / 8 * 8 + v))

/-- Whether a partition's counter has crossed its quota, and the quota has not been raised above it since (R380, R393). -/
def State.over (s : State) (fn child : Nat) : Bool := bit (s.pr 0x82B fn child 0).toNat 3
def State.setOver (s : State) (fn child : Nat) (b : Bool) : State :=
  s.setPr 0x82B fn child 0 (BitVec.ofNat 64 ((s.pr 0x82B fn child 0).toNat % 8 + 8 * b2n b))

/-- Joule quota of a partition in µJ; `none` is no quota (R363). -/
def State.quota (s : State) (fn child : Nat) : Option Nat :=
  let q := (s.pr 0x825 fn 0 0).toNat
  if q = 2 ^ 64 - 1 then none
  else if child = 0 then some q
  else some (q * fld (s.pr 0x824 fn child 0).toNat 58 48 / 1024)

/-- Whether a counter exceeds the quota (R380). -/
def State.aboveQuota (s : State) (fn child : Nat) (units : Nat) : Bool :=
  match s.quota fn child with
  | none => false
  | some q => decide (q * 2 ^ 32 < units)

/-! ## Error registers (R444) -/

/-- A record logged in a function's error registers; `ue` counts it as an uncorrectable error. -/
def State.logErr (s : State) (fn : Nat) (r : ErrRec) (ue : Bool := false) : State :=
  let old := spGet {} s.errRec fn
  let r := { r with seq := old.seq + 1, flags := r.flags + 8 * b2n ue }
  let cnt := spGet 0 s.errUE fn
  { s with
    errRec := spSet {} s.errRec fn r
    errUE := if ue && cnt ≠ 0xFFFFFFFFFFFFFFFF#64 then spSet 0 s.errUE fn (cnt + 1) else s.errUE }

/-- Uncorrectable errors of a function counted without a record, saturating. -/
def State.countUE (s : State) (fn n : Nat) : State :=
  { s with errUE := spSet 0 s.errUE fn (BitVec.ofNat 64 (min ((spGet 0 s.errUE fn).toNat + n) (2 ^ 64 - 1))) }

/-- Corrected errors of a function counted, saturating (R81, R177, R276, R281). -/
def State.countCE (s : State) (fn n : Nat) : State :=
  { s with errCE := spSet 0 s.errCE fn (BitVec.ofNat 64 (min ((spGet 0 s.errCE fn).toNat + n) (2 ^ 64 - 1))) }

/-- The record of an event of a block. -/
def State.errOf (s : State) (b : Block) (code cause wid : Nat) (pc info : Dword) : ErrRec :=
  { code, cause, wid, flags := b.child, grid := ((s.gridOf b).map (·.rcd.number)).getD 0
    block := BitVec.ofNat 32 b.index, pc, info }

/-! ## Energy (R370, R371) -/

/-- Events of the charge table (R371). -/
inductive Ev where
  | issue | int | cvt | intmul | fp | pk16 | mx | xlane | fpfn | mask | sreg | ctl | td | fork | trap
  | load (n : Nat) | store (n : Nat) | atom (n : Nat) | sload (n : Nat) | sstore (n : Nat) | satom (n : Nat)
  | rload (n : Nat) | rstore (n : Nat)
  | pref | sync | eread | kstep4 | kstep8 | kstep16 | acctile | accline | accrw | jobcard | jline | jword
  | cmbreq | objreg | launch | tlbinv | sheet | chuck | cmbreply | darkroom | pghash
  /-- priced on the calibrated table only (R371, last row) -/
  | line | homeatom | dramline | walk | drain | cwb | wayback | modeflip | spill | rebind | flit | cxlline | loupe
  /-- static power of a core, of a slice's way, of a DRAM channel with its refresh, for a nanosecond (R373) -/
  | coreTime | wayTime | channelTime
  /-- the clearing of what a block is granted, and the load of a parameter field (R166, R167, R443) -/
  | clearing | param
  deriving DecidableEq, Repr

/-- Value by operand width in bits. -/
def byWidth (n a b c d : Nat) : Nat := if n = 8 then a else if n = 16 then b else if n = 32 then c else d

/-- Quanta of an event on the nominal table. -/
def Ev.quanta : Ev → Nat
  | .issue => 4
  | .int => 1 | .cvt => 1
  | .intmul => 2 | .fp => 2 | .pk16 => 2 | .mx => 2 | .xlane => 2
  | .fpfn => 6
  | .mask => 2 | .sreg => 2 | .ctl => 2 | .td => 2
  | .fork => 16
  | .trap => 32
  | .load n => byWidth n 4 4 6 8
  | .store n => byWidth n 4 4 6 8
  | .atom n => byWidth n 12 12 12 16
  | .sload n => byWidth n 1 1 2 3
  | .sstore n => byWidth n 1 1 2 3
  | .satom n => byWidth n 3 3 3 5
  | .rload n => byWidth n 3 3 4 6
  | .rstore n => byWidth n 3 3 4 6
  | .pref => 4 | .sync => 4 | .eread => 4
  | .kstep4 => 1792 | .kstep8 => 3072 | .kstep16 => 4096
  | .acctile => 512 | .accline => 48 | .accrw => 2
  | .jobcard => 64 | .jline => 48 | .jword => 1
  | .cmbreq => 8 | .objreg => 64 | .launch => 128
  | .tlbinv => 256 | .sheet => 16384
  | .chuck => 8 | .cmbreply => 6
  | .darkroom => 2048
  | .pghash => 65536
  | _ => 0

/-- A number for each event, for the calibrated table. -/
def Ev.code : Ev → Nat
  | .issue => 0 | .int => 1 | .cvt => 2 | .intmul => 3 | .fp => 4 | .pk16 => 5 | .mx => 6 | .xlane => 7 | .fpfn => 8
  | .mask => 9 | .sreg => 10 | .ctl => 11 | .td => 12 | .fork => 13 | .trap => 14
  | .load n => 1000 + n | .store n => 1100 + n | .atom n => 1200 + n | .sload n => 1300 + n | .sstore n => 1400 + n
  | .satom n => 1500 + n | .rload n => 1600 + n | .rstore n => 1700 + n
  | .pref => 15 | .sync => 16 | .eread => 17 | .kstep4 => 18 | .kstep8 => 19 | .kstep16 => 20 | .acctile => 21
  | .accline => 22 | .accrw => 23 | .jobcard => 24 | .jline => 25 | .jword => 26 | .cmbreq => 27 | .objreg => 28
  | .launch => 29 | .tlbinv => 30 | .sheet => 31 | .chuck => 32 | .cmbreply => 33 | .darkroom => 34 | .pghash => 35
  | .line => 40 | .homeatom => 41 | .dramline => 42 | .walk => 43 | .drain => 44 | .cwb => 45 | .wayback => 46 | .modeflip => 47
  | .spill => 48 | .rebind => 49 | .flit => 50 | .cxlline => 51 | .loupe => 52 | .coreTime => 53 | .wayTime => 54
  | .channelTime => 55 | .clearing => 56 | .param => 57

/-- Units of 2^−32 µJ of one nominal quantum (R370). -/
def quantum : Nat := 4096

/-- Whether a partition is charged on the nominal table (R370). -/
def State.nominal (s : State) (fn child : Nat) : Bool := bit (s.pr 0x82F fn child 0).toNat 0

/-- Units of events on the calibrated table, on a rail's tile of an operating class (R370). -/
def State.calibrated (s : State) (rail cls : Nat) (evs : List (Ev × Nat)) : Nat :=
  sumBy (fun e => Config.calibratedUnits e.1.code cls (s.pr 0x865 0 0 rail).toNat * e.2) evs

/-- Units that a list of events books for a partition (R370). -/
def State.unitsOf (s : State) (fn child rail cls : Nat) (evs : List (Ev × Nat)) : Nat :=
  if s.nominal fn child then sumBy (fun e => e.1.quanta * e.2) evs * quantum else s.calibrated rail cls evs

/-- A partition's state changed from active to stopping (R393). -/
def State.stopping (s : State) (fn child : Nat) : State := if s.partState fn child = 1 then s.setPartState fn child 2 else s

/-- Blocks that a stop of a partition is to save, and that have not been: its own, and where a crossing of the level-1 counter stops it those
of the function's children too (R365, R393). -/
def State.unsaved (s : State) (fn child : Nat) : List Block :=
  (s.blocks ++ (s.cur.map (·.blk)).toList).filter fun b => b.fn = fn && b.method.isNone &&
    (b.child = child || (child = 0 && s.crossings.contains fn)) && (match b.phase with | .saved _ _ => false | _ => true)

/-- A partition whose blocks are all saved is stopped. -/
def State.settleStop (s : State) (fn child : Nat) : State :=
  if s.partState fn child = 2 ∧ !s.quiescing.contains (fn, child) ∧ (s.unsaved fn child).isEmpty then
    let s := s.setPartState fn child 3
    if child = 0 then { s with crossings := s.crossings.filter (· ≠ fn) } else s
  else s
def State.settleStops (s : State) (fn : Nat) : State := [0, 1, 2, 3, 4].foldl (fun s child => s.settleStop fn child) s

/-- Waves that a crossing of a counter affects take QUOTA at their next boundary, OVER is set, and the partitions affected become
stopping, and stopped where no block of theirs is left to be saved (R380, R393). -/
def State.cross (s : State) (fn child : Nat) : State :=
  let l := if child = 0 then [0, 1, 2, 3, 4] else [child]
  let s := l.foldl (fun s k => s.stopping fn k) (s.setOver fn child true)
  let s := if child = 0 ∧ s.partState fn 0 = 2 then { s with crossings := fn :: s.crossings.filter (· ≠ fn) } else s
  (s.mapWaves
    (fun b => b.fn = fn && (child = 0 || b.child = child) && b.method.isNone && b.phase = .resident)
    fun w => { w with quotaDue := true }).settleStops fn

/-- A partition's contact-sheet window notes that its counter stands above the quota (R378, R382). -/
def State.noteCrossed (s : State) (fn child : Nat) : State :=
  let k := 8 * fn + child
  { s with sheets := spSet {} s.sheets k { spGet {} s.sheets k with crossed := true } }

/-- One counter raised, saturating (R375), with the crossing where this booking is it: the first that finds the counter above the quota
since OVER was clear (R380). -/
def State.bump (s : State) (fn child units : Nat) : State :=
  let old := (spGet 0 s.counters (8 * fn + child)).toNat
  let new := min (old + units) (2 ^ 96 - 1)
  let s' := { s with counters := spSet 0 s.counters (8 * fn + child) (BitVec.ofNat 96 new) }
  if !s.aboveQuota fn child new then s'
  else if s.over fn child then s'.noteCrossed fn child
  else (s'.cross fn child).noteCrossed fn child

/-- One booking of units for a partition; a level-1 counter includes its children's charges (R375). -/
def State.bookUnits (s : State) (fn child units : Nat) : State :=
  if child = 0 then s.bump fn 0 units else (s.bump fn child units).bump fn 0 units

/-- Key under which nominal bookings of the epoch are counted, beside the sixteen rails. -/
def nominalKey : Nat := 16

/-- Units booked in the epoch: calibrated ones on their rail for the next calibration (R372), nominal ones for the house account
(R374). -/
def State.tally (s : State) (fn child rail units : Nat) : State :=
  let key := if s.nominal fn child then nominalKey else rail
  { s with booked := spSet 0 s.booked key (spGet 0 s.booked key + units) }

/-- One booking of events. Those that the nominal table does not charge book nothing on it (R371). -/
def State.book (s : State) (fn child rail cls : Nat) (evs : List (Ev × Nat)) : State :=
  let u := s.unitsOf fn child rail cls evs
  if s.nominal fn child && u = 0 then s else (s.bookUnits fn child u).tally fn child rail u

/-- Operating class of a cluster (R274). -/
def State.clusterOf (s : State) (cl : Nat) : Cluster := spGet {} s.clusters cl

/-- Rail of a slice and its Chuck (R415). -/
def sliceRail (slice : Nat) : Nat := 4 + slice / 12

/-- Slice of a method's executor, which counts as core 384 + slice. -/
def execSlice (core : Nat) : Nat := core - 384

/-- Rail of a core's logic, or of an executor's slice (R415): cores of die d lie on rail d. -/
def railOfCore (core : Nat) : Nat := if 384 ≤ core then sliceRail (execSlice core) else core / 96

/-- Cluster of a core, or of an executor. -/
def clusterOfCore (core : Nat) : Nat := if 384 ≤ core then execSlice core else core / 8

/-- Die of a core, or of an executor (R290). -/
def dieOfCore (core : Nat) : Nat := clusterOfCore core / 12

/-- A booking at a core's tile, and one at a slice's. -/
def State.bookCore (s : State) (fn child core : Nat) (evs : List (Ev × Nat)) : State :=
  s.book fn child (railOfCore core) (s.clusterOf (clusterOfCore core)).cls evs
def State.bookSlice (s : State) (fn child slice : Nat) (evs : List (Ev × Nat)) : State :=
  s.book fn child (sliceRail slice) (s.clusterOf slice).cls evs

/-- Units that events cost at a slice's tile for a batch of a function, by the price table of its level-1 partition (R322;
notes/assumptions/108.md). They are booked as the batch ends. -/
def State.meter (s : State) (fn slice : Nat) (evs : List (Ev × Nat)) : Nat :=
  s.unitsOf fn 0 (sliceRail slice) (s.clusterOf slice).cls evs

/-- A booking for a block: a method's go to its batch (R322), any other's to its partition. -/
def State.bookFor (s : State) (b : Block) (evs : List (Ev × Nat)) : State :=
  match b.method with
  | some m =>
    s.mapBlock b.id fun b =>
      { b with method := b.method.map fun m' => { m' with energy := m'.energy + s.meter m.fn m.slice evs } }
  | none => s.bookCore b.fn b.child b.core evs

/-! ## Grid aborts (R154) -/

/-- Whether a block's image stands in a darkroom slot. -/
def Block.inSlot (b : Block) (slot : Nat) : Bool :=
  match b.phase with
  | .saved (some n) _ => n = slot
  | _ => false

/-- Darkroom slots that hold no block's image any more are cleared (R271). -/
def State.sweepDarkroom (s : State) : State :=
  let held := fun (n : Nat) => s.blocks.any fun b => b.inSlot n
  { s with darkroom := s.darkroom.filter fun e => held e.1, badImages := s.badImages.filter held }

/-- Every block of a grid stops at its waves' next boundary, and what it still has staged is discarded. -/
def State.stopGrid (s : State) (h : Nat) : State :=
  let f := fun (b : Block) => if b.grid = h ∧ b.method = none then { b with phase := .stopped } else b
  let ids := ((s.blocks.filter fun b => b.grid = h && b.method.isNone).map (·.id)) ++
    (match s.cur with | some c => if c.blk.grid = h && c.blk.method.isNone then [c.blk.id] else [] | none => [])
  State.sweepDarkroom { s with
    blocks := s.blocks.map f
    cur := s.cur.map fun c => { c with blk := f c.blk }
    ops := s.ops.filter fun o => !(o.staged && ids.contains o.blk) }

/-- A grid and its children abort; the children with status 0x05 (R342, R350). `fuel` bounds the nesting depth (R349). -/
def State.abortTree : Nat → State → Nat → AbortInfo → State
  | 0, s, _, _ => s
  | fuel + 1, s, h, a =>
    let s := (s.mapGrid h fun g => if g.status.isNone then { g with abort := g.abort.or (some a), absent := none } else g).stopGrid h
    let kids := (s.grids.filter fun g => g.status.isNone && (match g.parent with | some p => p.1 = h | none => false)).map
      (·.handle)
    kids.foldl (fun s k => State.abortTree fuel s k { a with status := 5 }) s

/-- The other grids merged with one (R351). -/
def State.mergedWith (s : State) (h : Nat) : List Nat :=
  let lead := fun (g : Grid) => g.lead.getD g.handle
  match s.grid? h with
  | none => []
  | some g => (s.grids.filter fun x => x.handle ≠ h && lead x = lead g && x.status.isNone).map (·.handle)

/-- A grid abort: the device logs it and every wave of the grid stops; grids merged with it abort with status 0x04 (R154, R351). -/
def State.gridAbort (s : State) (b : Block) (code : Nat) (pc : Dword) (wid : Nat) (info : Dword) : State :=
  let s := s.logErr b.fn (s.errOf b code 0 wid pc info) (code = Fc.ecc)
  let a : AbortInfo := ⟨1, BitVec.ofNat 32 code, pc, b.index, wid, info⟩
  (s.mergedWith b.grid).foldl (fun s h => s.abortTree 11 h { a with status := 4 }) (s.abortTree 11 b.grid a)

/-! ## Batches (R306, R316, R322) -/

/-- Operation numbers from which on a request comes from another device, whose id is the rest (R435). -/
def remoteBase : Nat := 2 ^ 40

/-- WIN of an object id (R300). -/
def idWin (id : Nat) : Nat := id / 2 ^ 24 % 128

/-- A request's reply or status reaches its lane, or leaves for the device it came from in a packet of the exporting partition (R373, R435). -/
def State.answer (s : State) (r : CombReq) (served : Bool) (v : Dword) : State :=
  if remoteBase ≤ r.op then
    let m : Msg := ⟨"COMB_REPLY", r.op - remoteBase, leBytes 1 r.lane ++ leBytes 1 (b2n served) ++ leBytes 8 v.toNat⟩
    ({ s with out := s.out ++ [m] } : State).book r.fn r.child 12 0 [(.flit, 1)]
  else s.mapOp r.op fun o => { o with
    donePart := o.donePart ||| (1#128 <<< r.lane)
    kind := match o.kind with
      | .comb d k id rep reqs sent l => .comb d k id rep reqs sent (l ++ [(r.lane, served, v)])
      | k => k }

/-- A status that answers a request. -/
def combStatus (code : Nat) : Dword := BitVec.ofNat 64 (0xC0000000 + code)

/-- A slice's Chuck. -/
def State.chuck (s : State) (slice : Nat) : Chuck := spGet {} s.chucks slice
def State.setChuck (s : State) (slice : Nat) (c : Chuck) : State := { s with chucks := spSet {} s.chucks slice c }

/-- Requests answered by the Chuck outside a batch, each charged to its requester. -/
def State.answerAll (s : State) (slice code : Nat) (l : List CombReq) : State :=
  l.foldl (fun s r =>
    (s.answer r false (combStatus code)).bookSlice r.fn r.child slice [(.chuck, 1), (.cmbreply, 1)]) s

/-- Every admitted request of a poisoned object that no batch has taken is answered with OBJECT status. -/
def State.flushObject (s : State) (slice fn slot : Nat) : State :=
  let c := s.chuck slice
  let mine := fun (r : CombReq) => r.fn = fn && r.slot = slot
  let l := c.admitted.filter mine
  ((s.setChuck slice { c with admitted := c.admitted.filter fun r => !mine r }).answerAll slice Fc.object l).countUE fn l.length

/-- The end of a batch: its energy is shared among the requests' partitions, the remainder going to the object's, and the method
block is gone (R322; notes/assumptions/108.md). -/
def State.endBatch (s : State) (b : Block) (m : Method) (energy : Nat) : State :=
  let n := max 1 m.reqs.length
  let owner := ((s.obj? m.fn m.slot).map (·.child)).getD 0
  let s := m.reqs.foldl (fun s r => s.bookUnits r.fn r.child (energy / n)) s
  let s := (s.bookUnits m.fn owner (energy % n)).tally m.fn 0 (sliceRail m.slice) energy
  let c := s.chuck m.slice
  ({ s with
    cur := match s.cur with | some x => if x.blk.id = b.id then none else some x | none => none
    blocks := s.blocks.filter (·.id ≠ b.id)
    ops := s.ops.filter (·.blk ≠ b.id) } : State).setChuck m.slice { c with running := none }

/-- A batch aborts: the fault is logged as METHOD with its cause and the object's id, and no launch record has a part in it (R444); every
request of the batch is answered with METHOD status, and the object is poisoned (R316). -/
def State.batchAbort (s : State) (b : Block) (m : Method) (cause : Nat) (pc : Dword) : State :=
  let id := ((s.obj? m.fn m.slot).map fun o =>
    4096 * (spGet 0 s.objGen (4096 * o.fn + o.slot) + 1) + o.slot).getD 0
  let m := match s.cur with
    | some c => if c.blk.id = b.id then c.blk.method.getD m else m
    | none => m
  let s := s.logErr m.fn { code := Fc.method, cause, flags := b.child, pc, info := BitVec.ofNat 64 id } (cause = Fc.ecc)
  let s := { s with objs := mapIf (fun o => o.fn = m.fn ∧ o.slot = m.slot) (fun o => { o with poisoned := true }) s.objs }
  let u := s.meter m.fn m.slice [(.cmbreply, m.reqs.length)]
  let s := m.reqs.foldl (fun s r => s.answer r false (combStatus Fc.method)) s
  (s.endBatch b m (m.energy + u)).flushObject m.slice m.fn m.slot

/-! ## Taking an exception (R149) and returning (R150) -/

/-- The trap registers and the in-handler flag take an entry's record; results on their way keep their distances until the return. -/
def Split.enter (sp : Split) (code : Nat) (pc info handler : Dword) : Split :=
  let sp := { sp.setAside with
    uni := { sp.uni with
      trapPc := pc, trapExec := sp.readMask 16, trapCode := BitVec.ofNat 32 code, trapInfo := info, inHandler := true }
    pc := handler, run := .ready, started := false, arrived := false, since := 0 }
  ((sp.mark RegId.trapPc).mark RegId.trapRec).mark RegId.inHandler

/-- A wave a split of which enters a handler: its count of R163 starts again (R164), and a FENCE.job it was held at is abandoned. -/
def Wave.enters (w : Wave) (sid : Nat) : Wave := { w with bundles := 0, jobFences := w.jobFences.filter (·.1 ≠ sid) }

/-- TakeTrap of R149 in the split that issues: the kernel's handler is entered, or the grid aborts, or a THROTTLE or HANG is
dropped (R153). -/
def State.takeTrap (s : State) (c : Cur) (code : Nat) (pc info : Dword) : State :=
  let k := s.kernelOf c.blk
  let s := { s with cur := some c }
  if k.handler = 0 ∧ (code = Fc.throttle ∨ code = Fc.hang) then s
  else if c.split.uni.inHandler ∨ k.handler = 0 then s.gridAbort c.blk code pc c.wave.wid info
  else
    let h := k.addr + BitVec.ofNat 64 k.handler
    ({ s with cur := some { c with wave := c.wave.enters c.split.sid, split := c.split.enter code pc info h } }
      : State).bookFor c.blk [(.trap, 1)]

/-- A fault of the split that issues, delivered as R155 states: to the handler; to the log alone in a method, whose batch
aborts (R316); to the end of the cooperative save in a pre-emption handler (R153). -/
def State.deliver (s : State) (c : Cur) (code : Nat) (pc info : Dword) : State :=
  match c.blk.method with
  | some m => ({ s with cur := some c } : State).batchAbort c.blk m code pc
  | none =>
    if c.wave.pre.isSome then
      let s := { s with cur := some { c with blk := { c.blk with forced := true } } }
      s.logErr c.blk.fn (s.errOf c.blk code 0 c.wave.wid pc info) (code = Fc.ecc)
    else if code = Fc.codeIntegrity then ({ s with cur := some c } : State).gridAbort c.blk code pc c.wave.wid info
    else
      let aborts := c.split.uni.inHandler || (s.kernelOf c.blk).handler = 0
      let s := if code = Fc.ecc ∧ !aborts then s.logErr c.blk.fn (s.errOf c.blk code 0 c.wave.wid pc info) true else s
      s.takeTrap c code pc info

/-- The return from an exception: the in-handler flag clears and issue goes on at the recorded PC (R150). The count of the instruction that
returns is in no distance of a result that was set aside. -/
def Split.leave (sp : Split) (pc : Dword) : Split :=
  ({ sp.takeBack (max sp.cnt 1) with uni := { sp.uni with inHandler := false }, pc } : Split).mark RegId.inHandler

/-- A block stops on a reserved opcode: its effects stand, the host is told, and the grid waits for a HANDOFF (R439); in
deterministic mode the grid aborts (R406). -/
def State.blockStop (s : State) (c : Cur) (pc info : Dword) : State :=
  let s := { s with cur := some c }
  match s.gridOf c.blk with
  | none => s
  | some g =>
    if bit g.kernel.trap.toNat 2 then s.gridAbort c.blk Fc.featureAbsent pc c.wave.wid info
    else
      let s := s.logErr c.blk.fn (s.errOf c.blk Fc.featureAbsent 0 c.wave.wid pc info)
      let s := s.mapGrid g.handle fun g =>
        if g.absent.isNone then { g with absent := some (c.blk.index, c.wave.wid, pc, info) } else g
      let s := s.mapBlock c.blk.id fun b => { b with phase := .stopped }
      { s with out := s.out ++ [⟨"FEATURE_ABSENT", s.hw.f0Host,
          leBytes 4 g.rcd.number.toNat ++ leBytes 4 c.blk.index ++ leBytes 2 (info.toNat % 512)⟩] }

end Sys2Proof.Machine
end

