-- ==== Sys2Proof/Machine/Memory.lean ====
section
/-! DEFINITION. Memory: byte cells in canonical form, physical memory and homes (R278–R281), virtual addresses and translation
(R267, R282–R285, R429), first-level caches (R169, R188), and reads and writes of every space with their poison (R187, R281). -/
namespace Sys2Proof.Machine

/-! ## Byte cells -/

/-- Bytes by address; an unlisted address reads zero (notes/assumptions/2.md). -/
abbrev Memory := List Host.Cell

/-- Addresses rise strictly and no entry holds zero. -/
def Memory.wf (m : Memory) : Bool := spWf (0 : Byte) m

/-- One byte. -/
def Memory.byte (m : Memory) (a : Nat) : Byte := spGet (0 : Byte) m a

/-- n bytes from an address, lowest first (R85). -/
def Memory.read (m : Memory) (a n : Nat) : List Byte := spRange (0 : Byte) m a n

/-- Bytes written from an address on. -/
def Memory.write (m : Memory) (a : Nat) (bs : List Byte) : Memory := spWrite (0 : Byte) m a bs

/-- Cells of n bytes from an address, before others: byte i is the low byte of free value k + i. -/
def Memory.freeCells (a k : Nat) : Nat → Memory → Memory
  | 0, m => m
  | n + 1, m =>
    let b : Byte := (Config.freeValue (k + n)).setWidth 8
    Memory.freeCells a k n (if b = 0 then m else (a + n, b) :: m)

/-- n bytes from an address take free values, from number k on. -/
def Memory.blur (m : Memory) (a n k : Nat) : Memory :=
  m.filter (fun e => e.1 < a) ++ Memory.freeCells a k n (m.filter fun e => a + n ≤ e.1)

/-- Whether no fabric port is left: what a window names is then answered with an error (R433, R436). -/
def State.cutOff (s : State) : Bool := (List.range 8).all s.hw.portsDown.contains

/-! ## Physical memory (R278, R279) -/

/-- End of bonded DRAM, and start of CXL memory. -/
def dramTop : Nat := 0x4800000000
def cxlBase : Nat := 0x10000000000

/-- End of the eight ports' 8 TiB (R3, R437). -/
def cxlTop : Nat := cxlBase + 2 ^ 43

/-- The ranges that the expanders' decoders give: port, first address, bytes; in port order without gaps, at eight ports and within
8 TiB (R3, R437). -/
def cxlRanges (l : List (Nat × Nat)) : List (Nat × Nat × Nat) :=
  ((l.filter (·.1 < 8)).foldl (fun (a : List (Nat × Nat × Nat) × Nat) p =>
    let n := min (p.2 * 2 ^ 30) (cxlTop - a.2)
    if a.1.any (·.1 = p.1) then a else (a.1 ++ [(p.1, a.2, n)], a.2 + n)) ([], cxlBase)).1

/-- The expander port behind an address. -/
def State.cxlPort (s : State) (pa : Nat) : Option Nat :=
  ((cxlRanges s.hw.cxl).find? fun r => r.2.1 ≤ pa && pa < r.2.1 + r.2.2).map (·.1)

/-- Whether memory stands at a physical address. -/
def State.isMem (s : State) (pa : Nat) : Bool := pa < dramTop || (s.cxlPort pa).isSome

/-- Whether the memory there is lost, and every access answered as poisoned (R437). -/
def State.isLost (s : State) (pa : Nat) : Bool := dramTop ≤ pa && ((s.cxlPort pa).map s.hw.cxlDown.contains).getD true

/-- The slice that is a line's home (R279). -/
def State.homeOf (s : State) (pa : Nat) : Nat :=
  if pa < dramTop ∧ spGet false s.near (pa / 65536) then
    let d := pa / 0x1200000000
    12 * d + (pa % 0x1200000000 / 65536 % 48) / 4
  else
    let g := pa / 4096
    (g + 7 * (g >>> 16) + 13 * (g >>> 32)) % 48

/-! ## Virtual addresses -/

/-- What serves a virtual address: the page tables, the function's cluster scratch at a key, or a fabric window. -/
inductive Route where
  | table
  | scratch (key : Nat)
  | window (w : Nat)
  deriving DecidableEq, Repr

/-- SCRW of a function in a slice (R265). -/
def State.scrw (s : State) (fn cl : Nat) : Nat := (s.cfgReg fn (0x2000 + 4 * cl)).toNat % 32

/-- A window entry (R429). -/
def State.window (s : State) (fn w : Nat) : Dword := spGet 0 s.windows (128 * fn + w)

/-- The range step of R183: the fault code of an address outside the space, or what serves it (R182, R267, R429). -/
def State.route (s : State) (fn va : Nat) : Except Nat Route :=
  if 2 ^ 52 ≤ va then .error Fc.access
  else if va / 2 ^ 48 = 0xE then
    let w := va / 2 ^ 40 % 256
    if w = 0 ∨ 128 ≤ w ∨ !bit (s.window fn w).toNat 63 then .error Fc.access else .ok (.window w)
  else if 0xFF00000000000 ≤ va then
    let o := va - 0xFF00000000000
    if 0x30000000 ≤ o then .error Fc.access
    else if s.scrw fn (o / 2 ^ 24) * 2 ^ 20 ≤ o % 2 ^ 24 then .error Fc.scratchRange
    else .ok (.scratch (2 ^ 30 * fn + o))
  else .ok .table

/-- A walk that failed: the level it stopped at and its cause (R285, R287). -/
structure XFail where
  level : Nat
  cause : Nat
  deriving DecidableEq, Repr

/-- A leaf: virtual and physical start, size, and its R, W and X bits (R283). -/
structure Leaf where
  va : Nat
  pa : Nat
  size : Nat
  perm : BitVec 3
  deriving DecidableEq, Repr

/-- Levels 4 to 1: number, lowest index bit, index bits, alignment of the next table (R282). -/
def xLevels : List (Nat × Nat × Nat × Nat) := [(4, 39, 13, 4096), (3, 30, 9, 4096), (2, 21, 9, 256), (1, 16, 5, 0)]

/-- What an entry of a table says: a walk that fails, a leaf, or the next table (R282–R285). The causes of a bad entry are taken in the
order poison, not valid, reserved bit, LEAF wrong for its level, misaligned, outside memory (notes/assumptions/9.md). -/
def State.walkEntry (s : State) (va : Nat) (level : Nat × Nat × Nat × Nat) (a : Nat) : Except XFail (Leaf ⊕ Nat) :=
  let (lv, lo, _, next) := level
  if s.isLost a || spGet false s.memPoison (a / 8) then .error ⟨lv, 5⟩
  else
    let e := ofLe (Memory.read s.mem a 8)
    let addr := fld e 51 8 * 256
    let leaf := bit e 1
    if !bit e 0 then .error ⟨lv, 0⟩
    else if fld e 63 52 ≠ 0 ∨ fld e 7 5 ≠ 0 then .error ⟨lv, 1⟩
    else if (leaf && lv = 4) || (!leaf && lv = 1) then .error ⟨lv, 3⟩
    else if addr % (if leaf then 2 ^ lo else next) ≠ 0 then .error ⟨lv, 2⟩
    else if !s.isMem addr then .error ⟨lv, 4⟩
    else if leaf then .ok (.inl ⟨va / 2 ^ lo * 2 ^ lo, addr, 2 ^ lo, BitVec.ofNat 3 (fld e 4 2)⟩)
    else .ok (.inr addr)

/-- The walk through the levels from a table, with the addresses of the entries that it reads. -/
def State.walkFrom (s : State) (va : Nat) : List (Nat × Nat × Nat × Nat) → Nat → List Nat × Except XFail Leaf
  | [], _ => ([], .error ⟨1, 3⟩)
  | level :: rest, table =>
    let a := table + 8 * fld va (level.2.1 + level.2.2.1 - 1) level.2.1
    if !s.isMem a then ([], .error ⟨level.1, 4⟩)
    else match s.walkEntry va level a with
      | .error x => ([a], .error x)
      | .ok (.inl l) => ([a], .ok l)
      | .ok (.inr next) => let r := s.walkFrom va rest next; (a :: r.1, r.2)

/-- A walk from the partition's root: the entries it reads, and the leaf or the failure. -/
def State.walkAll (s : State) (fn child va : Nat) : List Nat × Except XFail Leaf :=
  s.walkFrom va xLevels (s.pr 0x829 fn child 0).toNat
def State.walk (s : State) (fn child va : Nat) : Except XFail Leaf := (s.walkAll fn child va).2

/-! ## Words and their poison -/

/-- The 8-byte words of a byte range. -/
def wordsIn (a n : Nat) : List Nat := if n = 0 then [] else (List.range ((a + n - 1) / 8 + 1 - a / 8)).map (a / 8 + ·)

/-- Whether a range touches a poisoned word. -/
def poisonIn (m : Sp Bool) (a n : Nat) : Bool := (wordsIn a n).any fun w => spGet false m w

/-- The words of a range poisoned. -/
def poisonSet (m : Sp Bool) (a n : Nat) : Sp Bool := (wordsIn a n).foldl (fun m w => spSet false m w true) m

/-- A write clears the poison of the words it covers whole; a word written in part stays poisoned (R281). -/
def poisonStore (m : Sp Bool) (a n : Nat) : Sp Bool :=
  (wordsIn a n).foldl (fun m w => if a ≤ 8 * w ∧ 8 * w + 8 ≤ a + n then spSet false m w false else m) m

/-- Whether a write leaves a poisoned word poisoned. -/
def poisonLeft (m : Sp Bool) (a n : Nat) : Bool :=
  (wordsIn a n).any fun w => spGet false m w && !(a ≤ 8 * w && 8 * w + 8 ≤ a + n)

/-! ## Reads and writes of a space -/

/-- The block that has an id, held by the split that issues or not. -/
def State.blockOf (s : State) (id : Nat) : Option Block :=
  match s.cur with
  | some c => if c.blk.id = id then some c.blk else s.block? id
  | none => s.block? id

/-- The offset of a buffer in its block's scratchpad (R237). -/
def State.bufOff (s : State) (blk buf : Nat) : Nat :=
  ((s.blockOf blk).bind fun b => (s.kernelOf b).bufs[buf]?).elim 0 (·.off)

/-- The bytes of a place, and whether a word of it is poisoned. A fabric window and an accumulator tile are read elsewhere. -/
def State.fetchAt (s : State) (sp : Space) (a n : Nat) : List Byte × Bool :=
  match sp with
  | .mem => (Memory.read s.mem a n, s.isLost a || poisonIn s.memPoison a n)
  | .cscr _ => (Memory.read s.cscr a n, poisonIn s.cscrPoison a n)
  | .scr blk buf =>
    let o := s.bufOff blk buf + a
    match s.blockOf blk with
    | some b => (Memory.read b.scratch o n, poisonIn b.scrPoison o n)
    | none => (List.replicate n 0, true)
  | .remote => (List.replicate n 0, true)
  | .tile => (List.replicate n 0, false)

/-- Ways of a slice that a function holds as cache: its WAYS less those carved as scratch, which are its highest; those that a shrink
surrenders join when it is done (R265, R266; notes/assumptions/92.md). -/
def State.openWays (s : State) (fn cl : Nat) : List Nat :=
  let ways := (List.range 16).filter fun w => bit (s.pr 0x840 fn 0 cl).toNat w
  ways.take (ways.length - max (s.scrw fn cl) (spGet 0 s.shrinking (64 * fn + cl) - 1))

def State.cacheWays (s : State) (fn cl : Nat) : Nat := (s.openWays fn cl).length

/-- The parts of a range on either side of a 64 KiB boundary. -/
def parts (va n : Nat) : List (Nat × Nat) :=
  let room := 65536 - va % 65536
  if n ≤ room then [(va, n)] else [(va, room), (va + room, n - room)]

/-- Lines of a byte range. -/
def linesIn (a n : Nat) : List Nat := if n = 0 then [] else (List.range ((a + n - 1) / 128 + 1 - a / 128)).map (a / 128 + ·)

/-- A line read or written at its channel, or at its expander, for a partition (R299, R415). -/
def State.bookLine (s : State) (fn child l : Nat) : State :=
  if 128 * l < dramTop then s.book fn child (8 + 128 * l / 0x1200000000) 0 [(.dramline, 1)]
  else s.book fn child 13 0 [(.cxlline, 1)]

/-- A packet at a fabric port for a partition (R373, R415); and a request with its answer. -/
def State.bookFlit (s : State) (fn child : Nat) : State := s.book fn child 12 0 [(.flit, 1)]
def State.bookTrip (s : State) (fn child : Nat) : State := s.book fn child 12 0 [(.flit, 2)]

/-- A line of a slice's set that an allocation among some ways replaces: none where one of the ways is free (R262, R263). -/
def State.victim (s : State) (slice line : Nat) (ways : List Nat) : Nat × Option SliceLine :=
  let set := s.lines.filter fun x => x.slice = slice && x.line % 8192 = line % 8192 && ways.contains x.way
  match ways.find? fun w => !(set.any (·.way = w)) with
  | some w => (w, none)
  | none => ((set.getLast?.map (·.way)).getD 0, set.getLast?)

/-- An access of a function to a line at its home: a hit, in a way of its own as the most recently used; or a miss, which is allocated in
the function's cache ways over the least recently used line there, a dirty one of which is written back (R262, R263). -/
def State.touchLine (s : State) (fn child l : Nat) (write : Bool) : State :=
  let slice := s.homeOf (128 * l)
  let ways := s.openWays fn slice
  match s.lines.find? (·.line = l) with
  | some x =>
    let x' := { x with dirty := x.dirty || write }
    if ways.contains x.way then { s with lines := x' :: s.lines.filter (·.line ≠ l) }
    else { s with lines := s.lines.map fun y => if y.line = l then x' else y }
  | none =>
    let s := s.bookLine fn child l
    if ways.isEmpty then s
    else
      let v := s.victim slice l ways
      let s := match v.2 with | some y => if y.dirty then s.bookLine fn child y.line else s | none => s
      { s with lines := ⟨slice, l, v.1, write⟩ :: s.lines.filter fun y => v.2 ≠ some y }

/-- A line that is clean from now on. -/
def State.cleanLine (s : State) (x : SliceLine) : State :=
  { s with lines := s.lines.map fun y => if y.line = x.line then { y with dirty := false } else y }

/-- Lines of a range that a `.strm` access has allocated are the first to be replaced (R188). -/
def State.evictFirst (s before : State) (a n : Nat) : State :=
  let new := fun (x : SliceLine) => (linesIn a n).contains x.line && !(before.lines.any (·.line = x.line))
  { s with lines := (s.lines.filter fun x => !new x) ++ s.lines.filter new }

/-- An access to bytes of memory at their homes. -/
def State.touch (s : State) (fn child a n : Nat) (write : Bool) : State :=
  (linesIn a n).foldl (fun s l => s.touchLine fn child l write) s

/-- The function that holds a way of a slice (R264). -/
def State.wayHolder (s : State) (slice way : Nat) : Option Nat := (List.range 8).find? fun f => bit (s.pr 0x840 f 0 slice).toNat way

/-- Lines that a test picks leave their slices; each dirty one is written back, with an event charged to the function that holds its
way (R266, R277, R280, R299). -/
def State.writeBack (s : State) (ev : Ev) (p : SliceLine → Bool) : State :=
  let s := (s.lines.filter fun x => p x && x.dirty).foldl (fun s x => match s.wayHolder x.slice x.way with
    | some f => (s.bookSlice f 0 x.slice [(ev, 1)]).bookLine f 0 x.line
    | none => s) s
  { s with lines := s.lines.filter fun x => !p x }

/-! ## Single-bit errors (R81, R177, R276, R281) -/

/-- The words of storage that bytes of a place lie in. -/
def State.cells (s : State) (sp : Space) (a n : Nat) : List Word8 :=
  match sp with
  | .mem => (wordsIn a n).map .mem
  | .cscr _ => (wordsIn a n).map .cscr
  | .scr blk buf => (wordsIn (s.bufOff blk buf + a) n).map (.scr blk)
  | _ => []

/-- Words read for a function: a single-bit error is corrected, and counted. -/
def State.scrubWords (s : State) (fn : Nat) (l : List Word8) : State :=
  if s.soft.isEmpty then s
  else
    let hits := s.soft.filter l.contains
    if hits.isEmpty then s
    else ({ s with soft := s.soft.filter fun c => !hits.contains c } : State).countCE fn hits.length

def State.scrub (s : State) (fn : Nat) (sp : Space) (a n : Nat) : State :=
  if s.soft.isEmpty then s else s.scrubWords fn (s.cells sp a n)

/-- A word that holds something new has no error that was in it before. -/
def State.renew (s : State) (w : Word8) : State := if s.soft.isEmpty then s else { s with soft := s.soft.filter (· ≠ w) }

/-- Bytes written for a function: words written whole lose their errors, and those written in part are read first. -/
def State.rewrite (s : State) (fn : Nat) (sp : Space) (a n : Nat) : State :=
  if s.soft.isEmpty then s
  else
    let whole := s.cells sp ((a + 7) / 8 * 8) ((a + n) / 8 * 8 - (a + 7) / 8 * 8)
    ({ s with soft := s.soft.filter fun c => !whole.contains c } : State).scrub fn sp a n

/-! ## Translations (R282–R285) -/

/-- The number of a cluster's TLB; a core's is the core's. -/
def clusterTlb (core : Nat) : Nat := 512 + clusterOfCore core

/-- A leaf in a TLB that maps an address (R284). -/
def State.cachedAt (s : State) (at_ fn child va : Nat) : Option Leaf :=
  (s.tlb.find? fun t => t.at_ = at_ && t.fn = fn && t.child = child && t.va ≤ va && va < t.va + t.size).map
    fun t => ⟨t.va, t.pa, t.size, t.perm⟩

/-- A leaf that a core finds in its own TLB or in its cluster's. -/
def State.cached (s : State) (core fn child va : Nat) : Option Leaf :=
  (s.cachedAt core fn child va).or (s.cachedAt (clusterTlb core) fn child va)

/-- A leaf in a TLB, as the most recently used: it takes the place of what maps the same addresses there, and of the least recently used
entry where the TLB is full, of 64 in a core and of 4,096 in a cluster (R284; notes/assumptions/25.md). -/
def State.cacheAt (s : State) (at_ fn child : Nat) (l : Leaf) : State :=
  let mine := s.tlb.filter fun e => e.at_ = at_ &&
    !(e.fn = fn && e.child = child && e.va < l.va + l.size && l.va < e.va + e.size)
  { s with tlb := ⟨at_, fn, child, l.va, l.size, l.pa, l.perm⟩ :: mine.take (if at_ < 512 then 63 else 4095) ++ s.tlb.filter (·.at_ ≠ at_) }

/-- A leaf in a core's TLB and in its cluster's. -/
def State.cache (s : State) (core fn child : Nat) (l : Leaf) : State :=
  (s.cacheAt (clusterTlb core) fn child l).cacheAt core fn child l

/-- A walk made: each entry that it reads is a read of memory at its home, corrected there and charged to the partition; poison that it meets
is logged (R281, R284, R299). -/
def State.walked (s : State) (fn child va : Nat) : State :=
  let w := s.walkAll fn child va
  let s := s.book fn child 14 0 [(.walk, w.1.length)]
  let s := w.1.foldl (fun s a => (s.scrub fn .mem a 8).touch fn child a 8 false) s
  match w.2 with
  | .ok _ => s
  | .error x => if x.cause = 5 then s.logErr fn { code := 0x71, flags := child, info := BitVec.ofNat 64 va } true else s

/-- Whether a leaf that a TLB holds serves: for certain where a walk finds the same one; where the entry has changed since, it is open until a
TLBINV whether it serves or has been replaced (R284; notes/assumptions/10.md). -/
def State.serves (s : State) (fn child va : Nat) : Option Leaf → State × Option Leaf
  | none => (s, none)
  | some c =>
    if (s.walk fn child va).toOption = some c then (s, some c)
    else
      let (s, f) := s.takeFree
      (s, if bit f.toNat 0 then some c else none)

/-- The leaf that serves an access of a core: its TLB's, or its cluster's, or that of a walk. -/
def State.leafOf (s : State) (core fn child va : Nat) : State × Except XFail Leaf :=
  match s.serves fn child va (s.cachedAt core fn child va) with
  | (s, some c) => (s.cacheAt core fn child c, .ok c)
  | (s, none) => match s.serves fn child va (s.cachedAt (clusterTlb core) fn child va) with
    | (s, some c) => (s.cache core fn child c, .ok c)
    | (s, none) => match s.walk fn child va with
      | .ok l => ((s.walked fn child va).cache core fn child l, .ok l)
      | .error x => (s.walked fn child va, .error x)

/-- What an access needs of a leaf, as R, W and X bits 0 to 2 (R283). -/
def needR : BitVec 3 := 1
def needW : BitVec 3 := 2
def needRW : BitVec 3 := 3
def needX : BitVec 3 := 4

/-- Why an address cannot be accessed. -/
inductive AddrErr where
  /-- the code of the range step -/
  | range (code : Nat)
  | perm
  | xlate (x : XFail)
  deriving DecidableEq, Repr

/-- The place of a virtual address for a partition on a core, with the state after its translation. -/
def State.place (s : State) (core fn child va : Nat) (need : BitVec 3) : State × Except AddrErr (Space × Nat) :=
  match s.route fn va with
  | .error c => (s, .error (.range c))
  | .ok (.scratch key) => (s, .ok (.cscr fn, key))
  | .ok (.window _) => (s, .ok (.remote, va))
  | .ok .table =>
    match s.leafOf core fn child va with
    | (s, .error x) => (s, .error (.xlate x))
    | (s, .ok l) => if l.perm &&& need = need then (s, .ok (.mem, l.pa + (va - l.va))) else (s, .error .perm)

/-! ## Stores -/

/-- Bytes stored at a place for a function. A store into part of a poisoned word is logged (R281), with what `who` tells of its wave. -/
def State.storeAt (s : State) (fn : Nat) (sp : Space) (a : Nat) (bs : List Byte) (who : ErrRec := {}) : State :=
  let n := bs.length
  let s := s.rewrite fn sp a n
  match sp with
  | .mem =>
    if s.isLost a then s
    else
      let left := poisonLeft s.memPoison a n
      let s := { s with mem := Memory.write s.mem a bs, memPoison := poisonStore s.memPoison a n }
      let s := s.touch fn (who.flags % 8) a n true
      if left then s.logErr fn { who with code := 0x71, info := BitVec.ofNat 64 a } true else s
  | .cscr _ =>
    let left := poisonLeft s.cscrPoison a n
    let s := { s with cscr := Memory.write s.cscr a bs, cscrPoison := poisonStore s.cscrPoison a n }
    if left then s.logErr fn { who with code := 0x71, info := BitVec.ofNat 64 a } true else s
  | .scr blk buf =>
    let o := s.bufOff blk buf + a
    s.mapBlock blk fun b =>
      { b with scratch := Memory.write b.scratch o bs, scrPoison := poisonStore b.scrPoison o n }
  | .remote => s
  | .tile => s

/-- n bytes of a place of memory or of cluster scratch take fresh free values, without poison. -/
def State.blurAt (s : State) (sp : Space) (a n : Nat) : State :=
  match sp with
  | .mem =>
    if s.isLost a then s
    else { s with mem := Memory.blur s.mem a n s.fresh, memPoison := poisonStore s.memPoison a n, fresh := s.fresh + n }
  | .cscr _ =>
    { s with cscr := Memory.blur s.cscr a n s.fresh, cscrPoison := poisonStore s.cscrPoison a n, fresh := s.fresh + n }
  | _ => s

/-- Words of a place poisoned. -/
def State.poisonAt (s : State) (sp : Space) (a n : Nat) : State :=
  match sp with
  | .mem => { s with memPoison := poisonSet s.memPoison a n }
  | .cscr _ => { s with cscrPoison := poisonSet s.cscrPoison a n }
  | .scr blk buf =>
    let o := s.bufOff blk buf + a
    s.mapBlock blk fun b => { b with scrPoison := poisonSet b.scrPoison o n }
  | .remote => s
  | .tile => s

/-! ## First-level caches (R169, R188) -/

/-- The line a core's first-level cache holds. -/
def State.l1Line (s : State) (core pa : Nat) : Option L1Line := s.l1.find? fun l => l.core = core && l.line = pa / 128

/-- A line brought in, or used again: it is the most recently used of its set, which keeps 20. -/
def State.l1Use (s : State) (l : L1Line) : State :=
  let same := fun (x : L1Line) => x.core = l.core && x.line % 128 = l.line % 128
  let others := s.l1.filter fun x => !(x.core = l.core && x.line = l.line)
  let keep := (others.filter same).take 19
  { s with l1 := l :: others.filter fun x => !same x || keep.contains x }

/-- The line of an address as its home holds it now. -/
def State.lineNow (s : State) (core pa : Nat) : L1Line :=
  let a := pa / 128 * 128
  { core, line := pa / 128, data := Memory.read s.mem a 128
    poison := (List.range 16).map fun i => s.isLost a || spGet false s.memPoison (a / 8 + i) }

/-- A load served by the first-level cache: from the line it holds, or from the home with the line allocated (R188). -/
def State.l1Load (s : State) (core a n : Nat) : State × List Byte × Bool :=
  let l := (s.l1Line core a).getD (s.lineNow core a)
  (s.l1Use l, (l.data.drop (a % 128)).take n, nth false l.poison (a % 128 / 8))

/-- A store updates the line a core's first-level cache holds, which is used by it; the store brings none in (R169). `bad` says that the
data is poisoned (R178, R223). -/
def State.l1Store (s : State) (core a : Nat) (bs : List Byte) (bad : Bool := false) : State :=
  match s.l1Line core a with
  | none => s
  | some l => s.l1Use { l with
      data := l.data.take (a % 128) ++ bs ++ l.data.drop (a % 128 + bs.length)
      poison := l.poison.zipIdx.map fun p =>
        let first := a % 128
        if first ≤ 8 * p.2 && 8 * p.2 + 8 ≤ first + bs.length then bad
        else p.1 || (bad && first < 8 * p.2 + 8 && 8 * p.2 < first + bs.length) }

/-- A line leaves a core's first-level cache. -/
def State.l1Drop (s : State) (core line : Nat) : State :=
  { s with l1 := s.l1.filter fun l => !(l.core = core && l.line = line) }

/-- Every line of a core's first-level cache is invalidated (R194, R170). -/
def State.l1Clear (s : State) (core : Nat) : State := { s with l1 := s.l1.filter fun l => l.core ≠ core }

/-- Every line of every first-level cache that lies in a physical range is invalidated (R280). -/
def State.l1ClearRange (s : State) (a n : Nat) : State :=
  { s with l1 := s.l1.filter fun l => !(a ≤ 128 * l.line && 128 * l.line < a + n) }

/-! ## Translation faults (R285–R288) -/

/-- Records of a function's fault ring; zero where it is disabled (R286). -/
def State.xfCount (s : State) (fn : Nat) : Nat :=
  let k := (s.cfgReg fn 0xE08).toNat % 16
  if 4 ≤ k ∧ k ≤ 12 then 2 ^ k else 0

def State.xfFull (s : State) (fn : Nat) : Bool :=
  ((s.cfgReg fn 0xE0C).toNat + 1) % s.xfCount fn = (s.cfgReg fn 0xE10).toNat % s.xfCount fn

/-- The bytes of a fault record (R287). -/
def xfRecord (va : Nat) (pc : Dword) (grid block token wid kind : Nat) (x : XFail) (child : Nat) : List Byte :=
  leBytes 8 va ++ leBytes 8 pc.toNat ++ leBytes 4 grid ++ leBytes 4 block ++ leBytes 2 token ++ leBytes 1 wid ++
  leBytes 1 (kind + 4 * x.level) ++ leBytes 1 x.cause ++ leBytes 1 child ++ leBytes 2 0

/-- The next token of a function that none of its held faults has (R287). -/
def State.freeToken (s : State) (fn : Nat) : Nat :=
  let n := ((List.range (s.xholds.length + 1)).find? fun i =>
    !(s.xholds.any fun h => h.fn = fn && h.token = (s.nextToken + i) % 65536)).getD 0
  (s.nextToken + n) % 65536

/-- An XLATE of the split that issues: delivered at once where the ring is disabled, held where it is full, and otherwise recorded
and held under a token (R286–R288). -/
def State.xlateFault (s : State) (c : Cur) (passes va kind : Nat) (x : XFail) (info : Nat) (deliver : State → State) : State :=
  let fn := c.blk.fn
  let n := s.xfCount fn
  if n = 0 then deliver s
  else if s.xfFull fn then { s with cur := some { c with split := { c.split with run := .held } } }
  else
    let tail := (s.cfgReg fn 0xE0C).toNat % n
    let token := s.freeToken fn
    let grid := ((s.gridOf c.blk).map (·.rcd.number.toNat)).getD 0
    let r := xfRecord va c.split.pc grid c.blk.index token c.wave.wid kind x c.blk.child
    let s := s.storeAt fn .mem ((s.cfgReg fn 0xE00).toNat / 4096 * 4096 + 32 * tail) r
    let s := s.setCfg fn 0xE0C (BitVec.ofNat 64 ((tail + 1) % n))
    { s with
      nextToken := token + 1
      xholds := s.xholds ++ [⟨fn, c.blk.child, token, c.blk.id, c.wave.wid, c.split.sid, BitVec.ofNat 64 info, c.split.pc, passes, 0⟩]
      cur := some { c with split := { c.split with run := .xlate token } } }

/-- TRAP_INFO of a fault on a memory word (R184). -/
def memInfo (lane : Nat) (wr sp : Bool) (why addr : Nat) : Nat :=
  lane * 2 ^ 56 + b2n wr * 2 ^ 55 + b2n sp * 2 ^ 54 + why * 2 ^ 52 + addr % 2 ^ 52

/-- ADDR of a scratchpad place in TRAP_INFO. -/
def scrAddr (buf rel : Nat) : Nat := buf % 2 ^ 16 * 2 ^ 32 + rel % 2 ^ 32

end Sys2Proof.Machine
end

