-- ==== Sys2Proof/Machine/Loupe.lean ====
section
/-! DEFINITION. Kinds of access, and the Loupe: the clock vectors of a grid's waves and the races among its global accesses
(R409–R412; notes/assumptions/73.md). -/
namespace Sys2Proof.Machine

/-! ## Operations -/

/-- Kinds of access. -/
def OpKind.isLoad : OpKind → Bool
  | .load _ _ => true
  | _ => false

def OpKind.isStore : OpKind → Bool
  | .store => true
  | _ => false

def OpKind.isAtom : OpKind → Bool
  | .atom _ _ _ _ => true
  | _ => false

/-- A load, store, atomic or write-back of a wave: what fences and ordered accesses order (R194, R196). -/
def OpKind.isAccess : OpKind → Bool
  | .load _ _ => true
  | .store => true
  | .atom _ _ _ _ => true
  | .cwb _ => true
  | _ => false

/-- Whether ORD holds an acquire, a release, or `.sc` (R50). -/
def acqOrd (ord : Nat) : Bool := ord = 2 || ord = 4 || ord = 5
def relOrd (ord : Nat) : Bool := ord = 3 || ord = 4 || ord = 5

/-- Lanes whose access is still to be performed. -/
def Op.undone (o : Op) : List Item := if o.complete then [] else o.items.filter fun i => !o.donePart.getLsbD i.lane

/-- Bytes of two items overlap. -/
def Item.meets (a b : Item) : Bool := a.space = b.space && a.addr < b.addr + b.bytes && b.addr < a.addr + a.bytes

/-! ## Clock vectors (R410) -/

/-- The later of two vectors in every component. -/
def clockJoin (a b : Sp Nat) : Sp Nat := b.foldl (fun m e => spSet 0 m e.1 (max (spGet 0 m e.1) e.2)) a

/-- A wave's key. -/
def loupeKey (index wid : Nat) : Nat := 32 * index + wid

/-- The vector of what a wave does now: its own component is one above its releases. -/
def Loupe.now (l : Loupe) (w : Nat) : Sp Nat := spSet 0 (spGet [] l.clocks w) w (spGet 0 (spGet [] l.clocks w) w + 1)

/-- A wave has released. -/
def Loupe.ticked (l : Loupe) (w : Nat) : Loupe := { l with clocks := spSet [] l.clocks w (l.now w) }

/-- A wave has acquired a vector. -/
def Loupe.learn (l : Loupe) (w : Nat) (v : Sp Nat) : Loupe :=
  if v.isEmpty then l else { l with clocks := spSet [] l.clocks w (clockJoin (spGet [] l.clocks w) v) }

/-- Whether a grid is under the Loupe (R355). -/
def Grid.louped (g : Grid) : Bool := bit g.kernel.trap.toNat 1

/-- The Loupe of a block's grid changed, where it has one. -/
def State.mapLoupe (s : State) (b : Block) (f : Loupe → Loupe) : State :=
  if b.method.isSome then s else s.mapGrid b.grid fun g => if g.louped then { g with loupe := f g.loupe } else g

/-- The grid of a block, where it is under the Loupe. -/
def State.loupeGrid (s : State) (b : Block) : Option Grid :=
  (s.gridOf b).bind fun g => if g.louped then some g else none

/-- An operation at its issue: its PC and vector, and what its writes publish, its own release or the wave's last release fence. -/
def State.stampOp (s : State) (b : Block) (pc : Dword) (o : Op) : State × Op :=
  match s.loupeGrid b with
  | none => (s, o)
  | some g =>
    let w := loupeKey b.index o.wid
    let v := g.loupe.now w
    let rel := relOrd o.ord && o.kind.isAccess
    (if rel then s.mapLoupe b fun l => l.ticked w else s,
      { o with pc, stamp := v, pub := clockJoin (spGet [] g.loupe.fences w) (if rel then v else []) })

/-- A fence of a wave: a release keeps its vector for the writes behind it, and an acquire takes what earlier loads have read. -/
def State.loupeFence (s : State) (b : Block) (wid : Nat) (acq rel : Bool) : State :=
  let w := loupeKey b.index wid
  s.mapLoupe b fun l =>
    let l := if acq then { l.learn w (spGet [] l.seen w) with seen := spSet [] l.seen w [] } else l
    if rel then { l.ticked w with fences := spSet [] l.fences w (l.now w) } else l

/-- Key of a barrier in its grid: a gang's, or a block's. -/
def loupeBar (index : Nat) (gang : Option Nat) (n : Nat) : Nat :=
  match gang with
  | some size => 2 * (64 * (index / size) + n) + 1
  | none => 2 * (64 * index + n)

/-- An arrival on a barrier. -/
def State.loupeArrive (s : State) (b : Block) (wid : Nat) (gang : Option Nat) (n : Nat) : State :=
  let w := loupeKey b.index wid
  let k := loupeBar b.index gang n
  s.mapLoupe b fun l => { l.ticked w with bars := spSet [] l.bars k (clockJoin (spGet [] l.bars k) (l.now w)) }

/-- A phase of a barrier has completed. -/
def State.loupePhase (s : State) (b : Block) (gang : Option Nat) (n : Nat) : State :=
  let k := loupeBar b.index gang n
  s.mapLoupe b fun l =>
    { l with passed := spSet [] l.passed k (clockJoin (spGet [] l.passed k) (spGet [] l.bars k)), bars := spSet [] l.bars k [] }

/-- A wait on a barrier is over. -/
def State.loupeWait (s : State) (b : Block) (wid : Nat) (gang : Option Nat) (n : Nat) : State :=
  s.mapLoupe b fun l => l.learn (loupeKey b.index wid) (spGet [] l.passed (loupeBar b.index gang n))

/-! ## Races (R409, R411) -/

/-- Whether the stamps order one access before another. -/
def LoupeAcc.before (a b : LoupeAcc) : Bool := spGet 0 a.stamp a.wave ≤ spGet 0 b.stamp a.wave

/-- The case of R409 that two accesses of different waves fall in, the first performed first: a number, `none` for a race that a grid
without DETERMINISTIC alone has. -/
def raceCase (det : Bool) (a b : LoupeAcc) : Option (Option Nat) :=
  let ia := a.wave / 32
  let ib := b.wave / 32
  let w := a.writes || b.writes
  if a.wave = b.wave || a.before b || b.before a then none
  else if a.obj.isSome || b.obj.isSome then (if det && ia = ib && a.obj = b.obj then some (some 2) else none)
  else if ia = ib && w then some (some 1)
  else if (a.reads && b.writes && ib < ia) || (b.reads && a.writes && ia < ib) then some (some 3)
  else if !det && w then some none
  else none

/-- The overlaps of two accesses: virtual address of the lowest byte, lane of the first and of the second. -/
def LoupeAcc.overlaps (a b : LoupeAcc) : List (Nat × Nat × Nat) :=
  a.items.flatMap fun i => (b.items.filter fun j => i.meets j).map fun j => (i.va.toNat + (max i.addr j.addr - i.addr), i.lane, j.lane)

def minOf (l : List Nat) : Nat := l.foldl min (l.headD 0)

/-- A record of the report area. What the case field holds where no case of R409 applies, and the address of two COMBs, the manual does
not state: they are free. -/
def raceRecord (a b : LoupeAcc) (va : Dword) (kind : Nat) (lanes : List (Nat × Nat)) : List Byte :=
  leBytes 8 va.toNat ++ leBytes 8 a.pc.toNat ++ leBytes 8 b.pc.toNat ++ leBytes 4 (a.wave / 32) ++ leBytes 4 (b.wave / 32) ++
  leBytes 1 (a.wave % 32) ++ leBytes 1 (b.wave % 32) ++ leBytes 1 (minOf (lanes.map (·.1))) ++ leBytes 1 (minOf (lanes.map (·.2))) ++
  leBytes 1 (kind % 8 + 8 * b2n a.writes + 16 * b2n b.writes) ++ List.replicate 27 0

/-- One earlier access checked against a new one: a pair of operations races once, and a pair of PCs is recorded at its first race. -/
def State.checkPair (b : Block) (x : LoupeAcc) (s : State) (a : LoupeAcc) : State :=
  match s.loupeGrid b with
  | none => s
  | some g =>
    let det := bit g.kernel.trap.toNat 2
    let o := a.overlaps x
    match (if g.loupe.raced.contains (a.op, x.op) then none else raceCase det a x) with
    | none => s
    | some case =>
      if a.obj.isNone && o.isEmpty then s
      else
        let (s, u) := s.takeFree
        let (s, v) := s.takeFree
        let va := if a.obj.isSome then u else BitVec.ofNat 64 (minOf (o.map (·.1)))
        let lanes := if a.obj.isSome then (a.items.map fun i => (i.lane, minOf (x.items.map (·.lane)))) else o.map (·.2)
        let r := raceRecord a x va (case.getD v.toNat) lanes
        s.mapLoupe b fun l =>
          let l := { l with raced := l.raced ++ [(a.op, x.op)] }
          if l.pcs.contains (a.pc, x.pc) || l.pcs.contains (x.pc, a.pc) || l.pcs.length = 1023 then l
          else { l with pcs := l.pcs ++ [(a.pc, x.pc)], recs := l.recs ++ [r] }

/-- An access performed: checked against every earlier one of the grid, and kept. Each lane books a `loupe` event (R412). -/
def State.loupeAccess (s : State) (b : Block) (core : Nat) (x : LoupeAcc) : State :=
  match s.loupeGrid b with
  | none => s
  | some g =>
    let s := g.loupe.accs.foldl (State.checkPair b x) s
    let s := s.mapLoupe b fun l => { l with accs := l.accs ++ [x] }
    s.bookCore b.fn b.child core [(.loupe, x.items.length)]

/-- Whether an item is of global memory, cluster scratch included. -/
def Item.global (i : Item) : Bool :=
  match i.space with
  | .scr _ _ => false
  | .tile => false
  | _ => true

/-- The vectors of the released values that lanes of a load read: those of earlier releases to the bytes, only its own core's where a
first-level cache serves it, and those that its block holds staged. -/
def State.releasesRead (s : State) (l : Loupe) (o : Op) (i : Item) (cached : Bool) : Sp Nat :=
  let v := (l.locs.filter fun e => e.1.meets i && (!cached || e.2.1 = o.core)).foldl (fun v e => clockJoin v e.2.2) []
  (s.ops.filter fun p => p.blk = o.blk && p.staged && p.parent.isNone && p.items.any fun j => j.meets i).foldl
    (fun v p => clockJoin v p.pub) v

/-- Whether an operation is a release, which publishes what its wave has acquired before it. -/
def Op.publishes (o : Op) : Bool := relOrd o.ord && (o.kind.isStore || o.kind.isAtom)

/-- Lanes of an access performed in a Loupe grid. What a load or atomic reads of released values it acquires, at once or at a later
fence, and the releases behind it publish that as well; a write publishes. -/
def State.loupeLanes (s : State) (o : Op) (l : List Item) (cached : Item → Bool) : State :=
  let l := l.filter Item.global
  match s.blockOf o.blk with
  | none => s
  | some b => match s.loupeGrid b with
    | none => s
    | some g =>
      if l.isEmpty || o.parent.isSome then s
      else
        let w := loupeKey b.index o.wid
        let reads := o.kind.isLoad || o.kind.isAtom
        let v := if reads then l.foldl (fun v i => clockJoin v (s.releasesRead g.loupe o i (cached i))) [] else []
        let acq := reads && acqOrd o.ord
        let stamp := if acq then clockJoin o.stamp v else o.stamp
        let pub := if acq && o.publishes then clockJoin o.pub v else o.pub
        let s : State := if acq then
            { s.mapLoupe b (·.learn w v) with ops := s.ops.map fun (p : Op) =>
                if p.blk = o.blk && p.wid = o.wid && o.id ≤ p.id then
                  { p with stamp := clockJoin p.stamp v, pub := if p.publishes then clockJoin p.pub v else p.pub } else p }
          else s.mapLoupe b fun l => { l with seen := spSet [] l.seen w (clockJoin (spGet [] l.seen w) v) }
        let s := s.loupeAccess b o.core { op := o.id, wave := w, stamp, pc := o.pc, writes := !o.kind.isLoad, reads := o.kind.isLoad
                                          items := l }
        if o.kind.isLoad || pub.isEmpty then s
        else s.mapLoupe b fun x => { x with locs := x.locs ++ l.map fun i => (i, o.core, pub) }

/-- A packet of COMB requests to an object (case 2). -/
def State.loupeComb (s : State) (o : Op) (obj : Nat) (lanes : List Nat) : State :=
  match s.blockOf o.blk with
  | none => s
  | some b =>
    s.loupeAccess b o.core { op := o.id, wave := loupeKey b.index o.wid, stamp := o.stamp, pc := o.pc, writes := true, reads := false
                             obj := some obj, items := lanes.map fun n => { lane := n, space := .remote, addr := 0, bytes := 0 } }

/-- The accesses of a completed job or Lathe operation, kept until a wait covers them. -/
def State.loupeJob (s : State) (o : Op) (reads writes : List Item) : State :=
  match s.blockOf o.blk with
  | none => s
  | some b =>
    let acc := fun (wr : Bool) (l : List Item) =>
      if l.isEmpty then []
      else [(if o.path = 7 then 4 else o.path, ({ op := o.id, wave := loupeKey b.index o.wid, stamp := [], pc := o.pc, writes := wr
                                                  reads := !wr, items := l } : LoupeAcc))]
    s.mapLoupe b fun l => { l with jobs := l.jobs ++ acc false reads ++ acc true writes }

/-- A wait of a wave covers its jobs or Lathe operations that are over: their accesses are those of the wave now. -/
def State.loupeCover (s : State) (b : Block) (wid : Nat) (path : Nat → Bool) : State :=
  match s.loupeGrid b with
  | none => s
  | some g =>
    let w := loupeKey b.index wid
    let due := fun (e : Nat × LoupeAcc) => path e.1 && decide (e.2.wave = w) && !(s.ops.any fun p => p.id = e.2.op ||
      (match p.kind with | .jobList cards => cards.contains e.2.op | _ => false))
    let l := g.loupe.jobs.filter due
    let s := s.mapLoupe b fun x => { x with jobs := x.jobs.filter fun e => !due e }
    l.foldl (fun s e => s.loupeAccess b b.core { e.2 with stamp := g.loupe.now w }) s

/-- The bytes of a grid's report area, header first (R411). -/
def Loupe.report (l : Loupe) : List Byte :=
  leBytes 4 (min l.raced.length (2 ^ 32 - 1)) ++ leBytes 4 l.recs.length ++ List.replicate 56 0 ++ l.recs.flatten

end Sys2Proof.Machine
end

