-- ==== Sys2Proof/Machine/Prints.lean ====
section
/-! DEFINITION. Prints: where a share's linear scan puts every value (R235), and the slots that a unit of spill code reaches (R239,
R241). -/
namespace Sys2Proof.Machine

/-! ## The linear scan (R235) -/

/-- A value of the scan: its interval, and its first register or, spilled, its first slot. -/
structure Bound where
  life : Life
  spilled : Bool
  reg : Nat
  deriving DecidableEq, Repr

/-- The lowest run of n places below a limit that no value of a kind holds. -/
def freeRun (l : List Bound) (spilled : Bool) (n limit : Nat) : Option Nat :=
  (List.range (limit + 1 - n)).find? fun r => n ≤ limit && l.all fun b =>
    b.spilled ≠ spilled || b.reg + b.life.elems ≤ r || r + n ≤ b.reg

/-- The end of the spill slots that values hold: no run of slots that starts there meets one of them. -/
def slotsEnd (l : List Bound) : Nat := l.foldl (fun n b => if b.spilled then max n (b.reg + b.life.elems) else n) 0

/-- A value put in the lowest free run of spill slots. -/
def spillAt (l : List Bound) (v : Life) : Bound := ⟨v, true, (freeRun l true v.elems (slotsEnd l + v.elems)).getD (slotsEnd l)⟩

/-- Order of the candidates of step 3: END, then symbolic number. -/
def Life.after (a b : Life) : Bool := b.stop < a.stop || (a.stop = b.stop && b.num < a.num)

/-- One entry of the scan at a share: the values that hold places after it. -/
def scanStep (share : Nat) (l : List Bound) (v : Life) : List Bound :=
  let l := l.filter fun b => v.start ≤ b.life.stop
  match freeRun l false v.elems share with
  | some r => l ++ [⟨v, false, r⟩]
  | none =>
    if v.elems ≠ 1 then l ++ [spillAt l v]
    else
      let far := l.foldl (fun (m : Option Bound) b =>
        if b.spilled || b.life.elems ≠ 1 then m
        else match m with
          | some x => if b.life.after x.life then some b else m
          | none => some b) none
      match far with
      | some x =>
        if x.life.after v then
          let rest := l.filter (· ≠ x)
          rest ++ [spillAt rest x.life, ⟨v, false, x.reg⟩]
        else l ++ [spillAt l v]
      | none => l ++ [spillAt l v]

/-- Spill slots that the print at a share uses. -/
def Kernel.slotsAt (k : Kernel) (share : Nat) : Nat :=
  (k.lives.foldl (fun (acc : List Bound × Nat) v =>
    let l := scanStep share acc.1 v
    (l, (l.filter (·.spilled)).foldl (fun n b => max n (b.reg + b.life.elems)) acc.2)) ([], 0)).2

/-- Lanes of a wave (R58). -/
def Kernel.width (k : Kernel) : Nat := 32 * 2 ^ k.widthCode

/-- The reserve for a block of some waves (R238). -/
def Kernel.reserve (k : Kernel) (waves : Nat) : Nat :=
  min (k.slotsAt k.minshare) ((786432 - roundUp 128 k.bufBytes) / (waves * 4 * k.width))

/-! ## Locations (R238–R240) -/

/-- Whether a share binds with no spill, whatever the point (R236). -/
def Kernel.noSpill (k : Kernel) (share : Nat) : Bool := k.demand ≤ share && k.lives.all (·.elems = 1)

/-- Values that an entry of the scan evicts: those it moves from a register to a slot. -/
def movedOut (before after : List Bound) : List Bound :=
  after.filter fun b => b.spilled && before.any fun x => x.life = b.life && !x.spilled

/-- Where values stand at an offset from the entry, and those evicted just before it. -/
def Kernel.boundAt (k : Kernel) (share off : Nat) : List Bound × List Bound :=
  (k.lives.filter (·.start ≤ off)).foldl (fun acc v =>
    let l := scanStep share acc.1 v
    (l, if v.start = off then acc.2 ++ movedOut acc.1 l else acc.2)) ([], [])

/-- Slot of a symbolic register that is spilled. -/
def slotOf (l : List Bound) (off n : Nat) : Option Nat :=
  (l.find? fun b => b.spilled && off ≤ b.life.stop && b.life.num ≤ n && n < b.life.num + b.life.elems).map fun b => b.reg + (n - b.life.num)

/-- Slots that a unit reaches, and whether it writes them: those of the registers it names, with the same mark, and those of the values
that it evicts. -/
def Kernel.unitSlots (k : Kernel) (share off : Nat) (regs : List (Nat × Bool)) : List (Nat × Bool) :=
  let b := k.boundAt share off
  (b.2.flatMap fun v => (List.range v.life.elems).map fun j => (v.reg + j, true)) ++
  regs.filterMap fun r => (slotOf b.1 off r.1).map fun n => (n, r.2)

/-- Where a word of a symbolic register stands. -/
inductive Loc where
  | reg (m : Nat)
  | slot (n : Nat)
  deriving DecidableEq, Repr

/-- The words that are live at an offset from the entry, each with its place (R243). -/
def Kernel.locs (k : Kernel) (share off : Nat) : List (Nat × Loc) :=
  ((k.boundAt share off).1.filter fun b => off ≤ b.life.stop).flatMap fun b =>
    (List.range b.life.elems).map fun j => (b.life.num + j, if b.spilled then .slot (b.reg + j) else .reg (b.reg + j))

/-- Place of a word among those that are live. -/
def locOf (l : List (Nat × Loc)) (n : Nat) : Option Loc := (l.find? (·.1 = n)).map (·.2)

/-- Words among them that stand in slots: symbolic number and slot. -/
def slotWordsOf (l : List (Nat × Loc)) : List (Nat × Nat) := l.filterMap fun e => match e.2 with
  | .slot n => some (e.1, n)
  | .reg _ => none

/-- Values that the scan evicts at an offset, by symbolic number. -/
def Kernel.evictedAt (k : Kernel) (share off : Nat) : List Nat :=
  if k.noSpill share then []
  else (k.boundAt share off).2.flatMap fun v => (List.range v.life.elems).map (v.life.num + ·)

end Sys2Proof.Machine
end

