-- ==== Sys2Proof/Machine/Spill.lean ====
section
/-! DEFINITION. Spill slots: where they lie (R238), what a unit fills and stores (R239, R241), and the moves that follow a change of a
value's place (R240, R247; notes/assumptions/86.md). A split's symbolic registers hold their words whatever the print; a spilled one's slot
holds its word too, is written whenever the word or its place changes, and is what a unit that names it reads. -/
namespace Sys2Proof.Machine

/-! ## Where slots lie (R238) -/

/-- The spill area of a block: its kernel, its waves, its place in its grid, and the grid's local-memory window. -/
structure SpillArea where
  kernel : Kernel
  waves : Nat
  index : Nat
  lmem : Nat
  size : Nat

/-- A grid's block has its own window in that of its launch record, behind those of the blocks before it: the record names one for the grid,
and no block's slots are another's (DESIGN CHOICE, notes/assumptions/112.md). A method has none. -/
def State.spillArea (s : State) (b : Block) : SpillArea :=
  match s.gridOf b with
  | some g => ⟨g.kernel, g.rcd.waves, b.index, g.rcd.lmem.toNat, g.rcd.lmemsz.toNat⟩
  | none => ⟨s.kernelOf b, 1, 0, 0, 0⟩

/-- Bytes of a slot. -/
def SpillArea.row (a : SpillArea) : Nat := 4 * a.kernel.width

/-- Whether a slot lies in the scratchpad, and its offset there or in the window. -/
def SpillArea.near (a : SpillArea) (n : Nat) : Bool := n < a.kernel.reserve a.waves
def SpillArea.nearAt (a : SpillArea) (wid n : Nat) : Nat :=
  roundUp 128 a.kernel.bufBytes + (wid * a.kernel.reserve a.waves + n) * a.row
def SpillArea.farAt (a : SpillArea) (wid n : Nat) : Nat := (8192 * (a.index * a.waves + wid) + n) * a.row

/-- What keeps a slot from being reached: `none` where nothing does, and otherwise the page's failure, or none where the slot lies outside
the window or its page grants no such access (R241). The Bool says that it is written. -/
def State.slotBlocked (s : State) (b : Block) (a : SpillArea) (wid : Nat) (slot : Nat × Bool) : Option (Option (Nat × XFail)) :=
  if a.near slot.1 then none
  else
    let off := a.farAt wid slot.1
    let need := if slot.2 then needW else needR
    if a.size < off + a.row then some none
    else [a.lmem + off, a.lmem + off + a.row - 1].findSome? fun va => match (s.place b.core b.fn b.child va need).2 with
      | .error (.xlate x) => some (some (va, x))
      | .error _ => some none
      | .ok (.remote, _) => some none
      | .ok _ => none

/-! ## Rows read and written -/

/-- Bytes of memory read through a core's first-level cache, with the poison of each 8-byte word; the lines are brought in (R188). -/
def State.l1Bytes (s : State) (fn child core pa n : Nat) : State × List Byte × List Bool :=
  (linesIn pa n).foldl (fun acc line =>
    let s := acc.1
    let s := if (s.l1Line core (128 * line)).isSome then s.scrubWords fn [.l1 core line]
      else ((((s.scrub fn .mem (128 * line) 128).touchLine fn child line false).bookCore fn child core [(.line, 1)]).renew (.l1 core line))
    let l := (s.l1Line core (128 * line)).getD (s.lineNow core (128 * line))
    let lo := max pa (128 * line) - 128 * line
    let hi := min (pa + n) (128 * line + 128) - 128 * line
    (s.l1Use l, acc.2.1 ++ (l.data.drop lo).take (hi - lo), acc.2.2 ++ (l.poison.drop (lo / 8)).take ((hi - lo) / 8))) (s, [], [])

/-- A slot's bytes, and the poison of its 8-byte words; none where it cannot be reached. -/
def State.readRow (s : State) (b : Block) (a : SpillArea) (wid n : Nat) : State × Option (List Byte × List Bool) :=
  let bad := fun (m : Sp Bool) (at_ len : Nat) => (List.range (len / 8)).map fun i => spGet false m (at_ / 8 + i)
  if a.near n then
    let o := a.nearAt wid n
    match s.blockOf b.id with
    | none => (s, none)
    | some x =>
      let s := s.scrubWords b.fn ((wordsIn o a.row).map (.scr b.id))
      (s, some (Memory.read x.scratch o a.row, bad x.scrPoison o a.row))
  else if (s.slotBlocked b a wid (n, false)).isSome then (s, none)
  else
    (parts (a.lmem + a.farAt wid n) a.row).foldl (fun acc p =>
      match acc.2, acc.1.place b.core b.fn b.child p.1 needR with
      | some r, (s, .ok (.mem, pa)) =>
        let x := s.l1Bytes b.fn b.child b.core pa p.2
        (x.1, some (r.1 ++ x.2.1, r.2 ++ x.2.2))
      | some r, (s, .ok (sp, k)) =>
        let s := s.scrub b.fn sp k p.2
        (s, some (r.1 ++ (s.fetchAt sp k p.2).1, r.2 ++ bad s.cscrPoison k p.2))
      | _, (s, _) => (s, none)) (s, some ([], []))

/-- Whether the 8-byte word at an offset in a slot is poisoned. -/
def State.rowBad (s : State) (b : Block) (a : SpillArea) (wid n at_ : Nat) : Bool :=
  if a.near n then ((s.blockOf b.id).map fun x => spGet false x.scrPoison ((a.nearAt wid n + at_) / 8)).getD false
  else match (s.place b.core b.fn b.child (a.lmem + a.farAt wid n + at_) needR).2 with
    | .ok (sp, k) => (s.fetchAt sp (k / 8 * 8) 8).2
    | .error _ => false

/-- The poison of one word of memory or of cluster scratch, and of a core's copy of it, is as a write leaves it. -/
def State.markWord (s : State) (core : Nat) (sp : Space) (k : Nat) (bad : Bool) : State :=
  match sp with
  | .mem =>
    let f := fun (l : L1Line) => if l.core = core ∧ l.line = k / 128 then { l with poison := l.poison.set (k % 128 / 8) bad } else l
    { s with memPoison := spSet false s.memPoison (k / 8) bad, l1 := s.l1.map f }
  | .cscr _ => { s with cscrPoison := spSet false s.cscrPoison (k / 8) bad }
  | _ => s

/-- Bytes of one 8-byte word of a slot written at an offset in it, and the word's poison with them; nothing where it cannot be reached. -/
def State.writeRow (s : State) (b : Block) (a : SpillArea) (wid n at_ : Nat) (bs : List Byte) (bad : Bool) : State :=
  if a.near n then
    let o := a.nearAt wid n + at_
    s.mapBlock b.id fun x =>
      { x with scratch := Memory.write x.scratch o bs, scrPoison := spSet false x.scrPoison (o / 8) bad }
  else if (s.slotBlocked b a wid (n, true)).isSome then s
  else match s.place b.core b.fn b.child (a.lmem + a.farAt wid n + at_) needW with
    | (s, .ok (sp, k)) =>
      let s := s.markWord b.core sp k false
      let s := if sp = .mem then s.l1Store b.core k bs else s
      let s := s.storeAt b.fn sp k bs { flags := b.child }
      s.markWord b.core sp k bad
    | (s, .error _) => s

/-- Events of slots read or written: a `spill` event each, and the lines of those in local memory (R242). -/
def SpillArea.events (a : SpillArea) (l : List Nat) : List (Ev × Nat) :=
  let far := (l.filter fun n => !a.near n).length
  [(.spill, l.length)] ++ (if far = 0 then [] else [(.line, far * (a.row / 128))])

/-! ## What stands in slots (R239) -/

/-- A word of a symbolic register at the PC of a split, in a lane. -/
def Split.wordAt (sp : Split) (k : Kernel) (n i : Nat) : Word := if sp.keepsAt k n sp.pc then spGet 0 sp.vreg (128 * n + i) else 0
def Split.badAt (sp : Split) (k : Kernel) (n i : Nat) : Bool := sp.keepsAt k n sp.pc && sp.poisoned (.sym n) i

/-- A split's live words with their places. -/
def Split.locs (sp : Split) (k : Kernel) (share : Nat) : List (Nat × Loc) := k.locs share (k.offOf sp.pc)

/-- Every split of a wave and every side that waits behind a serial fork, with the symbolic registers that stand in slots there. -/
abbrev SlotParts := List (Split × List (Nat × Nat))

def slotParts (k : Kernel) (share : Nat) (l : List Split) : SlotParts :=
  if k.noSpill share then [] else (l.flatMap Split.parts).map fun sp => (sp, slotWordsOf (sp.locs k share))

def Wave.slotParts (w : Wave) (k : Kernel) : SlotParts := Machine.slotParts k w.share w.splits

/-- The word of a slot in a lane, poisoned or not, as the owner of the lane holds it; none where nothing of its stands there. -/
def SlotParts.at (ps : SlotParts) (k : Kernel) (slot i : Nat) : Option (Word × Bool) :=
  (ps.find? fun p => p.1.owned.getLsbD i).bind fun p =>
    (p.2.find? (·.2 = slot)).map fun e => (p.1.wordAt k e.1 i, p.1.badAt k e.1 i)

/-- The other lane of an 8-byte word. -/
def mateOf (i : Nat) : Nat := i / 2 * 2 + (1 - i % 2)

/-! ## Fills (R239) -/

/-- A lane of a spilled word as its slot holds it. Of an 8-byte word that two lanes share, the poison is that of the lanes whose register was
poisoned as it was stored; poison that neither had is new, and of both. -/
def Split.fillLane (sp : Split) (n i : Nat) (v : Word) (bad mate : Bool) : Split :=
  let own := sp.poisoned (.sym n) i
  { sp with vreg := spSet 0 sp.vreg (128 * n + i) v }.setPoison (.sym n) i (bad && (own || !mate))

/-- Words of a split filled from their slots, in the lanes that it owns; `ps` says what stood in the slots. -/
def State.fill (s : State) (b : Block) (a : SpillArea) (wid : Nat) (ps : SlotParts) (l : List (Nat × Nat)) (sp : Split) : State × Split :=
  l.foldl (fun acc e =>
    match acc.1.readRow b a wid e.2 with
    | (s, none) => (s, acc.2)
    | (s, some r) => (s, (lanesOf sp.owned).foldl (fun x i =>
        x.fillLane e.1 i (BitVec.ofNat 32 (ofLe ((r.1.drop (4 * i)).take 4))) (nth false r.2 (i / 2))
          (((ps.at a.kernel e.2 (mateOf i)).map (·.2)).getD false)) acc.2)) (s, sp)

/-! ## Moves (R240, R247) -/

/-- The part of a wave that held a lane before: of the split with a number where it owns the lane. -/
def Wave.laneHolder (w : Wave) (sid i : Nat) : Option Split :=
  let l := w.splits.flatMap Split.parts
  (l.find? fun sp => sp.sid = sid && sp.owned.getLsbD i).or (l.find? fun sp => sp.owned.getLsbD i)

/-- Words live at both of two points, in one interval, whose place changes; but for the evictions just before the second. Zeros written to
what is live at the second alone are no moves (DESIGN CHOICE, notes/assumptions/86.md). -/
def movedWords (k : Kernel) (was : Split) (l0 : List (Nat × Loc)) (share : Nat) (now : Split) (l1 : List (Nat × Loc)) : List (Nat × Loc) :=
  let out := k.evictedAt share (k.offOf now.pc)
  l0.filter fun e => k.keeps e.1 (some was.pc) now.pc && (locOf l1 e.1).any (· ≠ e.2) && !out.contains e.1

/-- The words of a part of a wave that move, with the places where they were. -/
def Wave.moved (old : Wave) (k : Kernel) (share : Nat) (sp : Split) : List (Nat × Loc) :=
  match (lowLane sp.owned).bind (old.laneHolder sp.sid) with
  | none => []
  | some was => movedWords k was (was.locs k old.share) share sp (sp.locs k share)

/-- A split's words that leave their slots, or go to others, are read from them, those of its sides as well; each element that is moved for a
split is booked (R242), but where a restore places them (R248). -/
def State.drawIn (s : State) (b : Block) (a : SpillArea) (restored : Bool) (old w : Wave) (sp : Split) : State × Split :=
  let n := ((sp.parts.flatMap fun x => (old.moved a.kernel w.share x).map (·.1)).eraseDups).length
  if n = 0 then (s, sp)
  else
    let ps := old.slotParts a.kernel
    let draw := fun (s : State) (x : Split) =>
      let l := old.moved a.kernel w.share x
      s.fill b a w.wid ps (slotWordsOf l) (if old.share = w.share then x else x.arrives (fun n => decide (n ∈ l.map (·.1))))
    let s := if restored then s else s.bookFor b [(.rebind, n)]
    let r := draw s sp
    let forks := sp.forks.foldl (fun (acc : State × List Fork) f => match f.side? with
      | none => (acc.1, acc.2 ++ [f])
      | some x => let t := draw acc.1 (x.on sp []); (t.1, acc.2 ++ [f.mapSide fun y => t.2.aside y.pc])) (r.1, [])
    (forks.1, { r.2 with forks := forks.2 })

/-- Lanes of one 8-byte word of a slot written: those whose word, or its place, has changed, and in a slot that the unit of an instruction
stores every lane of which something stands there (R239). A poisoned word that holds poison of neither lane keeps it where one is not
written. -/
def State.storePair (s : State) (b : Block) (a : SpillArea) (wid : Nat) (old new : SlotParts) (stored : Bool) (slot p : Nat) : State :=
  let now := fun (i : Nat) => new.at a.kernel slot i
  let word := fun (i : Nat) => match now i with | some x => x.1.toNat | none => 0
  let goes := fun (i : Nat) => (now i).isSome && (stored || now i ≠ old.at a.kernel slot i)
  let bad := fun (l : SlotParts) (i : Nat) => ((l.at a.kernel slot i).map (·.2)).getD false
  let pair := [2 * p, 2 * p + 1]
  match pair.filter goes with
  | [] => s
  | i :: l =>
    let strange := l.isEmpty && s.rowBad b a wid slot (8 * p) && !pair.any (bad old)
    s.writeRow b a wid slot (4 * i) ((i :: l).flatMap fun j => leBytes 4 (word j)) (pair.any (bad new) || strange)

/-- A slot brought up to date. -/
def State.storeSlot (s : State) (b : Block) (a : SpillArea) (wid : Nat) (old new : SlotParts) (stored : Bool) (slot : Nat) : State :=
  (List.range (a.kernel.width / 2)).foldl (fun s p => s.storePair b a wid old new stored slot p) s

/-- Whether no word of a wave stands in a slot. -/
def Wave.unspilled (w : Wave) (k : Kernel) : Bool :=
  k.noSpill w.share || (w.splits.flatMap Split.parts).all fun sp => (slotWordsOf (sp.locs k w.share)).isEmpty

/-- Whether nothing of a wave stands in a slot, or stood there, and its share is what it was. -/
def Wave.settled (w : Wave) (k : Kernel) (old : Option Wave) : Bool :=
  w.unspilled k && old.all fun o => o.unspilled k && o.share = w.share

/-- A wave as it stood in another state. -/
def State.waveOf (s : State) (blk wid : Nat) : Option Wave := (s.block? blk).bind fun x => x.waves.find? (·.wid = wid)

/-- A wave of a block brought up to date with its slots: every move reads before any writes. `stored` are slots that the unit of an
instruction stores. -/
def State.moveWave (s : State) (b : Block) (a : SpillArea) (restored : Bool) (stored : List Nat) (old : Option Wave) (w : Wave) : State :=
  if w.settled a.kernel old then s
  else
    let r := match old with
      | none => (s, w.splits)
      | some o => w.splits.foldl (fun acc sp => let r := acc.1.drawIn b a restored o w sp; (r.1, acc.2 ++ [r.2])) (s, [])
    let s := r.1.mapWave b.id w.wid fun x => { x with splits := r.2 }
    let new := { w with splits := r.2 }.slotParts a.kernel
    let was := (old.map fun o => o.slotParts a.kernel).getD []
    ((new.flatMap fun p => p.2.map (·.2)).eraseDups).foldl (fun s n => s.storeSlot b a w.wid was new (stored.contains n) n) s

/-- Slots that the unit of the instruction that has just issued stores: those it writes, but for a register that an operation in flight is
still to write, which reaches its slot when it completes (R239). -/
def State.storedSlots (s : State) : List Nat :=
  match s.cur with
  | none => []
  | some c =>
    let late := c.split.awaits.filterMap fun x => s.symDst x.1
    let held := (slotWordsOf (c.split.locs (s.kernelOf c.blk) c.wave.share)).filter fun e => late.contains e.1
    (c.slots.filter fun e => e.2 && !held.any (·.2 = e.1)).map (·.1)

/-- After a step: the slots of every block hold its spilled words. `before` is the device before the step; the split that issues stays the
one that it is. -/
def State.spills (before s : State) : State :=
  let u := s.unfocus
  let v := before.unfocus
  let busy := u.blocks.filter fun b => !b.waves.all fun w => w.settled (u.kernelOf b) (v.waveOf b.id w.wid)
  if busy.isEmpty then s
  else
    let mine := fun (b : Block) (w : Wave) => if s.cur.any fun c => c.blk.id = b.id && c.wave.wid = w.wid then s.storedSlots else []
    let t := busy.foldl (fun t b => b.waves.foldl (fun t w => t.moveWave b (u.spillArea b) ((v.block? b.id).any (·.phase ≠ .resident))
      (mine b w) (v.waveOf b.id w.wid) w) t) u
    match s.cur with
    | some c => t.focus c.blk.id c.wave.wid c.split.sid
    | none => t

end Sys2Proof.Machine
end

