-- ==== Sys2Proof/Machine/Issue.lean ====
section
/-! DEFINITION. The issue of one instruction: its decoding faults (R53, R54, R313, R360), the checks of its operands (R152), its
effect, its booking as one (R371), the advance of the counted distances (R56) and of the PC (R36, R37). -/
namespace Sys2Proof.Machine

/-- What an instruction whose checks have passed does. -/
inductive Res where
  /-- it takes effect, with the events it is charged besides issue; the wave goes on at the next instruction -/
  | done (s : State) (ev : List (Ev × Nat))
  /-- as `done`, and control goes to a PC -/
  | jump (s : State) (ev : List (Ev × Nat)) (target : Dword)
  /-- as `done`, and a trap is taken whose TRAP_PC names the next instruction (R151, R155) -/
  | trap (s : State) (ev : List (Ev × Nat)) (code : Nat) (info : Dword)
  /-- it takes effect, and has itself dealt with the split that issued (R140, R142) -/
  | gone (s : State) (ev : List (Ev × Nat))
  /-- as `gone`, and one of the sides goes to a PC (R139) -/
  | forked (s : State) (ev : List (Ev × Nat)) (target : Dword)
  /-- as `done`, by an instruction that has made its own booking -/
  | booked (s : State)
  /-- it faults with no effect (R60) -/
  | fault (code info : Nat)
  /-- as `fault`, with what a refusal leaves in the log (R368) -/
  | faultIn (s : State) (code info : Nat)
  /-- an address of it has no translation (R183, R287): virtual address, kind of the record, the failed walk, TRAP_INFO -/
  | xlate (s : State) (va kind : Nat) (x : XFail) (info : Nat)
  /-- it is held, and has not issued (R172, R173, R186) -/
  | hold
  /-- as `hold`, with the wave as the hold leaves it (R196) -/
  | holdIn (w : Wave)
  /-- it has issued and now waits (R173, R201, R250) -/
  | wait (s : State) (ev : List (Ev × Nat))

/-! ## PCs (R36) -/

/-- The bundle that holds an instruction. -/
def bundleOf (pc : Dword) : Dword := pc &&& ~~~31#64

/-- Word index of a PC. -/
def wordOf (pc : Dword) : Nat := if pc.toNat % 32 = 0 then 1 else pc.toNat % 32 / 4

/-- The PC of the instruction in word w of a bundle. -/
def pcOfWord (b : Dword) (w : Nat) : Dword := if w ≤ 1 then b else if 7 < w then b + 32 else b + BitVec.ofNat 64 (4 * w)

/-- Words of a form (R38). -/
def formWords : Form → Nat
  | .base _ => 1
  | .long (.lit _ _) => 3
  | .long (.ext _) => 3
  | .long (.extLit _ _) => 5

/-- LEN of a form. -/
def formLen : Form → Nat
  | .base _ => 0
  | .long (.lit _ _) => 1
  | .long (.ext _) => 2
  | .long (.extLit _ _) => 3

/-- PC of the instruction after one of n words. -/
def nextPc (pc : Dword) (n : Nat) : Dword := pcOfWord (bundleOf pc) (wordOf pc + n)

/-! ## Operations in flight -/

/-- Registers an operation in flight is still to write (R186, R206, R305, R348). -/
def OpKind.dsts (k : OpKind) : List RegId :=
  ((k.dst.map Dst.regs).getD []) ++ (match k with | .comb _ m _ _ _ _ _ => [.mask m] | _ => [])

/-- Lanes of an operation. -/
def Op.lanes (o : Op) : Mask := maskOf (o.items.map (·.lane))

/-- Whether an operation in flight is still to write a register of a split, and whether an access is then held whatever
STALLCHK says: ACCRD (R206), and what staging holds (R319, R404). -/
def State.awaited (s : State) (sp : Split) (r : RegId) : Option Bool :=
  let l := s.ops.filter fun o => o.kind.dsts.contains r && !o.complete &&
    (sp.awaits.any fun a => a.1 = o.id && (if r.perLane then o.lanes &&& sp.owned &&& ~~~a.2 ≠ 0 else !a.2.getLsbD 0))
  if l.isEmpty then none else some (l.any fun o => o.staged || (match o.kind with | .accrd _ _ => true | _ => false))

/-- A wave's in-flight counter of a path (R171, R172). -/
def State.count (s : State) (blk wid path : Nat) : Nat :=
  (s.ops.filter fun o => o.blk = blk && o.wid = wid && o.path = path).length

/-- An operation issued by the split that issues. -/
def State.addOp (s : State) (o : Op) : State :=
  match s.cur with
  | none => s
  | some c =>
    let o := { o with
      id := s.nextOp, blk := c.blk.id, wid := c.wave.wid, sid := c.split.sid, sids := [c.split.sid], fn := c.blk.fn
      child := c.blk.child, core := c.blk.core, pc := c.split.pc }
    let (s, o) := s.stampOp c.blk c.split.pc o
    let sp := { c.split with awaits := if o.kind.dsts.isEmpty then c.split.awaits else c.split.awaits ++ [(o.id, 0)] }
    let sp := o.kind.dsts.foldl Split.mark sp
    { s with nextOp := s.nextOp + 1, ops := s.ops ++ [o], cur := some { c with split := sp } }

/-! ## Decoding faults -/

/-- Level of privilege a wave holds now: 0 none, 1 tenant, 2 supervisor, 3 handler (R360). -/
def Wave.privilege (w : Wave) : Nat := if w.pre.isSome then 3 else w.level

/-- Opcodes that a method wave may issue (R313). -/
def methodMay (op : Nat) : Bool :=
  (op ≤ 0x09B && op ≠ 0x096) || (0x0A0 ≤ op && op ≤ 0x0A5) || op = 0x0A7 || (0x0B0 ≤ op && op ≤ 0x0B2) || op = 0x0C0 ||
  (0x0EB ≤ op && op ≤ 0x0EE)

/-- The non-memory ACCESS record (R156). -/
def accessInfo (op reason : Nat) : Nat := 2 ^ 63 + op * 256 + reason

/-- Whether an opcode is masked from a function (R361). -/
def State.opMasked (s : State) (fn op : Nat) : Bool :=
  bit (s.pr (0x810 + op / 64) fn 0 0).toNat (op % 64) && !(op = 0x000 || op = 0x096 || op = 0x099 || op = 0x102)

/-- The decoding fault of an assigned opcode, before its operands: MASKED_FEATURE, then ACCESS for role or privilege (R54). -/
def State.opcodeFault (s : State) (c : Cur) (op len : Nat) : Option (Nat × Nat) :=
  let role := (s.kernelOf c.blk).role
  let p := c.wave.privilege
  if s.opMasked c.blk.fn op then some (Fc.maskedFeature, len * 512 + op)
  else if 0x0EB ≤ op ∧ op ≤ 0x0EE ∧ role ≠ 1 then some (Fc.access, accessInfo op 1)
  else if c.blk.method.isSome ∧ !methodMay op then some (Fc.access, accessInfo op 6)
  else if (op = 0x102 ∨ op = 0x103) ∧ p ≠ 3 then some (Fc.access, accessInfo op 2)
  else if 0x100 ≤ op ∧ op ≤ 0x105 ∧ op ≠ 0x102 ∧ op ≠ 0x103 ∧ p ≠ 1 ∧ p ≠ 2 then some (Fc.access, accessInfo op 2)
  else none

/-- The limits on names in the block of the split that issues. -/
def State.limitsOf (s : State) (c : Cur) : Limits := (s.kernelOf c.blk).limits (s.tilesOf c.blk)

/-! ## Current reservations (R175, R273) -/

/-- A cluster's arbiter changed. -/
def State.setCluster (s : State) (cl : Nat) (k : Cluster) : State := { s with clusters := spSet {} s.clusters cl k }

/-- Units of a cluster that are reserved. -/
def Cluster.reserved (k : Cluster) : Nat := sumBy (·.2) k.held

/-- A request at the end of a cluster's queue, unless its owner has one or holds a reservation. -/
def State.request (s : State) (cl : Nat) (o : CurrentOwner) (units : Nat) : State :=
  let k := s.clusterOf cl
  if (k.queue.any fun r => r.1 = o) || (k.held.any fun r => r.1 = o) then s
  else s.setCluster cl { k with queue := k.queue ++ [(o, units)] }

/-- The burst of a quarter's vector pipe: who asks, and for how much (R175, R272). -/
def Cur.burst (c : Cur) : CurrentOwner := .burst c.blk.core c.wave.quarter
def burstUnits : Nat := 40

/-- The burst holds its reservation. -/
def State.burstHeld (s : State) (c : Cur) : Bool := (s.clusterOf (c.blk.core / 8)).held.any (·.1 = c.burst)

/-- Whether a vector instruction may start: its burst runs, or the arbiter grants it at once, as nothing is queued before it and the
unreserved budget covers it, or nothing is reserved (R175, R273). An executor asks no arbiter. -/
def State.burstFree (s : State) (c : Cur) : Bool :=
  let k := s.clusterOf (c.blk.core / 8)
  c.blk.method.isSome || s.burstHeld c || (k.queue.isEmpty && (k.reserved + burstUnits ≤ k.budget || k.held.isEmpty))

/-- The burst's reservation, where it is free. -/
def State.burst (s : State) (c : Cur) : State :=
  let k := s.clusterOf (c.blk.core / 8)
  if c.blk.method.isSome || s.burstHeld c then s else s.setCluster (c.blk.core / 8) { k with held := k.held ++ [(c.burst, burstUnits)] }

/-- The burst's request, where it must wait. -/
def State.askBurst (s : State) (c : Cur) : State := s.request (c.blk.core / 8) c.burst burstUnits

/-! ## The issue -/

/-- The split after it has issued an instruction: counted distances advance by the stall count, taken as at least 1 (R34,
R56). -/
def Cur.issued (c : Cur) (tick : Nat) : Cur :=
  { c with split := { c.split.advance (max c.split.cnt 1) with
      lastIssue := tick, run := .ready, started := false, arrived := false, since := 0 } }

/-- The split after an instruction that has not taken effect: it counts in no distance (R56, R60), and its unit stores nothing (R241). -/
def Cur.turned (c : Cur) (tick : Nat) : Cur := { c with slots := [], split := { c.split with lastIssue := tick, run := .ready } }

/-- The wave with one more instruction issued (R77), saturating (R71); a method's counts toward its batch's limit (R315). -/
def Cur.counted (c : Cur) : Cur :=
  if c.split.started then c
  else { c with
    wave := { c.wave with hangcnt := min (c.wave.hangcnt + 1) (2 ^ 32 - 1) }
    blk := { c.blk with method := c.blk.method.map fun m => { m with issued := m.issued + 1 } } }

/-- Control goes to a PC. -/
def Cur.at (c : Cur) (pc : Dword) : Cur := { c with split := { c.split with pc } }

/-- The end of an instruction that leaves its split in place. -/
def State.finish (s : State) (pc : Dword) : State :=
  { s with tick := s.tick + 1, cur := s.cur.map fun c => (c.issued s.tick).at pc }

/-- An instruction that faults is charged issue energy only, and the fault is delivered (R54, R60, R109). -/
def State.faulted (s : State) (c : Cur) (passes code info : Nat) : State :=
  let c := c.counted
  let s := if c.split.started then { s with cur := some c } else ({ s with cur := some c } : State).bookFor c.blk [(.issue, passes)]
  let s := { s with tick := s.tick + 1 }
  match s.cur with
  | none => s
  | some c => s.deliver (c.turned (s.tick - 1)) code c.split.pc (BitVec.ofNat 64 info)

/-- Whether a split has observed everything that its earlier accesses are to observe: none of its loads and atomics is under way. A release
covers the stores that the split has read, so the writes that it waits for are those issued until then (R196, R197;
notes/assumptions/115.md). -/
def State.observed (s : State) (c : Cur) : Bool :=
  !(s.ops.any fun o => o.blk = c.blk.id && o.wid = c.wave.wid && o.sids.contains c.split.sid && (o.kind.isLoad || o.kind.isAtom) &&
    !o.staged && !o.undone.isEmpty)

/-- A split held at its instruction, with the number of the first operation that came after it had observed what it waits for (R197). -/
def Split.hold (sp : Split) (nextOp : Nat) (observed : Bool) : Split :=
  { sp with run := .held, since := if sp.since = 0 ∧ observed = true then nextOp + 1 else sp.since }

/-- An instruction that cannot issue yet: the split is held at it. -/
def State.heldAt (s : State) (c : Cur) : State :=
  { s with cur := some { c with slots := [], split := c.split.hold s.nextOp (s.observed c) } }

/-- An instruction that has issued and now waits: its split took its turn as it issued, and is held at it (R163, R173). -/
def State.waits (s : State) (c : Cur) : State :=
  { s with
    tick := if c.split.started then s.tick else s.tick + 1
    cur := s.cur.map fun x => { x with split := { x.split with
      run := .held, started := true, lastIssue := if c.split.started then x.split.lastIssue else s.tick } } }

/-- Accesses that a release names are those numbered below this (R197). -/
def State.before (s : State) (c : Cur) : Nat := if c.split.since = 0 then s.nextOp else c.split.since - 1

/-- Events of an instruction's spill code (R242). -/
def State.spillEvents (s : State) (c : Cur) : List (Ev × Nat) := if c.slots.isEmpty then [] else (s.spillArea c.blk).events (c.slots.map (·.1))

/-- The booking of an instruction: one issue event per pass and the events of its class, as one (R371); none where it has been
booked before its wait. -/
def State.bookIssue (s : State) (c : Cur) (passes : Nat) (ev : List (Ev × Nat)) : State :=
  if c.split.started then s else s.bookFor c.blk ((.issue, passes) :: ev ++ s.spillEvents c)

/-- Passes of an instruction (R59). -/
def Spec.passes (sp : Spec) (r : Raw) (w : Nat) : Nat := if sp.scalar r || sp.wave then 1 else w / 32

/-- What comes of an instruction's result. -/
def State.conclude (s : State) (c : Cur) (passes words : Nat) : Res → State
  | .done s' ev => (s'.bookIssue c passes ev).finish (nextPc c.split.pc words)
  | .jump s' ev t => (s'.bookIssue c passes ev).finish t
  | .trap s' ev code info =>
    let s' := (s'.bookIssue c passes ev).finish (nextPc c.split.pc words)
    match s'.cur with
    | none => s'
    | some c' => s'.deliver c' code (nextPc c.split.pc words) info
  | .gone s' ev => { s'.bookIssue c passes ev with tick := max s'.tick (s.tick + 1) }
  | .forked s' ev _ => { s'.bookIssue c passes ev with tick := max s'.tick (s.tick + 1) }
  | .booked s' => s'.finish (nextPc c.split.pc words)
  | .fault code info => s.faulted c passes code info
  | .faultIn s' code info => s'.faulted c passes code info
  | .xlate s' va kind x info => s'.xlateFault c passes va kind x info fun s => s.faulted c passes Fc.xlate info
  | .hold => s.heldAt c
  | .holdIn w => s.heldAt { c with wave := { w with hangcnt := c.wave.hangcnt } }
  | .wait s' ev => (s'.bookIssue c passes ev).waits c

/-! ## Spill code (R239–R242) -/

/-- The grid aborts as a slot in local memory cannot be made accessible (R241); a method's batch does (R316). -/
def State.spillAbort (s : State) (c : Cur) (passes : Nat) (info : Dword) : State :=
  let c := c.counted
  let s := ({ s with cur := some c } : State).bookFor c.blk [(.issue, passes)]
  let s : State := { s with tick := s.tick + 1, cur := s.cur.map fun (x : Cur) => x.turned s.tick }
  match c.blk.method, s.cur with
  | some _, some c => s.deliver c Fc.access c.split.pc info
  | _, _ => s.gridAbort c.blk Fc.access c.split.pc c.wave.wid info

/-- What comes of slots of which one cannot be reached: the abort with reason 5, and the instruction has no effect; a page that is not
mapped is system-handled first (R241). -/
def State.slotStop (s : State) (c : Cur) (passes op : Nat) (slots : List (Nat × Bool)) : Option State :=
  (slots.findSome? (s.slotBlocked c.blk (s.spillArea c.blk) c.wave.wid)).map fun b =>
    let info := 2 ^ 63 + op * 2 ^ 8 + 5
    match b with
    | none => s.spillAbort c passes (BitVec.ofNat 64 info)
    | some (va, f) => s.xlateFault c passes va 0 f info fun s => s.spillAbort c passes (BitVec.ofNat 64 info)

/-- Slots that the unit of an instruction reaches, and whether it writes them. -/
def State.unitSlots (s : State) (c : Cur) (x : Ctx) : List (Nat × Bool) :=
  let k := s.kernelOf c.blk
  if k.noSpill c.wave.share then [] else k.unitSlots c.wave.share (k.offOf c.split.pc) x.names

/-- A unit whose slots in local memory cannot be reached. -/
def State.spillStop (s : State) (c : Cur) (passes op : Nat) (x : Ctx) : Option State := s.slotStop c passes op (s.unitSlots c x)

/-- Slots that the moves of a transfer to a PC read and write: those of the values live at the target whose place changes, or which
are live only there; but for what the instruction at the target evicts before it (R240). -/
def State.edgeSlots (s : State) (c : Cur) (t : Dword) : List (Nat × Bool) :=
  let k := s.kernelOf c.blk
  let l0 := c.split.locs k c.wave.share
  let l1 := ({ c.split with pc := t } : Split).locs k c.wave.share
  (l1.filter fun e => !(k.evictedAt c.wave.share (k.offOf t)).contains e.1).flatMap fun e =>
    let was := if k.keeps e.1 (some c.split.pc) t then locOf l0 e.1 else none
    if was = some e.2 then []
    else (match was with | some (.slot n) => [(n, false)] | _ => []) ++ (match e.2 with | .slot n => [(n, true)] | _ => [])

/-- A transfer with a move that cannot be made has no effect (R240, R241). -/
def State.edgeStop (s : State) (c : Cur) (passes op : Nat) (t : Dword) : Option State :=
  s.slotStop c passes op (s.edgeSlots c t)

/-- Whether no register word of a wave has an error that no read has found. -/
def Cur.flawless (c : Cur) : Bool := (c.split :: c.wave.splits).all fun sp => sp.parts.all (·.flaw.isEmpty)

/-- What reading registers finds: a single-bit error is corrected and counted, and an uncorrectable one of a lane that is masked off is logged
and leaves its word poisoned (R81, R82). A per-lane register's words of the lanes of other splits, and of sides set aside, are read and
masked off too. -/
def State.readRegs (s : State) (act : Mask) (regs : List RegId) : State :=
  match s.cur with
  | none => s
  | some c =>
    if c.flawless then s
    else
      let lanes := regs.filter RegId.perLane
      let others := c.split.parts.drop 1 ++ c.wave.splits.flatMap Split.parts
      let soft := (c.split.softHits regs).length + sumBy (fun (x : Split) => (x.softHits lanes).length) others
      let hard := (c.split.hardHits act regs).length + sumBy (fun (x : Split) => (x.hardHits 0 lanes).length) others
      let aside := fun (x : Split) => x.everywhere fun y => y.readsWords 0 lanes
      let mine := { c.split with forks := (aside c.split).forks }
      let sp := (mine.readsWords act regs).setStatus (if hard = 0 then 0 else 2)
      let s : State := { s with cur := some { c with split := sp, wave := { c.wave with splits := c.wave.splits.map aside } } }
      let s := if soft = 0 then s else s.countCE c.blk.fn soft
      (List.range hard).foldl (fun s _ => s.logErr c.blk.fn (s.errOf c.blk 0x71 0 c.wave.wid c.split.pc 0) true) s

/-- The fills of the unit of an instruction, a spilled source from its slot, and the reads of its registers (R239). -/
def State.prepare (s : State) (x : Ctx) : State :=
  match s.cur with
  | none => s
  | some c =>
    let k := s.kernelOf c.blk
    let slots := s.unitSlots c x
    let here := (k.boundAt c.wave.share (k.offOf c.split.pc)).1
    let fills := if slots.isEmpty then []
      else x.names.filterMap fun e => if e.2 then none else (slotOf here (k.offOf c.split.pc) e.1).map fun n => (e.1, n)
    let filled := if fills.isEmpty then (s, c.split)
      else s.fill c.blk (s.spillArea c.blk) c.wave.wid (slotParts k c.wave.share (c.split :: c.wave.splits)) fills c.split
    ({ filled.1 with cur := filled.1.cur.map fun y => { y with split := filled.2, slots } } : State).readRegs x.act
      (x.reads.map (·.2))

/-- An instruction whose operands stand ready: ECC_UNCORRECTED (R82), the wait of a vector instruction for its burst (R175), and its
effect. -/
def State.runs (s : State) (c : Cur) (passes op words : Nat) (x : Ctx) (body : State → Cur → Ctx → Res) : State :=
  match x.ecc c.split with
  | some info => s.faulted c passes Fc.ecc info
  | none =>
    if !x.once && !s.burstFree c then (s.askBurst c).heldAt c
    else
      let s' := { s with cur := some c.counted }
      let r := body (if x.once then s' else s'.burst c) c.counted x
      match (match r with | .jump _ _ t => s.edgeStop c passes op t | .forked _ _ t => s.edgeStop c passes op t | _ => none) with
      | some t => t
      | none => s.conclude c passes words r

/-- The issue of an instruction of an assigned opcode by the split `c`. -/
def State.issueBy (s : State) (c : Cur) (op : Nat) (f : Form) (spec : Nat → Spec) (body : State → Cur → Ctx → Res) : State :=
  let raw := Raw.of (spec 0).b.isSome f
  let sp := spec raw.m
  let passes := sp.passes raw c.wave.width
  match s.opcodeFault c op raw.len with
  | some (code, info) => s.faulted c passes code info
  | none => match sp.defect (s.limitsOf c) raw with
    | some info => s.faulted c passes Fc.operandClass info
    | none => match sp.context (s.limitsOf c) (s.awaited c.split) c.wave.width op raw c.split with
      | .error (.fault code info) => s.faulted c passes code info
      | .error .hold => s.heldAt c
      | .ok x => match s.spillStop c passes op x with
        | some t => t
        | none => match (s.prepare x).cur with
          | none => s
          | some c => (s.prepare x).runs c passes op (formWords f) x body

/-- The issue of an instruction of an assigned opcode; nothing issues where no split is chosen. -/
def State.issueOp (s : State) (op : Nat) (f : Form) (spec : Nat → Spec) (body : State → Cur → Ctx → Res) :
    Host.Outcome State Fault Refusal :=
  match s.cur with
  | none => .next s
  | some c => .next (s.issueBy c op f spec body)

end Sys2Proof.Machine
end

