-- ==== Sys2Proof/Machine/Shapes.lean ====
section
/-! DEFINITION. The common shapes of the instructions that act only on registers: one value per active lane or one for the
wave, written at its latency and charged by its class (R46, R55, R107, R109). -/
namespace Sys2Proof.Machine

/-- The split that issues, changed, with the events of its instruction. -/
def doneWith (s : State) (c : Cur) (sp : Split) (ev : List (Ev × Nat)) : Res :=
  .done { s with cur := some { c with split := sp } } ev

/-- The events of a class: one where the instruction executes once, also on an empty path (DESIGN CHOICE, notes/assumptions/117.md), or one per
active lane, two for a 64-bit result (R109). -/
def Ctx.charge (x : Ctx) (ev : Ev) : List (Ev × Nat) :=
  if x.once then [(ev, 1)]
  else if x.lanes.isEmpty then []
  else [(ev, x.lanes.length * (if x.dWide then 2 else 1))]

/-- Lanes that a result is computed for: the active lanes, or lane 0 standing for the wave. -/
def Ctx.sites (x : Ctx) : List Nat := if x.once then [0] else x.lanes

/-- A result on its way to an operand; a 64-bit one to both halves. -/
def Split.result (sp : Split) (o : Opnd) (wide : Bool) (vals : List (Nat × Nat)) (lat : Nat) : Split :=
  if vals.isEmpty then sp
  else match o.regs wide with
    | [] => sp
    | [r] => sp.put r (vals.map fun v => (v.1, BitVec.ofNat 64 (v.2 % 2 ^ 32))) lat
    | r :: r' :: _ => (sp.put r (vals.map fun v => (v.1, BitVec.ofNat 64 (v.2 % 2 ^ 32))) lat).put r'
        (vals.map fun v => (v.1, BitVec.ofNat 64 (v.2 / 2 ^ 32 % 2 ^ 32))) lat

/-- An instruction that computes one value per site and writes it to D. -/
def laneOp (ev : Ev) (f : Ctx → Split → Nat → Nat) (s : State) (c : Cur) (x : Ctx) : Res :=
  doneWith s c (c.split.result x.d x.dWide (x.sites.map fun i => (i, f x c.split i)) x.lat) (x.charge ev)

/-- An instruction that computes one bit per active lane and writes it to the mask D. -/
def maskOp (ev : Ev) (f : Ctx → Split → Nat → Bool) (s : State) (c : Cur) (x : Ctx) : Res :=
  doneWith s c (c.split.result x.d false (x.lanes.map fun i => (i, b2n (f x c.split i))) x.lat) (x.charge ev)

/-! ## Stochastic rounding (R98–R100) -/

/-- The lane whose generator an instruction's site draws from: the lane itself, or for a scalar instruction the lowest lane the
split owns. -/
def Ctx.drawLane (x : Ctx) (sp : Split) (i : Nat) : Nat := if x.once then (lowLane sp.owned).getD 0 else i

/-- The generators after n draws at each of these sites. -/
def Split.drawn (sp : Split) (x : Ctx) (sites : List Nat) (n : Nat) : Split :=
  sites.foldl (fun sp i => sp.set .rseed (x.drawLane sp i)
    ((drawAfter n ((sp.read .rseed (x.drawLane sp i)).setWidth 32)).setWidth 64)) sp

/-- An instruction that rounds: where RND is `.rs` it draws n values at each site, whatever the element there (R100; DESIGN CHOICE for NaN,
notes/assumptions/28.md). `f` is given the draws. -/
def roundOp (ev : Ev) (rs : Bool) (n : Nat) (f : Ctx → Split → Nat → (Nat → Nat) → Nat) (s : State) (c : Cur) (x : Ctx) : Res :=
  let sp := if rs then c.split.drawn x x.sites n else c.split
  let v := fun i => f x c.split i fun k => if rs then c.split.drawAt (x.drawLane c.split i) k else 0
  doneWith s c (sp.result x.d x.dWide (x.sites.map fun i => (i, v i)) x.lat) (x.charge ev)

/-! ## Floating operands (R43) -/

/-- The value of a floating source: a small integer stands for its value, `zero` for +0, any other operand for its code. -/
def Split.fval (sp : Split) (x : Ctx) (o : Opnd) (t : FTy) (i : Nat) : FV :=
  match o with
  | .small v => FV.ofInt v
  | .zero => .zero
  | o => t.decode (t.daz x.mode) (sp.value o false x.lit i).toNat

/-- Element e of a packed 16-bit source (R117). -/
def Split.elem (sp : Split) (x : Ctx) (o : Opnd) (t : FTy) (e i : Nat) : FV :=
  match o with
  | .small v => FV.ofInt v
  | .zero => .zero
  | o => t.decode (t.daz x.mode) ((sp.value o false x.lit i).toNat / 2 ^ (16 * e) % 2 ^ 16)

end Sys2Proof.Machine
end

