-- ==== Sys2Proof/Machine/IntAlu.lean ====
section
/-! DEFINITION. The integer and bit instructions, opcodes 0x001–0x01C (R110–R112). -/
namespace Sys2Proof.Machine

/-! ## Fields and operands -/

/-- Layout V fields within what an instruction accepts: TYPE in a list, RND, CMP and SUB at most these. -/
def vOk (m : Nat) (types : List Nat) (rnd cmp sub : Nat) : Bool :=
  types.contains (Mod.type m) && Mod.rnd m ≤ rnd && Mod.cmp m ≤ cmp && Mod.sub m ≤ sub

/-- The eight integer types, and code 0 for `b32`. -/
def allInt : List Nat := [0, 1, 2, 3, 4, 5, 6, 7, 8]

/-- The integer type of an instruction. -/
def Ctx.ty (x : Ctx) : IntTy := intTy (Mod.type x.m)

/-- SUB 1 of the instructions with `.sat`. -/
def Ctx.sat (x : Ctx) : Bool := Mod.sub x.m = 1

/-- D, A. -/
def specInt1 (types : List Nat) (sub : Nat) (m : Nat) : Spec :=
  let w := wideTy (Mod.type m)
  { d := some (Slot.dst w), a := some (Slot.int w), mOk := vOk m types 0 0 sub, lat := 4, slat := 2 }

/-- D, A, B of the type. -/
def specInt2 (types : List Nat) (sub : Nat) (m : Nat) : Spec :=
  { specInt1 types sub m with b := some (Slot.int (wideTy (Mod.type m))) }

/-- D, A of the type and a 32-bit B (R107). -/
def specShift (m : Nat) : Spec := { specInt1 allInt 0 m with b := some (Slot.int) }

/-- One value per site from the values of A. -/
def int1 (ev : Ev) (f : IntTy → Bool → Nat → Nat) : State → Cur → Ctx → Res :=
  laneOp ev fun x sp i => f x.ty x.sat (x.vA sp i)

/-- One value per site from the values of A and B. -/
def int2 (ev : Ev) (f : IntTy → Bool → Nat → Nat → Nat) : State → Cur → Ctx → Res :=
  laneOp ev fun x sp i => f x.ty x.sat (x.vA sp i) (x.vB sp i)

/-- One value per site from the values of A, B and C. -/
def int3 (ev : Ev) (f : IntTy → Nat → Nat → Nat → Nat) : State → Cur → Ctx → Res :=
  laneOp ev fun x sp i => f x.ty (x.vA sp i) (x.vB sp i) (x.vC sp i)

/-! ## Results (R110, R111) -/

def addRes (t : IntTy) (sat : Bool) (a b : Nat) : Nat := t.result sat (t.val a + t.val b)
def subRes (t : IntTy) (sat : Bool) (a b : Nat) : Nat := t.result sat (t.val a - t.val b)
def mulRes (t : IntTy) (_ : Bool) (a b : Nat) : Nat := t.out (t.val a * t.val b)
def mulhRes (t : IntTy) (_ : Bool) (a b : Nat) : Nat := t.out (t.val a * t.val b / 2 ^ t.n)
def madRes (t : IntTy) (a b c : Nat) : Nat := t.out (t.val a * t.val b + t.val c)
def minRes (t : IntTy) (_ : Bool) (a b : Nat) : Nat := t.out (if t.val a ≤ t.val b then t.val a else t.val b)
def maxRes (t : IntTy) (_ : Bool) (a b : Nat) : Nat := t.out (if t.val a ≤ t.val b then t.val b else t.val a)
def absRes (t : IntTy) (sat : Bool) (a : Nat) : Nat := t.result sat (if t.val a < 0 then -t.val a else t.val a)
def negRes (t : IntTy) (sat : Bool) (a : Nat) : Nat := t.result sat (-t.val a)
def andRes (t : IntTy) (_ : Bool) (a b : Nat) : Nat := t.out (t.bits a &&& t.bits b : Nat)
def orRes (t : IntTy) (_ : Bool) (a b : Nat) : Nat := t.out (t.bits a ||| t.bits b : Nat)
def xorRes (t : IntTy) (_ : Bool) (a b : Nat) : Nat := t.out (t.bits a ^^^ t.bits b : Nat)

/-- NOT of the n bits. -/
def notBitsOf (t : IntTy) (a : Nat) : Nat := 2 ^ t.n - 1 - t.bits a
def andnRes (t : IntTy) (_ : Bool) (a b : Nat) : Nat := t.out (t.bits a &&& notBitsOf t b : Nat)
def notRes (t : IntTy) (_ : Bool) (a : Nat) : Nat := t.out (notBitsOf t a)

/-- SHL, SHR, SAR and ROTL by the 32-bit b. -/
def shlRes (t : IntTy) (_ : Bool) (a b : Nat) : Nat := t.out (if b < t.n then (t.bits a <<< b : Nat) else 0)
def shrRes (t : IntTy) (_ : Bool) (a b : Nat) : Nat := t.out (if b < t.n then (t.bits a >>> b : Nat) else 0)
def sarRes (t : IntTy) (_ : Bool) (a b : Nat) : Nat := t.out (sx t.n a / 2 ^ min b (t.n - 1))
def rotlRes (t : IntTy) (_ : Bool) (a b : Nat) : Nat :=
  let r := b % t.n
  t.out ((t.bits a <<< r ||| t.bits a >>> (t.n - r) : Nat))

/-- The field of c<7:0> bits at b<7:0> of a, widened by the type's rule. -/
def bfxRes (t : IntTy) (a b c : Nat) : Nat :=
  let pos := min (b % 256) t.n
  let len := min (c % 256) t.n
  if len = 0 then 0
  else
    let f := wrap len (t.val a / 2 ^ pos)
    t.out (if t.signed then sx len f else f)

/-- The field a of c<15:8> bits placed at c<7:0> of the base b. -/
def bfiRes (t : IntTy) (a b c : Nat) : Nat :=
  let pos := min (c % 256) t.n
  let len := min (c / 256 % 256) (t.n - pos)
  let field := t.bits a % 2 ^ len * 2 ^ pos
  let base := t.bits b
  t.out ((base / 2 ^ (pos + len) * 2 ^ (pos + len) + field + base % 2 ^ pos : Nat))

def popcRes (t : IntTy) (_ : Bool) (a : Nat) : Nat := t.out (popcount t.n a)
def clzRes (t : IntTy) (_ : Bool) (a : Nat) : Nat :=
  let v := t.bits a
  t.out (if v = 0 then t.n else (t.n - 1 - Nat.log2 v : Nat))
def brevRes (t : IntTy) (_ : Bool) (a : Nat) : Nat := t.out (bitrev t.n a)

/-- One byte of PRMT: a byte of b:a by the low three bits of a selector, or its sign where bit 3 is set. -/
def prmtByte (a b s : Nat) : Nat :=
  let x := (a % 2 ^ 32 + b % 2 ^ 32 * 2 ^ 32) / 2 ^ (8 * (s % 8)) % 256
  if bit s 3 then (if 128 ≤ x then 255 else 0) else x

def prmtRes (_ : IntTy) (a b c : Nat) : Nat :=
  sumBy (fun j => prmtByte a b (c / 2 ^ (4 * j) % 16) * 2 ^ (8 * j)) [0, 1, 2, 3]

/-- A 64-bit base plus the index b shifted by c<5:0>. -/
def leaRes (t : IntTy) (a b c : Nat) : Nat := wrap 64 (a + t.val b * 2 ^ (c % 64))

/-! ## Instructions -/

/-- IADD (R110). -/
def execIadd (f : Short) (s : State) : Host.Outcome State Fault Refusal :=
  s.issueOp 0x001 (.base f) (specInt2 allInt 1) (int2 .int addRes)

/-- IADD (R110). -/
def execIaddLong (f : Long) (s : State) : Host.Outcome State Fault Refusal :=
  s.issueOp 0x001 (.long f) (specInt2 allInt 1) (int2 .int addRes)

/-- ISUB (R110). -/
def execIsub (f : Short) (s : State) : Host.Outcome State Fault Refusal :=
  s.issueOp 0x002 (.base f) (specInt2 allInt 1) (int2 .int subRes)

/-- ISUB (R110). -/
def execIsubLong (f : Long) (s : State) : Host.Outcome State Fault Refusal :=
  s.issueOp 0x002 (.long f) (specInt2 allInt 1) (int2 .int subRes)

/-- IMUL (R110). -/
def execImul (f : Short) (s : State) : Host.Outcome State Fault Refusal :=
  s.issueOp 0x003 (.base f) (specInt2 allInt 0) (int2 .intmul mulRes)

/-- IMUL (R110). -/
def execImulLong (f : Long) (s : State) : Host.Outcome State Fault Refusal :=
  s.issueOp 0x003 (.long f) (specInt2 allInt 0) (int2 .intmul mulRes)

/-- IMULH (R110). -/
def execImulh (f : Short) (s : State) : Host.Outcome State Fault Refusal :=
  s.issueOp 0x004 (.base f) (specInt2 allInt 0) (int2 .intmul mulhRes)

/-- IMULH (R110). -/
def execImulhLong (f : Long) (s : State) : Host.Outcome State Fault Refusal :=
  s.issueOp 0x004 (.long f) (specInt2 allInt 0) (int2 .intmul mulhRes)

/-- D, A, B and C of the type. -/
def specMad (m : Nat) : Spec := { specInt2 allInt 0 m with c := some (Slot.int (wideTy (Mod.type m))) }

/-- IMAD (R110). -/
def execImad (f : Form) (s : State) : Host.Outcome State Fault Refusal :=
  s.issueOp 0x005 f (specMad) (int3 .intmul madRes)

/-- IMIN (R110). -/
def execImin (f : Short) (s : State) : Host.Outcome State Fault Refusal :=
  s.issueOp 0x006 (.base f) (specInt2 allInt 0) (int2 .int minRes)

/-- IMIN (R110). -/
def execIminLong (f : Long) (s : State) : Host.Outcome State Fault Refusal :=
  s.issueOp 0x006 (.long f) (specInt2 allInt 0) (int2 .int minRes)

/-- IMAX (R110). -/
def execImax (f : Short) (s : State) : Host.Outcome State Fault Refusal :=
  s.issueOp 0x007 (.base f) (specInt2 allInt 0) (int2 .int maxRes)

/-- IMAX (R110). -/
def execImaxLong (f : Long) (s : State) : Host.Outcome State Fault Refusal :=
  s.issueOp 0x007 (.long f) (specInt2 allInt 0) (int2 .int maxRes)

/-- IABS (R110). -/
def execIabs (f : Form) (s : State) : Host.Outcome State Fault Refusal :=
  s.issueOp 0x008 f (specInt1 [1, 2, 3, 4] 1) (int1 .int absRes)

/-- INEG takes `.sat` with the `i` types alone. -/
def specIneg (m : Nat) : Spec :=
  specInt1 allInt (if [1, 2, 3, 4].contains (Mod.type m) then 1 else 0) m

/-- INEG (R110). -/
def execIneg (f : Short) (s : State) : Host.Outcome State Fault Refusal :=
  s.issueOp 0x009 (.base f) (specIneg) (int1 .int negRes)

/-- INEG (R110). -/
def execInegLong (f : Long) (s : State) : Host.Outcome State Fault Refusal :=
  s.issueOp 0x009 (.long f) (specIneg) (int1 .int negRes)

/-- D and a kC of k0–k15 that is read and written; never a scalar instruction (R112). -/
def specIaddc (m : Nat) : Spec :=
  { d := some Slot.dstLane, a := some (Slot.int), b := some (Slot.int), c := some Slot.kreg, cWrite := true
    notScalar := true, mOk := vOk m [0, 3, 7] 0 0 1, lat := 4 }

/-- The mask register number of an operand. -/
def Opnd.maskNum : Opnd → Nat
  | .mask n => n
  | _ => 0

/-- Each lane's sum and carry, or difference and borrow, by SUB. -/
def bodyIaddc (s : State) (c : Cur) (x : Ctx) : Res :=
  let k := c.split.readMask x.c.maskNum
  let r := fun i =>
    let a := x.vA c.split i % 2 ^ 32
    let b := x.vB c.split i % 2 ^ 32
    if x.sat then borrowSub a b (b2n (k.getLsbD i)) else carryAdd a b (b2n (k.getLsbD i))
  let sp := c.split.result x.d false (x.sites.map fun i => (i, (r i).1)) x.lat
  doneWith s c (sp.result x.c false (x.sites.map fun i => (i, b2n (r i).2)) x.lat) (x.charge .int)

/-- IADDC (R112). -/
def execIaddc (f : Form) (s : State) : Host.Outcome State Fault Refusal :=
  s.issueOp 0x00A f (specIaddc) bodyIaddc

/-- AND (R110). -/
def execAndBits (f : Short) (s : State) : Host.Outcome State Fault Refusal :=
  s.issueOp 0x00B (.base f) (specInt2 allInt 0) (int2 .int andRes)

/-- AND (R110). -/
def execAndBitsLong (f : Long) (s : State) : Host.Outcome State Fault Refusal :=
  s.issueOp 0x00B (.long f) (specInt2 allInt 0) (int2 .int andRes)

/-- OR (R110). -/
def execOrBits (f : Short) (s : State) : Host.Outcome State Fault Refusal :=
  s.issueOp 0x00C (.base f) (specInt2 allInt 0) (int2 .int orRes)

/-- OR (R110). -/
def execOrBitsLong (f : Long) (s : State) : Host.Outcome State Fault Refusal :=
  s.issueOp 0x00C (.long f) (specInt2 allInt 0) (int2 .int orRes)

/-- XOR (R110). -/
def execXorBits (f : Short) (s : State) : Host.Outcome State Fault Refusal :=
  s.issueOp 0x00D (.base f) (specInt2 allInt 0) (int2 .int xorRes)

/-- XOR (R110). -/
def execXorBitsLong (f : Long) (s : State) : Host.Outcome State Fault Refusal :=
  s.issueOp 0x00D (.long f) (specInt2 allInt 0) (int2 .int xorRes)

/-- ANDN (R110). -/
def execAndn (f : Short) (s : State) : Host.Outcome State Fault Refusal :=
  s.issueOp 0x00E (.base f) (specInt2 allInt 0) (int2 .int andnRes)

/-- ANDN (R110). -/
def execAndnLong (f : Long) (s : State) : Host.Outcome State Fault Refusal :=
  s.issueOp 0x00E (.long f) (specInt2 allInt 0) (int2 .int andnRes)

/-- NOT (R110). -/
def execNotBits (f : Short) (s : State) : Host.Outcome State Fault Refusal :=
  s.issueOp 0x00F (.base f) (specInt1 allInt 0) (int1 .int notRes)

/-- NOT (R110). -/
def execNotBitsLong (f : Long) (s : State) : Host.Outcome State Fault Refusal :=
  s.issueOp 0x00F (.long f) (specInt1 allInt 0) (int1 .int notRes)

/-- SHL (R111). -/
def execShl (f : Short) (s : State) : Host.Outcome State Fault Refusal :=
  s.issueOp 0x010 (.base f) (specShift) (int2 .int shlRes)

/-- SHL (R111). -/
def execShlLong (f : Long) (s : State) : Host.Outcome State Fault Refusal :=
  s.issueOp 0x010 (.long f) (specShift) (int2 .int shlRes)

/-- SHR (R111). -/
def execShr (f : Short) (s : State) : Host.Outcome State Fault Refusal :=
  s.issueOp 0x011 (.base f) (specShift) (int2 .int shrRes)

/-- SHR (R111). -/
def execShrLong (f : Long) (s : State) : Host.Outcome State Fault Refusal :=
  s.issueOp 0x011 (.long f) (specShift) (int2 .int shrRes)

/-- SAR (R111). -/
def execSar (f : Short) (s : State) : Host.Outcome State Fault Refusal :=
  s.issueOp 0x012 (.base f) (specShift) (int2 .int sarRes)

/-- SAR (R111). -/
def execSarLong (f : Long) (s : State) : Host.Outcome State Fault Refusal :=
  s.issueOp 0x012 (.long f) (specShift) (int2 .int sarRes)

/-- ROTL (R111). -/
def execRotl (f : Short) (s : State) : Host.Outcome State Fault Refusal :=
  s.issueOp 0x013 (.base f) (specShift) (int2 .int rotlRes)

/-- ROTL (R111). -/
def execRotlLong (f : Long) (s : State) : Host.Outcome State Fault Refusal :=
  s.issueOp 0x013 (.long f) (specShift) (int2 .int rotlRes)

/-- BFX: A of the type, 32-bit position B and length C. -/
def specBfx (m : Nat) : Spec := { specShift m with c := some (Slot.int) }

/-- BFI: A and B of the type, and a 32-bit C. -/
def specBfi (m : Nat) : Spec := { specInt2 allInt 0 m with c := some (Slot.int) }

/-- BFX (R111). -/
def execBfx (f : Form) (s : State) : Host.Outcome State Fault Refusal :=
  s.issueOp 0x014 f (specBfx) (int3 .int bfxRes)

/-- BFI (R111). -/
def execBfi (f : Form) (s : State) : Host.Outcome State Fault Refusal :=
  s.issueOp 0x015 f (specBfi) (int3 .int bfiRes)

/-- POPC (R110). -/
def execPopc (f : Short) (s : State) : Host.Outcome State Fault Refusal :=
  s.issueOp 0x016 (.base f) (specInt1 allInt 0) (int1 .int popcRes)

/-- POPC (R110). -/
def execPopcLong (f : Long) (s : State) : Host.Outcome State Fault Refusal :=
  s.issueOp 0x016 (.long f) (specInt1 allInt 0) (int1 .int popcRes)

/-- CLZ (R110). -/
def execClz (f : Short) (s : State) : Host.Outcome State Fault Refusal :=
  s.issueOp 0x017 (.base f) (specInt1 allInt 0) (int1 .int clzRes)

/-- CLZ (R110). -/
def execClzLong (f : Long) (s : State) : Host.Outcome State Fault Refusal :=
  s.issueOp 0x017 (.long f) (specInt1 allInt 0) (int1 .int clzRes)

/-- BREV (R110). -/
def execBrev (f : Short) (s : State) : Host.Outcome State Fault Refusal :=
  s.issueOp 0x018 (.base f) (specInt1 allInt 0) (int1 .int brevRes)

/-- BREV (R110). -/
def execBrevLong (f : Long) (s : State) : Host.Outcome State Fault Refusal :=
  s.issueOp 0x018 (.long f) (specInt1 allInt 0) (int1 .int brevRes)

/-- PRMT: three 32-bit sources. -/
def specPrmt (m : Nat) : Spec := { specInt2 [0, 7] 0 m with c := some (Slot.int) }

/-- LEA: 64-bit D and A, 32-bit B and C. -/
def specLea (m : Nat) : Spec :=
  { d := some (Slot.dst true), a := some (Slot.int true), b := some (Slot.int), c := some (Slot.int)
    mOk := vOk m [0, 3, 7] 0 0 0, lat := 4, slat := 2 }

/-- PRMT (R111). -/
def execPrmt (f : Form) (s : State) : Host.Outcome State Fault Refusal :=
  s.issueOp 0x019 f (specPrmt) (int3 .int prmtRes)

/-- LEA (R111). -/
def execLea (f : Form) (s : State) : Host.Outcome State Fault Refusal :=
  s.issueOp 0x01A f (specLea) (int3 .int leaRes)

/-- A mask destination and two sources of the type; CMP 0–5 (R112). -/
def specIcmp (m : Nat) : Spec :=
  let w := wideTy (Mod.type m)
  { d := some Slot.mask, a := some (Slot.int w), b := some (Slot.int w), notScalar := true
    mOk := vOk m allInt 0 5 0, lat := 4 }

/-- The comparison in each active lane. -/
def bodyIcmp : State → Cur → Ctx → Res :=
  maskOp .int fun x sp i => cmpInt (Mod.cmp x.m) (x.ty.val (x.vA sp i)) (x.ty.val (x.vB sp i))

/-- ICMP (R112). -/
def execIcmp (f : Form) (s : State) : Host.Outcome State Fault Refusal :=
  s.issueOp 0x01B f (specIcmp) bodyIcmp

/-- SEL: sources of the type under any mask; never a scalar instruction (R112). -/
def specSel (m : Nat) : Spec :=
  let w := wideTy (Mod.type m)
  { d := some (Slot.dstLane w), a := some (Slot.int w), b := some (Slot.int w), c := some Slot.mask
    notScalar := true, mOk := vOk m [0, 7, 8] 0 0 0, lat := 4 }

/-- a where the mask bit is set, else b. -/
def bodySel : State → Cur → Ctx → Res :=
  laneOp .int fun x sp i =>
    if (sp.readMask x.c.maskNum).getLsbD i then x.vA sp i else x.vB sp i

/-- SEL (R112). -/
def execSel (f : Form) (s : State) : Host.Outcome State Fault Refusal :=
  s.issueOp 0x01C f (specSel) bodySel

end Sys2Proof.Machine
end

