-- ==== Sys2Proof/Machine/FloatAlu.lean ====
section
/-! DEFINITION. The floating-point instructions, opcodes 0x020–0x031 (R113–R116). -/
namespace Sys2Proof.Machine

/-- FP32 as an element type. -/
def f32 : FTy := .float fp32

/-- D, A of FP32; RND up to the accepted code (R113). -/
def specF1 (rnd lat : Nat) (m : Nat) : Spec :=
  { d := some (Slot.dst), a := some Slot.fp, mOk := vOk m [0, 9] rnd 0 0, rs := Mod.rnd m = 5, lat, slat := lat }

/-- D, A, B of FP32. -/
def specF2 (rnd lat : Nat) (m : Nat) : Spec := { specF1 rnd lat m with b := some Slot.fp }

/-- The sum is −0 under RD where it is zero (R92). -/
def Ctx.rd (x : Ctx) : Bool := Mod.rnd x.m = 4

/-- One rounded result per site, from the sources' values (R103). -/
def fpOp (ev : Ev) (f : Bool → FV → FV → FV → FX) (s : State) (c : Cur) (x : Ctx) : Res :=
  roundOp ev (Mod.rnd x.m = 5) 1 (fun x sp i d =>
    (f x.rd (sp.fval x x.a f32 i) (sp.fval x x.b f32 i) (sp.fval x x.c f32 i)).to32 x.mode (Mod.rnd x.m) (d 0)) s c x

/-- An integral value by the mode, keeping the sign of zero (R113). -/
def frndFV (rnd d : Nat) (v : FV) : FV :=
  match v with
  | .fin n m e => if 0 ≤ e then v else .fin n (Mag.steps ⟨m, e, false⟩ 0 rnd d n) 0
  | v => v

/-- a · 2^b; beyond ±1,000 the power gives what ±1,000 gives, an overflow or a vanishing result. -/
def scaleFV (v : FV) (b : Int) : FV :=
  match v with
  | .fin n m e => .fin n m (e + clampI (-1000) 1000 b)
  | v => v

/-- The FP32 code of a floating source as it stands: no DAZ (R116). -/
def Split.fraw (sp : Split) (x : Ctx) (o : Opnd) (i : Nat) : Nat :=
  match o with
  | .small v => f32.write 0 1 0 (FV.ofInt v)
  | o => (sp.value o false x.lit i).toNat

/-- FADD (R113). -/
def execFadd (f : Short) (s : State) : Host.Outcome State Fault Refusal :=
  s.issueOp 0x020 (.base f) (specF2 5 6) (fpOp .fp fun rd a b _ => (addFV rd a b).toFX)

/-- FADD (R113). -/
def execFaddLong (f : Long) (s : State) : Host.Outcome State Fault Refusal :=
  s.issueOp 0x020 (.long f) (specF2 5 6) (fpOp .fp fun rd a b _ => (addFV rd a b).toFX)

/-- FSUB (R113). -/
def execFsub (f : Short) (s : State) : Host.Outcome State Fault Refusal :=
  s.issueOp 0x021 (.base f) (specF2 5 6) (fpOp .fp fun rd a b _ => (addFV rd a b.neg).toFX)

/-- FSUB (R113). -/
def execFsubLong (f : Long) (s : State) : Host.Outcome State Fault Refusal :=
  s.issueOp 0x021 (.long f) (specF2 5 6) (fpOp .fp fun rd a b _ => (addFV rd a b.neg).toFX)

/-- FMUL (R113). -/
def execFmul (f : Short) (s : State) : Host.Outcome State Fault Refusal :=
  s.issueOp 0x022 (.base f) (specF2 5 6) (fpOp .fp fun _ a b _ => (mulFV a b).toFX)

/-- FMUL (R113). -/
def execFmulLong (f : Long) (s : State) : Host.Outcome State Fault Refusal :=
  s.issueOp 0x022 (.long f) (specF2 5 6) (fpOp .fp fun _ a b _ => (mulFV a b).toFX)

/-- D, A, B, C of FP32. -/
def specFfma (m : Nat) : Spec := { specF2 5 6 m with c := some Slot.fp }

/-- FFMA: the product is never rounded (R103, R113). -/
def execFfma (f : Form) (s : State) : Host.Outcome State Fault Refusal :=
  s.issueOp 0x023 f (specFfma) (fpOp .fp fun rd a b c => (fmaFV rd a b c).toFX)

/-- FMIN (R113). -/
def execFmin (f : Short) (s : State) : Host.Outcome State Fault Refusal :=
  s.issueOp 0x024 (.base f) (specF2 0 6) (fpOp .fp fun _ a b _ => (minMaxFV false a b).toFX)

/-- FMIN (R113). -/
def execFminLong (f : Long) (s : State) : Host.Outcome State Fault Refusal :=
  s.issueOp 0x024 (.long f) (specF2 0 6) (fpOp .fp fun _ a b _ => (minMaxFV false a b).toFX)

/-- FMAX (R113). -/
def execFmax (f : Short) (s : State) : Host.Outcome State Fault Refusal :=
  s.issueOp 0x025 (.base f) (specF2 0 6) (fpOp .fp fun _ a b _ => (minMaxFV true a b).toFX)

/-- FMAX (R113). -/
def execFmaxLong (f : Long) (s : State) : Host.Outcome State Fault Refusal :=
  s.issueOp 0x025 (.long f) (specF2 0 6) (fpOp .fp fun _ a b _ => (minMaxFV true a b).toFX)

/-- A mask destination and two FP32 sources; CMP 0–7 (R115). -/
def specFcmp (m : Nat) : Spec :=
  { d := some Slot.mask, a := some Slot.fp, b := some Slot.fp, notScalar := true, mOk := vOk m [0, 9] 0 7 0, lat := 6 }

/-- The comparison in each active lane. -/
def bodyFcmp : State → Cur → Ctx → Res :=
  maskOp .fp fun x sp i => cmpFloat (Mod.cmp x.m) (sp.fval x x.a f32 i) (sp.fval x x.b f32 i)

/-- FCMP (R115). -/
def execFcmp (f : Form) (s : State) : Host.Outcome State Fault Refusal :=
  s.issueOp 0x026 f (specFcmp) bodyFcmp

/-- FRCP (R103, R113, R114). -/
def execFrcp (f : Short) (s : State) : Host.Outcome State Fault Refusal :=
  s.issueOp 0x027 (.base f) (specF1 0 12) (fpOp .fpfn fun _ a _ _ => divFV (.fin false 1 0) a)

/-- FRCP (R103, R113, R114). -/
def execFrcpLong (f : Long) (s : State) : Host.Outcome State Fault Refusal :=
  s.issueOp 0x027 (.long f) (specF1 0 12) (fpOp .fpfn fun _ a _ _ => divFV (.fin false 1 0) a)

/-- FRSQ (R103, R113, R114). -/
def execFrsq (f : Short) (s : State) : Host.Outcome State Fault Refusal :=
  s.issueOp 0x028 (.base f) (specF1 0 12) (fpOp .fpfn fun _ a _ _ => rsqrtFV a)

/-- FRSQ (R103, R113, R114). -/
def execFrsqLong (f : Long) (s : State) : Host.Outcome State Fault Refusal :=
  s.issueOp 0x028 (.long f) (specF1 0 12) (fpOp .fpfn fun _ a _ _ => rsqrtFV a)

/-- FSQRT (R103, R113, R114). -/
def execFsqrt (f : Short) (s : State) : Host.Outcome State Fault Refusal :=
  s.issueOp 0x029 (.base f) (specF1 5 12) (fpOp .fpfn fun _ a _ _ => sqrtFV a)

/-- FSQRT (R103, R113, R114). -/
def execFsqrtLong (f : Long) (s : State) : Host.Outcome State Fault Refusal :=
  s.issueOp 0x029 (.long f) (specF1 5 12) (fpOp .fpfn fun _ a _ _ => sqrtFV a)

/-- FEXP2 (R103, R113, R114). -/
def execFexp2 (f : Short) (s : State) : Host.Outcome State Fault Refusal :=
  s.issueOp 0x02A (.base f) (specF1 0 12) (fpOp .fpfn fun _ a _ _ => exp2FV a)

/-- FEXP2 (R103, R113, R114). -/
def execFexp2Long (f : Long) (s : State) : Host.Outcome State Fault Refusal :=
  s.issueOp 0x02A (.long f) (specF1 0 12) (fpOp .fpfn fun _ a _ _ => exp2FV a)

/-- FLOG2 (R103, R113, R114). -/
def execFlog2 (f : Short) (s : State) : Host.Outcome State Fault Refusal :=
  s.issueOp 0x02B (.base f) (specF1 0 12) (fpOp .fpfn fun _ a _ _ => log2FV a)

/-- FLOG2 (R103, R113, R114). -/
def execFlog2Long (f : Long) (s : State) : Host.Outcome State Fault Refusal :=
  s.issueOp 0x02B (.long f) (specF1 0 12) (fpOp .fpfn fun _ a _ _ => log2FV a)

/-- FTANH (R103, R113, R114). -/
def execFtanh (f : Short) (s : State) : Host.Outcome State Fault Refusal :=
  s.issueOp 0x02C (.base f) (specF1 0 12) (fpOp .fpfn fun _ a _ _ => tanhFV a)

/-- FTANH (R103, R113, R114). -/
def execFtanhLong (f : Long) (s : State) : Host.Outcome State Fault Refusal :=
  s.issueOp 0x02C (.long f) (specF1 0 12) (fpOp .fpfn fun _ a _ _ => tanhFV a)

/-- FSIGM (R103, R113, R114). -/
def execFsigm (f : Short) (s : State) : Host.Outcome State Fault Refusal :=
  s.issueOp 0x02D (.base f) (specF1 0 12) (fpOp .fpfn fun _ a _ _ => sigmFV a)

/-- FSIGM (R103, R113, R114). -/
def execFsigmLong (f : Long) (s : State) : Host.Outcome State Fault Refusal :=
  s.issueOp 0x02D (.long f) (specF1 0 12) (fpOp .fpfn fun _ a _ _ => sigmFV a)

/-- The rounding to an integral value (R113). -/
def bodyFrnd (s : State) (c : Cur) (x : Ctx) : Res :=
  roundOp .fp (Mod.rnd x.m = 5) 1 (fun x sp i d =>
    (frndFV (Mod.rnd x.m) (d 0) (sp.fval x x.a f32 i)).toFX.to32 x.mode 1 0) s c x

/-- FRND (R113). -/
def execFrnd (f : Short) (s : State) : Host.Outcome State Fault Refusal :=
  s.issueOp 0x02E (.base f) (specF1 5 6) bodyFrnd

/-- FRND (R113). -/
def execFrndLong (f : Long) (s : State) : Host.Outcome State Fault Refusal :=
  s.issueOp 0x02E (.long f) (specF1 5 6) bodyFrnd

/-- FSCALE: B is an integer source read as `i32` (R113). -/
def specFscale (m : Nat) : Spec := { specF1 5 6 m with b := some (Slot.int) }

/-- a · 2^b rounded once. -/
def bodyFscale (s : State) (c : Cur) (x : Ctx) : Res :=
  roundOp .fp (Mod.rnd x.m = 5) 1 (fun x sp i d =>
    (scaleFV (sp.fval x x.a f32 i) (sx 32 (x.vB sp i))).toFX.to32 x.mode (Mod.rnd x.m) (d 0)) s c x

/-- FSCALE (R113). -/
def execFscale (f : Short) (s : State) : Host.Outcome State Fault Refusal :=
  s.issueOp 0x02F (.base f) (specFscale) bodyFscale

/-- FSCALE (R113). -/
def execFscaleLong (f : Long) (s : State) : Host.Outcome State Fault Refusal :=
  s.issueOp 0x02F (.long f) (specFscale) bodyFscale

/-- FCLASS: a mask destination, an FP32 source and an integer source (R116). -/
def specFclass (m : Nat) : Spec :=
  { d := some Slot.mask, a := some Slot.fp, b := some (Slot.int), notScalar := true, mOk := vOk m [0, 9] 0 0 0, lat := 6 }

/-- The bit of b that a's class selects, in each active lane. -/
def bodyFclass : State → Cur → Ctx → Res :=
  maskOp .fp fun x sp i => bit (x.vB sp i) (classOf32 (sp.fraw x x.a i))

/-- FCLASS (R116). -/
def execFclass (f : Form) (s : State) : Host.Outcome State Fault Refusal :=
  s.issueOp 0x030 f (specFclass) bodyFclass

/-- FDIV (R113). -/
def execFdiv (f : Short) (s : State) : Host.Outcome State Fault Refusal :=
  s.issueOp 0x031 (.base f) (specF2 5 12) (fpOp .fpfn fun _ a b _ => divFV a b)

/-- FDIV (R113). -/
def execFdivLong (f : Long) (s : State) : Host.Outcome State Fault Refusal :=
  s.issueOp 0x031 (.long f) (specF2 5 12) (fpOp .fpfn fun _ a b _ => divFV a b)

end Sys2Proof.Machine
end

