-- ==== Sys2Proof/Machine/Convert.lean ====
section
/-! DEFINITION. The packed 16-bit instructions (opcodes 0x040–0x045, R117) and the conversions (0x050–0x054, R118–R121). -/
namespace Sys2Proof.Machine

/-! ## Packed 16-bit -/

/-- The packed element type: FP16 for TYPE 10, else BF16. -/
def Ctx.pkTy (x : Ctx) : FTy := .float (if Mod.type x.m = 10 then fp16 else bf16)

/-- D, A, B packed. -/
def specPk (rnd : Nat) (m : Nat) : Spec :=
  { d := some (Slot.dst), a := some Slot.fp, b := some Slot.fp, mOk := vOk m [0, 10, 11] rnd 0 0
    rs := Mod.rnd m = 5, lat := 6, slat := 6 }

/-- D, A, B, C. -/
def specPk3 (m : Nat) : Spec := { specPk 5 m with c := some Slot.fp }

/-- One rounded result per element; the draws go to element 0 and then element 1. -/
def pkOp (f : Bool → FV → FV → FV → FV) (s : State) (c : Cur) (x : Ctx) : Res :=
  roundOp .pk16 (Mod.rnd x.m = 5) 2 (fun x sp i d =>
    sumBy (fun e => x.pkTy.write x.mode (Mod.rnd x.m) (d e) (f x.rd (sp.elem x x.a x.pkTy e i) (sp.elem x x.b x.pkTy e i)
      (sp.elem x x.c x.pkTy e i)) * 2 ^ (16 * e)) [0, 1]) s c x

/-- PADD (R117). -/
def execPadd (f : Short) (s : State) : Host.Outcome State Fault Refusal :=
  s.issueOp 0x040 (.base f) (specPk 5) (pkOp fun rd a b _ => addFV rd a b)

/-- PADD (R117). -/
def execPaddLong (f : Long) (s : State) : Host.Outcome State Fault Refusal :=
  s.issueOp 0x040 (.long f) (specPk 5) (pkOp fun rd a b _ => addFV rd a b)

/-- PMUL (R117). -/
def execPmul (f : Short) (s : State) : Host.Outcome State Fault Refusal :=
  s.issueOp 0x041 (.base f) (specPk 5) (pkOp fun _ a b _ => mulFV a b)

/-- PMUL (R117). -/
def execPmulLong (f : Long) (s : State) : Host.Outcome State Fault Refusal :=
  s.issueOp 0x041 (.long f) (specPk 5) (pkOp fun _ a b _ => mulFV a b)

/-- PFMA (R117). -/
def execPfma (f : Form) (s : State) : Host.Outcome State Fault Refusal :=
  s.issueOp 0x042 f (specPk3) (pkOp fun rd a b c => fmaFV rd a b c)

/-- PMAX (R117). -/
def execPmax (f : Short) (s : State) : Host.Outcome State Fault Refusal :=
  s.issueOp 0x043 (.base f) (specPk 0) (pkOp fun _ a b _ => minMaxFV true a b)

/-- PMAX (R117). -/
def execPmaxLong (f : Long) (s : State) : Host.Outcome State Fault Refusal :=
  s.issueOp 0x043 (.long f) (specPk 0) (pkOp fun _ a b _ => minMaxFV true a b)

/-- PMIN (R117). -/
def execPmin (f : Short) (s : State) : Host.Outcome State Fault Refusal :=
  s.issueOp 0x044 (.base f) (specPk 0) (pkOp fun _ a b _ => minMaxFV false a b)

/-- PMIN (R117). -/
def execPminLong (f : Long) (s : State) : Host.Outcome State Fault Refusal :=
  s.issueOp 0x044 (.long f) (specPk 0) (pkOp fun _ a b _ => minMaxFV false a b)

/-- c + a.0 · b.0 + a.1 · b.1 summed exactly and rounded once into FP32; C is FP32. -/
def bodyPdot2 (s : State) (c : Cur) (x : Ctx) : Res :=
  roundOp .pk16 (Mod.rnd x.m = 5) 1 (fun x sp i d =>
    let e := fun k => mulFV (sp.elem x x.a x.pkTy k i) (sp.elem x x.b x.pkTy k i)
    f32.write x.mode (Mod.rnd x.m) (d 0) (sumFV x.rd [sp.fval x x.c f32 i, e 0, e 1])) s c x

/-- PDOT2 (R117). -/
def execPdot2 (f : Form) (s : State) : Host.Outcome State Fault Refusal :=
  s.issueOp 0x045 f (specPk3) bodyPdot2

/-! ## Conversions -/

/-- Layout X fields within what an instruction accepts. -/
def xOk (m : Nat) (dts sts : List Nat) (rnd sub : Nat) : Bool :=
  dts.contains (Mod.dtype m) && sts.contains (Mod.stype m) && Mod.xrnd m ≤ rnd && Mod.xsub m ≤ sub

/-- The type codes 1–17. -/
def allTypes : List Nat := (List.range 17).map (· + 1)

/-- CVT: SUB 1 (`.sat`) where both types are integers (R118). -/
def specCvt (m : Nat) : Spec :=
  let ints := Mod.dtype m ≤ 8 && Mod.stype m ≤ 8
  { d := some (Slot.dst (wideTy (Mod.dtype m)))
    a := some (if Mod.stype m ≤ 8 then Slot.int (wideTy (Mod.stype m)) else Slot.fp)
    mOk := xOk m allTypes allTypes 5 (if ints then 1 else 0)
    rs := Mod.xrnd m = 5 && !ints, lat := 6, slat := 6 }

/-- The value of an element type's code, or the integer. -/
def Ctx.cvtValue (x : Ctx) (sp : Split) (i : Nat) : FV :=
  match ftyOf (Mod.stype x.m) with
  | some t => sp.fval x x.a t i
  | none => FV.ofInt ((intTy (Mod.stype x.m)).val (x.vA sp i))

/-- The conversion of one value. -/
def Ctx.convert (x : Ctx) (sp : Split) (i d : Nat) : Nat :=
  match ftyOf (Mod.dtype x.m), ftyOf (Mod.stype x.m) with
  | some t, _ => t.write x.mode (Mod.xrnd x.m) d (x.cvtValue sp i)
  | none, some _ =>
    let t := intTy (Mod.dtype x.m)
    t.out ((x.cvtValue sp i).toInt t.n t.signed (Mod.xrnd x.m) d)
  | none, none =>
    (intTy (Mod.dtype x.m)).result (Mod.xsub x.m = 1) ((intTy (Mod.stype x.m)).val (x.vA sp i))

/-- One conversion per site; a conversion between integers rounds nothing and draws nothing. -/
def bodyCvt (s : State) (c : Cur) (x : Ctx) : Res :=
  roundOp .cvt (Mod.xrnd x.m = 5 && !(Mod.dtype x.m ≤ 8 && Mod.stype x.m ≤ 8)) 1
    (fun x sp i d => x.convert sp i (d 0)) s c x

/-- CVT (R118). -/
def execCvt (f : Form) (s : State) : Host.Outcome State Fault Refusal :=
  s.issueOp 0x050 f (specCvt) bodyCvt

/-- MXQ: a per-lane D (R119), which `zero` counts as (notes/assumptions/97.md). -/
def specMxq (m : Nat) : Spec :=
  { d := some Slot.dstLane, a := some Slot.fp, notScalar := true
    mOk := xOk m [12, 13, 14, 15, 16, 17] [0, 9, 10, 11] 5 0, rs := Mod.xrnd m = 5, lat := 8 }

/-- The element type of a type code that names one, FP32 for code 0. -/
def ftyOr32 (code : Nat) : FTy := (ftyOf code).getD f32

/-- The FTZ bit of an element type. -/
def FTy.ftz (t : FTy) (mode : Nat) : Bool := match t with | .float f => ftzOf mode f.cls | .mxi8 => false

/-- The 32 values of a group, +0 for a lane that is not active. -/
def Ctx.mxVals (x : Ctx) (sp : Split) (g : Nat) : List FV :=
  (List.range 32).map fun t =>
    if x.act.getLsbD (32 * g + t) then sp.fval x x.a (ftyOr32 (Mod.stype x.m)) (32 * g + t) else .zero

/-- The results of one group, by lane. -/
def Ctx.mxGroup (x : Ctx) (sp : Split) (g : Nat) : List (Nat × Nat) :=
  let t := ftyOr32 (Mod.dtype x.m)
  let vs := (x.mxVals sp g).zipIdx.map fun p => (p.1, if Mod.xrnd x.m = 5 then sp.drawAt (32 * g + p.2) 0 else 0)
  let (scale, qs) := mxQuantise t (t.ftz x.mode) (Mod.xrnd x.m) vs
  (qs.zipIdx.map fun q => (32 * g + q.2, scale * 256 + q.1)).filter fun r => x.act.getLsbD r.1

/-- Each pass's 32 lanes become one MX block. An active lane whose block is rounded draws once under `.rs`. -/
def bodyMxq (s : State) (c : Cur) (x : Ctx) : Res :=
  let groups := (List.range (x.w / 32)).filter fun g => (List.range 32).any fun t => x.act.getLsbD (32 * g + t)
  let drawing := x.lanes.filter fun i => mxRounds (x.mxVals c.split (i / 32))
  let sp := if Mod.xrnd x.m = 5 then c.split.drawn x drawing 1 else c.split
  doneWith s c (sp.result x.d false (groups.flatMap (x.mxGroup c.split)) x.lat) (x.charge .mx)

/-- MXQ (R96, R119). -/
def execMxq (f : Form) (s : State) : Host.Outcome State Fault Refusal :=
  s.issueOp 0x051 f (specMxq) bodyMxq

/-- MXD: SUB 1 takes the scale from B (R120). -/
def specMxd (m : Nat) : Spec :=
  { d := some (Slot.dst), a := some (Slot.int), b := if Mod.xsub m = 0 then none else some (Slot.int)
    mOk := xOk m [9, 10, 11] [12, 13, 14, 15, 16, 17] 5 1, rs := Mod.xrnd m = 5, lat := 6, slat := 6 }

/-- The element scaled and rounded once; A carries raw bits. -/
def bodyMxd (s : State) (c : Cur) (x : Ctx) : Res :=
  roundOp .cvt (Mod.xrnd x.m = 5) 1 (fun x sp i d =>
    let t := ftyOr32 (Mod.stype x.m)
    let scale := if Mod.xsub x.m = 1 then x.vB sp i % 256 else x.vA sp i / 256 % 256
    (ftyOr32 (Mod.dtype x.m)).write x.mode (Mod.xrnd x.m) (d 0)
      (mxValue (t.decode (t.daz x.mode) (x.vA sp i)) scale)) s c x

/-- MXD (R95, R120). In LEN 01 the literal stands for A where SUB is 0, which it is there. -/
def execMxd (f : Form) (s : State) : Host.Outcome State Fault Refusal :=
  s.issueOp 0x052 f specMxd bodyMxd

/-- Bits of a slot of an element type (R121). -/
def slotBits (code : Nat) : Nat :=
  match code with
  | 1 => 8 | 2 => 16 | 5 => 8 | 6 => 16 | 10 => 16 | 11 => 16 | 12 => 8 | 13 => 8 | 14 => 6 | 15 => 6 | 16 => 4 | _ => 8

/-- Slots of a lane. -/
def slotCount (bits : Nat) : Nat := if bits = 16 then 2 else if bits = 4 then 8 else 4

/-- The element types of PACK and UNPK. -/
def slotTypes : List Nat := [1, 2, 5, 6, 10, 11, 12, 13, 14, 15, 16, 17]

/-- UNPK: D, A, B. -/
def specUnpk (m : Nat) : Spec :=
  { d := some (Slot.dst), a := some (Slot.int), b := some (Slot.int), mOk := xOk m slotTypes [0] 0 0, lat := 6, slat := 6 }

/-- PACK: D, A, B, C. -/
def specPack (m : Nat) : Spec := { specUnpk m with c := some (Slot.int) }

/-- b with slot c mod k replaced by the low bits of a. -/
def packRes (code a b c : Nat) : Nat :=
  let n := slotBits code
  let o := n * (c % slotCount n)
  b / 2 ^ (o + n) * 2 ^ (o + n) + a % 2 ^ n * 2 ^ o + b % 2 ^ o

/-- Slot b mod k of a. -/
def unpkRes (code a b : Nat) : Nat :=
  let n := slotBits code
  a / 2 ^ (n * (b % slotCount n)) % 2 ^ n

/-- PACK (R121). -/
def execPack (f : Form) (s : State) : Host.Outcome State Fault Refusal :=
  s.issueOp 0x053 f (specPack) (laneOp .cvt fun x sp i => packRes (Mod.dtype x.m) (x.vA sp i) (x.vB sp i) (x.vC sp i))

/-- UNPK (R121). -/
def execUnpk (f : Form) (s : State) : Host.Outcome State Fault Refusal :=
  s.issueOp 0x054 f (specUnpk) (laneOp .cvt fun x sp i => unpkRes (Mod.dtype x.m) (x.vA sp i) (x.vB sp i))

end Sys2Proof.Machine
end

