-- ==== Sys2Proof/Machine/CrossLane.lean ====
section
/-! DEFINITION. The cross-lane instructions (opcodes 0x060–0x065, R104, R122–R124). They act on the active lanes L, also where
L is empty, and are never scalar instructions (R46). -/
namespace Sys2Proof.Machine

/-- One value for D computed from L: written per lane, or once to a scalar where L is not empty (R122). -/
def crossOp (f : Ctx → Split → Nat → Nat) (s : State) (c : Cur) (x : Ctx) : Res :=
  let sites := match x.d with | .scal _ => x.lanes.take 1 | _ => x.lanes
  let at0 := fun i => match x.d with | .scal _ => 0 | _ => i
  doneWith s c (c.split.result x.d x.dWide (sites.map fun i => (at0 i, f x c.split i)) x.lat) (x.charge .xlane)

/-! ## SHFL and BCAST -/

/-- SHFL: D per lane, A of the type, a 32-bit B; SUB 0–3. -/
def specShfl (m : Nat) : Spec :=
  let w := wideTy (Mod.type m)
  { d := some (Slot.dstLane w), a := some (Slot.int w), b := some (Slot.int), notScalar := true
    mOk := vOk m [0, 7, 8] 0 0 3, lat := 8 }

/-- The lane that SHFL names, in 32-bit arithmetic. -/
def shflLane (mode i b : Nat) : Nat :=
  match mode with
  | 0 => b
  | 1 => wrap 32 ((i : Int) - b)
  | 2 => (i + b) % 2 ^ 32
  | _ => i ^^^ b

/-- The named lane's value where it is in L, else the lane's own. -/
def bodyShfl : State → Cur → Ctx → Res :=
  crossOp fun x sp i =>
    let j := shflLane (Mod.sub x.m) i (x.vB sp i)
    x.vA sp (if x.lanes.contains j then j else i)

/-- SHFL (R123). -/
def execShfl (f : Short) (s : State) : Host.Outcome State Fault Refusal := s.issueOp 0x060 (.base f) specShfl bodyShfl

/-- SHFL (R123). -/
def execShflLong (f : Long) (s : State) : Host.Outcome State Fault Refusal := s.issueOp 0x060 (.long f) specShfl bodyShfl

/-- BCAST: a uniform B. -/
def specBcast (m : Nat) : Spec :=
  let w := wideTy (Mod.type m)
  { d := some (Slot.dst w), a := some (Slot.int w), b := some (Slot.uni), notScalar := true, mix := true
    mOk := vOk m [0, 7, 8] 0 0 0, lat := 8 }

/-- The value of lane b where it is in L, else 0. -/
def bodyBcast : State → Cur → Ctx → Res :=
  crossOp fun x sp _ => let j := x.vB sp 0; if x.lanes.contains j then x.vA sp j else 0

/-- BCAST (R123). -/
def execBcast (f : Short) (s : State) : Host.Outcome State Fault Refusal := s.issueOp 0x061 (.base f) specBcast bodyBcast

/-- BCAST (R123). -/
def execBcastLong (f : Long) (s : State) : Host.Outcome State Fault Refusal := s.issueOp 0x061 (.long f) specBcast bodyBcast

/-! ## VOTE -/

/-- VOTE: A may be a mask; D a scalar or a mask, and a mask alone for `.ballot` (R124). D `zero`, which R124 does not name, is accepted and
discards the result (DESIGN CHOICE, notes/assumptions/99.md). -/
def specVote (m : Nat) : Spec :=
  { d := some { kinds := if Mod.sub m = 3 then [.kreg, .exec] else [.kreg, .exec, .scal, .zero] }
    a := some { kinds := [.vec, .scal, .orf, .zero, .lane, .small, .lit, .kreg, .exec] }
    notScalar := true, mix := true, mOk := vOk m [0] 0 0 3, lat := 8 }

/-- What lane i votes with: its 32 bits of A, or its bit of a mask. -/
def Ctx.voteVal (x : Ctx) (sp : Split) (i : Nat) : Nat :=
  match x.a with
  | .mask n => b2n ((sp.readMask n).getLsbD i)
  | _ => x.vA sp i

/-- The result of `.all`, `.any` and `.uni`. -/
def Ctx.voteAll (x : Ctx) (sp : Split) : Bool :=
  match Mod.sub x.m with
  | 0 => x.lanes.all fun i => x.voteVal sp i ≠ 0
  | 1 => x.lanes.any fun i => x.voteVal sp i ≠ 0
  | _ => x.lanes.all fun i => x.voteVal sp i = x.voteVal sp (x.lanes.headD 0)

/-- The vote, or each lane's own bit. -/
def bodyVote : State → Cur → Ctx → Res :=
  crossOp fun x sp i => if Mod.sub x.m = 3 then b2n (x.voteVal sp i ≠ 0) else b2n (x.voteAll sp)

/-- VOTE (R124). -/
def execVote (f : Short) (s : State) : Host.Outcome State Fault Refusal := s.issueOp 0x062 (.base f) specVote bodyVote

/-- VOTE (R124). -/
def execVoteLong (f : Long) (s : State) : Host.Outcome State Fault Refusal := s.issueOp 0x062 (.long f) specVote bodyVote

/-! ## WRED and WSCAN (R104) -/

/-- Fields of WRED and WSCAN: `f32` takes `.add`, `.min` and `.max`, and RND 0–4 under `.add` alone. TYPE code 0, for which R123 names no
default, is `b32`, an unsigned type, as R110 has it (DESIGN CHOICE, notes/assumptions/98.md); so it is of SHFL, BCAST and MATCH. -/
def redOk (m : Nat) : Bool :=
  vOk m [0, 1, 2, 3, 4, 5, 6, 7, 8, 9] 4 0 5 &&
  (if Mod.type m = 9 then Mod.sub m ≤ 2 && (Mod.rnd m = 0 || Mod.sub m = 0) else Mod.rnd m = 0)

/-- One step of a fold. Each FP32 addition acts as an FADD, and each minimum or maximum as an FMIN or FMAX: both operands are read under
DAZ32, and the result is written under FTZ32 (R101, R113, R123). -/
def Ctx.fold (x : Ctx) (a b : Nat) : Nat :=
  if Mod.type x.m = 9 then
    let u := f32.decode (f32.daz x.mode) a
    let v := f32.decode (f32.daz x.mode) b
    match Mod.sub x.m with
    | 0 => f32.write x.mode (Mod.rnd x.m) 0 (addFV x.rd u v)
    | 1 => f32.write x.mode 1 0 (minMaxFV false u v)
    | _ => f32.write x.mode 1 0 (minMaxFV true u v)
  else
    match Mod.sub x.m with
    | 0 => addRes x.ty false a b
    | 1 => minRes x.ty false a b
    | 2 => maxRes x.ty false a b
    | 3 => andRes x.ty false a b
    | 4 => orRes x.ty false a b
    | _ => xorRes x.ty false a b

/-- A lane's value as the fold reads it: in FP32 under DAZ32, a NaN canonical; else of the type (R91, R101, R107). -/
def Ctx.leaf (x : Ctx) (sp : Split) (i : Nat) : Nat :=
  if Mod.type x.m = 9 then f32.write 0 1 0 (sp.fval x x.a f32 i) else x.ty.out (x.ty.val (x.vA sp i))

/-- What a fold leaves as it is written: an FP32 value under FTZ32, also where L has one lane alone (R101). -/
def Ctx.folded (x : Ctx) (v : Nat) : Nat := if Mod.type x.m = 9 then f32.write x.mode 1 0 (f32.decode false v) else v

/-- One level of TreeSum: neighbours are paired, and an odd last value is carried. -/
def pairUp (f : Nat → Nat → Nat) : List Nat → List Nat
  | a :: b :: l => f a b :: pairUp f l
  | l => l

/-- TreeSum of R104; 7 levels fold 128 values. -/
def treeSum (f : Nat → Nat → Nat) : Nat → List Nat → Nat
  | 0, l => l.headD 0
  | n + 1, l => treeSum f n (pairUp f l)

/-- ScanSum of R104. -/
def scanSum (f : Nat → Nat → Nat) : Option Nat → List Nat → List Nat
  | _, [] => []
  | none, a :: l => a :: scanSum f (some a) l
  | some p, a :: l => f p a :: scanSum f (some (f p a)) l

/-- Floating sources refuse `lane` (R43, R108). -/
def redSrc (m : Nat) : Slot := if Mod.type m = 9 then Slot.fp else Slot.int (wideTy (Mod.type m))

/-- WRED: any destination. -/
def specWred (m : Nat) : Spec :=
  { d := some (Slot.dst (wideTy (Mod.type m))), a := some (redSrc m), notScalar := true, mix := true, mOk := redOk m, lat := 8 }

/-- The fold of L. -/
def bodyWred : State → Cur → Ctx → Res := crossOp fun x sp _ => x.folded (treeSum x.fold 7 (x.lanes.map (x.leaf sp)))

/-- WRED (R123). -/
def execWred (f : Short) (s : State) : Host.Outcome State Fault Refusal := s.issueOp 0x063 (.base f) specWred bodyWred

/-- WRED (R123). -/
def execWredLong (f : Long) (s : State) : Host.Outcome State Fault Refusal := s.issueOp 0x063 (.long f) specWred bodyWred

/-- WSCAN: a destination per lane. -/
def specWscan (m : Nat) : Spec :=
  { d := some (Slot.dstLane (wideTy (Mod.type m))), a := some (redSrc m), notScalar := true, mOk := redOk m, lat := 8 }

/-- The sums from the left. -/
def bodyWscan (s : State) (c : Cur) (x : Ctx) : Res :=
  let vals := x.lanes.zip ((scanSum x.fold none (x.lanes.map (x.leaf c.split))).map x.folded)
  doneWith s c (c.split.result x.d x.dWide vals x.lat) (x.charge .xlane)

/-- WSCAN (R123). -/
def execWscan (f : Short) (s : State) : Host.Outcome State Fault Refusal := s.issueOp 0x064 (.base f) specWscan bodyWscan

/-- WSCAN (R123). -/
def execWscanLong (f : Long) (s : State) : Host.Outcome State Fault Refusal := s.issueOp 0x064 (.long f) specWscan bodyWscan

/-! ## MATCH -/

/-- MATCH: A of the type, a 32-bit D per lane; SUB 0 or 1. -/
def specMatch (m : Nat) : Spec :=
  { d := some Slot.dstLane, a := some (Slot.int (wideTy (Mod.type m))), notScalar := true
    mOk := vOk m [0, 7, 8] 0 0 1, lat := 8 }

/-- The lowest matching lane of L, or the number of them. -/
def bodyMatch : State → Cur → Ctx → Res :=
  crossOp fun x sp i =>
    let same := x.lanes.filter fun j => x.vA sp j = x.vA sp i
    if Mod.sub x.m = 1 then same.length else same.headD 0

/-- MATCH (R123). -/
def execMatchLanes (f : Short) (s : State) : Host.Outcome State Fault Refusal := s.issueOp 0x065 (.base f) specMatch bodyMatch

/-- MATCH (R123). -/
def execMatchLanesLong (f : Long) (s : State) : Host.Outcome State Fault Refusal := s.issueOp 0x065 (.long f) specMatch bodyMatch

end Sys2Proof.Machine
end

