-- ==== Sys2Proof/Machine/Order.lean ====
section
/-! DEFINITION. When accesses are performed and what orders them (R172, R189, R193–R197, R434), and the named barriers
(R200–R202). -/
namespace Sys2Proof.Machine

/-! ## Operations -/

/-- Place among the requests of its core: as it was issued, or as its release from staging sent it (R189, R402). -/
def Op.key (o : Op) : Nat := if o.send = 0 then o.id else o.send - 1

/-- A COMB, whose requests count as writes of the partition (R318). -/
def OpKind.isComb : OpKind → Bool
  | .comb _ _ _ _ _ _ _ => true
  | _ => false

/-- Scope code that an ordered access acts at: `.dev` by default, `.sys` for a window (R181, R432). -/
def Op.scopeOf (o : Op) : Nat :=
  if o.items.any fun i => i.space = .remote then 6 else if o.scope = 0 then 5 else o.scope

/-- Whether one lane's access is performed for a scope (R193): at `.wave` and `.blk` a global store or atomic once the core's first-level
copy is up to date, which an atomic and an `.l1` store see to as they are sent at issue, and any other store of memory when its home
performs it (R188); at a wider scope only when its home has performed it. A write to a window is counted at `.sys` alone (R434). -/
def Op.itemDone (o : Op) (scope : Nat) (i : Item) : Bool :=
  o.complete || o.donePart.getLsbD i.lane ||
  (!o.kind.isLoad && ((scope ≤ 2 && (match i.space with
      | .scr _ _ => false
      | .mem => !o.kind.isStore || o.pol = 1 || o.staged
      | _ => true)) ||
    (scope ≤ 5 && i.space = .remote)))

/-- Whether an operation is performed for a scope. -/
def Op.performed (o : Op) (scope : Nat) : Bool := o.items.all (o.itemDone scope)

/-- Whether an earlier operation of a split still holds back its later accesses: an acquire that is not complete, or an access that
is `.sc` and not performed (R194, R305, R350). -/
def Op.holdsBack (o : Op) : Bool :=
  (acqOrd o.ord && !o.complete && !(o.kind.isAccess && o.performed 6)) || (o.ord = 5 && !o.performed o.scopeOf)

/-- Whether two cores lie within a scope of one another (R290), for `.gang`, `.die` and wider. An executor lies with its slice. -/
def coreWithin (scope a b : Nat) : Bool :=
  if scope = 3 then clusterOfCore a = clusterOfCore b else if scope = 4 then dieOfCore a = dieOfCore b else true

/-- Whether an operation lies in the program order of splits (R137, R194). -/
def Op.ofSplits (o : Op) (sids : Nat → Bool) : Bool := o.sids.any sids

/-- Whether the accesses of a split issued before an operation number are performed for a scope. One that staging holds is made at its
release, in its place (R402; notes/assumptions/61.md). -/
def State.earlierDone (s : State) (blk wid : Nat) (sids : Nat → Bool) (before scope : Nat) : Bool :=
  s.ops.all fun o => !(o.blk = blk && o.wid = wid && o.ofSplits sids && o.id < before && o.kind.isAccess && !o.staged &&
    !o.performed scope)

/-- Whether a partition's writes sent within a scope before an operation number are performed at their homes (R197). A write that staging holds
is not outstanding, and one that it has released is from its release on (R402). -/
def State.writesDone (s : State) (fn child core before scope : Nat) : Bool :=
  scope < 3 || s.ops.all fun o =>
    !(o.fn = fn && o.child = child && o.key < before && ((o.kind.isAccess && !o.kind.isLoad) || o.kind.isComb) && !o.staged &&
      coreWithin scope core o.core && !o.performed scope)

/-- The release of R194 and R196 for the accesses before an operation number. -/
def State.released (s : State) (b : Block) (wid : Nat) (sids : Nat → Bool) (before scope : Nat) : Bool :=
  s.earlierDone b.id wid sids before scope && s.writesDone b.fn b.child b.core before scope

/-- The acquire of R194 and R196: at `.gang` or wider the core's first-level cache is invalidated. -/
def State.acquire (s : State) (core scope : Nat) : State := if 3 ≤ scope then s.l1Clear core else s

/-! ## The order of requests -/

/-- What performs an access: the core's path to a home slice, to a target device, or to a scratchpad (R189, R192, R260, R434). -/
inductive Point where
  | home (core slice : Nat)
  | target (core dev home : Nat)
  | scratch (core blk : Nat)
  deriving DecidableEq, Repr

/-- The target device of a remote address, and the home of its line there, which the target's export entry and page tables decide
(notes/assumptions/113.md). -/
def State.remoteHome (s : State) (fn va : Nat) : Nat × Nat :=
  let w := (s.window fn (va / 2 ^ 40 % 256)).toNat
  (fld w 14 3, Config.remoteHome (fld w 14 3) (fld w 2 0) (va % 2 ^ 40 / 4096))

/-- The point that performs an item of an operation. A block's scratchpad performs the accesses of all its waves in issue order
(notes/assumptions/93.md). -/
def State.pointOf (s : State) (o : Op) (i : Item) : Point :=
  match i.space with
  | .mem => .home o.core (s.homeOf i.addr)
  | .cscr _ => .home o.core (i.addr / 2 ^ 24 % 64)
  | .remote => let h := s.remoteHome o.fn i.va.toNat; .target o.core h.1 h.2
  | .scr blk _ => .scratch o.core blk
  | .tile => .scratch o.core o.blk

/-- Whether every earlier request of an item's core to the same point is performed (R189). -/
def State.inOrder (s : State) (o : Op) (i : Item) : Bool :=
  s.ops.all fun p => !(p.key < o.key && p.kind.isAccess && !p.staged && p.undone.any fun j => s.pointOf p j = s.pointOf o i)

/-- Whether the ordering of its split lets an operation perform now: earlier acquires and `.sc` accesses first, and where it
releases, everything that R194 names. -/
def State.mayPerform (s : State) (o : Op) : Bool :=
  (s.ops.all fun p =>
    !(p.blk = o.blk && p.wid = o.wid && p.ofSplits o.sids.contains && p.id < o.id && p.holdsBack)) &&
  (!relOrd o.ord ||
    (s.earlierDone o.blk o.wid o.sids.contains o.id o.scopeOf && s.writesDone o.fn o.child o.core o.key o.scopeOf))

/-- Whether the home mode of a granule is being changed, and what reaches it from now on is held at its requester (R280). -/
def State.flips (s : State) (pa : Nat) : Bool := spGet 0 s.flipping (pa / 65536) ≠ 0

/-- Whether an access is held at its requester, as the home mode of its granule is being changed and it was not admitted before (R280). -/
def State.turning (s : State) (o : Op) (i : Item) : Bool :=
  i.space = .mem && s.flips i.addr && spGet 0 s.flipping (i.addr / 65536) / 2 ≤ o.key + 1

/-! ## First-level copies (R188, R189) -/

/-- Whether an earlier access of a split holds back its later ones (R194, R305). -/
def State.heldBack (s : State) (c : Cur) : Bool :=
  s.ops.any fun p => p.blk = c.blk.id && p.wid = c.wave.wid && p.sids.contains c.split.sid && p.holdsBack

/-- A line of a first-level cache takes anew what the `.l1` stores of its core that `later` picks wrote into it at issue, and which its
home has yet to perform: stores of a core are seen in one order by its waves (R189). -/
def State.l1Redo (s : State) (core : Nat) (later : Nat → Bool) (line : Nat) : State :=
  (s.ops.filter fun p => p.core = core && later p.key && p.kind.isStore && p.pol = 1 && !p.staged).foldl (fun s p =>
    p.undone.foldl (fun s j =>
      if j.space = .mem ∧ j.addr / 128 = line then s.l1Store core j.addr (leBytes j.bytes j.data.toNat) else s) s) s

/-- A line brought into a first-level cache by a load or a prefetch, or read at its home again, holds what the stores of its core that its home
has yet to perform have written into it at issue. -/
def State.fillLine (s : State) (core pa : Nat) : State :=
  ((s.renew (.l1 core (pa / 128))).l1Use (s.lineNow core pa)).l1Redo core (fun _ => true) (pa / 128)

/-! ## Completion -/

/-- Complete operations leave, each when every earlier one of its path and wave has (R172). -/
def retireOps : List Op → List Op → List Op
  | done, [] => done
  | kept, o :: rest =>
    if o.complete && !(kept.any fun p => p.blk = o.blk && p.wid = o.wid && p.path = o.path) then retireOps kept rest
    else retireOps (kept ++ [o]) rest

/-- Operations that are complete leave the list in order. -/
def State.retire (s : State) : State := { s with ops := retireOps [] s.ops }

/-- Whether a wave's counters are all zero. -/
def State.idle (s : State) (blk wid : Nat) : Bool := !(s.ops.any fun o => o.blk = blk && o.wid = wid && o.path < 7)

/-- Whether a split takes an operation's word for a register: it awaits it, it owns the lane of a per-lane register, and the value
is not discarded. -/
def Split.takes (sp : Split) (o : Op) (r : RegId) (lane : Nat) : Bool :=
  (sp.awaits.any fun a => a.1 = o.id && !a.2.getLsbD (if r.perLane then lane else 0)) && (!r.perLane || sp.owned.getLsbD lane)

/-- A register word, or the lane's bit of a mask, of an operation's wave written in a lane, poisoned or not, in the splits that await it (R186, R187). -/
def State.deliverWord (s : State) (o : Op) (r : RegId) (lane : Nat) (v : Dword) (bad : Bool) : State :=
  s.mapSplits o.blk o.wid <| Split.everywhere fun sp =>
    if sp.takes o r lane then
      let l := if r.perLane then lane else 0
      ((sp.arrive r [(match r with | .mask _ => lane | _ => l, v)]).setPoison r l bad)
    else sp

/-- A result written to a destination, both halves where it is 64 bits wide. -/
def State.deliverTo (s : State) (o : Op) (d : Dst) (lane : Nat) (v : Dword) (bad : Bool) : State :=
  if d.wide then
    (s.deliverWord o d.reg lane (v &&& 0xFFFFFFFF#64) bad).deliverWord o d.reg.next lane (v >>> 32) bad
  else s.deliverWord o d.reg lane v bad

/-- An operation whose destination is written is awaited no more. -/
def State.forget (s : State) (o : Op) : State :=
  s.mapSplits o.blk o.wid <| Split.everywhere fun sp => { sp with awaits := sp.awaits.filter (·.1 ≠ o.id) }

/-- An operation completes. -/
def State.complete (s : State) (id : Nat) : State :=
  match s.op? id with
  | none => s
  | some o => ((s.forget o).mapOp id fun o => { o with complete := true }).retire

/-- A progress event of a wave (R79). -/
def State.progress (s : State) (blk wid : Nat) : State := s.mapWave blk wid fun w => { w with hangcnt := 0 }

/-! ## Barriers (R200–R202) -/

/-- Blocks within the scope of a barrier operation: the gang's members, or the block (R200). The gang of a block is its index
divided by the gang size (R255). -/
def State.gangSize (s : State) (b : Block) : Nat := max 1 (s.kernelOf b).gang
def State.inGang (s : State) (b x : Block) : Bool :=
  x.id = b.id || (x.grid = b.grid && x.method.isNone && x.index / s.gangSize b = b.index / s.gangSize b)

/-- Whether a scope code of a barrier acts on the gang: 3 in a gang of more than one (R200). -/
def State.gangScope (s : State) (b : Block) (scope : Nat) : Bool := scope = 3 && 1 < s.gangSize b

/-- The gang size where a barrier is the gang's, for its key in the Loupe. -/
def State.gangKey (s : State) (b : Block) (gang : Bool) : Option Nat := if gang then some (s.gangSize b) else none

/-- Key of a gang's barrier in its grid. -/
def State.gangBarKey (s : State) (b : Block) (n : Nat) : Nat := 64 * (b.index / s.gangSize b) + n

/-- A barrier's slot. -/
def State.bar (s : State) (b : Block) (gang : Bool) (n : Nat) : Bar :=
  if gang then ((s.grid? b.grid).map fun g => spGet {} g.gangBars (s.gangBarKey b n)).getD {}
  else ((s.blockOf b.id).map fun b => spGet {} b.bars n).getD {}

/-- A barrier's slot set. -/
def State.setBar (s : State) (b : Block) (gang : Bool) (n : Nat) (x : Bar) : State :=
  if gang then s.mapGrid b.grid fun g => { g with gangBars := spSet {} g.gangBars (s.gangBarKey b n) x }
  else s.mapBlock b.id fun b => { b with bars := spSet {} b.bars n x }

/-- Every block, the one that holds the split that issues included. -/
def State.allBlocks (s : State) : List Block :=
  s.blocks ++ (match s.cur with | some c => [c.blk.withWave (c.wave.withSplit c.split)] | none => [])

/-- A wave is live until all its lanes are withdrawn (R142). -/
def Wave.live (w : Wave) : Bool := w.withdrawn ≠ fullMask w.width

/-- Live waves in a barrier's scope. -/
def State.liveWaves (s : State) (b : Block) (gang : Bool) : Nat :=
  sumBy (fun x => (x.waves.filter Wave.live).length) (s.allBlocks.filter fun x => if gang then s.inGang b x else x.id = b.id)

/-- Waves in a barrier's scope, live or not. -/
def State.scopeWaves (s : State) (b : Block) (gang : Bool) : Nat :=
  if gang then b.nwaves * s.gangSize b else b.nwaves

/-- Key of a split's recorded phase for a barrier: a gang barrier's are apart from the block's. -/
def waitKey (gang : Bool) (n : Nat) : Nat := if gang then 64 + n else n

/-- Recorded phases: 1 and 2 a phase an arrival recorded, and 3 such a phase that has completed; 4 and 5 one that a wait found, and 6 such a
phase that has completed. What a wait found counts for that wait alone (R201). -/
def phaseCode (p : Bool) (fromWait : Bool) : Nat := (if p then 2 else 1) + (if fromWait then 3 else 0)

/-- The splits that wait on a phase, or arrived in it, learn that it has completed. -/
def State.releasePhase (s : State) (b : Block) (gang : Bool) (n : Nat) (p : Bool) : State :=
  let f := Split.everywhere fun (sp : Split) =>
    let v := spGet 0 sp.waitPhase (waitKey gang n)
    if v = phaseCode p false then { sp with waitPhase := spSet 0 sp.waitPhase (waitKey gang n) 3 }
    else if v = phaseCode p true then { sp with waitPhase := spSet 0 sp.waitPhase (waitKey gang n) 6 }
    else sp
  let inScope := fun (x : Block) => if gang then s.inGang b x else decide (x.id = b.id)
  let g := fun (w : Wave) => { w with splits := w.splits.map f }
  { s with
    blocks := s.blocks.map fun x => if inScope x then { x with waves := x.waves.map g } else x
    cur := s.cur.map fun c =>
      if inScope c.blk then { c with blk := { c.blk with waves := c.blk.waves.map g }, wave := g c.wave, split := f c.split }
      else c }

/-- CheckComplete of R201. -/
def State.checkBar (s : State) (b : Block) (gang : Bool) (n : Nat) : State :=
  let x := s.bar b gang n
  let need := x.expect.getD (s.liveWaves b gang)
  if x.arrived ≠ 0 ∧ need ≤ x.arrived then
    ((s.setBar b gang n { phase := !x.phase, arrived := 0, expect := none }).releasePhase b gang n x.phase).loupePhase b
      (s.gangKey b gang) n
  else s

/-- Arrive of R201, once its release has been made. -/
def State.arrive (s : State) (c : Cur) (gang : Bool) (n count : Nat) : State :=
  let x := s.bar c.blk gang n
  let expect := if x.arrived = 0 then (if count = 0 ∨ s.scopeWaves c.blk gang < count then none else some count) else x.expect
  let sp := { c.split with waitPhase := spSet 0 c.split.waitPhase (waitKey gang n) (phaseCode x.phase false) }
  ((({ s with cur := some { c with split := sp } } : State).loupeArrive c.blk c.wave.wid (s.gangKey c.blk gang) n).setBar c.blk gang n
    { x with expect, arrived := x.arrived + 1 }).checkBar c.blk gang n

/-- CheckComplete for every slot of a block and its gang whose expectation is ALL, when a wave ends (R201). -/
def State.waveLeft (s : State) (b : Block) : State :=
  let s := ((s.blockOf b.id).elim [] (·.bars)).foldl
    (fun s (e : Nat × Bar) => if e.2.expect.isNone then s.checkBar b false e.1 else s) s
  if 1 < s.gangSize b then
    ((s.grid? b.grid).elim [] (·.gangBars)).foldl (fun s (e : Nat × Bar) =>
      if e.2.expect.isNone ∧ e.1 / 64 = b.index / s.gangSize b then s.checkBar b true (e.1 % 64) else s) s
  else s

end Sys2Proof.Machine
end

