-- ==== Sys2Proof/Machine/Access.lean ====
section
/-! DEFINITION. What the memory instructions share: types and fields (R49, R107, R181), lane addresses and their checks (R182–R184,
R313, R357), destinations, deterministic staging (R400, R401, R404) and the counters (R172). -/
namespace Sys2Proof.Machine

/-! ## Types -/

/-- Bytes of a type; code 0 is `b32` (R181). -/
def mtBytes (t : Nat) : Nat :=
  if t = 1 ∨ t = 5 then 1 else if t = 2 ∨ t = 6 ∨ t = 10 ∨ t = 11 then 2 else if t = 4 ∨ t = 8 then 8 else 4

/-- Whether a type takes pairs. -/
def mtWide (t : Nat) : Bool := t = 4 || t = 8

/-- A loaded value as its register holds it: `i8` and `i16` are sign-extended, others zero-extended (R107). -/
def mtExtend (t v : Nat) : Nat := if t = 1 then wrap 32 (sx 8 v) else if t = 2 then wrap 32 (sx 16 v) else v

/-- Whether the fields of a layout M modifier lie in these sets. -/
def mFields (m : Nat) (types ords scopes pols subs : List Nat) : Bool :=
  types.contains (Mod.mtype m) && ords.contains (Mod.ord m) && scopes.contains (Mod.scope m) && pols.contains (Mod.pol m) &&
  subs.contains (Mod.sub m)

def mtAll : List Nat := [0, 1, 2, 3, 4, 5, 6, 7, 8, 9, 10, 11]
def mtAtom : List Nat := [0, 3, 4, 7, 8, 9]
def mtCas : List Nat := [0, 3, 4, 7, 8]
def ordLd : List Nat := [0, 1, 2, 5]
def ordSt : List Nat := [0, 1, 3, 5]
def ordAny : List Nat := [0, 1, 2, 3, 4, 5]
def scopeAny : List Nat := [0, 1, 2, 3, 4, 5, 6]
def scopeScr : List Nat := [0, 1, 2, 3]

/-- Operations that an atomic of a type accepts: `f32` only `.add`, `.min`, `.max` and `.exch`; `.cas` (7) integers (R181). -/
def atomOk (t sub : Nat) : Bool := if t = 9 then [0, 1, 2, 6].contains sub else true

/-! ## Destinations and charges -/

/-- Where a result for an operand goes; `zero` discards it. -/
def dstOf (o : Opnd) (wide : Bool) : Option Dst :=
  match o with
  | .sym n => some { reg := .sym n, wide }
  | .orf n => some { reg := .orf n, wide }
  | .scal n => some { reg := .scal n, wide, uniform := true }
  | _ => none

/-- The event of a synchronising instruction; none on an empty path (R203). -/
def Ctx.sync (x : Ctx) : List (Ev × Nat) := if x.act = 0 then [] else [(.sync, 1)]

/-- Whether an operand is a scalar or a pair. -/
def Opnd.isScal : Opnd → Bool
  | .scal _ => true
  | _ => false

/-! ## Counters and staging -/

/-- Whether an operation more would raise a counter to 64 (R172). -/
def State.pathFull (s : State) (c : Cur) (path : Nat) : Bool := 63 ≤ s.count c.blk.id c.wave.wid path

/-- Whether a kernel's grid is deterministic (R355). -/
def Kernel.det (k : Kernel) : Bool := bit k.trap.toNat 2

/-- Whether a block is of a deterministic grid and not yet at the turn (R399, R401). -/
def State.ahead (s : State) (b : Block) : Bool :=
  match s.gridOf b with
  | none => false
  | some g => g.kernel.det && decide (g.turn < b.index)

/-- The lines of an item. -/
def Item.lines (i : Item) : List (Space × Nat) := (linesIn i.addr (max 1 i.bytes)).map fun l => (i.space, l)

/-- The entries that the items of one instruction, or of one row, make in staging: a line each, with its byte mask (R401;
notes/assumptions/114.md). -/
def entryLines (items : List Item) : List (Space × Nat) := (items.flatMap Item.lines).eraseDups

/-- The staged entries that a block's operations hold, or have been given room for. -/
def stagedCount (s : State) (blk : Nat) : Nat := sumBy (fun o => if o.blk = blk then o.entries else 0) s.ops

/-- Whether staging these entries must wait for the turn: 4,096 entries, or a slice where the partition holds no cache way (R401). -/
def State.stageFull (s : State) (b : Block) (lines : List (Space × Nat)) : Bool :=
  4096 < stagedCount s b.id + lines.length ||
  lines.any fun l => match l.1 with
    | .mem => s.cacheWays b.fn (s.homeOf (128 * l.2)) = 0
    | .cscr _ => s.cacheWays b.fn (128 * l.2 / 2 ^ 24 % 64) = 0
    | _ => false

/-- The place behind everything that a block's staging port has received. -/
def State.nextPort (s : State) (blk : Nat) : Nat := 1 + s.ops.foldl (fun n p => if p.blk = blk then max n p.port else n) 0

/-- A staged entry received by the port. -/
def State.toPort (s : State) (o : Op) : State := s.mapOp o.id fun p => { p with port := s.nextPort o.blk }

/-- A staged entry reaches the port, unless an earlier one of its wave is still on its way there (R400, R442). -/
def State.reachPort (s : State) (o : Op) : State :=
  if !o.staged || o.port ≠ 0 || (s.ops.any fun p => p.blk = o.blk && p.wid = o.wid && p.id < o.id && p.staged && p.port = 0) then s
  else s.toPort o

/-- What a wave has staged before an operation reaches the port ahead of it. -/
def State.portBefore (s : State) (blk wid before : Nat) : State :=
  (s.ops.filter fun p => p.blk = blk && p.wid = wid && p.id < before && p.staged && p.port = 0).foldl State.toPort s

/-! ## Addresses -/

/-- GlobalAddr(i) of R182. -/
def globalAddr (a b : Nat) : Nat := (a + b % 2 ^ 32) % 2 ^ 64

/-- Whether verified or registered code is locked at a physical address (R302, R357). -/
def State.locked (s : State) (pa : Nat) : Bool := s.locks.any fun l => l.1 = pa / 65536

/-- The range step for a lane: the fault code, if any (R182, R183, R313). -/
def State.rangeFault (s : State) (b : Block) (va n : Nat) : Option Nat :=
  match b.method with
  | some m => match s.obj? m.fn m.slot with
    | some o => if o.base.toNat ≤ va ∧ va + n ≤ o.base.toNat + o.size then none else some Fc.access
    | none => some Fc.access
  | none => match s.route b.fn va with
    | .error code => some code
    | .ok _ => none

/-- The place of one lane's address, with the state after its translation; a write to locked code is refused. -/
def State.placeFor (s : State) (b : Block) (va : Nat) (need : BitVec 3) (locks : Bool) : State × Except AddrErr (Space × Nat) :=
  match b.method with
  | some m => match s.obj? m.fn m.slot with
    | some o =>
      let a := o.pa + (va - o.base.toNat)
      (s, if locks && s.locked a then .error .perm else .ok (.mem, a))
    | none => (s, .error (.range Fc.access))
  | none => match s.place b.core b.fn b.child va need with
    | (s, .ok (.mem, a)) => (s, if locks && s.locked a then .error .perm else .ok (.mem, a))
    | r => r

/-- The places of lanes' addresses in order, or the first that fails. -/
def State.placeAll (s : State) (b : Block) (need : BitVec 3) (locks : Bool) :
    List (Nat × Nat) → State × Except (Nat × Nat × AddrErr) (List (Nat × Nat × Space × Nat))
  | [] => (s, .ok [])
  | (i, va) :: rest =>
    match s.placeFor b va need locks with
    | (s, .error e) => (s, .error (i, va, e))
    | (s, .ok (sp, a)) => match s.placeAll b need locks rest with
      | (s, .error e) => (s, .error e)
      | (s, .ok l) => (s, .ok ((i, va, sp, a) :: l))

/-- The result that a failed address gives an instruction (R184, R285). -/
def addrRes (s : State) (lane va : Nat) (wr : Bool) : AddrErr → Res
  | .range code => .fault code (memInfo lane wr false 0 va)
  | .perm => .fault Fc.access (memInfo lane wr false 1 va)
  | .xlate x => .xlate s va (b2n wr) x (memInfo lane wr false 0 va)

/-- R183: alignment in every lane, then range, then translation; or the fault of the first kind found, in its lowest lane. Then the
instruction goes on with the places. -/
def withPlaces (s : State) (c : Cur) (n : Nat) (align wr locks : Bool) (need : BitVec 3) (addrs : List (Nat × Nat))
    (go : State → List (Nat × Nat × Space × Nat) → Res) : Res :=
  match (if align then addrs.find? fun p => p.2 % n ≠ 0 else none) with
  | some (i, va) => .fault Fc.align (memInfo i wr false 0 va)
  | none => match addrs.findSome? fun p => (s.rangeFault c.blk p.2 n).map fun code => (p, code) with
    | some ((i, va), code) => .fault code (memInfo i wr false 0 va)
    | none => match s.placeAll c.blk need locks addrs with
      | (s, .error (i, va, e)) => addrRes s i va wr e
      | (s, .ok l) => go s l

/-- Whether a split reads a poisoned word of a scratchpad, in issue order: a store of its own on its way that covers the word cleans it
(R192, R259). -/
def State.scrBad (s : State) (c : Cur) (sp : Space) (a n : Nat) : Bool :=
  (s.fetchAt sp a n).2 &&
  !(s.ops.any fun o => o.blk = c.blk.id && o.wid = c.wave.wid && o.sids.contains c.split.sid && o.kind.isStore &&
    o.undone.any fun j => j.space = sp && j.addr ≤ a / 8 * 8 && (a + n + 7) / 8 * 8 ≤ j.addr + j.bytes)

/-- Scratchpad places of a member's copy of a buffer: the alignment and range checks of R182, R183 and R259, with ScratchRel by lane;
a read of a poisoned word by an active lane faults (R177, R192). `m` is the member of LDRS and STRS, else 0. -/
def withScratch (s : State) (c : Cur) (blk buf m n : Nat) (wr : Bool) (rels : List (Nat × Nat)) (go : Res) : Res :=
  let size := (((s.kernelOf c.blk).bufs[buf]?).map (·.size)).getD 0
  let info := fun (p : Nat × Nat) => memInfo p.1 wr true 0 (m * 2 ^ 48 + scrAddr buf p.2)
  match rels.find? fun p => p.2 % n ≠ 0 with
  | some p => .fault Fc.align (info p)
  | none => match rels.find? fun p => size < p.2 + n with
    | some p => .fault Fc.access (info p)
    | none => match (if wr then none else rels.find? fun p => s.scrBad c (.scr blk buf) p.2 n) with
      | some p => .fault Fc.ecc (info p)
      | none => go

end Sys2Proof.Machine
end

