-- ==== Sys2Proof/WellFormed.lean ====
section
/-! DEFINITION. Which terms of `Instr` name a step of the H940: opcodes in the range of their row (R52, R53), and
event data inside the numbers the manual gives the device (R1, R338, R359, R362). Operand defects are no matter of
this file: the device decodes and raises OPERAND_CLASS (R53). -/
namespace Sys2Proof

/-- The opcode-map rows of R52 as (first, last) pairs. -/
def assignedRanges : List (Nat × Nat) :=
  [(0x000, 0x01C), (0x020, 0x031), (0x040, 0x045), (0x050, 0x054), (0x060, 0x065), (0x070, 0x076), (0x080, 0x085),
   (0x090, 0x09B), (0x0A0, 0x0A7), (0x0B0, 0x0B4), (0x0C0, 0x0C4), (0x0D0, 0x0D7), (0x0E0, 0x0E1), (0x0E8, 0x0EE),
   (0x0F0, 0x0F5), (0x100, 0x105)]

/-- Whether the opcode map assigns an opcode (R52). -/
def opcodeAssigned (op : Nat) : Bool := assignedRanges.any fun r => r.1 ≤ op && op ≤ r.2

/-- Why a term names no step. -/
inductive WfError where
  | opcodeNotIllegal
  | opcodeNotReserved
  | functionRange
  | childRange
  | clusterRange
  | coreRange
  | dieRange
  | queueRange
  | poolRange
  | windowRange
  deriving DecidableEq, Repr

/-- `some e` where the condition fails. -/
def WfError.unless (ok : Bool) (e : WfError) : Option WfError := if ok then none else some e

/-- The first thing wrong with a term, if any. -/
def Instr.check : Instr → Option WfError
  | .illegalOpcode op _ => WfError.unless (0x180 ≤ op.toNat) .opcodeNotIllegal
  | .reservedOpcode op _ => WfError.unless (op.toNat < 0x180 && !opcodeAssigned op.toNat) .opcodeNotReserved
  | _ => none

/-- A term that names a step of the device. -/
def Instr.wf (i : Instr) : Bool := i.check.isNone

/-- The first number of the data of a step that the device does not have, if any. -/
def EvArg.check (a : EvArg) : Option WfError :=
  [WfError.unless (a.fn < 8) .functionRange, WfError.unless (a.child < 5) .childRange,
   WfError.unless (a.cluster < 48) .clusterRange, WfError.unless (a.core < 384) .coreRange,
   WfError.unless (a.die < 4) .dieRange, WfError.unless (a.q < 64) .queueRange, WfError.unless (a.pool < 8) .poolRange,
   WfError.unless (a.entry < 128) .windowRange].findSome? id

/-- The data of a step names only what the device has. -/
def EvArg.wf (a : EvArg) : Bool := a.check.isNone

end Sys2Proof
end

