-- ==== Sys2Proof/Decode.lean ====
section
/-! DEFINITION. From bits to instructions and back: words (R32, R38), forms (R39, R41, R42) and the opcode map (R52).
Decoding is total on any bytes: it gives an instruction and the rest, or refuses by name. -/
namespace Sys2Proof

/-! ## Words and bytes -/

/-- The little-endian word at the head of a byte list (R32). -/
def wordOfBytes (b0 b1 b2 b3 : Byte) : Word := b3 ++ b2 ++ b1 ++ b0

/-- The four bytes of a word, lowest address first (R32). -/
def bytesOfWord (w : Word) : List Byte :=
  [w.extractLsb' 0 8, w.extractLsb' 8 8, w.extractLsb' 16 8, w.extractLsb' 24 8]

/-- The words of a byte list; up to three bytes at its end make no word. -/
def wordsOfBytes : List Byte → List Word
  | b0 :: b1 :: b2 :: b3 :: rest => wordOfBytes b0 b1 b2 b3 :: wordsOfBytes rest
  | _ => []

/-- Instruction length in words by LEN (R35, R38). -/
def lengthInWords (len : BitVec 2) : Nat :=
  match len.toNat with
  | 0 => 1
  | 1 => 3
  | 2 => 3
  | _ => 5

/-! ## Forms -/

/-- LEN of a first word (R38). -/
def lenOf (w : Word) : BitVec 2 := w.extractLsb' 0 2

/-- The major opcode of a first word (R38). -/
def opcodeOf (w : Word) : BitVec 9 := w.extractLsb' 2 9

/-- The operand fields of a base-form word (R39). -/
def shortOf (w : Word) : Short :=
  { d := w.extractLsb' 11 7, a := w.extractLsb' 18 7, b := w.extractLsb' 25 7 }

/-- The fields of an extended form from its three words (R42). -/
def extOf (w w1 w2 : Word) : Ext :=
  { modif := w.extractLsb' 11 21, d := w1.extractLsb' 16 16, a := w1.extractLsb' 0 16,
    b := w2.extractLsb' 16 16, c := w2.extractLsb' 0 16 }

/-- The literal of its two words, low half first (R32). -/
def literalOf (lo hi : Word) : Dword := hi ++ lo

/-- Why bytes do not decode. -/
inductive DecodeError where
  /-- the bytes end before the instruction's last word (R32) -/
  | truncated
  deriving DecidableEq, Repr

/-- The form that starts a list of words, and the words after it (R38). -/
def decodeForm : List Word → Except DecodeError (BitVec 9 × Form × List Word)
  | [] => .error .truncated
  | w :: rest =>
    match (lenOf w).toNat, rest with
    | 0, _ => .ok (opcodeOf w, .base (shortOf w), rest)
    | 1, lo :: hi :: rest => .ok (opcodeOf w, .long (.lit (shortOf w) (literalOf lo hi)), rest)
    | 2, w1 :: w2 :: rest => .ok (opcodeOf w, .long (.ext (extOf w w1 w2)), rest)
    | 3, w1 :: w2 :: lo :: hi :: rest => .ok (opcodeOf w, .long (.extLit (extOf w w1 w2) (literalOf lo hi)), rest)
    | _, _ => .error .truncated

/-- The first word of a base form (R39). -/
def packShort (op : BitVec 9) (o : Short) (len : BitVec 2) : Word := o.b ++ o.a ++ o.d ++ op ++ len

/-- The three words of an extended form (R42). -/
def packExt (op : BitVec 9) (e : Ext) (len : BitVec 2) : List Word := [e.modif ++ op ++ len, e.d ++ e.a, e.b ++ e.c]

/-- The two words of a literal (R32). -/
def packLiteral (l : Dword) : List Word := [l.extractLsb' 0 32, l.extractLsb' 32 32]

/-- The words of a form (R38). -/
def encodeForm (op : BitVec 9) : Form → List Word
  | .base o => [packShort op o 0b00]
  | .long (.lit o l) => packShort op o 0b01 :: packLiteral l
  | .long (.ext e) => packExt op e 0b10
  | .long (.extLit e l) => packExt op e 0b11 ++ packLiteral l

/-- How many words a form occupies (R38). -/
def Form.words : Form → Nat
  | .base _ => 1
  | .long (.lit _ _) => 3
  | .long (.ext _) => 3
  | .long (.extLit _ _) => 5

/-! ## The opcode map -/

/-- Opcodes 0x00 to 0x0F of R52. -/
def ofOpcode0 (n : Nat) (f : Form) : Option Instr :=
  match n with
  | 0x0 => some (match f with | .base o => .nop o | .long l => .nopLong l)
  | 0x1 => some (match f with | .base o => .iadd o | .long l => .iaddLong l)
  | 0x2 => some (match f with | .base o => .isub o | .long l => .isubLong l)
  | 0x3 => some (match f with | .base o => .imul o | .long l => .imulLong l)
  | 0x4 => some (match f with | .base o => .imulh o | .long l => .imulhLong l)
  | 0x5 => some (.imad f)
  | 0x6 => some (match f with | .base o => .imin o | .long l => .iminLong l)
  | 0x7 => some (match f with | .base o => .imax o | .long l => .imaxLong l)
  | 0x8 => some (.iabs f)
  | 0x9 => some (match f with | .base o => .ineg o | .long l => .inegLong l)
  | 0xA => some (.iaddc f)
  | 0xB => some (match f with | .base o => .andBits o | .long l => .andBitsLong l)
  | 0xC => some (match f with | .base o => .orBits o | .long l => .orBitsLong l)
  | 0xD => some (match f with | .base o => .xorBits o | .long l => .xorBitsLong l)
  | 0xE => some (match f with | .base o => .andn o | .long l => .andnLong l)
  | 0xF => some (match f with | .base o => .notBits o | .long l => .notBitsLong l)
  | _ => none

/-- Opcodes 0x10 to 0x1F of R52. -/
def ofOpcode1 (n : Nat) (f : Form) : Option Instr :=
  match n with
  | 0x0 => some (match f with | .base o => .shl o | .long l => .shlLong l)
  | 0x1 => some (match f with | .base o => .shr o | .long l => .shrLong l)
  | 0x2 => some (match f with | .base o => .sar o | .long l => .sarLong l)
  | 0x3 => some (match f with | .base o => .rotl o | .long l => .rotlLong l)
  | 0x4 => some (.bfx f)
  | 0x5 => some (.bfi f)
  | 0x6 => some (match f with | .base o => .popc o | .long l => .popcLong l)
  | 0x7 => some (match f with | .base o => .clz o | .long l => .clzLong l)
  | 0x8 => some (match f with | .base o => .brev o | .long l => .brevLong l)
  | 0x9 => some (.prmt f)
  | 0xA => some (.lea f)
  | 0xB => some (.icmp f)
  | 0xC => some (.sel f)
  | _ => none

/-- Opcodes 0x20 to 0x2F of R52. -/
def ofOpcode2 (n : Nat) (f : Form) : Option Instr :=
  match n with
  | 0x0 => some (match f with | .base o => .fadd o | .long l => .faddLong l)
  | 0x1 => some (match f with | .base o => .fsub o | .long l => .fsubLong l)
  | 0x2 => some (match f with | .base o => .fmul o | .long l => .fmulLong l)
  | 0x3 => some (.ffma f)
  | 0x4 => some (match f with | .base o => .fmin o | .long l => .fminLong l)
  | 0x5 => some (match f with | .base o => .fmax o | .long l => .fmaxLong l)
  | 0x6 => some (.fcmp f)
  | 0x7 => some (match f with | .base o => .frcp o | .long l => .frcpLong l)
  | 0x8 => some (match f with | .base o => .frsq o | .long l => .frsqLong l)
  | 0x9 => some (match f with | .base o => .fsqrt o | .long l => .fsqrtLong l)
  | 0xA => some (match f with | .base o => .fexp2 o | .long l => .fexp2Long l)
  | 0xB => some (match f with | .base o => .flog2 o | .long l => .flog2Long l)
  | 0xC => some (match f with | .base o => .ftanh o | .long l => .ftanhLong l)
  | 0xD => some (match f with | .base o => .fsigm o | .long l => .fsigmLong l)
  | 0xE => some (match f with | .base o => .frnd o | .long l => .frndLong l)
  | 0xF => some (match f with | .base o => .fscale o | .long l => .fscaleLong l)
  | _ => none

/-- Opcodes 0x30 to 0x3F of R52. -/
def ofOpcode3 (n : Nat) (f : Form) : Option Instr :=
  match n with
  | 0x0 => some (.fclass f)
  | 0x1 => some (match f with | .base o => .fdiv o | .long l => .fdivLong l)
  | _ => none

/-- Opcodes 0x40 to 0x4F of R52. -/
def ofOpcode4 (n : Nat) (f : Form) : Option Instr :=
  match n with
  | 0x0 => some (match f with | .base o => .padd o | .long l => .paddLong l)
  | 0x1 => some (match f with | .base o => .pmul o | .long l => .pmulLong l)
  | 0x2 => some (.pfma f)
  | 0x3 => some (match f with | .base o => .pmax o | .long l => .pmaxLong l)
  | 0x4 => some (match f with | .base o => .pmin o | .long l => .pminLong l)
  | 0x5 => some (.pdot2 f)
  | _ => none

/-- Opcodes 0x50 to 0x5F of R52. -/
def ofOpcode5 (n : Nat) (f : Form) : Option Instr :=
  match n with
  | 0x0 => some (.cvt f)
  | 0x1 => some (.mxq f)
  | 0x2 => some (.mxd f)
  | 0x3 => some (.pack f)
  | 0x4 => some (.unpk f)
  | _ => none

/-- Opcodes 0x60 to 0x6F of R52. -/
def ofOpcode6 (n : Nat) (f : Form) : Option Instr :=
  match n with
  | 0x0 => some (match f with | .base o => .shfl o | .long l => .shflLong l)
  | 0x1 => some (match f with | .base o => .bcast o | .long l => .bcastLong l)
  | 0x2 => some (match f with | .base o => .vote o | .long l => .voteLong l)
  | 0x3 => some (match f with | .base o => .wred o | .long l => .wredLong l)
  | 0x4 => some (match f with | .base o => .wscan o | .long l => .wscanLong l)
  | 0x5 => some (match f with | .base o => .matchLanes o | .long l => .matchLanesLong l)
  | _ => none

/-- Opcodes 0x70 to 0x7F of R52. -/
def ofOpcode7 (n : Nat) (f : Form) : Option Instr :=
  match n with
  | 0x0 => some (.kand f)
  | 0x1 => some (.kor f)
  | 0x2 => some (.kxor f)
  | 0x3 => some (.knot f)
  | 0x4 => some (.kpop f)
  | 0x5 => some (.kffs f)
  | 0x6 => some (.kmov f)
  | _ => none

/-- Opcodes 0x80 to 0x8F of R52. -/
def ofOpcode8 (n : Nat) (f : Form) : Option Instr :=
  match n with
  | 0x0 => some (match f with | .base o => .mov o | .long l => .movLong l)
  | 0x1 => some (match f with | .base o => .movl o | .long l => .movlLong l)
  | 0x2 => some (.rdsr f)
  | 0x3 => some (.wrsr f)
  | 0x4 => some (match f with | .base o => .xset o | .long l => .xsetLong l)
  | 0x5 => some (match f with | .base o => .xadd o | .long l => .xaddLong l)
  | _ => none

/-- Opcodes 0x90 to 0x9F of R52. -/
def ofOpcode9 (n : Nat) (f : Form) : Option Instr :=
  match n with
  | 0x0 => some (match f with | .base o => .bra o | .long l => .braLong l)
  | 0x1 => some (.brc f)
  | 0x2 => some (match f with | .base o => .call o | .long l => .callLong l)
  | 0x3 => some (match f with | .base o => .ret o | .long l => .retLong l)
  | 0x4 => some (.split f)
  | 0x5 => some (match f with | .base o => .join o | .long l => .joinLong l)
  | 0x6 => some (match f with | .base o => .exit o | .long l => .exitLong l)
  | 0x7 => some (match f with | .base o => .yield o | .long l => .yieldLong l)
  | 0x8 => some (match f with | .base o => .trap o | .long l => .trapLong l)
  | 0x9 => some (match f with | .base o => .tret o | .long l => .tretLong l)
  | 0xA => some (match f with | .base o => .bkpt o | .long l => .bkptLong l)
  | 0xB => some (match f with | .base o => .sleep o | .long l => .sleepLong l)
  | _ => none

/-- Opcodes 0xA0 to 0xAF of R52. -/
def ofOpcodeA (n : Nat) (f : Form) : Option Instr :=
  match n with
  | 0x0 => some (match f with | .base o => .ld o | .long l => .ldLong l)
  | 0x1 => some (match f with | .base o => .st o | .long l => .stLong l)
  | 0x2 => some (.atom f)
  | 0x3 => some (.atomr f)
  | 0x4 => some (.cas f)
  | 0x5 => some (match f with | .base o => .pref o | .long l => .prefLong l)
  | 0x6 => some (match f with | .base o => .cwb o | .long l => .cwbLong l)
  | 0x7 => some (match f with | .base o => .fence o | .long l => .fenceLong l)
  | _ => none

/-- Opcodes 0xB0 to 0xBF of R52. -/
def ofOpcodeB (n : Nat) (f : Form) : Option Instr :=
  match n with
  | 0x0 => some (.lds f)
  | 0x1 => some (.sts f)
  | 0x2 => some (.atoms f)
  | 0x3 => some (.ldrs f)
  | 0x4 => some (.strs f)
  | _ => none

/-- Opcodes 0xC0 to 0xCF of R52. -/
def ofOpcodeC (n : Nat) (f : Form) : Option Instr :=
  match n with
  | 0x0 => some (match f with | .base o => .waitc o | .long l => .waitcLong l)
  | 0x1 => some (match f with | .base o => .bara o | .long l => .baraLong l)
  | 0x2 => some (match f with | .base o => .barw o | .long l => .barwLong l)
  | 0x3 => some (match f with | .base o => .bars o | .long l => .barsLong l)
  | 0x4 => some (match f with | .base o => .drain o | .long l => .drainLong l)
  | _ => none

/-- Opcodes 0xD0 to 0xDF of R52. -/
def ofOpcodeD (n : Nat) (f : Form) : Option Instr :=
  match n with
  | 0x0 => some (.tdset f)
  | 0x1 => some (.tdget f)
  | 0x2 => some (.mma f)
  | 0x3 => some (.accz f)
  | 0x4 => some (.accrd f)
  | 0x5 => some (.accwr f)
  | 0x6 => some (.accld f)
  | 0x7 => some (.accst f)
  | _ => none

/-- Opcodes 0xE0 to 0xEF of R52. -/
def ofOpcodeE (n : Nat) (f : Form) : Option Instr :=
  match n with
  | 0x0 => some (.job f)
  | 0x1 => some (.jobq f)
  | 0x8 => some (.objreg f)
  | 0x9 => some (match f with | .base o => .objfree o | .long l => .objfreeLong l)
  | 0xA => some (.comb f)
  | 0xB => some (match f with | .base o => .cbatch o | .long l => .cbatchLong l)
  | 0xC => some (match f with | .base o => .carg o | .long l => .cargLong l)
  | 0xD => some (match f with | .base o => .creply o | .long l => .creplyLong l)
  | 0xE => some (match f with | .base o => .cend o | .long l => .cendLong l)
  | _ => none

/-- Opcodes 0xF0 to 0xFF of R52. -/
def ofOpcodeF (n : Nat) (f : Form) : Option Instr :=
  match n with
  | 0x0 => some (match f with | .base o => .rshare o | .long l => .rshareLong l)
  | 0x1 => some (match f with | .base o => .rquery o | .long l => .rqueryLong l)
  | 0x2 => some (match f with | .base o => .launch o | .long l => .launchLong l)
  | 0x3 => some (match f with | .base o => .chwait o | .long l => .chwaitLong l)
  | 0x4 => some (match f with | .base o => .eread o | .long l => .ereadLong l)
  | 0x5 => some (match f with | .base o => .tarm o | .long l => .tarmLong l)
  | _ => none

/-- Opcodes 0x100 to 0x10F of R52. -/
def ofOpcode10 (n : Nat) (f : Form) : Option Instr :=
  match n with
  | 0x0 => some (.rdpr f)
  | 0x1 => some (.wrpr f)
  | 0x2 => some (match f with | .base o => .prdone o | .long l => .prdoneLong l)
  | 0x3 => some (match f with | .base o => .ctxsv o | .long l => .ctxsvLong l)
  | 0x4 => some (match f with | .base o => .tlbinv o | .long l => .tlbinvLong l)
  | 0x5 => some (match f with | .base o => .sheet o | .long l => .sheetLong l)
  | _ => none

/-- The instruction of an opcode, if the opcode map assigns it (R52). -/
def ofAssigned (op : Nat) (f : Form) : Option Instr :=
  match op / 16 with
  | 0x0 => ofOpcode0 (op % 16) f
  | 0x1 => ofOpcode1 (op % 16) f
  | 0x2 => ofOpcode2 (op % 16) f
  | 0x3 => ofOpcode3 (op % 16) f
  | 0x4 => ofOpcode4 (op % 16) f
  | 0x5 => ofOpcode5 (op % 16) f
  | 0x6 => ofOpcode6 (op % 16) f
  | 0x7 => ofOpcode7 (op % 16) f
  | 0x8 => ofOpcode8 (op % 16) f
  | 0x9 => ofOpcode9 (op % 16) f
  | 0xA => ofOpcodeA (op % 16) f
  | 0xB => ofOpcodeB (op % 16) f
  | 0xC => ofOpcodeC (op % 16) f
  | 0xD => ofOpcodeD (op % 16) f
  | 0xE => ofOpcodeE (op % 16) f
  | 0xF => ofOpcodeF (op % 16) f
  | 0x10 => ofOpcode10 (op % 16) f
  | _ => none

/-- The instruction of an opcode in a form. A reserved or illegal opcode is an encoding whose issue raises a fault
(R53), so it is a constructor of its own and never falls through to a neighbour. -/
def ofOpcode (op : BitVec 9) (f : Form) : Instr :=
  match ofAssigned op.toNat f with
  | some i => i
  | none => if op.toNat < 0x180 then .reservedOpcode op f else .illegalOpcode op f

/-- The opcode and form of an instruction (R52); `none` for a step of another agent, which has no encoding. -/
def opcodeForm : Instr → Option (BitVec 9 × Form)
  | .nop o => some (0x0, .base o)
  | .nopLong l => some (0x0, .long l)
  | .iadd o => some (0x1, .base o)
  | .iaddLong l => some (0x1, .long l)
  | .isub o => some (0x2, .base o)
  | .isubLong l => some (0x2, .long l)
  | .imul o => some (0x3, .base o)
  | .imulLong l => some (0x3, .long l)
  | .imulh o => some (0x4, .base o)
  | .imulhLong l => some (0x4, .long l)
  | .imad f => some (0x5, f)
  | .imin o => some (0x6, .base o)
  | .iminLong l => some (0x6, .long l)
  | .imax o => some (0x7, .base o)
  | .imaxLong l => some (0x7, .long l)
  | .iabs f => some (0x8, f)
  | .ineg o => some (0x9, .base o)
  | .inegLong l => some (0x9, .long l)
  | .iaddc f => some (0xA, f)
  | .andBits o => some (0xB, .base o)
  | .andBitsLong l => some (0xB, .long l)
  | .orBits o => some (0xC, .base o)
  | .orBitsLong l => some (0xC, .long l)
  | .xorBits o => some (0xD, .base o)
  | .xorBitsLong l => some (0xD, .long l)
  | .andn o => some (0xE, .base o)
  | .andnLong l => some (0xE, .long l)
  | .notBits o => some (0xF, .base o)
  | .notBitsLong l => some (0xF, .long l)
  | .shl o => some (0x10, .base o)
  | .shlLong l => some (0x10, .long l)
  | .shr o => some (0x11, .base o)
  | .shrLong l => some (0x11, .long l)
  | .sar o => some (0x12, .base o)
  | .sarLong l => some (0x12, .long l)
  | .rotl o => some (0x13, .base o)
  | .rotlLong l => some (0x13, .long l)
  | .bfx f => some (0x14, f)
  | .bfi f => some (0x15, f)
  | .popc o => some (0x16, .base o)
  | .popcLong l => some (0x16, .long l)
  | .clz o => some (0x17, .base o)
  | .clzLong l => some (0x17, .long l)
  | .brev o => some (0x18, .base o)
  | .brevLong l => some (0x18, .long l)
  | .prmt f => some (0x19, f)
  | .lea f => some (0x1A, f)
  | .icmp f => some (0x1B, f)
  | .sel f => some (0x1C, f)
  | .fadd o => some (0x20, .base o)
  | .faddLong l => some (0x20, .long l)
  | .fsub o => some (0x21, .base o)
  | .fsubLong l => some (0x21, .long l)
  | .fmul o => some (0x22, .base o)
  | .fmulLong l => some (0x22, .long l)
  | .ffma f => some (0x23, f)
  | .fmin o => some (0x24, .base o)
  | .fminLong l => some (0x24, .long l)
  | .fmax o => some (0x25, .base o)
  | .fmaxLong l => some (0x25, .long l)
  | .fcmp f => some (0x26, f)
  | .frcp o => some (0x27, .base o)
  | .frcpLong l => some (0x27, .long l)
  | .frsq o => some (0x28, .base o)
  | .frsqLong l => some (0x28, .long l)
  | .fsqrt o => some (0x29, .base o)
  | .fsqrtLong l => some (0x29, .long l)
  | .fexp2 o => some (0x2A, .base o)
  | .fexp2Long l => some (0x2A, .long l)
  | .flog2 o => some (0x2B, .base o)
  | .flog2Long l => some (0x2B, .long l)
  | .ftanh o => some (0x2C, .base o)
  | .ftanhLong l => some (0x2C, .long l)
  | .fsigm o => some (0x2D, .base o)
  | .fsigmLong l => some (0x2D, .long l)
  | .frnd o => some (0x2E, .base o)
  | .frndLong l => some (0x2E, .long l)
  | .fscale o => some (0x2F, .base o)
  | .fscaleLong l => some (0x2F, .long l)
  | .fclass f => some (0x30, f)
  | .fdiv o => some (0x31, .base o)
  | .fdivLong l => some (0x31, .long l)
  | .padd o => some (0x40, .base o)
  | .paddLong l => some (0x40, .long l)
  | .pmul o => some (0x41, .base o)
  | .pmulLong l => some (0x41, .long l)
  | .pfma f => some (0x42, f)
  | .pmax o => some (0x43, .base o)
  | .pmaxLong l => some (0x43, .long l)
  | .pmin o => some (0x44, .base o)
  | .pminLong l => some (0x44, .long l)
  | .pdot2 f => some (0x45, f)
  | .cvt f => some (0x50, f)
  | .mxq f => some (0x51, f)
  | .mxd f => some (0x52, f)
  | .pack f => some (0x53, f)
  | .unpk f => some (0x54, f)
  | .shfl o => some (0x60, .base o)
  | .shflLong l => some (0x60, .long l)
  | .bcast o => some (0x61, .base o)
  | .bcastLong l => some (0x61, .long l)
  | .vote o => some (0x62, .base o)
  | .voteLong l => some (0x62, .long l)
  | .wred o => some (0x63, .base o)
  | .wredLong l => some (0x63, .long l)
  | .wscan o => some (0x64, .base o)
  | .wscanLong l => some (0x64, .long l)
  | .matchLanes o => some (0x65, .base o)
  | .matchLanesLong l => some (0x65, .long l)
  | .kand f => some (0x70, f)
  | .kor f => some (0x71, f)
  | .kxor f => some (0x72, f)
  | .knot f => some (0x73, f)
  | .kpop f => some (0x74, f)
  | .kffs f => some (0x75, f)
  | .kmov f => some (0x76, f)
  | .mov o => some (0x80, .base o)
  | .movLong l => some (0x80, .long l)
  | .movl o => some (0x81, .base o)
  | .movlLong l => some (0x81, .long l)
  | .rdsr f => some (0x82, f)
  | .wrsr f => some (0x83, f)
  | .xset o => some (0x84, .base o)
  | .xsetLong l => some (0x84, .long l)
  | .xadd o => some (0x85, .base o)
  | .xaddLong l => some (0x85, .long l)
  | .bra o => some (0x90, .base o)
  | .braLong l => some (0x90, .long l)
  | .brc f => some (0x91, f)
  | .call o => some (0x92, .base o)
  | .callLong l => some (0x92, .long l)
  | .ret o => some (0x93, .base o)
  | .retLong l => some (0x93, .long l)
  | .split f => some (0x94, f)
  | .join o => some (0x95, .base o)
  | .joinLong l => some (0x95, .long l)
  | .exit o => some (0x96, .base o)
  | .exitLong l => some (0x96, .long l)
  | .yield o => some (0x97, .base o)
  | .yieldLong l => some (0x97, .long l)
  | .trap o => some (0x98, .base o)
  | .trapLong l => some (0x98, .long l)
  | .tret o => some (0x99, .base o)
  | .tretLong l => some (0x99, .long l)
  | .bkpt o => some (0x9A, .base o)
  | .bkptLong l => some (0x9A, .long l)
  | .sleep o => some (0x9B, .base o)
  | .sleepLong l => some (0x9B, .long l)
  | .ld o => some (0xA0, .base o)
  | .ldLong l => some (0xA0, .long l)
  | .st o => some (0xA1, .base o)
  | .stLong l => some (0xA1, .long l)
  | .atom f => some (0xA2, f)
  | .atomr f => some (0xA3, f)
  | .cas f => some (0xA4, f)
  | .pref o => some (0xA5, .base o)
  | .prefLong l => some (0xA5, .long l)
  | .cwb o => some (0xA6, .base o)
  | .cwbLong l => some (0xA6, .long l)
  | .fence o => some (0xA7, .base o)
  | .fenceLong l => some (0xA7, .long l)
  | .lds f => some (0xB0, f)
  | .sts f => some (0xB1, f)
  | .atoms f => some (0xB2, f)
  | .ldrs f => some (0xB3, f)
  | .strs f => some (0xB4, f)
  | .waitc o => some (0xC0, .base o)
  | .waitcLong l => some (0xC0, .long l)
  | .bara o => some (0xC1, .base o)
  | .baraLong l => some (0xC1, .long l)
  | .barw o => some (0xC2, .base o)
  | .barwLong l => some (0xC2, .long l)
  | .bars o => some (0xC3, .base o)
  | .barsLong l => some (0xC3, .long l)
  | .drain o => some (0xC4, .base o)
  | .drainLong l => some (0xC4, .long l)
  | .tdset f => some (0xD0, f)
  | .tdget f => some (0xD1, f)
  | .mma f => some (0xD2, f)
  | .accz f => some (0xD3, f)
  | .accrd f => some (0xD4, f)
  | .accwr f => some (0xD5, f)
  | .accld f => some (0xD6, f)
  | .accst f => some (0xD7, f)
  | .job f => some (0xE0, f)
  | .jobq f => some (0xE1, f)
  | .objreg f => some (0xE8, f)
  | .objfree o => some (0xE9, .base o)
  | .objfreeLong l => some (0xE9, .long l)
  | .comb f => some (0xEA, f)
  | .cbatch o => some (0xEB, .base o)
  | .cbatchLong l => some (0xEB, .long l)
  | .carg o => some (0xEC, .base o)
  | .cargLong l => some (0xEC, .long l)
  | .creply o => some (0xED, .base o)
  | .creplyLong l => some (0xED, .long l)
  | .cend o => some (0xEE, .base o)
  | .cendLong l => some (0xEE, .long l)
  | .rshare o => some (0xF0, .base o)
  | .rshareLong l => some (0xF0, .long l)
  | .rquery o => some (0xF1, .base o)
  | .rqueryLong l => some (0xF1, .long l)
  | .launch o => some (0xF2, .base o)
  | .launchLong l => some (0xF2, .long l)
  | .chwait o => some (0xF3, .base o)
  | .chwaitLong l => some (0xF3, .long l)
  | .eread o => some (0xF4, .base o)
  | .ereadLong l => some (0xF4, .long l)
  | .tarm o => some (0xF5, .base o)
  | .tarmLong l => some (0xF5, .long l)
  | .rdpr f => some (0x100, f)
  | .wrpr f => some (0x101, f)
  | .prdone o => some (0x102, .base o)
  | .prdoneLong l => some (0x102, .long l)
  | .ctxsv o => some (0x103, .base o)
  | .ctxsvLong l => some (0x103, .long l)
  | .tlbinv o => some (0x104, .base o)
  | .tlbinvLong l => some (0x104, .long l)
  | .sheet o => some (0x105, .base o)
  | .sheetLong l => some (0x105, .long l)
  | .hangReport => none
  | .sleepExpiry => none
  | .burstEnd => none
  | .currentGrant => none
  | .loadComplete => none
  | .storePerformed => none
  | .atomicPerformed => none
  | .latheOpStart => none
  | .latheOpComplete => none
  | .accrdComplete => none
  | .jobStart => none
  | .jobComplete => none
  | .translationWalk => none
  | .xfRespReplay => none
  | .xfRespDeliver => none
  | .combPacketAdmit => none
  | .batchStart => none
  | .methodBudgetExpiry => none
  | .combComplete => none
  | .drainComplete => none
  | .fabricDrainAck => none
  | .qTailDoorbell => none
  | .recordAdmit => none
  | .waitRetest => none
  | .priorityAging => none
  | .launchAggregate => none
  | .bindRecordInstall => none
  | .bindShareRewrite => none
  | .bindWithdraw => none
  | .blockDispatch => none
  | .blockRetire => none
  | .gangRetire => none
  | .gridRetire => none
  | .codePageVerify => none
  | .rebind => none
  | .forcedGrowth => none
  | .turnAdvance => none
  | .quotaDelivery => none
  | .preemptDelivery => none
  | .throttleDelivery => none
  | .handlerBudgetOverrun => none
  | .blockSave => none
  | .darkroomSwap => none
  | .blockRestore => none
  | .poolSliceEnd => none
  | .clusterReassign => none
  | .classChangeDone => none
  | .budgetChange => none
  | .dieTempChange => none
  | .clockGate => none
  | .powerGate => none
  | .coreWake => none
  | .calibrationEpoch => none
  | .periodicSheet => none
  | .shReq => none
  | .activate => none
  | .resume => none
  | .stopPartition => none
  | .quiesce => none
  | .destroy => none
  | .pmQuotaWrite => none
  | .homemodeWrite => none
  | .ccWaypartWrite => none
  | .pmWaysWrite => none
  | .poolClWrite => none
  | .praDataRead => none
  | .praDataWrite => none
  | .configRegisterWrite => none
  | .descRead => none
  | .quoteRecord => none
  | .fnhost => none
  | .windowWrite => none
  | .exportWrite => none
  | .handoff => none
  | .imagePush => none
  | .handoffTimeout => none
  | .remoteAccessArrival => none
  | .remoteTimeout => none
  | .dieLinkDown => none
  | .fabricPortDown => none
  | .cxlLinkFail => none
  | .powerGood => none
  | .coldPowerLoss => none
  | .warmReset => none
  | .functionReset => none
  | .headstockWatchdog => none
  | .illegalOpcode op f => some (op, f)
  | .reservedOpcode op f => some (op, f)
  | .chadyPortResume => none
  | .chadyPortWrite => none
  | .fabricDrainMarker => none
  | .handoffArrival => none
  | .handoffRetireReport => none

/-! ## Decoding and encoding -/

/-- The instruction that starts a list of words, and the words after it. -/
def decodeWords (ws : List Word) : Except DecodeError (Instr × List Word) :=
  match decodeForm ws with
  | .ok (op, f, rest) => .ok (ofOpcode op f, rest)
  | .error e => .error e

/-- The instruction that starts a list of bytes, and the bytes after it (R32). -/
def decode (bs : List Byte) : Except DecodeError (Instr × List Byte) :=
  match decodeForm (wordsOfBytes bs) with
  | .ok (op, f, _) => .ok (ofOpcode op f, bs.drop (4 * f.words))
  | .error e => .error e

/-- The words of an instruction; `none` for a step that has no encoding. -/
def encode (i : Instr) : Option (List Word) :=
  match opcodeForm i with
  | some (op, f) => some (encodeForm op f)
  | none => none

/-- The words of an instruction whose bits are w, bit 0 the least significant of the first word; words above are zero.
Five words are the longest instruction (R32). -/
def tableWords (w : Nat) : List Word :=
  [BitVec.ofNat 32 w, BitVec.ofNat 32 (w >>> 32), BitVec.ofNat 32 (w >>> 64), BitVec.ofNat 32 (w >>> 96),
   BitVec.ofNat 32 (w >>> 128)]

/-- The low nbits of w: the bits above them are zero. -/
def tableBits (nbits w : Nat) : Nat := w % 2 ^ nbits

/-- The bytes of those words as the hardware stores them. -/
def tableBytes (nbits w : Nat) : List Byte := (tableWords (tableBits nbits w)).flatMap bytesOfWord

/-- The instruction read from an instruction whose bits are w, numbered as the opcode table numbers them. -/
def decodeTableWord (nbits w : Nat) : Option Instr :=
  match decode (tableBytes nbits w) with
  | .ok (i, _) => some i
  | .error _ => none

end Sys2Proof
end

