-- ==== Sys2Proof/Machine/Fetch.lean ====
section
/-! DEFINITION. Fetching the instruction at a PC: the code range and the bundle check (R35, R131), translation and code pages
(R283, R285, R357), and what the control word says of the instruction (R33, R34). -/
namespace Sys2Proof.Machine

/-! ## The code of a kernel -/

/-- First and last-but-one address of a kernel's code (R130, R131). -/
def Kernel.entry (k : Kernel) : Dword := k.addr + 64
def Kernel.inCode (k : Kernel) (pc : Dword) : Bool := (pc - k.entry).toNat < k.codeSize

/-- A transfer target is a bundle of the code (R131). -/
def Kernel.targetOk (k : Kernel) (t : Dword) : Bool := t.toNat % 32 = 0 && k.inCode t

/-- Index in HASHTAB of the code page that holds an address: HDR's page is the header's hash index (R354). -/
def Kernel.pageOf (k : Kernel) (pc : Dword) : Nat := k.hashIdx + pc.toNat / 65536 - k.addr.toNat / 65536

/-! ## Bundles -/

/-- The first word of an instruction carries the opcode of JOIN. -/
def isJoinWord (w : Word) : Bool := (opcodeOf w).toNat = 0x095

/-- The word indices at which the instructions of a bundle start, walking from word w (R35). -/
def startsFrom : Nat → Nat → List Word → List Nat
  | 0, _, _ => []
  | n + 1, w, ws => if 7 < w then [] else w :: startsFrom n (w + lengthInWords (lenOf (nth 0 ws w))) ws

/-- The starts of a bundle's instructions. -/
def starts (ws : List Word) : List Nat := startsFrom 7 1 ws

/-- The first defect of a bundle, as TRAP_INFO (R35). -/
def bundleDefect (ws : List Word) : Option Nat :=
  if (nth 0 ws 0).toNat / 2 ^ 30 ≠ 0 then some 0
  else (starts ws).find? fun w =>
    7 < w + lengthInWords (lenOf (nth 0 ws w)) - 1 || (isJoinWord (nth 0 ws w) && !bit (nth 0 ws 0).toNat 28)

/-- Stall count of the instruction that starts at a word (R33, R34). -/
def countAt (ws : List Word) (w : Nat) : Nat := (nth 0 ws 0).toNat / 2 ^ (4 * (w - 1)) % 16

/-- The YIELD bit (R33). -/
def yieldBitOf (ws : List Word) : Bool := bit (nth 0 ws 0).toNat 29

/-- Whether the instruction at a word is a NOP that does not issue (R34, R136). -/
def skipped (ws : List Word) (w : Nat) : Bool := (opcodeOf (nth 0 ws w)).toNat = 0 && countAt ws w = 0

/-- The first instruction from word w on that issues, among these starts. -/
def firstIssued (ws : List Word) (w : Nat) (l : List Nat) : Option Nat := l.find? fun v => w ≤ v && !skipped ws v

/-! ## Fetching -/

/-- What comes of a fetch. -/
inductive Fetched where
  /-- the instruction, its PC, its stall count, the bundle's YIELD bit, and whether no later instruction of the bundle issues -/
  | instr (i : Instr) (pc : Dword) (cnt : Nat) (yieldBit last : Bool)
  /-- nothing of the bundle is left to issue -/
  | skip
  | fault (code : Nat) (pc : Dword) (info : Nat)
  /-- poison in the code (R281) -/
  | abort (pc : Dword)
  | xlate (va : Nat) (x : XFail)
  /-- the page waits for its verification (R357) -/
  | page (index : Nat)
  deriving DecidableEq, Repr

/-- The instruction at word w of a bundle. -/
def fetchWord (ws : List Word) (b : Dword) (w : Nat) : Fetched :=
  match firstIssued ws w (starts ws) with
  | none => .skip
  | some v => match decodeWords (ws.drop v) with
    | .ok (i, _) => .instr i (pcOfWord b v) (countAt ws v) (yieldBitOf ws) (firstIssued ws (v + 1) (starts ws)).isNone
    | .error _ => .fault Fc.illegalBundle b v

/-- Whether the code page of a PC may be run: a grid's pages one by one, a method's all from its registration (R302, R357). -/
def State.pageReady (s : State) (b : Block) (pc : Dword) : Bool :=
  match s.gridOf b with
  | none => true
  | some g => spGet false g.verified (g.kernel.pageOf pc)

/-- The place of code for a block: a batch runs the pages that its object's registration has verified, wherever their addresses lead since
(R302; notes/assumptions/116.md), and any other block what its page tables say. -/
def State.codePlace (s : State) (b : Block) (bu : Dword) : State × Except AddrErr (Space × Nat) :=
  match ((b.method.bind fun m => s.obj? m.fn m.slot).bind fun o => o.pages.find? (·.1 = bu.toNat / 65536)) with
  | some p => (s, .ok (.mem, 65536 * p.2 + bu.toNat % 65536))
  | none => s.place b.core b.fn b.child bu.toNat needX

/-- The fetch of the instruction at a PC for a block: a bundle read at its home (R281, R299). -/
def State.fetch (s : State) (b : Block) (pc : Dword) : State × Fetched :=
  let k := s.kernelOf b
  let bu := bundleOf pc
  if !k.inCode bu then (s, .fault Fc.illegalBundle bu 0x200)
  else match s.codePlace b bu with
    | (s, .error (.xlate x)) => (s, .xlate bu.toNat x)
    | (s, .error _) => (s, .fault Fc.access pc (memInfo 0 false false 1 bu.toNat))
    | (s, .ok (sp, a)) =>
      if !s.pageReady b pc then (s, .page (k.pageOf pc))
      else
        let s := s.scrub b.fn sp a 32
        let s := if sp = .mem then s.touch b.fn b.child a 32 false else s
        let (bs, bad) := s.fetchAt sp a 32
        let ws := wordsOfBytes bs
        if bad then (s, .abort pc)
        else match bundleDefect ws with
          | some info => (s, .fault Fc.illegalBundle bu info)
          | none => (s, fetchWord ws bu (wordOf pc))

/-- The words of a bundle as memory holds them, where its address translates and nothing is poisoned. -/
def State.wordsAt (s : State) (b : Block) (bu : Dword) : Option (List Word) :=
  match s.codePlace b bu with
  | (s', .ok (sp, a)) => if (s'.fetchAt sp a 32).2 then none else some (wordsOfBytes (s'.fetchAt sp a 32).1)
  | _ => none

end Sys2Proof.Machine
end

