-- ==== Sys2Proof/Machine/Enlarger.lean ====
section
/-! DEFINITION. Negatives as the package reads them: headers and tables (R234, R354, R443), what the Enlarger makes of them (R232,
R237, R238), and the hashes of code pages (R357). -/
namespace Sys2Proof.Machine

/-! ## Reading a partition's memory for the package -/

/-- Bytes at a virtual address of a partition, where every page is mapped with the permissions given and holds no poison. -/
def State.peek (s : State) (fn child : Nat) (need : BitVec 3) : Nat → Nat → Nat → Option (List Byte)
  | 0, _, _ => some []
  | fuel + 1, va, n =>
    if n = 0 then some []
    else match s.route fn va with
      | .ok .table => match s.walk fn child va with
        | .error _ => none
        | .ok l =>
          let m := min n (65536 - va % 65536)
          let r := s.fetchAt .mem (l.pa + (va - l.va)) m
          if l.perm &&& need ≠ need ∨ r.2 then none
          else (s.peek fn child need fuel (va + m) (n - m)).map fun rest => r.1 ++ rest
      | _ => none

/-- Bytes of a partition with R permission. -/
def State.peekR (s : State) (fn child va n : Nat) : Option (List Byte) := s.peek fn child needR (n / 65536 + 2) va n

/-- A translation that the package obtains, by a walk of its own (R284, R299). -/
def State.devWalk (s : State) (fn child va : Nat) : State :=
  match s.route fn va with
  | .ok .table => s.walked fn child va
  | _ => s

/-- The parts of a range in its 64 KiB pages. -/
def pagesIn (va n : Nat) : List (Nat × Nat) :=
  (List.range ((va + n - 1) / 65536 - va / 65536 + b2n (n ≠ 0))).map fun i =>
    let start := if i = 0 then va else (va / 65536 + i) * 65536
    (start, min (va + n) ((va / 65536 + i + 1) * 65536) - start)

/-- What it takes to read bytes of one page for a partition: a walk, and where it succeeds reads at their homes; an uncorrectable error that
they meet is logged (R281, R284, R299). -/
def State.readPage (s : State) (fn child va n : Nat) : State :=
  match s.route fn va with
  | .ok .table =>
    let s := s.walked fn child va
    match s.walk fn child va with
    | .error _ => s
    | .ok l =>
      let a := l.pa + (va - l.va)
      let s := (s.scrub fn .mem a n).touch fn child a n false
      if (s.fetchAt .mem a n).2 then s.logErr fn { code := 0x71, flags := child, info := BitVec.ofNat 64 a } true else s
  | _ => s

/-- What it takes to read a range for a partition. -/
def State.readRange (s : State) (fn child va n : Nat) : State := (pagesIn va n).foldl (fun s p => s.readPage fn child p.1 p.2) s

/-- Little-endian field of bytes. -/
def bytesAt (bs : List Byte) (off n : Nat) : Nat := ofLe ((bs.drop off).take n)

/-! ## Headers (R354) -/

/-- The fields of a header; demand and minimum share rounded up to even (R232). -/
def kernelOfHeader (addr : Nat) (h : List Byte) : Kernel :=
  { addr := BitVec.ofNat 64 addr, codeSize := bytesAt h 0x0C 4, widthCode := bytesAt h 0x10 1, role := bytesAt h 0x11 1
    demand := roundUp 2 (bytesAt h 0x12 2), minshare := roundUp 2 (bytesAt h 0x14 2), nscal := bytesAt h 0x16 1
    nbar := bytesAt h 0x17 1, bufBytes := bytesAt h 0x18 4, nbuf := bytesAt h 0x1C 2, gang := bytesAt h 0x1E 1
    cls := bytesAt h 0x1F 1, trap := BitVec.ofNat 32 (bytesAt h 0x20 4), handler := bytesAt h 0x24 4
    prehandler := bytesAt h 0x28 4, cycles := bytesAt h 0x2C 2, nsym := bytesAt h 0x2E 2, symmap := bytesAt h 0x30 4
    lifetab := bytesAt h 0x34 4, hashIdx := bytesAt h 0x38 4 }

/-- Whether a handler offset is 0 or names a bundle of the code. -/
def Kernel.handlerOk (k : Kernel) (off : Nat) : Bool := off = 0 || (off % 32 = 0 && 64 ≤ off && off < 64 + k.codeSize)

/-- Pages spanned from the header to an offset past it. -/
def Kernel.pagesTo (k : Kernel) (stop : Nat) : Nat := (k.addr.toNat + stop - 1) / 65536 - k.addr.toNat / 65536 + 1

/-- Magic, version, flags and entry offset. -/
def headerTag (h : List Byte) : Bool :=
  bytesAt h 0 4 = 0x4B48575A && bytesAt h 4 2 = 1 && bytesAt h 6 2 = 0 && bytesAt h 8 4 = 64 && bytesAt h 0x3C 4 = 0

/-- The limits of R354 that the header alone decides. -/
def headerOk (h : List Byte) (k : Kernel) (npages : Nat) : Bool :=
  headerTag h && k.codeSize % 32 = 0 && 0 < k.codeSize && k.hashIdx + k.pagesTo (64 + k.codeSize) ≤ npages &&
  k.widthCode ≤ 2 && k.role ≤ 3 && bytesAt h 0x12 2 ≤ 256 && k.minshare ≤ k.demand && k.nscal ≤ 64 && k.nbar ≤ 64 &&
  k.bufBytes ≤ 786432 && k.nbuf ≤ 4096 && 1 ≤ k.gang && k.gang ≤ 8 && k.cls ≤ 3 && k.trap.toNat < 2 ^ 13 &&
  k.handlerOk k.handler && k.handlerOk k.prehandler && k.nsym ≤ 8191 && 64 + k.codeSize ≤ k.symmap && 64 + k.codeSize ≤ k.lifetab &&
  k.hashIdx + k.pagesTo (max k.symmap k.lifetab + 4) ≤ npages

/-- MODE at wave start (R72, R355): STALLCHK, HANGTRAP and the rounding modes by their places in both words. -/
def Kernel.modeInit (k : Kernel) : Word :=
  let t := k.trap.toNat
  BitVec.ofNat 32 (fld t 12 5 + b2n (bit t 0) * 2 ^ 8 + b2n (bit t 4) * 2 ^ 10 + b2n (bit t 1) * 2 ^ 11 + b2n (bit t 2) * 2 ^ 12)

/-! ## Tables (R234, R443) -/

/-- Bytes of a kernel from an offset on, where every page that holds them has been verified: `ok` says which, counted from the header's. -/
def State.kernelBytes (s : State) (fn child : Nat) (k : Kernel) (ok : Nat → Bool) (off n : Nat) : Option (List Byte) :=
  let first := k.pagesTo (off + 1) - 1
  if (List.range (k.pagesTo (off + max 1 n) - first)).all fun i => ok (first + i) then s.peekR fn child (k.addr.toNat + off) n else none

/-- A table's entries: a 4-byte count at an offset, then `size` bytes each. Answers the entries and the offset behind them. -/
def State.tableAt (s : State) (fn child : Nat) (k : Kernel) (ok : Nat → Bool) (off size most : Nat) : Option (List (List Byte) × Nat) :=
  match s.kernelBytes fn child k ok off 4 with
  | none => none
  | some c =>
    let n := ofLe c
    if most < n then none
    else (s.kernelBytes fn child k ok (off + 4) (size * n)).map fun bs =>
      ((List.range n).map fun i => (bs.drop (size * i)).take size, off + 4 + size * n)

/-- The lifetime, buffer and parameter tables as they stand in memory, and the end of the last. -/
structure Tables where
  lives : List (List Byte)
  bufs : List (List Byte)
  params : List (List Byte)
  stop : Nat

def State.tables (s : State) (fn child : Nat) (k : Kernel) (ok : Nat → Bool) : Option Tables :=
  match s.tableAt fn child k ok k.lifetab 16 (2 ^ 32) with
  | none => none
  | some (lives, o1) => match s.tableAt fn child k ok o1 8 4096 with
    | none => none
    | some (bufs, o2) => match s.tableAt fn child k ok o2 4 64 with
      | none => none
      | some (params, o3) => some ⟨lives, bufs, params, o3⟩

/-- The entries of a symbol map from an offset on: kind, number and name; and the offset behind them (R443). -/
def State.symsAt (s : State) (fn child : Nat) (k : Kernel) (ok : Nat → Bool) : Nat → Nat → Option (List (Nat × Nat × List Byte) × Nat)
  | 0, off => some ([], off)
  | n + 1, off => match s.kernelBytes fn child k ok off 4 with
    | none => none
    | some h =>
      let len := bytesAt h 1 1
      if len = 0 ∨ 63 < len then none
      else match s.kernelBytes fn child k ok (off + 4) (roundUp 4 len) with
        | none => none
        | some name => (s.symsAt fn child k ok n (off + 4 + roundUp 4 len)).map fun r =>
          ((bytesAt h 0 1, bytesAt h 2 2, name.take len) :: r.1, r.2)

/-- A kernel's symbol map and its end; none where it cannot be read. -/
def State.symbolMap (s : State) (fn child : Nat) (k : Kernel) (ok : Nat → Bool) : Option (List (Nat × Nat × List Byte) × Nat) :=
  (s.kernelBytes fn child k ok k.symmap 4).bind fun c => s.symsAt fn child k ok (ofLe c) (k.symmap + 4)

/-- The end of a kernel's tables, the symbol map included: of one that cannot be read, its count alone is known to be there (R354,
R443). -/
def State.kernelEnd (s : State) (fn child : Nat) (k : Kernel) (ok : Nat → Bool) (t : Option Tables) : Nat :=
  max ((t.map (·.stop)).getD (k.lifetab + 4)) (((s.symbolMap fn child k ok).map (·.2)).getD (k.symmap + 4))

def lifeOf (e : List Byte) : Life := ⟨bytesAt e 0 2, bytesAt e 2 2, bytesAt e 8 4, bytesAt e 12 4⟩

/-- Buffers placed in declaration order (R237): the placements and the end of the last. -/
def placeBufs : Nat → List (Nat × Nat) → List Buf × Nat
  | off, [] => ([], off)
  | off, (size, align) :: l =>
    let o := roundUp align off
    let r := placeBufs (o + size) l
    (⟨size, align, o⟩ :: r.1, r.2)

def parOf (e : List Byte) : Par := ⟨bytesAt e 0 2, bytesAt e 2 1, bytesAt e 3 1⟩

/-- Scalars that a parameter fills. -/
def Par.fills (p : Par) : List Nat := if p.size = 8 then [p.scal, p.scal + 1] else [p.scal]

/-! ## Barriers (R237) -/

/-- The instructions of code: offset from the entry, opcode and form. -/
def codeInstrs (code : List Byte) : List (Nat × Nat × Form) :=
  (List.range (code.length / 32)).flatMap fun i =>
    let ws := wordsOfBytes ((code.drop (32 * i)).take 32)
    (starts ws).filterMap fun w => match decodeForm (ws.drop w) with
      | .ok (op, f, _) => some (32 * i + (if w ≤ 1 then 0 else 4 * w), op.toNat, f)
      | .error _ => none

/-- What names a barrier: its number, where, whether it is a BARS, and its constant count. -/
structure BarUse where
  bar : Nat
  off : Nat
  bars : Bool
  count : Option Nat
  deriving DecidableEq, Repr

def barUse (x : Nat × Nat × Form) : Option BarUse :=
  if x.2.1 ≠ 0x0C1 ∧ x.2.1 ≠ 0x0C2 ∧ x.2.1 ≠ 0x0C3 then none
  else
    let r := Raw.of (x.2.1 ≠ 0x0C2) x.2.2
    match r.a with
    | .sym n => some ⟨n, x.1, x.2.1 = 0x0C3, match r.b with
        | .zero => some 0
        | .small v => some v
        | .lit => some (r.lit.toNat % 2 ^ 32)
        | _ => none⟩
    | _ => none

/-- A transfer: where it stands, and its target's offset; none for a pair. -/
def transferOf (x : Nat × Nat × Form) : Option (Nat × Option Int) :=
  let r := Raw.of false x.2.2
  let go := fun (o : Opnd) => some (x.1, if o = .lit then some ((x.1 / 32 * 32 : Nat) + sx 64 r.lit.toNat) else none)
  match x.2.1 with
  | 0x090 => go r.a
  | 0x091 => go r.c
  | 0x092 => go r.a
  | 0x093 => go r.a
  | 0x094 => go r.b
  | _ => none

/-- An interval widened to cover the backward branches that meet it, again and again. -/
def widen (back : List (Nat × Nat)) : Nat → Nat × Nat → Nat × Nat
  | 0, iv => iv
  | fuel + 1, iv =>
    let inside := fun n => iv.1 ≤ n && n ≤ iv.2
    widen back fuel ((back.filter fun b => inside b.1 || inside b.2).foldl (fun iv b => (min iv.1 b.2, max iv.2 b.1)) iv)

/-- A barrier's interval, whether only BARS names it, and its constant count where all agree. -/
structure BarLife where
  bar : Nat
  start : Nat
  stop : Nat
  count : Option Nat
  deriving DecidableEq, Repr

/-- Whether two barriers may share a slot. -/
def BarLife.shares (a b : BarLife) : Bool := (a.stop < b.start || b.stop < a.start) && a.count.isSome && a.count = b.count

/-- Barriers given slots in order, each the lowest whose barriers it may share with. -/
def barScan (free : Bool) : List (List BarLife) → List BarLife → List (List BarLife)
  | slots, [] => slots
  | slots, b :: l =>
    match (if free then slots.findIdx? fun x => x.all b.shares else none) with
    | some i => barScan free (slots.modify i (b :: ·)) l
    | none => barScan free (slots ++ [[b]]) l

/-- Physical barrier slots that code needs. -/
def barSlotsOf (code : List Byte) : Nat :=
  let is := codeInstrs code
  let uses := is.filterMap barUse
  let moves := is.filterMap transferOf
  let back := moves.filterMap fun m => m.2.bind fun t => if 0 ≤ t ∧ t ≤ m.1 then some (m.1, t.toNat) else none
  let lives := ((uses.map (·.bar)).eraseDups).map fun n =>
    let u := uses.filter (·.bar = n)
    let offs := u.map (·.off)
    let iv := widen back (back.length + 1) (offs.foldl min (offs.headD 0), offs.foldl max 0)
    let c := (u.head?.bind (·.count))
    (⟨n, iv.1, iv.2, if u.all fun x => x.bars && x.count = c then c else none⟩ : BarLife)
  (barScan (moves.all (·.2.isSome)) [] (sortBy (·.start) (sortBy (·.bar) lives))).length

/-! ## Grants (R232, R238) -/

/-- Most registers that the lifetime table holds open together (R232). -/
def Kernel.openMost (k : Kernel) : Nat :=
  k.lives.foldl (fun n v => max n (sumBy (fun (b : Life) => if b.start ≤ v.start ∧ v.start ≤ b.stop then b.elems else 0) k.lives)) 0

/-- Scratchpad bytes granted to a block (R238). -/
def Kernel.scratchBytes (k : Kernel) (waves : Nat) : Nat := roundUp 128 k.bufBytes + waves * k.reserve waves * 4 * k.width

/-! ## What the Enlarger refuses (R232, R237, R443) -/

/-- A lifetime table that is sorted, without overlaps, inside the code, of entries that are well formed (notes/assumptions/51.md). -/
def livesOk (k : Kernel) (l : List Life) : Bool :=
  (l.zip (l.drop 1)).all (fun p => p.1.start < p.2.start || (p.1.start = p.2.start && p.1.num ≤ p.2.num)) &&
  (l.all fun v => v.start < k.codeSize && v.stop < k.codeSize && v.start ≤ v.stop && 1 ≤ v.elems && v.elems ≤ 256) &&
  (l.zipIdx.all fun a => l.zipIdx.all fun b => a.2 = b.2 || a.1.num + a.1.elems ≤ b.1.num || b.1.num + b.1.elems ≤ a.1.num ||
    a.1.stop < b.1.start || b.1.stop < a.1.start)

/-- The kernel with its tables, or none where the launch fails with reason 9. -/
def Kernel.withTables (k : Kernel) (t : Tables) (code : List Byte) : Option Kernel :=
  let lives := t.lives.map lifeOf
  let bufsOk := t.bufs.length = k.nbuf && t.bufs.all fun e =>
    1 ≤ bytesAt e 0 4 && bytesAt e 0 4 ≤ 786432 && 3 ≤ bytesAt e 4 2 && bytesAt e 4 2 ≤ 12
  let placed := placeBufs 0 (t.bufs.map fun e => (bytesAt e 0 4, 2 ^ bytesAt e 4 2))
  let params := t.params.map parOf
  let paramsOk := params.all fun p => (p.size = 4 || p.size = 8) && p.off % p.size = 0 &&
    (p.size = 4 || p.scal % 2 = 0) && p.fills.all (· < k.nscal)
  let fills := params.flatMap Par.fills
  let k' := { k with lives, bufs := placed.1, params, barSlots := barSlotsOf code }
  if livesOk k lives && bufsOk && placed.2 = k.bufBytes && paramsOk && fills.eraseDups.length = fills.length &&
      !(k.demand = 0 && k.nsym ≠ 0) && k'.openMost ≤ k.demand && k'.barSlots ≤ 16
  then some k' else none

/-! ## Code pages (R302, R357) -/

/-- A 64-byte value of a hash or a signature as bytes. -/
def hashBytes (h : BitVec 512) : List Byte := leBytes 64 h.toNat

/-- Whether page `index` of a hash table matches the page at a virtual address; none where the page cannot be read. -/
def State.hashMatches (s : State) (fn child hashtab index page : Nat) : Option Bool :=
  match s.peek fn child needX 2 (page * 65536) 65536, s.peekR fn child (hashtab + 64 * index) 64 with
  | some bs, some h => some (hashBytes (Config.sha512 bs) = h)
  | _, _ => none

/-- The physical page behind a code page of a partition. -/
def State.physPage (s : State) (fn child page : Nat) : Option Nat :=
  match s.walk fn child (page * 65536) with
  | .ok l => some ((l.pa + (page * 65536 - l.va)) / 65536)
  | .error _ => none

/-- The physical lines of a code page locked for a holder: a grid's handle, or an object's number (R302, R357). -/
def State.lockPage (s : State) (fn child page holder : Nat) : State :=
  match s.physPage fn child page with
  | some p => if s.locks.contains (p, holder) then s else { s with locks := s.locks ++ [(p, holder)] }
  | none => s

/-- Virtual pages from a kernel's header to an offset past it. -/
def Kernel.pageList (k : Kernel) (stop : Nat) : List Nat := (List.range (k.pagesTo stop)).map (k.addr.toNat / 65536 + ·)

/-- Offsets, in pages from the header's, of the pages that hold a kernel's tables, each of which is verified before a table is read from
it (R443). -/
def Kernel.tablePages (k : Kernel) (stop : Nat) : List Nat :=
  (List.range (k.pagesTo stop)).drop (k.pagesTo (min k.symmap k.lifetab + 1) - 1)

/-- What it takes to read the bytes that a page's verification compares: the page, and its entry of the hash table (R357). -/
def State.hashReads (s : State) (fn child hashtab index page : Nat) : State :=
  (s.readRange fn child (65536 * page) 65536).readRange fn child (hashtab + 64 * index) 64

/-- The kernel hash: the SHA-512 of the header and the hashes of the kernel's pages (R246). -/
def State.kernelHash (s : State) (fn child hashtab : Nat) (h : List Byte) (k : Kernel) (stop : Nat) : BitVec 512 :=
  Config.sha512 (h ++ (s.peekR fn child (hashtab + 64 * k.hashIdx) (64 * k.pagesTo stop)).getD [])

/-- What a holder locked is free again. -/
def State.unlock (s : State) (holder : Nat) : State := { s with locks := s.locks.filter (·.2 ≠ holder) }

/-! ## Prints (R245, R246) -/

/-- A print of a kernel at a share in its function's cache. -/
def State.print? (s : State) (fn : Nat) (k : Kernel) (share : Nat) : Option Print :=
  s.prints.find? fun p => p.fn = fn && p.hash = k.hash && p.share = share

/-- The operands of an opcode that can be symbolic registers, D, A, B and C as 0–3. A field that an instruction does not take is zero and
names none (R41, R42), and neither does one that names a buffer or a barrier (R44). -/
def symPositions (op : Nat) : List Nat :=
  if [0x005, 0x014, 0x015, 0x019, 0x01A, 0x023, 0x042, 0x045, 0x053].contains op then [0, 1, 2, 3]
  else if [0x008, 0x009, 0x00F, 0x016, 0x017, 0x018, 0x027, 0x028, 0x029, 0x02A, 0x02B, 0x02C, 0x02D, 0x02E, 0x050, 0x051, 0x061, 0x063,
      0x064, 0x065, 0x080].contains op then [0, 1]
  else if [0x01B, 0x026, 0x030].contains op then [1, 2]
  else if [0x062, 0x0D5, 0x0ED].contains op then [1]
  else if [0x081, 0x0D4, 0x0EC].contains op then [0]
  else if op = 0x0A2 then [2, 3]
  else if [0x0A3, 0x0A4, 0x0B2].contains op then [0, 2, 3]
  else if [0x0A0, 0x0A1, 0x0B0, 0x0B1, 0x0B3, 0x0B4].contains op then [0, 2]
  else if op = 0x0A5 ∨ op = 0x0A6 then [2]
  else if op = 0x0EA then [0, 3]
  else if (0x001 ≤ op ∧ op ≤ 0x013) ∨ [0x01C, 0x020, 0x021, 0x022, 0x024, 0x025, 0x02F, 0x031, 0x040, 0x041, 0x043, 0x044, 0x052, 0x054,
      0x060].contains op then [0, 1, 2]
  else []

/-- Symbolic registers that an instruction's operands name, D, A, B and C as 0–3. -/
def namedSyms (op : Nat) (f : Form) : List (Nat × Nat) :=
  let r := Raw.of (op ≠ 0x0C2) f
  [(0, r.d), (1, r.a), (2, r.b), (3, r.c)].filterMap fun p => if !(symPositions op).contains p.1 then none else match p.2 with
    | .sym n => some (p.1, n)
    | .symX n => some (p.1, n)
    | _ => none

/-- A place as a report says it: 0 not live, 1 a register, 2 a spill slot; and its number. -/
def locBytes : Option Loc → List Byte
  | none => leBytes 1 0 ++ leBytes 2 0
  | some (.reg m) => leBytes 1 1 ++ leBytes 2 m
  | some (.slot n) => leBytes 1 2 ++ leBytes 2 n

/-- An instruction in a binding report: its offset, its symbolic operands with their places, which say what is filled and stored, and the
slots of what is evicted before it. -/
def Kernel.reportInstr (k : Kernel) (share : Nat) (x : Nat × Nat × Form) : List Byte :=
  let ps := k.locs share x.1
  let ops := namedSyms x.2.1 x.2.2
  let out := (k.boundAt share x.1).2.flatMap fun v => (List.range v.life.elems).map fun j => (v.life.num + j, v.reg + j)
  leBytes 4 x.1 ++ leBytes 1 ops.length ++ (ops.flatMap fun p => leBytes 1 p.1 ++ leBytes 2 p.2 ++ locBytes (locOf ps p.2)) ++
  leBytes 2 out.length ++ out.flatMap fun e => leBytes 2 e.1 ++ leBytes 2 e.2

/-- The binding report of a print: kernel hash, share, reserve, spill slots, barrier slots, buffer offsets, and every instruction
(R245). -/
def Kernel.report (k : Kernel) (share waves : Nat) (code : List Byte) : List Byte :=
  let is := codeInstrs code
  leBytes 64 k.hash.toNat ++ leBytes 4 share ++ leBytes 4 (k.reserve waves) ++ leBytes 4 (k.slotsAt share) ++ leBytes 4 k.barSlots ++
  leBytes 4 k.bufs.length ++ (k.bufs.flatMap fun b => leBytes 4 b.off) ++ leBytes 4 is.length ++ is.flatMap (k.reportInstr share)

/-- A kernel's code as the Enlarger reads it. -/
def State.codeBytes (s : State) (fn child : Nat) (k : Kernel) : List Byte :=
  (s.peek fn child needX (k.codeSize / 65536 + 2) (k.addr.toNat + 64) k.codeSize).getD []

/-- Place of a new print: the lowest free one of the function's 1,024, or that of its least recently used. -/
def State.printPlace (s : State) (fn : Nat) : Nat :=
  let mine := s.prints.filter (·.fn = fn)
  ((List.range 1024).find? fun n => mine.all (·.place ≠ n)).getD ((mine.getLast?.map (·.place)).getD 0)

/-- Functions that receive a report of a function's print: the tenant, and the supervisor, whose request stands. -/
def reportsTo (fn : Nat) : List Nat := if fn = 0 then [0] else [fn, 0]

/-- The print of a kernel at a share taken from the cache, or made and reported (R245–R247; notes/assumptions/105.md). -/
def State.usePrint (s : State) (fn child : Nat) (k : Kernel) (share waves : Nat) : State :=
  match s.print? fn k share with
  | some p => { s with prints := p :: s.prints.filter (· ≠ p) }
  | none =>
    let n := s.printPlace fn
    let bytes := k.report share waves (s.codeBytes fn child k)
    { s with
      prints := ⟨fn, k.hash, share, n⟩ :: s.prints.filter fun p => !(p.fn = fn && p.place = n)
      out := s.out ++ (reportsTo fn).map fun f => ⟨"BINDING_REPORT", f, bytes⟩ }

end Sys2Proof.Machine
end

