-- ==== Sys2Proof/Machine/GlobalMem.lean ====
section
/-! DEFINITION. Global memory: LD, ST, ATOM, ATOMR, CAS, PREF, CWB and FENCE (opcodes 0x0A0–0x0A7, R180–R197, R269). -/
namespace Sys2Proof.Machine

/-- A global base and a lane offset. -/
def specGlobal (d c : Option Slot) (dRead dWrite mOk : Bool) : Spec :=
  { d, a := some Slot.pair, b := some (Slot.data), c, dRead, dWrite, notScalar := true, mOk }

/-- Lanes' addresses. -/
def Ctx.addrs (x : Ctx) (sp : Split) (lanes : List Nat) : List (Nat × Nat) :=
  lanes.map fun i => (i, globalAddr (x.vA sp i) (x.vB sp i))

/-- The policy an access is performed under: a method's at the home (R313), and a load's with `.acq` or `.sc` at `.gang` or wider
(R188). -/
def effPol (b : Block) (m : Nat) (load : Bool) : Nat :=
  let scope := if Mod.scope m = 0 then 5 else Mod.scope m
  if b.method.isSome then 2
  else if load ∧ (Mod.ord m = 2 ∨ Mod.ord m = 5) ∧ 3 ≤ scope then 2
  else if Mod.pol m = 0 then 1 else Mod.pol m

/-- The policy a store is performed under: the core's copy is updated at issue, but behind an acquire or an `.sc` access that is still open
(R194), and but for a release at `.wave` or `.blk`, which is performed as the copy is updated (R193), where something that it waits for is
not performed; it is then updated with the home, which performs the store no sooner (R188; notes/assumptions/16.md). -/
def State.storePol (s : State) (c : Cur) (m : Nat) : Nat :=
  let scope := if Mod.scope m = 0 then 5 else Mod.scope m
  if s.heldBack c || (relOrd (Mod.ord m) && scope ≤ 2 && !s.released c.blk c.wave.wid (· = c.split.sid) s.nextOp scope)
  then max 2 (effPol c.blk m false) else effPol c.blk m false

/-- An operation of a memory instruction. -/
def memOp (x : Ctx) (path : Nat) (kind : OpKind) (items : List Item) (pol : Nat) (staged : Bool) : Op :=
  { id := 0, blk := 0, wid := 0, sid := 0, fn := 0, child := 0, core := 0, path, kind, items
    ord := Mod.ord x.m, scope := if Mod.scope x.m = 0 then 5 else Mod.scope x.m, pol, staged
    entries := if staged then (entryLines items).length else 0 }

/-! ## LD (R187, R188) -/

def specLd (m : Nat) : Spec :=
  specGlobal (some (Slot.dst (mtWide (Mod.mtype m)))) none false true (mFields m mtAll ordLd scopeAny [0, 1, 2, 3] [0])

/-- A load of every active lane, or one where D is a scalar. -/
def bodyLd (s : State) (c : Cur) (x : Ctx) : Res :=
  let uniform := x.d.isScal
  let lanes := if uniform then x.lanes.take 1 else x.lanes
  let n := mtBytes (Mod.mtype x.m)
  if lanes.isEmpty then .done s []
  else withPlaces s c n true false false needR (x.addrs c.split lanes) fun s l =>
    if s.pathFull c 0 then .hold
    else
      let items := l.map fun p => ({ lane := p.1, space := p.2.2.1, addr := p.2.2.2, bytes := n, va := BitVec.ofNat 64 p.2.1 } : Item)
      .done (s.addOp (memOp x 0 (.load (Mod.mtype x.m) (dstOf x.d x.dWide)) items (effPol c.blk x.m true) false))
        [(.load (8 * n), items.length)]

/-- LD (R187). -/
def execLd (f : Short) (s : State) : Host.Outcome State Fault Refusal := s.issueOp 0x0A0 (.base f) specLd bodyLd

/-- LD (R187). -/
def execLdLong (f : Long) (s : State) : Host.Outcome State Fault Refusal := s.issueOp 0x0A0 (.long f) specLd bodyLd

/-! ## ST (R187, R188) -/

def specSt (m : Nat) : Spec :=
  specGlobal (some (Slot.data (mtWide (Mod.mtype m)))) none true false (mFields m mtAll ordSt scopeAny [0, 1, 2, 3] [0])

/-- First-level copies that a store updates at issue (R188). -/
def State.l1Stores (s : State) (core pol : Nat) (items : List Item) : State :=
  if pol ≠ 1 then s
  else items.foldl (fun s i => match i.space with
    | .mem => s.l1Store core i.addr (leBytes i.bytes i.data.toNat)
    | _ => s) s

/-- A store of every active lane, or one where D and B are uniform. -/
def bodySt (s : State) (c : Cur) (x : Ctx) : Res :=
  let uniform := x.d.uniform && x.b.uniform
  let lanes := if uniform then x.lanes.take 1 else x.lanes
  let n := mtBytes (Mod.mtype x.m)
  if lanes.isEmpty then .done s []
  else withPlaces s c n true true true needW (x.addrs c.split lanes) fun s l =>
    let items := l.map fun p => ({ lane := p.1, space := p.2.2.1, addr := p.2.2.2, bytes := n, va := BitVec.ofNat 64 p.2.1
                                   data := BitVec.ofNat 64 (x.vD c.split p.1 % 2 ^ (8 * n)) } : Item)
    let staged := s.ahead c.blk
    let pol := if staged then effPol c.blk x.m false else s.storePol c x.m
    if s.pathFull c 1 || (staged && s.stageFull c.blk (entryLines items)) then .hold
    else .done ((if staged then s else s.l1Stores c.blk.core pol items).addOp (memOp x 1 .store items pol staged))
      [(.store (8 * n), items.length)]

/-- ST (R187). -/
def execSt (f : Short) (s : State) : Host.Outcome State Fault Refusal := s.issueOp 0x0A1 (.base f) specSt bodySt

/-- ST (R187). -/
def execStLong (f : Long) (s : State) : Host.Outcome State Fault Refusal := s.issueOp 0x0A1 (.long f) specSt bodySt

/-! ## ATOM, ATOMR and CAS (R190) -/

/-- First-level lines that an atomic invalidates when it is sent (R188). -/
def State.l1Atoms (s : State) (core : Nat) (items : List Item) : State :=
  items.foldl (fun s i => match i.space with | .mem => s.l1Drop core (i.addr / 128) | _ => s) s

/-- An atomic of every active lane. `returns` writes the old values to D and is held until the turn (R404); without it the
instruction is staged (R400). -/
def bodyAtomic (aop : Nat → Nat) (returns : Bool) (s : State) (c : Cur) (x : Ctx) : Res :=
  let t := Mod.mtype x.m
  let n := mtBytes t
  if x.lanes.isEmpty then .done s []
  else withPlaces s c n true true true needRW (x.addrs c.split x.lanes) fun s l =>
    let items := l.map fun p => ({ lane := p.1, space := p.2.2.1, addr := p.2.2.2, bytes := n, va := BitVec.ofNat 64 p.2.1
                                   data := BitVec.ofNat 64 (x.vC c.split p.1)
                                   expected := BitVec.ofNat 64 (x.vD c.split p.1) } : Item)
    let ahead := s.ahead c.blk
    if s.pathFull c 2 || (ahead && (returns || s.stageFull c.blk (entryLines items))) then .hold
    else
      let dst := if returns then dstOf x.d x.dWide else none
      .done ((if ahead then s else s.l1Atoms c.blk.core items).addOp
        (memOp x 2 (.atom (aop x.m) t dst (BitVec.ofNat 32 x.mode)) items 2 ahead)) [(.atom (8 * n), items.length)]

def specAtom (m : Nat) : Spec :=
  specGlobal none (some (Slot.data (mtWide (Mod.mtype m)))) false false
    (mFields m mtAtom ordAny scopeAny [0, 2] [0, 1, 2, 3, 4, 5, 6] && atomOk (Mod.mtype m) (Mod.sub m))

def specAtomr (m : Nat) : Spec :=
  specGlobal (some (Slot.dst (mtWide (Mod.mtype m)))) (some (Slot.data (mtWide (Mod.mtype m)))) false true
    (mFields m mtAtom ordAny scopeAny [0, 2] [0, 1, 2, 3, 4, 5, 6] && atomOk (Mod.mtype m) (Mod.sub m))

def specCas (m : Nat) : Spec :=
  specGlobal (some (Slot.dst (mtWide (Mod.mtype m)))) (some (Slot.data (mtWide (Mod.mtype m)))) true true
    (mFields m mtCas ordAny scopeAny [0, 2] [0])

/-- ATOM (R190). -/
def execAtom (f : Form) (s : State) : Host.Outcome State Fault Refusal := s.issueOp 0x0A2 f specAtom (bodyAtomic Mod.sub false)

/-- ATOMR (R190). -/
def execAtomr (f : Form) (s : State) : Host.Outcome State Fault Refusal := s.issueOp 0x0A3 f specAtomr (bodyAtomic Mod.sub true)

/-- CAS (R190). -/
def execCas (f : Form) (s : State) : Host.Outcome State Fault Refusal :=
  s.issueOp 0x0A4 f specCas (bodyAtomic (fun _ => 7) true)

/-! ## PREF (R191) -/

def specPref (m : Nat) : Spec := specGlobal none none false false (mFields m [0] [0] [0] [0, 1, 2, 3] [0])

/-- The physical lines that the active lanes name, where the address raises no fault: with whether a TLB holds its translation. -/
def State.prefLines (s : State) (c : Cur) (x : Ctx) : List (Nat × Bool) :=
  ((x.addrs c.split x.lanes).filterMap fun p =>
    if (s.rangeFault c.blk p.2 1).isSome then none
    else match c.blk.method, s.route c.blk.fn p.2 with
      | some _, _ => match (s.placeFor c.blk p.2 needR false).2 with
        | .ok (_, a) => some (a / 128, true)
        | .error _ => none
      | none, .ok .table => match s.walk c.blk.fn c.blk.child p.2 with
        | .ok l => if l.perm &&& needR = needR
            then some ((l.pa + (p.2 - l.va)) / 128, s.cached c.blk.core c.blk.fn c.blk.child p.2 = some l) else none
        | .error _ => none
      | none, .ok (.scratch key) => some (2 ^ 60 + key / 128, false)
      | none, _ => none).eraseDups

/-- A line brought in by a prefetch, where its translation is at hand (R191): into the first-level cache under `.l1` and in a core, or
into its home slice, as the first to be replaced under `.strm`. -/
def State.prefetch (s : State) (c : Cur) (pol line : Nat) : State :=
  if pol ≤ 1 ∧ c.blk.method.isNone then
    match s.l1Line c.blk.core (128 * line) with
    | some l => s.l1Use l
    | none => ((s.touchLine c.blk.fn c.blk.child line false).fillLine c.blk.core (128 * line)).bookCore c.blk.fn
        c.blk.child c.blk.core [(.line, 1)]
  else
    let t := s.touchLine c.blk.fn c.blk.child line false
    if pol = 3 then t.evictFirst s (128 * line) 128 else t

/-- PREF: it waits for no translation, raises nothing and orders nothing; as any access it is held while the home mode of a granule that it
would reach is being changed (R280). -/
def bodyPref (s : State) (c : Cur) (x : Ctx) : Res :=
  let l := s.prefLines c x
  if l.any fun p => p.2 && s.flips (128 * p.1) then .hold else
  .done (l.foldl (fun s p => if p.2 then s.prefetch c (Mod.pol x.m) p.1 else s) s)
    (if l.isEmpty then [] else [(.pref, (l.map (·.1)).eraseDups.length)])

/-- PREF (R191). -/
def execPref (f : Short) (s : State) : Host.Outcome State Fault Refusal := s.issueOp 0x0A5 (.base f) specPref bodyPref

/-- PREF (R191). -/
def execPrefLong (f : Long) (s : State) : Host.Outcome State Fault Refusal := s.issueOp 0x0A5 (.long f) specPref bodyPref

/-! ## CWB (R269) -/

def specCwb (m : Nat) : Spec := specGlobal none none false false (mFields m [0] [0] [0] [0] [0, 1])

/-- The distinct lines of the places outside cluster scratch, as items. -/
def lineItems (l : List (Nat × Nat × Space × Nat)) : List Item :=
  (l.foldl (fun (acc : List Item) p =>
    let a := p.2.2.2 / 128 * 128
    match p.2.2.1 with
    | .cscr _ => acc
    | sp => if acc.any fun i => i.space = sp && i.addr = a then acc
        else acc ++ [{ lane := p.1, space := sp, addr := a, bytes := 128, va := BitVec.ofNat 64 p.2.1 }]) [])

/-- A write-back of every line named. -/
def bodyCwb (s : State) (c : Cur) (x : Ctx) : Res :=
  if x.lanes.isEmpty then .done s []
  else withPlaces s c 1 false false true needR (x.addrs c.split x.lanes) fun s l =>
    let items := lineItems l
    let staged := s.ahead c.blk
    if s.pathFull c 1 || (staged && s.stageFull c.blk (entryLines items)) then .hold
    else
      let o := memOp x 1 (.cwb (Mod.sub x.m = 1)) items 2 staged
      .done ((s.addOp { o with complete := items.isEmpty }).retire) []

/-- CWB (R269). -/
def execCwb (f : Short) (s : State) : Host.Outcome State Fault Refusal := s.issueOp 0x0A6 (.base f) specCwb bodyCwb

/-- CWB (R269). -/
def execCwbLong (f : Long) (s : State) : Host.Outcome State Fault Refusal := s.issueOp 0x0A6 (.long f) specCwb bodyCwb

/-! ## FENCE (R196) -/

def specFence (m : Nat) : Spec :=
  { wave := true, selNever := true
    mOk := if Mod.sub m = 0 then mFields m [0] [0, 2, 3, 4, 5] scopeAny [0] [0] else mFields m [0] [0] [0] [0] [1] }

/-- Jobs and Lathe operations (R196). -/
def OpKind.isHeavy : OpKind → Bool
  | .mma _ _ _ _ => true
  | .accz _ => true
  | .accld _ _ _ _ _ _ => true
  | .accst _ _ _ _ _ _ _ => true
  | .job _ => true
  | .jobList _ => true
  | _ => false

/-- Whether the accesses that a memory fence waits for are performed. -/
def State.fenceDone (s : State) (c : Cur) (ord scope : Nat) : Bool :=
  let own := fun (o : Op) => o.blk = c.blk.id && o.wid = c.wave.wid && o.sids.contains c.split.sid && o.id < s.before c
  (!acqOrd ord || s.ops.all fun o => !(own o && (o.kind.isLoad || o.kind.isAtom) && !o.performed scope)) &&
  (s.ops.all fun o => !(own o && o.holdsBack)) &&
  (!relOrd ord || s.released c.blk c.wave.wid (· = c.split.sid) (s.before c) scope)

/-- The fence holds its split until it completes; one that acquires then invalidates the first-level cache at `.gang` or wider. -/
def bodyFence (s : State) (c : Cur) (x : Ctx) : Res :=
  if Mod.sub x.m = 1 then
    let first := ((c.wave.jobFences.find? (·.1 = c.split.sid)).map (·.2)).getD s.nextOp
    let others := c.wave.jobFences.filter (·.1 ≠ c.split.sid)
    if s.ops.any fun o => o.blk = c.blk.id && o.wid = c.wave.wid && o.kind.isHeavy && o.id < first && !o.complete then
      .holdIn { c.wave with jobFences := others ++ [(c.split.sid, first)] }
    else .done (({ s with cur := some { c with wave := { c.wave with jobFences := others } } } : State).loupeCover c.blk c.wave.wid
      fun _ => true) x.sync
  else
    let ord := if Mod.ord x.m = 0 then 4 else Mod.ord x.m
    let scope := if Mod.scope x.m = 0 then 5 else Mod.scope x.m
    if !s.fenceDone c ord scope then .hold
    else
      let s := s.loupeFence c.blk c.wave.wid (acqOrd ord) (relOrd ord)
      .done (if acqOrd ord then s.acquire c.blk.core scope else s) x.sync

/-- FENCE (R196). -/
def execFence (f : Short) (s : State) : Host.Outcome State Fault Refusal := s.issueOp 0x0A7 (.base f) specFence bodyFence

/-- FENCE (R196). -/
def execFenceLong (f : Long) (s : State) : Host.Outcome State Fault Refusal := s.issueOp 0x0A7 (.long f) specFence bodyFence

end Sys2Proof.Machine
end

