-- ==== Sys2Proof/Machine/Combine.lean ====
section
/-! DEFINITION. Combining: OBJREG, OBJFREE, COMB, CBATCH, CARG, CREPLY and CEND (opcodes 0x0E8–0x0EE, R300–R306, R313–R315, R319,
R320, R322). -/
namespace Sys2Proof.Machine

/-! ## Object ids (R300) -/

/-- Generation of a table entry. -/
def State.genOf (s : State) (fn slot : Nat) : Nat := spGet 0 s.objGen (4096 * fn + slot) + 1

/-- The object a valid id names. -/
def State.objOf (s : State) (fn id : Nat) : Option Obj :=
  if id < 2 ^ 24 ∧ id / 4096 = s.genOf fn (id % 4096) then s.obj? fn (id % 4096) else none

/-- Who holds the locks of an object's method. -/
def objHolder (fn slot : Nat) : Nat := 2 ^ 40 + 4096 * fn + slot

/-- An operation on the `cmb` path, before it is issued. -/
def cmbOp (kind : OpKind) : Op :=
  { id := 0, blk := 0, wid := 0, sid := 0, fn := 0, child := 0, core := 0, path := 6, kind }

/-! ## OBJREG (R301, R302) -/

def specObjreg (m : Nat) : Spec :=
  { d := some { kinds := [.scal] }, a := some Slot.pair, b := some Slot.pair, c := some (Slot.uni), mOk := Mod.own m = 0, noBase := true }

/-- Whether the attribute word lies in its ranges. -/
def attrOk (w : Nat) : Bool :=
  fld w 31 28 = 0 && fld w 27 24 ≤ 8 && fld w 23 21 = 0 && fld w 20 16 ≤ 16 && fld w 15 13 = 0 && 1 ≤ fld w 12 0 && fld w 12 0 ≤ 4096

/-- Physical start of an object's bytes: aligned, mapped with R and W, contiguous, with one home; outside every window. -/
def State.objectPlace (s : State) (fn child a size : Nat) : Option Nat :=
  let phys := fun (va : Nat) => match s.route fn va with
    | .ok .table => match s.walk fn child va with
      | .ok l => if l.perm &&& needRW = needRW then some (l.pa + (va - l.va)) else none
      | .error _ => none
    | _ => none
  match phys a, phys (a + size - 1) with
  | some p, some q =>
    if a % 8 = 0 ∧ q = p + size - 1 ∧ (linesIn p size).all fun l => s.homeOf (128 * l) = s.homeOf p then some p else none
  | _, _ => none

/-- What a method's header must say (R302). -/
def methodHeader (h : List Byte) (k : Kernel) : Bool :=
  bytesAt h 0 4 = 0x4B48575A && bytesAt h 4 2 = 1 && k.role = 1 && k.widthCode = 1 && k.gang = 1 && k.nbar = 0 && k.bufBytes ≤ 65536 &&
  bytesAt h 0x12 2 ≤ 256 && k.handler = 0 && k.prehandler = 0

/-- Whether a page of a kernel, counted from its header's, matches its entry of a grid's hash table. -/
def State.pageMatches (s : State) (fn child : Nat) (r : LaunchRec) (k : Kernel) (i : Nat) : Bool :=
  k.hashIdx + i < r.npages && s.hashMatches fn child r.hashtab.toNat (k.hashIdx + i) (k.addr.toNat / 65536 + i) = some true

/-- The method kernel at an address, where it passes the tests of R302, and the pages whose hashes were read, counted from its header's.
Its tables serve where their pages match as well, and the Enlarger finds no fault in them (notes/assumptions/86.md). -/
def State.methodAt (s : State) (g : Grid) (va : Nat) : Option Kernel × List Nat :=
  match s.peekR g.fn g.child va 64 with
  | none => (none, [])
  | some h =>
    let k := kernelOfHeader va h
    let ok := s.pageMatches g.fn g.child g.rcd k
    let code := List.range (k.pagesTo (64 + k.codeSize))
    if !methodHeader h k then (none, [])
    else if !code.all ok then (none, code)
    else
      let t := s.tables g.fn g.child k ok
      let stop := s.kernelEnd g.fn g.child k ok t
      let k := (t.bind fun t => k.withTables t (s.codeBytes g.fn g.child k)).getD k
      (some { k with hash := s.kernelHash g.fn g.child g.rcd.hashtab.toNat h k stop },
        code ++ (k.tablePages stop).filter (!code.contains ·))

/-- The package reads a kernel's pages, and hashes them (R299, R357). -/
def State.verifyPages (s : State) (fn child : Nat) (r : LaunchRec) (k : Kernel) (pages : List Nat) : State :=
  if pages.isEmpty then s
  else (pages.foldl (fun s i => s.hashReads fn child r.hashtab.toNat (k.hashIdx + i) (k.addr.toNat / 65536 + i)) s).book fn child 14 0
    [(.pghash, pages.length)]

/-- The registration: the status or the new id. -/
def State.register (s : State) (c : Cur) (a b attr : Nat) : State × Nat :=
  let fn := c.blk.fn
  let size := fld attr 12 0
  match s.gridOf c.blk with
  | none => (s, 0x80000004)
  | some g =>
    if !attrOk attr then (s, 0x80000002)
    else
      let place := s.objectPlace fn c.blk.child a size
      let s := (pagesIn a size).foldl (fun s p => s.devWalk fn c.blk.child p.1) s
      match place with
      | none => (s, 0x80000003)
      | some pa =>
        if s.objs.any fun o => o.fn = fn && o.pa < pa + size && pa < o.pa + o.size then (s, 0x80000005)
        else
          let m := s.methodAt g b
          let kh := kernelOfHeader b ((s.peekR fn c.blk.child b 64).getD [])
          let s := ((s.readRange fn c.blk.child b 64).verifyPages fn c.blk.child g.rcd kh m.2)
          match m.1, (List.range 4096).find? fun n => (s.obj? fn n).isNone with
          | none, _ => (s, 0x80000004)
          | some _, none => (s, 0x80000001)
          | some k, some slot =>
            let pages := (k.pageList (64 + k.codeSize)).filterMap fun p => (s.physPage fn c.blk.child p).map fun q => (p, q)
            let o : Obj := { fn, slot, child := c.blk.child, base := BitVec.ofNat 64 a, pa, size, argb := fld attr 20 16
                             repb := fld attr 27 24, kernel := k, pages }
            let s := (k.pageList (64 + k.codeSize)).foldl (fun s p => s.lockPage fn c.blk.child p (objHolder fn slot)) s
            ({ s with objs := s.objs ++ [o] }, 4096 * s.genOf fn slot + slot)

/-- OBJREG: its checks and the registration, made at issue; D is written at completion. -/
def bodyObjreg (s : State) (c : Cur) (x : Ctx) : Res :=
  if s.pathFull c 6 then .hold
  else
    let r := s.register c (x.vA c.split 0) (x.vB c.split 0) (x.vC c.split 0 % 2 ^ 32)
    match dstOf x.d false with
    | none => .done r.1 [(.objreg, 1)]
    | some d => .done (r.1.addOp (cmbOp (.objreg d (BitVec.ofNat 64 r.2)))) [(.objreg, 1)]

/-- OBJREG (R302). -/
def execObjreg (f : Form) (s : State) : Host.Outcome State Fault Refusal := s.issueOp 0x0E8 f specObjreg bodyObjreg

/-! ## OBJFREE (R303) -/

def specObjfree (m : Nat) : Spec := { a := some { kinds := [.scal, .zero, .lit] }, mOk := Mod.own m = 0 }

/-- OBJFREE: the object takes no further request; the rest follows when those admitted are served. -/
def bodyObjfree (s : State) (c : Cur) (x : Ctx) : Res :=
  let id := x.vA c.split 0 % 2 ^ 32
  match s.objOf c.blk.fn id with
  | none => .fault Fc.object id
  | some o =>
    if s.pathFull c 6 then .hold
    else
      let s := { s with objs := mapIf (fun p => p.fn = o.fn ∧ p.slot = o.slot) (fun p => { p with freeing := true }) s.objs }
      .done (s.addOp (cmbOp (.objfree c.blk.fn id))) [(.objreg, 1)]

/-- OBJFREE (R303). -/
def execObjfree (f : Short) (s : State) : Host.Outcome State Fault Refusal := s.issueOp 0x0E9 (.base f) specObjfree bodyObjfree

/-- OBJFREE (R303). -/
def execObjfreeLong (f : Long) (s : State) : Host.Outcome State Fault Refusal := s.issueOp 0x0E9 (.long f) specObjfree bodyObjfree

/-! ## COMB (R304, R305) -/

def specComb (m : Nat) : Spec :=
  let aw := Mod.sub m
  { d := some (Slot.dstLane (Mod.mtype m = 8)), a := some Slot.kreg, aWrite := true, b := some { kinds := [.scal, .small, .lit] }
    c := some (if aw = 0 then { kinds := [.zero] } else { kinds := [.vec, .orf, .scal], span := aw, run := true }), notScalar := true
    mOk := [0, 7, 8].contains (Mod.mtype m) && Mod.ord m ≤ 4 && [0, 3, 4, 5, 6].contains (Mod.scope m) && Mod.pol m = 0 && aw ≤ 4 }

/-- A word of C as the argument of a lane takes it. -/
def Ctx.combWord (x : Ctx) (sp : Split) (i w : Nat) : BitVec 128 :=
  let v : BitVec 64 := match x.c with
    | .sym n => sp.read (.sym (n + w)) i
    | .orf n => sp.read (.orf (n + w)) i
    | .scal n => sp.read (.scal (n + w)) 0
    | _ => 0
  (v &&& 0xFFFFFFFF#64).setWidth 128

/-- The argument of a lane: AW words from C on, zero-extended to 16 bytes. -/
def Ctx.combArg (x : Ctx) (sp : Split) (i : Nat) : BitVec 128 :=
  (List.range (Mod.sub x.m)).foldl (fun (v : BitVec 128) w => v ||| (x.combWord sp i w <<< (32 * w))) (0 : BitVec 128)

/-- Every request of a COMB answered with OBJECT status, by the issuing core. -/
def State.refuseComb (s : State) (reqs : List CombReq) : State :=
  reqs.foldl (fun s r => s.answer r false (combStatus Fc.object)) s

/-- Where packets of an operation come from: its core, and a deterministic grid, whose packets arrive in release order (R308, R319). -/
def State.sources (s : State) (core blk : Nat) : List Nat :=
  core :: match (s.blockOf blk).bind s.gridOf with
    | some g => if g.kernel.det then [2 ^ 20 + g.handle] else []
    | none => []

/-- A COMB's packet sent: to the object's home, to a window's target, or to no one where the id is not valid (R305, R320). -/
def State.sendComb (s : State) (id : Nat) : State :=
  match s.op? id with
  | none => s
  | some o => match o.kind with
    | .comb d k oid rep reqs _ answers =>
      let mark := fun (s : State) => s.mapOp id fun o => { o with kind := .comb d k oid rep reqs true answers }
      if idWin oid ≠ 0 then
        if oid < 2 ^ 31 ∧ o.scope = 6 ∧ bit (s.window o.fn (idWin oid)).toNat 63
        then ((mark s).bookFlit o.fn o.child).loupeComb o oid (reqs.map (·.lane)) else s.refuseComb reqs
      else match s.objOf o.fn oid with
        | none => s.refuseComb reqs
        | some obj =>
          let slice := s.homeOf obj.pa
          let s := (linesIn obj.pa obj.size).foldl (fun s l => s.l1Drop o.core l) (mark s)
          s.setChuck slice { s.chuck slice with ingress := (s.chuck slice).ingress ++ [⟨id, o.fn, oid, reqs, s.sources o.core o.blk⟩] }
    | _ => s

/-- A COMB that is released from staging, or was never staged, and has not been sent. -/
def Op.unsent (o : Op) : Bool :=
  !o.staged && !o.complete && match o.kind with
    | .comb _ _ _ _ reqs sent answers => !sent && answers.length < reqs.length
    | _ => false

/-- Whether an earlier COMB of a source still waits to be sent: packets of a core leave in order, and those of a deterministic grid too. -/
def State.combQueued (s : State) (srcs : List Nat) (before : Nat) : Bool :=
  s.ops.any fun p => p.key < before && p.unsent && (s.sources p.core p.blk).any srcs.contains

/-- Whether a COMB that was staged is sent now: its release ordering is met, no earlier acquire holds it back, and the packets before it
have left (R305, R402). -/
def State.sendable (s : State) (o : Op) : Bool := o.unsent && s.mayPerform o && !s.combQueued (s.sources o.core o.blk) o.key

/-- COMB: one packet for the active lanes, staged while a deterministic block is not at the turn (R319). -/
def bodyComb (s : State) (c : Cur) (x : Ctx) : Res :=
  if x.lanes.isEmpty then .done s []
  else
    let ahead := s.ahead c.blk
    let scope := if Mod.scope x.m = 0 then 5 else Mod.scope x.m
    let oid := x.vB c.split 0 % 2 ^ 32
    let pa := ((s.objOf c.blk.fn oid).map (·.pa)).getD 0
    let items := x.lanes.map fun i => ({ lane := i, space := .mem, addr := pa, bytes := 0 } : Item)
    let reqs := x.lanes.map fun i => ({ op := s.nextOp, lane := i, arg := x.combArg c.split i, fn := c.blk.fn, child := c.blk.child
                                        slot := oid % 4096 } : CombReq)
    let kn := x.a.maskNum
    if !ahead && relOrd (Mod.ord x.m) && !s.released c.blk c.wave.wid (· = c.split.sid) (s.before c) scope then .hold
    else if !ahead && (s.heldBack c || s.combQueued (s.sources c.blk.core c.blk.id) s.nextOp) then .hold
    else if s.pathFull c 6 || (ahead && s.stageFull c.blk (entryLines items)) then .hold
    else
      let o := { cmbOp (.comb (dstOf x.d x.dWide) kn oid (Mod.mtype x.m = 8) reqs false []) with
                 items, ord := Mod.ord x.m, scope, staged := ahead, entries := if ahead then (entryLines items).length else 0 }
      let id := s.nextOp
      let s := s.addOp o
      .done (if ahead then s else s.sendComb id) [(.cmbreq, items.length)]

/-- COMB (R305). -/
def execComb (f : Form) (s : State) : Host.Outcome State Fault Refusal := s.issueOp 0x0EA f specComb bodyComb

/-! ## The instructions of a method (R314, R315) -/

/-- An operation on `cmb` that completes at its issue. -/
def State.cmbDone (s : State) : State := (s.addOp { cmbOp .instant with complete := true }).retire

/-- The batch of the split that issues, with its object. -/
def State.batchOf (s : State) (c : Cur) : Option (Method × Obj) := c.blk.method.bind fun m => (s.obj? m.fn m.slot).map fun o => (m, o)

def specCbatch (m : Nat) : Spec :=
  { d := some (if Mod.sub m = 1 then Slot.kreg else if Mod.sub m = 2 then Slot.pair else { kinds := [.scal] })
    wave := true, selNever := true, mOk := Mod.own m ≤ 3 }

/-- CBATCH: the batch's count, mask, base or size. -/
def bodyCbatch (s : State) (c : Cur) (x : Ctx) : Res :=
  match s.batchOf c with
  | none => .done s []
  | some (m, o) =>
    if s.pathFull c 6 then .hold
    else
      let n := m.reqs.length
      let sp := match x.d, Mod.sub x.m with
        | .scal d, 0 => c.split.land (.scal d) [(0, BitVec.ofNat 64 n)]
        | .mask d, 1 => c.split.land (.mask d) ((List.range x.w).map fun i => (i, if i < n then 1 else 0))
        | .scal d, 2 => (c.split.land (.scal d) [(0, o.base &&& 0xFFFFFFFF#64)]).land (.scal (d + 1)) [(0, o.base >>> 32)]
        | .scal d, _ => c.split.land (.scal d) [(0, BitVec.ofNat 64 o.size)]
        | _, _ => c.split
      .done ({ s with cur := some { c with split := sp } } : State).cmbDone []

/-- CBATCH (R314). -/
def execCbatch (f : Short) (s : State) : Host.Outcome State Fault Refusal := s.issueOp 0x0EB (.base f) specCbatch bodyCbatch

/-- CBATCH (R314). -/
def execCbatchLong (f : Long) (s : State) : Host.Outcome State Fault Refusal := s.issueOp 0x0EB (.long f) specCbatch bodyCbatch

/-- MTYPE of CARG and CREPLY. -/
def replyType (m : Nat) : Bool := [0, 7, 8].contains (Mod.mtype m) && Mod.ord m = 0 && Mod.scope m = 0 && Mod.pol m = 0

def specCarg (m : Nat) : Spec :=
  { d := some { kinds := [.vec, .orf], wide := Mod.mtype m = 8 }, notScalar := true
    mOk := replyType m && Mod.sub m ≤ (if Mod.mtype m = 8 then 2 else 3) }

/-- Bytes of a request's argument, the first ARGB of 16 (R305). -/
def argOf (o : Obj) (r : CombReq) : Nat := r.arg.toNat % 2 ^ (8 * o.argb)

/-- CARG: a word, or two, of each active lane's argument. -/
def bodyCarg (s : State) (c : Cur) (x : Ctx) : Res :=
  match s.batchOf c with
  | none => .done s []
  | some (m, o) =>
    if x.lanes.isEmpty then .done s []
    else if s.pathFull c 6 then .hold
    else
      let bits := if Mod.mtype x.m = 8 then 64 else 32
      let data := fun i => BitVec.ofNat 64 (((m.reqs[i]?).map (argOf o)).getD 0 / 2 ^ (32 * Mod.sub x.m) % 2 ^ bits)
      let items := x.lanes.map fun i => ({ lane := i, space := .tile, addr := 0, bytes := 0, data := data i } : Item)
      .done (s.addOp { cmbOp (.carg (dstOf x.d x.dWide)) with items }) []

/-- CARG (R314). -/
def execCarg (f : Short) (s : State) : Host.Outcome State Fault Refusal := s.issueOp 0x0EC (.base f) specCarg bodyCarg

/-- CARG (R314). -/
def execCargLong (f : Long) (s : State) : Host.Outcome State Fault Refusal := s.issueOp 0x0EC (.long f) specCarg bodyCarg

def specCreply (m : Nat) : Spec :=
  { a := some (Slot.data (Mod.mtype m = 8)), notScalar := true, mOk := replyType m && Mod.sub m = 0 }

/-- CREPLY: the replies of the active lanes, of REPB bytes. -/
def bodyCreply (s : State) (c : Cur) (x : Ctx) : Res :=
  match s.batchOf c with
  | none => .done s []
  | some (m, o) =>
    if x.lanes.isEmpty then .done s []
    else if s.pathFull c 6 then .hold
    else
      let bits := if Mod.mtype x.m = 8 then 64 else 32
      let l := x.lanes.map fun i => (i, BitVec.ofNat 64 (x.vA c.split i % 2 ^ bits % 2 ^ (8 * o.repb)))
      let b := { c.blk with method := some { m with replies := if o.repb = 0 then m.replies else spSets 0 m.replies l } }
      .done ({ s with cur := some { c with blk := b } } : State).cmbDone []

/-- CREPLY (R314). -/
def execCreply (f : Short) (s : State) : Host.Outcome State Fault Refusal := s.issueOp 0x0ED (.base f) specCreply bodyCreply

/-- CREPLY (R314). -/
def execCreplyLong (f : Long) (s : State) : Host.Outcome State Fault Refusal := s.issueOp 0x0ED (.long f) specCreply bodyCreply

def specCend (m : Nat) : Spec := { wave := true, selNever := true, mOk := Mod.own m = 0 }

/-- CEND: once the method's accesses are performed, the replies go out and the batch ends. -/
def bodyCend (s : State) (c : Cur) (_ : Ctx) : Res :=
  match c.blk.method with
  | none => .done s []
  | some _ =>
    if s.ops.any fun o => o.blk = c.blk.id then .hold
    else
      let s := ({ s with cur := some c } : State).bookFor c.blk [(.issue, 1)]
      match s.cur.bind (·.blk.method) with
      | none => .gone s []
      | some m =>
        let u := s.meter m.fn m.slice [(.cmbreply, m.reqs.length)]
        let s := m.reqs.zipIdx.foldl (fun s r => s.answer r.1 true (spGet 0 m.replies r.2)) s
        .gone (s.endBatch c.blk m (m.energy + u)) []

/-- CEND (R315). -/
def execCend (f : Short) (s : State) : Host.Outcome State Fault Refusal := s.issueOp 0x0EE (.base f) specCend bodyCend

/-- CEND (R315). -/
def execCendLong (f : Long) (s : State) : Host.Outcome State Fault Refusal := s.issueOp 0x0EE (.long f) specCend bodyCend

end Sys2Proof.Machine
end

