-- ==== Sys2Proof/Machine/Sched.lean ====
section
/-! DEFINITION. Which splits may issue, and the turns that YIELD and the bundle count give away (R136, R160, R162, R163). -/
namespace Sys2Proof.Machine

/-- A split by block, wave and number. -/
abbrev Who := Nat × Nat × Nat

/-- Whether a block's waves issue: it is resident, and no forced save of it is due (R386). -/
def Block.issues (b : Block) : Bool := b.phase = .resident && !b.forced

/-- Whether a split may issue (R160). -/
def Split.isReady (sp : Split) : Bool := sp.run = .ready

/-- Ready splits of a wave; none while the debug port holds it. -/
def Wave.readySplits (w : Wave) : List Split := if w.debug = 1 then [] else w.splits.filter Split.isReady

/-- Ready splits of a quarter of a core, blocks and waves in order. -/
def State.readyIn (s : State) (core quarter : Nat) : List Who :=
  (s.allBlocks.filter fun b => b.core = core && b.issues).flatMap fun b =>
    (b.waves.filter (·.quarter = quarter)).flatMap fun w => w.readySplits.map fun sp => (b.id, w.wid, sp.sid)

/-- The split that issues, named. -/
def Cur.who (c : Cur) : Who := (c.blk.id, c.wave.wid, c.split.sid)

/-- The turn of the split that issues goes to every other ready split of its quarter (R136). -/
def State.yielded (s : State) (c : Cur) : Cur :=
  { c with split := { c.split with behind := (s.readyIn c.blk.core c.wave.quarter).filter (· ≠ c.who) } }

/-- A split has issued: no other waits behind it any more. -/
def State.tookTurn (s : State) (w : Who) : State :=
  let f := fun (x : Wave) =>
    { x with
      behind := x.behind.filter (· ≠ (w.1, w.2.1))
      splits := x.splits.map fun sp => { sp with behind := sp.behind.filter (· ≠ w) } }
  { s.mapWaves (fun _ => true) f with
    cur := (s.mapWaves (fun _ => true) f).cur.map fun c =>
      { c with split := { c.split with behind := c.split.behind.filter (· ≠ w) } } }

end Sys2Proof.Machine
end

