-- ==== Sys2Proof/Machine/Control.lean ====
section
/-! DEFINITION. Control: NOP and the opcodes 0x090–0x09B (R130–R142, R150, R151), and the opcodes that no instruction has
(R53). -/
namespace Sys2Proof.Machine

/-! ## Forms and targets (R130–R132) -/

/-- A control instruction without operands. -/
def specPlain (m : Nat) : Spec := { wave := true, selNever := true, mOk := m = 0 }

/-- The event that every issued control instruction is charged. -/
def ctl : List (Ev × Nat) := [(.ctl, 1)]

/-- The target an operand names: a displacement from the bundle, or a PC (R130). -/
def targetOf (sp : Split) (x : Ctx) (o : Opnd) : Dword :=
  match o with
  | .lit => bundleOf sp.pc + x.lit
  | o => sp.value o true x.lit 0

/-- Control goes to a target, or BRANCH_ALIGN with no effect (R131). -/
def goTo (s : State) (c : Cur) (t : Dword) (sp : Split) (ev : List (Ev × Nat)) : Res :=
  if (s.kernelOf c.blk).targetOk t then .jump { s with cur := some { c with split := sp } } ev t
  else .fault Fc.branchAlign t.toNat

/-! ## NOP, YIELD and SLEEP (R136) -/

/-- NOP: all fields zero, in any form. -/
def specNop (m : Nat) : Spec := { wave := true, selNever := true, mOk := m = 0, anyForm := true }

/-- No effect; NOP is charged issue only (notes/assumptions/12.md). -/
def bodyNop (s : State) (_ : Cur) (_ : Ctx) : Res := .done s []

/-- NOP (R34, R136). -/
def execNop (f : Short) (s : State) : Host.Outcome State Fault Refusal := s.issueOp 0x000 (.base f) specNop bodyNop

/-- NOP (R34, R136). -/
def execNopLong (f : Long) (s : State) : Host.Outcome State Fault Refusal := s.issueOp 0x000 (.long f) specNop bodyNop

/-- The turn goes to the other ready splits of the quarter. -/
def bodyYield (s : State) (c : Cur) (_ : Ctx) : Res := .done { s with cur := some (s.yielded c) } ctl

/-- YIELD (R136). -/
def execYield (f : Short) (s : State) : Host.Outcome State Fault Refusal := s.issueOp 0x097 (.base f) specPlain bodyYield

/-- YIELD (R136). -/
def execYieldLong (f : Long) (s : State) : Host.Outcome State Fault Refusal := s.issueOp 0x097 (.long f) specPlain bodyYield

/-- SLEEP: a uniform A. -/
def specSleep (m : Nat) : Spec := { a := some (Slot.uni), wave := true, selNever := true, mOk := m = 0 }

/-- The split issues nothing for a<23:0> aclk; SLEEP of zero acts as YIELD. -/
def bodySleep (words : Nat) (s : State) (c : Cur) (x : Ctx) : Res :=
  let n := x.vA c.split 0 % 2 ^ 24
  if n = 0 then bodyYield s c x
  else
    let c' := (c.issued s.tick).at (nextPc c.split.pc words)
    .gone { s with cur := some { c' with split := { c'.split with run := .sleeping n } } } ctl

/-- SLEEP (R136). -/
def execSleep (f : Short) (s : State) : Host.Outcome State Fault Refusal :=
  s.issueOp 0x09B (.base f) specSleep (bodySleep (formWords (.base f)))

/-- SLEEP (R136). -/
def execSleepLong (f : Long) (s : State) : Host.Outcome State Fault Refusal :=
  s.issueOp 0x09B (.long f) specSleep (bodySleep (formWords (.long f)))

/-! ## Transfers (R134, R135) -/

/-- BRA: a target in A. -/
def specBra (m : Nat) : Spec := { a := some Slot.target, wave := true, selNever := true, mOk := m = 0 }

/-- Control goes to the target. -/
def bodyBra (s : State) (c : Cur) (x : Ctx) : Res := goTo s c (targetOf c.split x x.a) c.split ctl

/-- BRA (R134). -/
def execBra (f : Short) (s : State) : Host.Outcome State Fault Refusal := s.issueOp 0x090 (.base f) specBra bodyBra

/-- BRA (R134). -/
def execBraLong (f : Long) (s : State) : Host.Outcome State Fault Refusal := s.issueOp 0x090 (.long f) specBra bodyBra

/-- BRC: two uniform sources of the type, or a mask in A; a target in C. -/
def specBrc (m : Nat) : Spec :=
  let w := wideTy (Mod.type m)
  let masks := Mod.sub m ≠ 0
  { a := some (if masks then Slot.mask else Slot.uni w), b := if masks then none else some (Slot.uni w)
    c := some Slot.target, wave := true, selNever := true, usesExec := masks
    mOk := Mod.rnd m = 0 && (if masks then Mod.sub m ≤ 2 && Mod.type m = 0 && Mod.cmp m = 0
      else Mod.type m ≤ 9 && Mod.cmp m ≤ (if Mod.type m = 9 then 7 else 5)) }

/-- The condition of a BRC: a comparison, `.any` or `.none`. -/
def brcTaken (sp : Split) (x : Ctx) : Bool :=
  if Mod.sub x.m = 0 then
    if Mod.type x.m = 9 then cmpFloat (Mod.cmp x.m) (sp.fval x x.a f32 0) (sp.fval x x.b f32 0)
    else cmpInt (Mod.cmp x.m) (x.ty.val (x.vA sp 0)) (x.ty.val (x.vB sp 0))
  else (x.act &&& sp.readMask x.a.maskNum ≠ 0) = (Mod.sub x.m = 1)

/-- Control goes to the target where the condition holds; an untaken BRC does not check it. -/
def bodyBrc (s : State) (c : Cur) (x : Ctx) : Res :=
  if brcTaken c.split x then goTo s c (targetOf c.split x x.c) c.split ctl else .done s ctl

/-- BRC (R134). -/
def execBrc (f : Form) (s : State) : Host.Outcome State Fault Refusal := s.issueOp 0x091 f specBrc bodyBrc

/-- CALL: a pair in D, a target in A. -/
def specCall (m : Nat) : Spec :=
  { d := some Slot.pair, a := some Slot.target, wave := true, selNever := true, mOk := m = 0, lat := 2 }

/-- The PC of the following bundle to D, and control to the target. -/
def bodyCall (s : State) (c : Cur) (x : Ctx) : Res :=
  goTo s c (targetOf c.split x x.a) (c.split.result x.d true [(0, (bundleOf c.split.pc + 32).toNat)] x.lat) ctl

/-- CALL (R135). -/
def execCall (f : Short) (s : State) : Host.Outcome State Fault Refusal := s.issueOp 0x092 (.base f) specCall bodyCall

/-- CALL (R135). -/
def execCallLong (f : Long) (s : State) : Host.Outcome State Fault Refusal := s.issueOp 0x092 (.long f) specCall bodyCall

/-- RET: a pair in A. -/
def specRet (m : Nat) : Spec := { a := some Slot.pair, wave := true, selNever := true, mOk := m = 0 }

/-- RET (R135). -/
def execRet (f : Short) (s : State) : Host.Outcome State Fault Refusal := s.issueOp 0x093 (.base f) specRet bodyBra

/-- RET (R135). -/
def execRetLong (f : Long) (s : State) : Host.Outcome State Fault Refusal := s.issueOp 0x093 (.long f) specRet bodyBra

/-! ## Merging (R63, R66, R141) -/

/-- Registers whose writes by both sides set no JOINCONFLICT, or that are merged otherwise (R63, R66, R141). -/
def RegId.quiet : RegId → Bool
  | .mask _ => true
  | .status => true
  | .trapPc => true
  | .trapRec => true
  | .inHandler => true
  | _ => false

/-- A register's value taken from another set. -/
def Uni.take (u v : Uni) (r : RegId) : Uni :=
  match r with
  | .scal n => { u with scal := spSet 0 u.scal n (spGet 0 v.scal n) }
  | .xi => { u with xi := v.xi }
  | .mode => { u with mode := v.mode }
  | .rseed => { u with rseed := v.rseed }
  | .trapPc => { u with trapPc := v.trapPc }
  | .trapRec => { u with trapExec := v.trapExec, trapCode := v.trapCode, trapInfo := v.trapInfo }
  | .inHandler => { u with inHandler := v.inHandler }
  | .td n => { u with td := spSet {} u.td n (spGet {} v.td n) }
  | _ => u

/-- The pending results of a side that the merge keeps: per-lane ones in its lanes, mask bits of its lanes, STATUS, and those of
the registers whose value it gives. -/
def keptPend (lanes : Mask) (gives : RegId → Bool) (l : List Pend) : List Pend :=
  let own := fun (v : Nat × Dword) => v.1 < 128 && lanes.getLsbD v.1
  (l.map fun p => match p.reg with
    | .sym _ => { p with vals := p.vals.filter own }
    | .orf _ => { p with vals := p.vals.filter own }
    | .mask _ => { p with vals := p.vals.filter own }
    | .rseed => { p with vals := p.vals.filter fun v => if v.1 < 128 then own v else gives .rseed }
    | .status => p
    | r => if gives r then p else { p with vals := [] }).filter fun p => !p.vals.isEmpty

/-- A value of a mask register after a merge: bit i from the side that owned lane i at the fork. A bit of a lane that neither owned
is free where the two differ (notes/assumptions/13.md). -/
def mergeMask (lanes rest : Mask) (a b : Mask) : Mask :=
  (a &&& lanes) ||| (b &&& rest) |||
    (((a &&& b) ||| ((a ^^^ b) &&& Config.mergeBits a b lanes rest)) &&& ~~~lanes &&& ~~~rest)

/-- Operations in flight that the merged split awaits: those of either side, each side's lanes discarded as it had them, and a word
for all lanes only from the side whose value the register takes. -/
def mergeAwaits (dsts : Nat → List RegId) (lanesA lanesB : Mask) (givesA givesB : RegId → Bool) (a b : List (Nat × Mask)) :
    List (Nat × Mask) :=
  let one := fun (lanes : Mask) (gives : RegId → Bool) (l : List (Nat × Mask)) (id : Nat) =>
    match l.find? fun x => x.1 = id with
    | none => BitVec.allOnes 128
    | some x => if (dsts id).all fun r => r.perLane || (match r with | .mask _ => true | _ => false) || gives r
        then x.2 ||| ~~~lanes else BitVec.allOnes 128
  (a.map (·.1) ++ ((b.map (·.1)).filter fun id => !(a.any fun x => x.1 = id))).map fun id =>
    (id, if (dsts id).all RegId.perLane then one lanesA givesA a id &&& one lanesB givesB b id
      else (match (one lanesA givesA a id).getLsbD 0 && (one lanesB givesB b id).getLsbD 0 with
        | true => BitVec.allOnes 128
        | false => 0))

/-- One split from the two surviving sides of a fork: `w` the one that held the lowest lane at the fork, `o` the other, with the
lanes that each owned then. What their handlers' entries set aside stands as deep as the in-handler flag of the merge says. -/
def mergeTwo (r : Fork) (dsts : Nat → List RegId) (w o : Split) (lanesW lanesO : Mask) : Split :=
  let givesO := fun (x : RegId) => o.written.contains x && !w.written.contains x
  let depth := if givesO .inHandler then o.held.length else w.held.length
  let w := w.levelled depth
  let o := o.levelled depth
  let givesW := fun (x : RegId) => !givesO x
  let conflict := w.written.any fun x => !x.quiet && o.written.contains x
  let uni := o.written.foldl (fun u x => if givesO x then u.take o.uni x else u) w.uni
  let k := (List.range 16).foldl (fun m n =>
    spSet 0 m n (mergeMask lanesW lanesO (spGet 0 w.uni.k n) (spGet 0 o.uni.k n))) ([] : Sp Mask)
  let mine := fun (l : Mask) (key : Nat) => l.getLsbD (key % 128)
  let both := fun (a b : Sp Word) =>
    spSets 0 (spFilter (mine w.owned) a) (spFilter (mine o.owned) b)
  let bothP := fun (a b : Sp Bool) =>
    spSets false (spFilter (fun key => 8208 ≤ key / 128 || mine w.owned key) a)
      (spFilter (fun key => key / 128 < 8208 && mine o.owned key) b)
  let poisonU := o.written.foldl (fun (p : Sp Bool) x =>
    if givesO x then spSet false p (128 * x.key) (spGet false o.poison (128 * x.key)) else p) (bothP w.poison o.poison)
  let isMask := fun (key : Nat) => 8272 ≤ key / 128 && key / 128 < 8288
  let sliceOf := fun (key : Nat) => (0xFFFFFFFF#128 : Mask) <<< (key % 128)
  let flaw := (spFilter (fun key => if isMask key then lanesO &&& sliceOf key ≠ 0 else if key / 128 < 8208 then mine lanesO key
      else o.written.any fun x => givesO x && x.key = key / 128) o.flaw).foldl (fun m e => spSet 0 m e.1 (max e.2 (spGet 0 m e.1)))
    (spFilter (fun key => if isMask key then lanesW &&& sliceOf key ≠ 0 || lanesO &&& sliceOf key = 0
      else if key / 128 < 8208 then mine lanesW key
      else !(o.written.any fun x => givesO x && x.key = key / 128)) w.flaw)
  { w with
    owned := w.owned ||| o.owned
    exec := (w.exec &&& w.owned) ||| (o.exec &&& o.owned)
    uni := { uni with
      k, status := w.uni.status ||| o.uni.status ||| (if conflict then 1 else 0) }
    vreg := both w.vreg o.vreg, ofile := both w.ofile o.ofile, gen := both w.gen o.gen
    poison := poisonU, flaw
    pend := keptPend (~~~lanesO) givesW w.pend ++ keptPend lanesO givesO o.pend
    held := (w.held.zip o.held).map fun l => keptPend (~~~lanesO) givesW l.1 ++ keptPend lanesO givesO l.2
    awaits := mergeAwaits dsts w.owned o.owned givesW givesO w.awaits o.awaits
    forks := w.forks.tail
    written := (r.outer ++ w.written ++ o.written).eraseDups
    waitPhase := spSets 0 o.waitPhase w.waitPhase
    run := .ready, started := false, arrived := false }

/-- One split from a single surviving side. -/
def mergeOne (r : Fork) (w : Split) : Split :=
  { w with forks := w.forks.tail, written := (r.outer ++ w.written).eraseDups, run := .ready, started := false, arrived := false }

/-- Operations in flight of a split lie in the program order of another as well (R137, R141, R194). -/
def State.inherit (s : State) (blk wid old new : Nat) : State :=
  { s with ops := s.ops.map fun o =>
      if o.blk = blk ∧ o.wid = wid ∧ o.sids.contains old = true ∧ o.sids.contains new = false then { o with sids := o.sids ++ [new] } else o }

/-- Merge(r) of R141: the taken side and the other, either of which may have ended. The merged split goes on after the JOIN of the
side that held the lowest lane at the fork, and what either side has in flight lies in its program order. -/
def State.merge (s : State) (k : Kernel) (r : Fork) (taken other : Option Split) : State × Option Split :=
  match taken, other with
  | none, none => (s, none)
  | some t, none => (s, some (mergeOne r t))
  | none, some f => (s, some (mergeOne r f))
  | some t, some f =>
    let rest := r.origin &&& ~~~r.takenLanes
    let first := ((lowLane r.origin).map fun i => r.takenLanes.getLsbD i).getD true
    let (w, o, lw, lo) := if first then (t, f, r.takenLanes, rest) else (f, t, rest, r.takenLanes)
    let dsts := fun id => ((s.op? id).map fun o => o.kind.dsts).getD []
    (match s.cur with | some c => s.inherit c.blk.id c.wave.wid o.sid w.sid | none => s,
      some (mergeTwo r dsts (w.reach k s.symDst w.pc) (o.reach k s.symDst w.pc) lw lo))

/-! ## SPLIT and JOIN (R137–R141) -/

/-- Whether a split has a side of a real fork in its stack. -/
def Split.onSide (sp : Split) (fid : Nat) (taken : Bool) : Bool := sp.forks.any fun r => r.fid = fid && r.kind = .real taken

/-- The other side of a real fork, parked at its JOIN. -/
def parkedAt (l : List Split) (fid : Nat) (taken : Bool) : Option Split :=
  l.find? fun sp => sp.run = .parked && (match sp.forks with | r :: _ => r.fid = fid && r.kind = .real taken | [] => false)

/-- Split-table entries that a wave with these splits holds: one per live split and per ended side whose fork has not merged; none
where that makes one (R137, R141, R142). -/
def entriesOf (l : List Split) : Nat :=
  let sides := (l.flatMap fun sp => sp.forks.filterMap fun r => match r.kind with
    | .real t => some (r.fid, t)
    | _ => none).eraseDups
  let n := l.length + (sides.filter fun x => !sides.contains (x.1, !x.2)).length
  if n ≤ 1 then 0 else n

/-- Whether an entry, a place under the limit of 8 and an instruction-buffer slot are free (R137). -/
def State.roomForSplit (s : State) (c : Cur) : Bool :=
  let blocks := s.allBlocks.filter fun b => b.core = c.blk.core && (match b.phase with | .saved _ _ => false | _ => true)
  let used := sumBy (fun b => sumBy (fun w => entriesOf w.splits) b.waves) blocks
  let slots := sumBy (fun b => sumBy (fun w => if w.quarter = c.wave.quarter then w.splits.length else 0) b.waves) blocks
  let own := c.split :: c.wave.splits
  own.length < 8 && used + (if entriesOf own = 0 then 2 else 1) ≤ 256 && slots + 1 ≤ 32

/-- SPLIT: a mask other than `exec` in A, a target in B. -/
def specSplit (m : Nat) : Spec :=
  { a := some Slot.kreg, b := some Slot.target, wave := true, selNever := true, usesExec := true, noBase := true, mOk := m = 0 }

/-- The issuing split divided into two live ones: the taken side is new, and its fork comes first (R139, R162). -/
def State.forkReal (s : State) (c : Cur) (t f : Mask) (target : Dword) (words : Nat) : State :=
  let s := s.inherit c.blk.id c.wave.wid c.split.sid c.wave.nextSid
  let c' := (c.issued (s.tick + 1)).at (nextPc c.split.pc words)
  let rcd := fun b => ({ fid := c.wave.nextFork, kind := .real b, origin := c.split.owned, takenLanes := t
                         outer := c.split.written } : Fork)
  let y := { c'.split with owned := c.split.owned &&& ~~~t, exec := f, written := [], forks := rcd false :: c.split.forks
                           pend := c'.split.pend.filter fun p => p.reg ≠ RegId.mask 16 }
  let x := { y with sid := c.wave.nextSid, owned := t, exec := t, forks := rcd true :: c.split.forks, pc := target
                    lastIssue := s.tick, issuedPc := none, behind := [] }
  { s with
    tick := s.tick + 2
    cur := some { c' with
      wave := { c'.wave with nextSid := c.wave.nextSid + 1, nextFork := c.wave.nextFork + 1
                             splits := insertBy (·.sid) x c'.wave.splits }
      split := y } }

/-- The taken side runs first, and the other waits in the fork record (R139). -/
def State.forkSerial (s : State) (c : Cur) (t f : Mask) (target : Dword) (words : Nat) : State :=
  let c' := (c.issued s.tick).at target
  let here := { c'.split with pend := c'.split.pend.filter fun p => p.reg ≠ RegId.mask 16 }
  let other := ({ here with owned := c.split.owned &&& ~~~t, exec := f, written := [] } : Split).aside (nextPc c.split.pc words)
  let r : Fork := { fid := c.wave.nextFork, kind := .serial other, origin := c.split.owned, takenLanes := t
                    outer := c.split.written }
  { s with cur := some { c' with
      wave := { c'.wave with nextFork := c.wave.nextFork + 1 }
      split := { here with owned := t, exec := t, written := [], forks := r :: c.split.forks } } }

/-- The fork of R139. -/
def bodySplit (words : Nat) (s : State) (c : Cur) (x : Ctx) : Res :=
  let k := c.split.readMask x.a.maskNum
  let t := x.act &&& k
  let f := x.act &&& ~~~k
  let target := targetOf c.split x x.b
  if t ≠ 0 ∧ !(s.kernelOf c.blk).targetOk target then .fault Fc.branchAlign target.toNat
  else if c.split.forks.length = 16 then .fault Fc.access (accessInfo 0x094 3)
  else if t = 0 ∨ f = 0 then
    let r : Fork := { fid := c.wave.nextFork, kind := .single, origin := c.split.owned, takenLanes := t, outer := [] }
    let s := { s with cur := some { c with
      wave := { c.wave with nextFork := c.wave.nextFork + 1 }, split := { c.split with forks := r :: c.split.forks } } }
    if t ≠ 0 then .jump s ctl target else .done s ctl
  else if s.roomForSplit c then .forked (s.forkReal c t f target words) [(.ctl, 1), (.fork, 1)] target
  else .forked (s.forkSerial c t f target words) [(.ctl, 1), (.fork, 1)] target

/-- SPLIT (R139). -/
def execSplit (f : Form) (s : State) : Host.Outcome State Fault Refusal := s.issueOp 0x094 f specSplit (bodySplit (formWords f))

/-- JOIN of R140: the split that has reached it stands at the next instruction. -/
def bodyJoin (words : Nat) (s : State) (c : Cur) (_ : Ctx) : Res :=
  let k := s.kernelOf c.blk
  let c' := (c.issued s.tick).at (nextPc c.split.pc words)
  let me := c'.split
  match me.forks with
  | [] => .done s ctl
  | r :: rest =>
    match r.kind with
    | .single => .done { s with cur := some { c with split := { c.split with forks := rest } } } ctl
    | .serial other =>
      let first := me.aside me.pc
      .gone { s with cur := some { c' with
        split := other.on me ({ r with kind := .serialSecond (some first) } :: rest) } } ctl
    | .serialSecond first =>
      let (s, m) := s.merge k r (first.map fun a => a.on me me.forks) (some me)
      .gone { s with cur := some { c' with split := m.getD me } } [(.ctl, 1), (.fork, 1)]
    | .real taken =>
      match parkedAt c'.wave.splits r.fid (!taken) with
      | some o =>
        let (s, m) := if taken then s.merge k r (some me) (some o) else s.merge k r (some o) (some me)
        .gone { s with cur := some { c' with
          wave := { c'.wave with splits := c'.wave.splits.filter (·.sid ≠ o.sid) }, split := m.getD me } } [(.ctl, 1), (.fork, 1)]
      | none =>
        if c'.wave.splits.any fun o => o.onSide r.fid (!taken) then
          .gone { s with cur := some { c' with split := { me with run := .parked } } } ctl
        else .gone { s with cur := some { c' with split := mergeOne r me } } [(.ctl, 1), (.fork, 1)]

/-- JOIN (R140). -/
def execJoin (f : Short) (s : State) : Host.Outcome State Fault Refusal :=
  s.issueOp 0x095 (.base f) specPlain (bodyJoin (formWords (.base f)))

/-- JOIN (R140). -/
def execJoinLong (f : Long) (s : State) : Host.Outcome State Fault Refusal :=
  s.issueOp 0x095 (.long f) specPlain (bodyJoin (formWords (.long f)))

/-! ## EXIT (R142) -/

/-- The wave and block of a split that has ended, back in their places; the block's barriers learn of a wave that has ended (R201). -/
def State.splitGone (s : State) (c : Cur) : State :=
  let s := ({ s with cur := none } : State).withBlock (c.blk.withWave c.wave)
  if c.wave.live then s else s.waveLeft c.blk

/-- A split with no lanes left ends, and counts as arrived at the forks of its stack from the innermost outwards. -/
def State.endSplit (s : State) (c : Cur) : List Fork → State
  | [] => s.splitGone c
  | r :: rest =>
    match r.kind with
    | .single => s.endSplit c rest
    | .serial other =>
      { s with cur := some { c with split := other.on c.split ({ r with kind := .serialSecond none } :: rest) } }
    | .serialSecond none => s.endSplit c rest
    | .serialSecond (some first) => { s with cur := some { c with split := mergeOne r (first.on c.split (r :: rest)) } }
    | .real taken =>
      match parkedAt c.wave.splits r.fid (!taken) with
      | some o =>
        s.splitGone { c with wave := { c.wave with
          splits := mapIf (·.sid = o.sid) (fun o => mergeOne r o) c.wave.splits } }
      | none =>
        if c.wave.splits.any fun o => o.onSide r.fid (!taken) then s.splitGone c
        else s.endSplit c rest

/-- Whether the end of a split merges a fork: the other side has reached its JOIN (R132, R142). -/
def endMerges (splits : List Split) : List Fork → Bool
  | [] => false
  | r :: rest =>
    match r.kind with
    | .single => endMerges splits rest
    | .serial _ => false
    | .serialSecond none => endMerges splits rest
    | .serialSecond (some _) => true
    | .real taken => (parkedAt splits r.fid (!taken)).isSome ||
        (!(splits.any fun o => o.onSide r.fid (!taken)) && endMerges splits rest)

/-- EXIT takes a mask selector, and no form but LEN 00 and 10. LEN 10 with MSEL 0b00, which R133 does not list, is accepted and withdraws
every lane, as LEN 00 does (DESIGN CHOICE, notes/assumptions/100.md). -/
def specExit (m : Nat) : Spec := { wave := true, selAlways := true, mOk := Mod.own m = 0 }

/-- The lanes withdrawn: all that the split owns, or the selected lanes of `exec`. -/
def exitLanes (c : Cur) (x : Ctx) : Mask := if Mod.msel x.m = 0 then c.split.owned else x.act

/-- The withdrawal, a progress event (R79). Where it makes the other side's JOIN merge, that JOIN's `fork` event is booked (R132). -/
def bodyExit (words : Nat) (s : State) (c : Cur) (x : Ctx) : Res :=
  let gone := exitLanes c x
  let w := { c.wave with withdrawn := c.wave.withdrawn ||| gone, hangcnt := 0 }
  let sp : Split := { c.split with owned := c.split.owned &&& ~~~gone, exec := c.split.exec &&& ~~~gone }
  if sp.owned ≠ 0 then .done { s with cur := some { c with wave := w, split := sp } } ctl
  else
    let c' := (({ c with wave := w, split := sp } : Cur).issued s.tick).at (nextPc c.split.pc words)
    .gone (s.endSplit c' c.split.forks) (ctl ++ if endMerges c'.wave.splits c.split.forks then [(.fork, 1)] else [])

/-- EXIT (R142). -/
def execExit (f : Short) (s : State) : Host.Outcome State Fault Refusal :=
  s.issueOp 0x096 (.base f) specExit (bodyExit (formWords (.base f)))

/-- EXIT (R142). -/
def execExitLong (f : Long) (s : State) : Host.Outcome State Fault Refusal :=
  s.issueOp 0x096 (.long f) specExit (bodyExit (formWords (.long f)))

/-! ## Traps (R150, R151) -/

/-- TRAP and BKPT: a 64-bit uniform A. -/
def specTrap (m : Nat) : Spec := { a := some (Slot.uni true), wave := true, selNever := true, mOk := m = 0 }

/-- SWTRAP with the operand. -/
def bodyTrap (s : State) (c : Cur) (x : Ctx) : Res := .trap s ctl Fc.swtrap (BitVec.ofNat 64 (x.vA c.split 0))

/-- TRAP (R151). -/
def execTrap (f : Short) (s : State) : Host.Outcome State Fault Refusal := s.issueOp 0x098 (.base f) specTrap bodyTrap

/-- TRAP (R151). -/
def execTrapLong (f : Long) (s : State) : Host.Outcome State Fault Refusal := s.issueOp 0x098 (.long f) specTrap bodyTrap

/-- BKPT with the operand: the wave stops for the debug port where it is armed for the function; otherwise a trap. -/
def bodyBkpt (s : State) (c : Cur) (x : Ctx) : Res :=
  if s.hw.armedFns.contains c.blk.fn then .done { s with cur := some { c with wave := { c.wave with debug := 1 } } } ctl
  else .trap s ctl Fc.bkpt (BitVec.ofNat 64 (x.vA c.split 0))

/-- BKPT (R151). -/
def execBkpt (f : Short) (s : State) : Host.Outcome State Fault Refusal := s.issueOp 0x09A (.base f) specTrap bodyBkpt

/-- BKPT (R151). -/
def execBkptLong (f : Long) (s : State) : Host.Outcome State Fault Refusal := s.issueOp 0x09A (.long f) specTrap bodyBkpt

/-- Whether a PC names a later word of an instruction of its bundle, as memory holds it (R36). -/
def State.midInstr (s : State) (b : Block) (pc : Dword) : Bool :=
  match s.wordsAt b (bundleOf pc) with
  | none => false
  | some ws => (bundleDefect ws).isNone && !(starts ws).contains (wordOf pc)

/-- TRET, which reads TRAP_PC. -/
def specTret (m : Nat) : Spec := { specPlain m with also := [(0xC114, .trapPc)] }

/-- The return: TRAP_PC is checked (R36, R131), and the in-handler flag clears (R150). Outside a handler ACCESS comes first
(notes/assumptions/14.md). -/
def bodyTret (s : State) (c : Cur) (_ : Ctx) : Res :=
  let pc := c.split.read .trapPc 0
  if !c.split.uni.inHandler then .fault Fc.access (accessInfo 0x099 4)
  else if pc.toNat % 4 ≠ 0 ∨ pc.toNat / 4 % 8 = 1 ∨ s.midInstr c.blk pc then
    .fault Fc.illegalBundle (0x100 + pc.toNat / 4 % 8)
  else if !(s.kernelOf c.blk).inCode pc then .fault Fc.branchAlign pc.toNat
  else .jump { s with cur := some { c with split := c.split.leave pc } } ctl pc

/-- TRET (R150). -/
def execTret (f : Short) (s : State) : Host.Outcome State Fault Refusal := s.issueOp 0x099 (.base f) specTret bodyTret

/-- TRET (R150). -/
def execTretLong (f : Long) (s : State) : Host.Outcome State Fault Refusal := s.issueOp 0x099 (.long f) specTret bodyTret

/-! ## Opcodes without an instruction (R53) -/

/-- TRAP_INFO of an opcode that no instruction has (R156). -/
def opcodeInfo (op : BitVec 9) (f : Form) : Nat := formLen f * 512 + op.toNat

/-- An opcode from 0x180 on: ILLEGAL_OP with no effect. It is charged one issue event (notes/assumptions/15.md). -/
def execIllegalOpcode (op : BitVec 9) (f : Form) (s : State) : Host.Outcome State Fault Refusal :=
  match s.cur with
  | none => .next s
  | some c => .next (s.faulted c 1 Fc.illegalOp (opcodeInfo op f))

/-- A reserved opcode: FEATURE_ABSENT, which stops the block (R439); a method's batch and a cooperative save end (R153, R316). -/
def execReservedOpcode (op : BitVec 9) (f : Form) (s : State) : Host.Outcome State Fault Refusal :=
  match s.cur with
  | none => .next s
  | some c =>
    if c.blk.method.isSome ∨ c.wave.pre.isSome then .next (s.faulted c 1 Fc.featureAbsent (opcodeInfo op f))
    else
      let c' := c.counted
      let s := ({ s with cur := some c' } : State).bookFor c.blk [(.issue, 1)]
      .next (({ s with tick := s.tick + 1 } : State).blockStop (c'.issued s.tick) c.split.pc
        (BitVec.ofNat 64 (opcodeInfo op f)))

end Sys2Proof.Machine
end

