-- ==== Sys2Proof/Machine/MaskOps.lean ====
section
/-! DEFINITION. The mask instructions (opcodes 0x070–0x076, R125, R126): all W bits, once per wave or split, latency 2. -/
namespace Sys2Proof.Machine

/-- A mask instruction with these operands. `low` is the number of low modifier bits it uses. -/
def maskSpec (d a b : Option Slot) (low m : Nat) : Spec :=
  { d, a, b, wave := true, selNever := true, noBase := true, mOk := m < 2 ^ low, lat := 2 }

/-- A mask result: each of the W bits. -/
def maskResult (f : Ctx → Split → Mask) (s : State) (c : Cur) (x : Ctx) : Res :=
  let r := f x c.split
  doneWith s c (c.split.result x.d false ((List.range x.w).map fun i => (i, b2n (r.getLsbD i))) x.lat) (x.charge .mask)

/-- A source mask, negated where its modifier bit is set. -/
def Ctx.maskSrc (_ : Ctx) (sp : Split) (o : Opnd) (neg : Bool) : Mask :=
  if neg then ~~~sp.readMask o.maskNum else sp.readMask o.maskNum

/-- Two masks to one, NA in bit 1 of the modifier and NB in bit 0. -/
def mask2 (f : Mask → Mask → Mask) : State → Cur → Ctx → Res :=
  maskResult fun x sp => f (x.maskSrc sp x.a (bit x.m 1)) (x.maskSrc sp x.b (bit x.m 0))

/-- D, A and B masks. -/
def specMask2 : Nat → Spec := maskSpec (some Slot.mask) (some Slot.mask) (some Slot.mask) 2

/-- KAND (R125). -/
def execKand (f : Form) (s : State) : Host.Outcome State Fault Refusal := s.issueOp 0x070 f specMask2 (mask2 fun a b => a &&& b)

/-- KOR (R125). -/
def execKor (f : Form) (s : State) : Host.Outcome State Fault Refusal := s.issueOp 0x071 f specMask2 (mask2 fun a b => a ||| b)

/-- KXOR (R125). -/
def execKxor (f : Form) (s : State) : Host.Outcome State Fault Refusal := s.issueOp 0x072 f specMask2 (mask2 fun a b => a ^^^ b)

/-- D and A masks. -/
def specKnot : Nat → Spec := maskSpec (some Slot.mask) (some Slot.mask) none 0

/-- KNOT (R125). -/
def execKnot (f : Form) (s : State) : Host.Outcome State Fault Refusal :=
  s.issueOp 0x073 f specKnot (maskResult fun x sp => x.maskSrc sp x.a true)

/-- A scalar D from a mask A; `zero` discards the result (DESIGN CHOICE, notes/assumptions/97.md). -/
def specKpop : Nat → Spec := maskSpec (some Slot.dstScal) (some Slot.mask) none 0

/-- KPOP (R125). -/
def execKpop (f : Form) (s : State) : Host.Outcome State Fault Refusal :=
  s.issueOp 0x074 f specKpop (laneOp .mask fun x sp _ => (lanesBelow x.w (x.maskSrc sp x.a false)).length)

/-- KFFS (R125). -/
def execKffs (f : Form) (s : State) : Host.Outcome State Fault Refusal :=
  s.issueOp 0x075 f specKpop (laneOp .mask fun x sp _ => ((lanesBelow x.w (x.maskSrc sp x.a false)).head?).getD 0xFFFFFFFF)

/-- W/32 scalars from a multiple of W/32 on, or `zero` (DESIGN CHOICE, notes/assumptions/97.md). -/
def maskScalars (w : Nat) : Slot := { kinds := [.scal, .zero], span := w / 32, align := w / 32, wide := w = 64 }

/-- KMOV: a copy, from scalars (or a literal, a small integer, `zero`), or to scalars. -/
def specKmov (w m : Nat) : Spec :=
  match m with
  | 0 => maskSpec (some Slot.mask) (some Slot.mask) none 0 m
  | 1 => maskSpec (some Slot.mask) (some { maskScalars w with kinds := [.scal, .zero, .small, .lit] }) none 2 m
  | 2 => maskSpec (some (maskScalars w)) (some Slot.mask) none 2 m
  | _ => { maskSpec (some Slot.mask) (some Slot.mask) none 0 m with mOk := false }

/-- The bits that W/32 scalars hold, 32 to each. -/
def Split.scalars (sp : Split) (n k : Nat) : Nat :=
  sumBy (fun j => (sp.read (.scal (n + j)) 0).toNat * 2 ^ (32 * j)) (List.range k)

/-- The value of KMOV.from's source. -/
def Ctx.kmovSrc (x : Ctx) (sp : Split) : Mask :=
  match x.a with
  | .scal n => BitVec.ofNat 128 (sp.scalars n (x.w / 32))
  | .small v => BitVec.ofNat 128 v
  | .lit => x.lit.setWidth 128
  | _ => 0

/-- A mask to the scalars from D on, each at its latency. -/
def Ctx.kmovTo (x : Ctx) (sp : Split) : Split :=
  let v := (sp.readMask x.a.maskNum &&& fullMask x.w).toNat
  match x.d with
  | .scal n => (List.range (x.w / 32)).foldl (fun sp j =>
      sp.put (.scal (n + j)) [(0, BitVec.ofNat 64 (v / 2 ^ (32 * j) % 2 ^ 32))] x.lat) sp
  | _ => sp

/-- The move that SUB names. -/
def bodyKmov (s : State) (c : Cur) (x : Ctx) : Res :=
  match x.m with
  | 0 => maskResult (fun x sp => x.maskSrc sp x.a false) s c x
  | 1 => maskResult (fun x sp => x.kmovSrc sp) s c x
  | _ => doneWith s c (x.kmovTo c.split) (x.charge .mask)

/-- KMOV (R125). -/
def execKmov (f : Form) (s : State) : Host.Outcome State Fault Refusal :=
  s.issueOp 0x076 f (specKmov ((s.cur.map (·.wave.width)).getD 32)) bodyKmov

end Sys2Proof.Machine
end

