-- ==== Sys2Proof/Machine/Moves.lean ====
section
/-! DEFINITION. MOV, MOVL, the special registers and the index register (opcodes 0x080–0x085, R71–R74, R127–R129, R312). -/
namespace Sys2Proof.Machine

/-! ## MOV and MOVL -/

/-- MOV: D and A of the type. -/
def specMov : Nat → Spec := specInt1 [0, 7, 8] 0

/-- The value of A at each site. -/
def bodyMov : State → Cur → Ctx → Res := laneOp .int fun x sp i => x.vA sp i

/-- MOV (R127). -/
def execMov (f : Short) (s : State) : Host.Outcome State Fault Refusal := s.issueOp 0x080 (.base f) specMov bodyMov

/-- MOV (R127). -/
def execMovLong (f : Long) (s : State) : Host.Outcome State Fault Refusal := s.issueOp 0x080 (.long f) specMov bodyMov

/-- MOVL: a per-lane D, which `zero` is not here, uniform A and B (R127; notes/assumptions/97.md). -/
def specMovl (m : Nat) : Spec :=
  let w := wideTy (Mod.type m)
  { d := some { kinds := [.vec, .orf], wide := w }, a := some (Slot.uni w), b := some (Slot.uni), notScalar := true
    mOk := vOk m [0, 7, 8] 0 0 0, lat := 4 }

/-- a into lane b where b is active. -/
def bodyMovl (s : State) (c : Cur) (x : Ctx) : Res :=
  let j := x.vB c.split 0
  doneWith s c (c.split.result x.d x.dWide (if x.lanes.contains j then [(j, x.vA c.split 0)] else []) x.lat) (x.charge .int)

/-- MOVL (R127). -/
def execMovl (f : Short) (s : State) : Host.Outcome State Fault Refusal := s.issueOp 0x081 (.base f) specMovl bodyMovl

/-- MOVL (R127). -/
def execMovlLong (f : Long) (s : State) : Host.Outcome State Fault Refusal := s.issueOp 0x081 (.long f) specMovl bodyMovl

/-! ## Special registers -/

/-- Numbers of the table of R71. -/
def sregs : List Nat :=
  [0x100, 0x101, 0x102, 0x103, 0x104, 0x105, 0x106, 0x107, 0x108, 0x109, 0x10A, 0x10B, 0x10C, 0x10E, 0x10F, 0x110, 0x111,
   0x112, 0x113, 0x114, 0x116, 0x117, 0x118]

/-- The 64-bit ones, and the writable ones. -/
def sregWide (n : Nat) : Bool := [0x10C, 0x111, 0x114, 0x118].contains n
def sregWritable (n : Nat) : Bool := [0x10E, 0x10F, 0x110, 0x114].contains n

/-- Number of the special register an operand names. -/
def Opnd.sregNum : Opnd → Nat
  | .sreg n => n
  | _ => 0

/-- RDSR of a register: a scalar, a pair for a 64-bit register, k0–k15 for TRAP_EXEC. A scalar or a pair may be `zero`, which discards the value
(DESIGN CHOICE, notes/assumptions/97.md). -/
def specRdsr (n m : Nat) : Spec :=
  { d := some (if n = 0x116 then Slot.kreg else { kinds := [.scal, .zero], wide := sregWide n })
    a := some { kinds := [.sreg] }, aOk := sregs.contains n, wave := true, selNever := true, mOk := m = 0, lat := 2 }

/-- WRSR of a register: a uniform value, a pair for TRAP_PC. -/
def specWrsr (n m : Nat) : Spec :=
  { d := some { kinds := [.sreg] }, a := some (Slot.uni (n = 0x114)), dOk := sregWritable n
    wave := true, selNever := true, mOk := m = 0, lat := 2 }

/-- The value of a special register, and the state after the read: CLK is a fresh free value (notes/assumptions/11.md). In a
method wave the block's registers read as R312 states. -/
def State.sregValue (s : State) (c : Cur) (sp : Split) (n : Nat) : State × Nat :=
  let method := c.blk.method.isSome
  let g := s.gridOf c.blk
  let gang := if method then 1 else (s.kernelOf c.blk).gang
  let val : Nat := match n with
    | 0x100 => c.wave.wid
    | 0x101 => if method then 1 else c.blk.nwaves
    | 0x102 => c.wave.width
    | 0x103 => c.blk.bidx
    | 0x104 => c.blk.bidy
    | 0x105 => c.blk.bidz
    | 0x106 => if method then 1 else (g.map (·.rcd.gdimx)).getD 1
    | 0x107 => if method then 1 else (g.map (·.rcd.gdimy)).getD 1
    | 0x108 => if method then 1 else (g.map (·.rcd.gdimz)).getD 1
    | 0x109 => c.blk.index % max gang 1
    | 0x10A => gang
    | 0x10B => if method then 0 else (g.map (·.depth)).getD 1
    | 0x10C => if method then 0 else c.blk.param.toNat
    | 0x10E => (sp.read .mode 0).toNat
    | 0x10F => (sp.read .status 0).toNat
    | 0x110 => (sp.read .rseed 128).toNat
    | 0x112 => c.wave.share
    | 0x113 => c.wave.hangcnt
    | 0x114 => (sp.read .trapPc 0).toNat
    | 0x117 => sp.uni.trapCode.toNat
    | 0x118 => sp.uni.trapInfo.toNat
    | _ => 0
  if n = 0x111 then ({ s with fresh := s.fresh + 1 }, (Config.freeValue s.fresh).toNat) else (s, val)

/-- The read. -/
def bodyRdsr (s : State) (c : Cur) (x : Ctx) : Res :=
  if x.a.sregNum = 0x116 then
    doneWith s c (c.split.result x.d false ((List.range x.w).map fun i => (i, b2n (c.split.uni.trapExec.getLsbD i))) x.lat)
      (x.charge .sreg)
  else
    let (s, v) := s.sregValue c c.split x.a.sregNum
    doneWith s c (c.split.result x.d x.dWide [(0, v)] x.lat) [(.sreg, 1)]

/-- RDSR (R128). -/
def execRdsr (f : Form) (s : State) : Host.Outcome State Fault Refusal :=
  s.issueOp 0x082 f (specRdsr (Raw.of false f).a.sregNum) bodyRdsr

/-- MODE with its writable bits replaced (R72). -/
def modeOver (old new : Nat) : Nat := old / 2 ^ 11 * 2 ^ 11 + new % 2 ^ 11

/-- What RSEED and the generators of the lanes the split owns become (R99). -/
def seedVals (blk : Block) (gdimx gdimy wid : Nat) (owned : Mask) (v : Word) : List (Nat × Dword) :=
  (lanesOf owned).map (fun i => (i, (seedState blk.bidx blk.bidy blk.bidz gdimx gdimy wid v i).setWidth 64)) ++
  [(128, v.setWidth 64)]

/-- The write, readable at its latency. -/
def bodyWrsr (s : State) (c : Cur) (x : Ctx) : Res :=
  let v := x.vA c.split 0
  let g := s.gridOf c.blk
  let sp := match x.d.sregNum with
    | 0x10E => c.split.put .mode [(0, BitVec.ofNat 64 (modeOver (c.split.read .mode 0).toNat v))] x.lat
    | 0x10F => c.split.put .status [(0, BitVec.ofNat 64 (v % 8))] x.lat
    | 0x110 => c.split.put .rseed (seedVals c.blk ((g.map (·.rcd.gdimx)).getD 1) ((g.map (·.rcd.gdimy)).getD 1)
        c.wave.wid c.split.owned (BitVec.ofNat 32 v)) x.lat
    | _ => c.split.put .trapPc [(0, BitVec.ofNat 64 v)] x.lat
  doneWith s c sp [(.sreg, 1)]

/-- WRSR (R72, R74, R99, R128). -/
def execWrsr (f : Form) (s : State) : Host.Outcome State Fault Refusal :=
  s.issueOp 0x083 f (specWrsr (Raw.of false f).d.sregNum) bodyWrsr

/-! ## The index register -/

/-- XSET and XADD: a uniform A, a scalar D; both read `xi`. -/
def specXset (m : Nat) : Spec :=
  { d := some Slot.dstScal, a := some (Slot.uni), selNever := true, mOk := m = 0, lat := 2, slat := 2, also := [(0xC0FF, .xi)] }

/-- The old `xi` to D and a new one to `xi`. -/
def bodyXi (f : Nat → Nat → Nat) (s : State) (c : Cur) (x : Ctx) : Res :=
  let old := (c.split.read .xi 0).toNat
  let sp := c.split.put .xi [(0, BitVec.ofNat 64 (f old (x.vA c.split 0) % 2 ^ 16))] x.lat
  doneWith s c (sp.result x.d false [(0, old)] x.lat) [(.sreg, 1)]

/-- XSET (R129). -/
def execXset (f : Short) (s : State) : Host.Outcome State Fault Refusal := s.issueOp 0x084 (.base f) specXset (bodyXi fun _ a => a)

/-- XSET (R129). -/
def execXsetLong (f : Long) (s : State) : Host.Outcome State Fault Refusal := s.issueOp 0x084 (.long f) specXset (bodyXi fun _ a => a)

/-- XADD (R129). -/
def execXadd (f : Short) (s : State) : Host.Outcome State Fault Refusal :=
  s.issueOp 0x085 (.base f) specXset (bodyXi fun old a => old + a)

/-- XADD (R129). -/
def execXaddLong (f : Long) (s : State) : Host.Outcome State Fault Refusal :=
  s.issueOp 0x085 (.long f) specXset (bodyXi fun old a => old + a)

end Sys2Proof.Machine
end

