-- ==== Sys2Proof/Machine/Perform.lean ====
section
/-! DEFINITION. How accesses are performed: loads, stores, write-backs and atomics at the point that performs them (R187–R194,
R260, R268, R269, R281, R403, R432, R433). -/
namespace Sys2Proof.Machine

/-- An error found by a function's access: counted and logged (R444). -/
def State.logPoison (s : State) (fn addr : Nat) : State := s.logErr fn { code := 0x71, info := BitVec.ofNat 64 addr } true

/-- What a record says of the wave of an operation (R444). -/
def State.opRec (s : State) (o : Op) (info : Dword) : ErrRec :=
  match s.blockOf o.blk with
  | some b => s.errOf b 0x71 0 o.wid 0 info
  | none => { code := 0x71, flags := o.child, info }

/-- Events that an operation's performance costs its block's partition, or its batch (R203, R322). -/
def State.bookOp (s : State) (o : Op) (evs : List (Ev × Nat)) : State :=
  match s.blockOf o.blk with
  | some b => s.bookFor b evs
  | none => s.bookCore o.fn o.child o.core evs

/-- A `homeatom` event at a slice. -/
def State.bookAtomAt (s : State) (o : Op) (slice : Nat) : State :=
  match (s.blockOf o.blk).bind (·.method) with
  | some _ => s.bookOp o [(.homeatom, 1)]
  | none => s.bookSlice o.fn o.child slice [(.homeatom, 1)]

/-- The packet of an item of a window, or the line that an item moves between the core and a home, where it is the first of its operation to do
so: of lanes that one request of the aggregator brings together, and of lines that an access meets more than once, one is counted (R203;
notes/assumptions/95.md). The lines of a job and of ACCST are booked with them (R213, R229). -/
def State.bookMoved (s : State) (o : Op) (before : Nat → Bool) (i : Item) : State :=
  match i.space with
  | .scr _ _ => s
  | .tile => s
  | .remote => s.bookTrip o.fn o.child
  | sp => if o.parent.isSome || o.items.any fun j => (o.donePart.getLsbD j.lane || before j.lane) && j.space = sp && j.addr / 128 = i.addr / 128 then s
      else s.bookOp o [(.line, 1)]

/-- An error found by an operation: logged, and counted where it is an uncorrectable one (R444). -/
def State.logOp (s : State) (o : Op) (info : Dword) (ue : Bool) : State := s.logErr o.fn (s.opRec o info) ue

/-- Lanes of an operation performed; once all are, the acquire, the completion and the progress event (R79, R194). -/
def State.didLanes (s : State) (id : Nat) (lanes : List Nat) : State :=
  let s := s.mapOp id fun o => { o with donePart := o.donePart ||| maskOf lanes }
  match s.op? id with
  | none => s
  | some o =>
    if !o.undone.isEmpty then s
    else
      let s := if acqOrd o.ord then s.acquire o.core o.scopeOf else s
      let s := if o.kind.isStore || o.kind.isAtom then s.progress o.blk o.wid else s
      s.complete id

/-! ## Loads -/

/-- Whether the first-level cache serves a load's lane: the policy allows it and the line is held; no earlier access of the wave to
those bytes is on its way to the home past it, so that a later load returns no older value than an earlier one; and no store
of the core that came after the load has updated it (R188, R189). -/
def State.l1Serves (s : State) (o : Op) (i : Item) : Bool :=
  o.pol = 1 && i.space = .mem && (s.l1Line o.core i.addr).isSome &&
  s.ops.all fun p => !(p.core = o.core && p.kind.isAccess && (p.items.any fun j => j.meets i) &&
    ((p.blk = o.blk && p.wid = o.wid && p.id < o.id && !(p.kind.isStore && p.pol = 1) && !p.staged && p.undone.any fun j => j.meets i) ||
      ((p.kind.isStore || p.kind.isAtom) && !p.staged && o.key < p.key)))

/-- Whether a lane of a load may be performed now. -/
def State.loadReady (s : State) (o : Op) (i : Item) : Bool :=
  s.mayPerform o && !s.turning o i && (s.l1Serves o i || s.inOrder o i)

/-! ## A deterministic block's own writes (R190, R403) -/

/-- An atomic operation on a value: 0 add, 1 min, 2 max, 3 and, 4 or, 5 xor, 6 exchange, 7 compare and exchange. -/
def atomicOp (aop ty mode run operand expected : Nat) : Nat :=
  let n := 8 * mtBytes ty
  let t := intTy (if ty = 0 then 7 else ty)
  let b := operand % 2 ^ n
  let f : FTy := .float fp32
  let fl := fun x => f.decode (f.daz mode) x
  match aop with
  | 0 => if ty = 9 then f.write mode 0 0 (addFV false (fl run) (fl b)) else (run + b) % 2 ^ n
  | 1 => if ty = 9 then f.write mode 0 0 (minMaxFV false (fl run) (fl b)) else if t.val b < t.val run then b else run
  | 2 => if ty = 9 then f.write mode 0 0 (minMaxFV true (fl run) (fl b)) else if t.val run < t.val b then b else run
  | 3 => run &&& b
  | 4 => run ||| b
  | 5 => run ^^^ b
  | 6 => b
  | _ => if run = expected % 2 ^ n then b else run

/-- The lanes of an atomic applied in order to a word: what it becomes, and the old value of each lane. -/
def applyLanes (aop ty mode : Nat) : List Item → Nat → Nat × List (Nat × Nat)
  | [], run => (run, [])
  | i :: l, run =>
    let r := applyLanes aop ty mode l (atomicOp aop ty mode run i.data.toNat i.expected.toNat)
    (r.1, (i.lane, run) :: r.2)

/-- The writes of a deterministic block that a read of it meets and that are still to be performed, in the order in which they will be: those
that are sent, those in the order of the staging port, and those of the reader's own wave on their way to the port. Of the reader's wave
only what came before it counts. -/
def State.ownWrites (s : State) (o : Op) (i : Item) : List Op :=
  let l := s.ops.filter fun p => p.blk = o.blk && (p.kind.isStore || p.kind.isAtom) && (p.undone.any fun j => j.meets i) &&
    !(p.wid = o.wid && p.ofSplits o.sids.contains && o.id ≤ p.id)
  sortBy Op.key (l.filter (!·.staged)) ++ sortBy (·.port) (l.filter fun p => p.staged && p.port ≠ 0) ++
    l.filter fun p => p.staged && p.port = 0 && p.wid = o.wid

/-- One write applied to bytes that start at an address of its space, and to whether they are poisoned: a store's bytes, whose poison decides
where it covers the 8-byte words that are read whole; an atomic's operation, which is not performed on poison (R190). -/
def Op.overlaid (p : Op) (sp : Space) (at_ : Nat) (r : List Byte × Bool) : List Byte × Bool :=
  p.undone.foldl (fun r j =>
    if j.space ≠ sp ∨ j.addr + j.bytes ≤ at_ ∨ at_ + r.1.length ≤ j.addr then r
    else match p.kind with
      | .store =>
        ((leBytes j.bytes j.data.toNat).zipIdx.foldl (fun (bs : List Byte) b =>
            if at_ ≤ j.addr + b.2 then bs.set (j.addr + b.2 - at_) b.1 else bs) r.1,
          j.bad || (r.2 && !(j.addr ≤ at_ && at_ + r.1.length ≤ j.addr + j.bytes)))
      | .atom aop ty _ mode =>
        if r.2 || j.bad then (r.1, true)
        else
          let off := j.addr - at_
          let v := atomicOp aop ty mode.toNat (ofLe ((r.1.drop off).take j.bytes)) j.data.toNat j.expected.toNat
          (r.1.take off ++ leBytes j.bytes v ++ r.1.drop (off + j.bytes), r.2)
      | _ => r) r

/-- The 8-byte words around an item, whose own bytes are as given; the rest of a remote word is a free value. -/
def State.wordsAround (s : State) (i : Item) (bs : List Byte) : State × List Byte :=
  let lo := i.addr / 8 * 8
  let n := (i.addr + i.bytes + 7) / 8 * 8 - lo
  let (s, all) := if i.space = .remote then let (s, v) := s.takeFree; (s, leBytes n v.toNat) else (s, (s.fetchAt i.space lo n).1)
  (s, all.take (i.addr - lo) ++ bs ++ all.drop (i.addr - lo + i.bytes))

/-- Bytes read for an operation of a deterministic block, and whether they are poisoned, with what its block has still to perform over them
(R223, R403; notes/assumptions/61.md). -/
def State.overlay (s : State) (o : Op) (i : Item) (bs : List Byte) (bad : Bool) : State × List Byte × Bool :=
  let global := match i.space with | .scr _ _ => false | .tile => false | _ => true
  if !global || !((s.blockOf o.blk).any fun b => (s.kernelOf b).det) then (s, bs, bad)
  else
    let l := s.ownWrites o i
    if l.isEmpty then (s, bs, bad)
    else
      let w := s.wordsAround i bs
      let r := l.foldl (fun r p => p.overlaid i.space (i.addr / 8 * 8) r) (w.2, bad)
      (w.1, (r.1.drop (i.addr % 8)).take i.bytes, r.2)

/-! ## Loads performed -/

/-- The bytes that a load's lane reads, whether they are poisoned, and the state after it. What a remote device holds is a free
value, and `bad` says that it answered with an error (R433). A line that a `.home` or `.strm` load reads leaves the core's first-level
cache, so that no later load of the wave finds an older value there (R189; notes/assumptions/94.md); one that an `.l1` load reads is held
anew. -/
def State.readItem (s : State) (o : Op) (i : Item) (bad : Bool) : State × List Byte × Bool :=
  match i.space with
  | .mem =>
    if o.pol = 1 ∧ s.l1Serves o i = true then (s.scrubWords o.fn [.l1 o.core (i.addr / 128)]).l1Load o.core i.addr i.bytes
    else
      let t := (s.scrub o.fn .mem i.addr i.bytes).touch o.fn o.child i.addr i.bytes false
      let t := if o.pol = 3 then t.evictFirst s i.addr i.bytes else t
      let r := t.fetchAt .mem i.addr i.bytes
      if o.pol = 1 then (t.fillLine o.core i.addr, r.1, r.2)
      else (t.l1Drop o.core (i.addr / 128), r.1, r.2)
  | .remote =>
    let (s, v) := s.takeFree
    (s, leBytes i.bytes v.toNat, bad || s.cutOff)
  | sp =>
    let s := s.scrub o.fn sp i.addr i.bytes
    let r := s.fetchAt sp i.addr i.bytes
    (s, r.1, r.2)

/-- One lane of a load performed: its value is bound and written to D, poisoned where it read poison (R187). A poisoned word that
lanes share is logged once (R444). -/
def State.performLoad (s : State) (o : Op) (before : List Item) (i : Item) (bad : Bool) : State :=
  match o.kind with
  | .load ty dst =>
    let s := if s.l1Serves o i then s else s.bookMoved o (fun l => before.any fun j => j.lane = l && j.lane < i.lane) i
    let (s, bs, poison) := s.readItem o i bad
    let (s, bs, poison) := s.overlay o i bs poison
    let s := if poison ∧ !(before.any fun j => j.lane < i.lane && j.space = i.space && j.addr / 8 = i.addr / 8)
      then s.logOp o (BitVec.ofNat 64 i.addr) true else s
    let v := BitVec.ofNat 64 (mtExtend ty (ofLe bs))
    match dst with
    | some d => s.deliverTo o d i.lane v poison
    | none => s
  | _ => s

/-- The lanes of a load among those given that may be performed, performed in order. -/
def State.performLoads (s : State) (id : Nat) (lanes : Mask) (bad : Bool) : State :=
  match s.op? id with
  | none => s
  | some o =>
    let l := o.undone.filter fun i => lanes.getLsbD i.lane && s.loadReady o i
    if l.isEmpty then s
    else (l.foldl (fun s i => s.performLoad o l i bad) (s.loupeLanes o l (s.l1Serves o))).didLanes id (l.map (·.lane))

/-! ## Stores and write-backs -/

/-- The address groups of items, in the order of their highest lane: each item with the lanes it stands for (R187). -/
def storeGroups (l : List Item) : List (Item × List Nat) :=
  sortBy (fun g => g.1.lane) <| l.foldl (fun acc i =>
    match acc.find? fun g => g.1.space = i.space && g.1.addr = i.addr with
    | some g => mapIf (fun h => h.1.space = i.space && h.1.addr = i.addr)
        (fun _ => (if g.1.lane < i.lane then i else g.1, g.2 ++ [i.lane])) acc
    | none => acc ++ [(i, [i.lane])]) []

/-- Whether a group may be performed: the ordering of its operation, of earlier requests and of earlier groups to the same point. -/
def State.groupReady (s : State) (o : Op) (earlier : List (Item × List Nat)) (i : Item) : Bool :=
  !o.staged && s.mayPerform o && !s.turning o i && s.inOrder o i && !(earlier.any fun g => s.pointOf o g.1 = s.pointOf o i)

/-- One group of a store performed. -/
def State.performStore (s : State) (o : Op) (i : Item) (bad : Bool) : State :=
  match i.space with
  | .remote => if bad || s.cutOff then (s.bookTrip o.fn o.child).logOp o i.va false else s.bookTrip o.fn o.child
  | sp =>
    let bs := leBytes i.bytes i.data.toNat
    let t := (s.bookMoved o (fun _ => false) i).storeAt o.fn sp i.addr bs (s.opRec o 0)
    let t := if o.pol = 3 then t.evictFirst s i.addr i.bytes else t
    let t := if i.bad then t.poisonAt sp i.addr i.bytes else t
    if sp = .mem ∧ o.pol ≠ 1 then (t.l1Store o.core i.addr bs i.bad).l1Redo o.core (o.key < ·) (i.addr / 128) else t

/-- One line written back where it is dirty: clean at its home, and with `.inv` gone from there and from the core's first-level cache
(R269). -/
def State.performCwb (s : State) (o : Op) (inv : Bool) (i : Item) (bad : Bool) : State :=
  match i.space with
  | .mem =>
    let line := i.addr / 128
    let s := match s.lines.find? fun x => x.line = line && x.dirty with
      | some x => ((s.bookOp o [(.cwb, 1), (.line, 1)]).bookLine o.fn o.child line).cleanLine x
      | none => s
    if inv then ({ s with lines := s.lines.filter (·.line ≠ line) } : State).l1Drop o.core line else s
  | .remote => if bad || s.cutOff then (s.bookTrip o.fn o.child).logOp o i.va false else s.bookTrip o.fn o.child
  | _ => s

/-- The groups that touch the lanes given, performed in order; one that may not be holds back those behind it at its point. -/
def State.performGroups (id : Nat) (lanes : Mask) (bad : Bool) (s : State) : List (Item × List Nat) → List (Item × List Nat) → State
  | _, [] => s
  | held, (i, ls) :: rest =>
    match s.op? id with
    | none => s
    | some o =>
      if (ls.any fun l => lanes.getLsbD l) && s.groupReady o held i then
        let s := match o.kind with
          | .store => (s.loupeLanes o (o.undone.filter fun j => ls.contains j.lane) fun _ => false).performStore o i bad
          | .cwb inv => s.performCwb o inv i bad
          | _ => s
        State.performGroups id lanes bad (s.didLanes id ls) held rest
      else State.performGroups id lanes bad s (held ++ [(i, ls)]) rest

/-- Lanes of a store or CWB performed. -/
def State.performStores (s : State) (id : Nat) (lanes : Mask) (bad : Bool) : State :=
  match s.op? id with
  | none => s
  | some o => if o.kind.isStore || (match o.kind with | .cwb _ => true | _ => false)
      then State.performGroups id lanes bad s [] (storeGroups o.undone) else s

/-! ## Atomics (R190) -/

/-- Old values written to D. A scalar D takes the one lane's; with several lanes the manual states none: it takes a free value, with the
group of the lowest lane (notes/assumptions/96.md). -/
def State.deliverOld (s : State) (o : Op) (dst : Option Dst) (olds : List (Nat × Nat)) (bad : Bool) : State :=
  match dst with
  | none => s
  | some d =>
    if d.uniform ∧ o.items.length ≠ 1 then
      if olds.any fun p => o.items.all fun i => p.1 ≤ i.lane then s.deliverTo o d 0 (Config.scalarOld olds) bad else s
    else olds.foldl (fun s p => s.deliverTo o d p.1 (BitVec.ofNat 64 p.2) bad) s

/-- The event of a request performed at a home, at the slice's tile (R203). -/
def State.bookAtom (s : State) (o : Op) (i : Item) : State :=
  match i.space with
  | .mem => s.bookAtomAt o (s.homeOf i.addr)
  | .cscr _ => s.bookAtomAt o (i.addr / 2 ^ 24 % 64)
  | _ => s

/-- The group of an atomic whose lowest lane is given, performed as one indivisible operation; on a poisoned word it is not
performed, and its old values are poisoned; a poisoned operand, of a reduce-copy that was staged, poisons its target (R218). The
line leaves the core's first-level cache again, as another wave may have brought it in since (notes/assumptions/94.md). -/
def State.performAtomic (s : State) (id lane : Nat) (bad : Bool) : State :=
  match s.op? id with
  | none => s
  | some o =>
    match o.kind, o.undone.find? fun i => i.lane = lane with
    | .atom aop ty dst mode, some i =>
      let group := o.undone.filter fun j => j.space = i.space && j.addr = i.addr
      let earlier := (o.undone.filter fun j => j.lane < lane && !(j.space = i.space && j.addr = i.addr)).map fun j => (j, [j.lane])
      if (group.any fun j => j.lane < lane) || !s.groupReady o earlier i then s
      else
        let lanes := group.map (·.lane)
        let s := s.loupeLanes o group fun _ => false
        let s := match i.space with
          | .remote =>
            let (s, olds) := lanes.foldl (fun (acc : State × List (Nat × Nat)) l =>
              let (s, v) := acc.1.takeFree
              (s, acc.2 ++ [(l, v.toNat)])) (s.bookTrip o.fn o.child, [])
            let bad := bad || s.cutOff
            let s := if bad then s.logOp o i.va false else s
            s.deliverOld o dst olds bad
          | sp =>
            let s := (s.bookMoved o (fun _ => false) i).bookAtom o i
            let s := s.scrub o.fn sp i.addr i.bytes
            let r := s.fetchAt sp i.addr i.bytes
            let s := if sp = Space.mem then (s.touch o.fn o.child i.addr i.bytes false).l1Drop o.core (i.addr / 128) else s
            if r.2 then (s.logOp o (BitVec.ofNat 64 i.addr) true).deliverOld o dst (lanes.map fun l => (l, 0)) true
            else if group.any (·.bad) then
              ((s.poisonAt sp i.addr i.bytes).logOp o (BitVec.ofNat 64 i.addr) true).deliverOld o dst (lanes.map fun l => (l, 0)) true
            else
              let (run, olds) := applyLanes aop ty mode.toNat group (ofLe r.1)
              (s.storeAt o.fn sp i.addr (leBytes i.bytes run) (s.opRec o 0)).deliverOld o dst olds false
        s.didLanes id lanes
    | _, _ => s

end Sys2Proof.Machine
end

