-- ==== Sys2Proof/Machine/EvCombine.lean ====
section
/-! DEFINITION. Steps of the Chucks and executors: admission, batches, a batch's budget, and completion on the `cmb` path (R302, R303,
R305–R316). A step that is not due leaves the state as it is. -/
namespace Sys2Proof.Machine

/-! ## Admission (R307) -/

/-- Requests that hold entries of a Chuck: admitted, and in the batch that runs. -/
def State.chuckHeld (s : State) (c : Chuck) : List CombReq :=
  c.admitted ++ ((c.running.bind s.block?).bind (·.method)).elim [] (·.reqs)

/-- Whether a Chuck has room for a packet (R307). -/
def State.chuckRoom (s : State) (c : Chuck) (p : Packet) : Bool :=
  let held := s.chuckHeld c
  held.length + p.reqs.length ≤ 256 && (held.filter (·.fn = p.fn)).length + p.reqs.length ≤ 128

/-- The stamps of a local packet's requests, in a Loupe grid. -/
def State.loupePacket (s : State) (p : Packet) : State :=
  match s.op? p.id with
  | some o => s.loupeComb o p.oid (p.reqs.map (·.lane))
  | none => s

/-- A packet's requests admitted, or answered with status where the object is not valid, poisoned or being freed (R306, R316). -/
def State.takeIn (s : State) (slice : Nat) (p : Packet) : State :=
  match s.objOf p.fn p.oid with
  | some obj =>
    if obj.poisoned then (s.answerAll slice Fc.object p.reqs).countUE p.fn p.reqs.length
    else if obj.freeing then s.answerAll slice Fc.object p.reqs
    else
      let s := s.loupePacket p
      s.setChuck slice { s.chuck slice with admitted := (s.chuck slice).admitted ++ p.reqs }
  | none => s.answerAll slice Fc.object p.reqs

/-- Whether a packet may be the next of its function that reaches a slice: no earlier one from its core, its deterministic grid or its device
is still to reach it (R308, R319). -/
def Chuck.nextIn (c : Chuck) (p : Packet) : Bool :=
  (c.ingress.takeWhile (·.id ≠ p.id)).all fun q => !(q.fn = p.fn && q.srcs.any p.srcs.contains)

/-- COMB_PACKET_ADMIT: a packet on its way to a slice reaches it and is admitted whole (R307): packets of different sources reach it in any
order (R308, R442). A COMB that release from staging has left unsent is sent first, once its ordering lets it (R402). -/
def execCombPacketAdmit (s : State) : Host.Outcome State Fault Refusal :=
  let s := s.unfocus
  let slice := s.arg.cluster
  let c := s.chuck slice
  match c.ingress.find? (·.id = s.arg.op) with
  | none => .next (match s.op? s.arg.op with
      | some o => if s.sendable o then s.sendComb o.id else s
      | none => s)
  | some p =>
    if c.nextIn p ∧ s.chuckRoom c p then
      .next ((s.setChuck slice { c with ingress := c.ingress.filter (·.id ≠ p.id) }).takeIn slice p)
    else .next s

/-! ## Batches (R309, R311, R312) -/

/-- The method wave of a batch of n requests. -/
def methodWave (b : Block) (k : Kernel) (n : Nat) : Wave :=
  let owned := maskOf (List.range n)
  let sp : Split := { sid := 0, owned, exec := owned, pc := k.entry, uni := { mode := k.modeInit } }
  { wid := 0, width := 64, withdrawn := fullMask 64 &&& ~~~owned, share := k.demand, wanted := k.demand
    splits := [sp.sets .rseed (seedVals b 1 1 0 (fullMask 64) 0)] }

/-- BATCH_START: an idle executor takes a function in turn, its object with the oldest request, and up to 64 of that object's requests. -/
def execBatchStart (s : State) : Host.Outcome State Fault Refusal :=
  let s := s.unfocus
  let slice := s.arg.cluster
  let c := s.chuck slice
  let fn? := ((List.range 8).map fun i => (c.lastFn + 1 + i) % 8).find? fun f => c.admitted.any (·.fn = f)
  match (if c.running.isSome then none else fn?) with
  | none => .next s
  | some fn => match c.admitted.find? (·.fn = fn) with
    | none => .next s
    | some r => match s.obj? fn r.slot with
      | none => .next s
      | some o =>
        let reqs := (c.admitted.filter fun q => q.fn = fn && q.slot = r.slot).take 64
        let s := s.usePrint fn o.child o.kernel o.kernel.demand 1
        let u := s.meter fn slice [(.chuck, reqs.length)]
        let m : Method := { slice, fn, slot := r.slot, reqs, energy := u }
        let b : Block := { id := s.nextBlk, grid := 0, fn, child := o.child, index := 0, core := 384 + slice
                           baseShare := o.kernel.demand, method := some m }
        let b := { b with waves := [methodWave b o.kernel reqs.length] }
        let c := { c with admitted := c.admitted.filter fun q => !reqs.contains q, running := some b.id, lastFn := fn }
        .next (({ s with nextBlk := s.nextBlk + 1, blocks := s.blocks ++ [b] } : State).setChuck slice c)

/-- Whether a batch has issued its 4,096 instructions (R315). -/
def Block.spent (b : Block) : Bool := b.method.any fun m => 4096 ≤ m.issued

/-- METHOD_BUDGET_EXPIRY: the 4,097th instruction of a batch does not issue, and the batch aborts with cause METHOD. -/
def execMethodBudgetExpiry (s : State) : Host.Outcome State Fault Refusal :=
  let s := s.focus s.arg.blk 0 s.arg.sid
  match s.cur with
  | none => .next s
  | some c => match c.blk.method with
    | none => .next s
    | some m => .next (if c.blk.spent then s.batchAbort c.blk m Fc.method c.split.pc else s)

/-! ## Completion (R302, R303, R305, R306) -/

/-- The statuses that answer a request (R306). -/
def statusCodes : List Nat := [Fc.object, Fc.method, Fc.ecc]

/-- The answers of a packet that went to a window's target: what each request got is free, a reply or one of the statuses; OBJECT status
where the packet was answered with an error (R306, R433). -/
def State.remoteAnswers (s : State) (reqs : List CombReq) (error : Bool) : State :=
  let s := match reqs.head? with | some r => s.bookFlit r.fn r.child | none => s
  reqs.foldl (fun s r =>
    let (s, v) := s.takeFree
    let (s, ok) := s.takeFree
    if error || s.cutOff then s.answer r false (combStatus Fc.object)
    else if bit ok.toNat 0 then s.answer r false (combStatus (nth Fc.object statusCodes (v.toNat % 3)))
    else s.answer r true v) s

/-- A COMB's replies and statuses written to D and kN, with its acquire. -/
def State.finishComb (s : State) (o : Op) : State :=
  match o.kind with
  | .comb d k _ rep _ _ answers =>
    let s := answers.foldl (fun s a =>
      let v := if rep then a.2.2 else a.2.2 &&& 0xFFFFFFFF#64
      let s := match d with
        | some d => s.deliverTo o d a.1 v false
        | none => s
      s.deliverWord o (.mask k) a.1 (if a.2.1 then 1 else 0) false) s
    let s := if acqOrd o.ord then s.acquire o.core o.scopeOf else s
    (s.progress o.blk o.wid).complete o.id
  | _ => s

/-- Whether an object still has requests admitted or in a batch. -/
def State.objectBusy (s : State) (o : Obj) : Bool :=
  s.chucks.any fun e => (s.chuckHeld e.2).any fun r => r.fn = o.fn && r.slot = o.slot

/-- An entry of the table freed: its generation advances, 4,095 wrapping to 1, and its method's lines are unlocked. -/
def State.freeObject (s : State) (o : Obj) : State :=
  let key := 4096 * o.fn + o.slot
  ({ s with
    objs := s.objs.filter fun p => !(p.fn = o.fn && p.slot = o.slot)
    objGen := spSet 0 s.objGen key ((spGet 0 s.objGen key + 1) % 4095) } : State).unlock (objHolder o.fn o.slot)

/-- COMB_COMPLETE: an operation on the `cmb` path completes: a COMB whose lanes all have their answers, a CARG, an OBJREG, or an OBJFREE
whose object has no request left. -/
def execCombComplete (s : State) : Host.Outcome State Fault Refusal :=
  let s := s.unfocus
  match s.op? s.arg.op with
  | none => .next s
  | some o =>
    if o.complete || o.staged then .next s
    else match o.kind with
      | .comb _ _ oid _ reqs sent answers =>
        if answers.length = reqs.length then .next (s.finishComb o)
        else if sent ∧ idWin oid ≠ 0 ∧ answers.isEmpty then
          let s := s.remoteAnswers reqs s.arg.tag
          .next (match s.op? o.id with | some o => s.finishComb o | none => s)
        else .next s
      | .carg d =>
        let s := o.items.foldl (fun s i => match d with | some d => s.deliverTo o d i.lane i.data false | none => s) s
        .next (s.complete o.id)
      | .objreg d v => .next ((s.deliverTo o d 0 v false).complete o.id)
      | .objfree fn id => match s.objOf fn id with
        | none => .next (s.complete o.id)
        | some obj => .next (if s.objectBusy obj then s else (s.freeObject obj).complete o.id)
      | _ => .next s

end Sys2Proof.Machine
end

