-- ==== Sys2Proof/Machine/Scratch.lean ====
section
/-! DEFINITION. Scratchpad: LDS, STS, ATOMS, LDRS and STRS (opcodes 0x0B0–0x0B4, R180–R192, R258–R260). -/
namespace Sys2Proof.Machine

/-- A buffer, a lane offset and a constant or operand. -/
def specScr (d c : Option Slot) (dRead dWrite mOk : Bool) : Spec :=
  { d, a := some Slot.buf, b := some (Slot.data), c, dRead, dWrite, notScalar := true, mOk }

/-- Number of the buffer an operand names. -/
def Opnd.symNum : Opnd → Nat
  | .sym n => n
  | _ => 0

/-- ScratchRel by lane (R182); without a constant for ATOMS, whose C is its operand. -/
def Ctx.rels (x : Ctx) (sp : Split) (const : Bool) (lanes : List Nat) : List (Nat × Nat) :=
  lanes.map fun i => (i, x.vB sp i % 2 ^ 32 + (if const then x.vC sp i % 2 ^ 32 else 0))

/-- An operation on a scratchpad. -/
def scrOp (x : Ctx) (kind : OpKind) (items : List Item) (scope : Nat) : Op :=
  { id := 0, blk := 0, wid := 0, sid := 0, fn := 0, child := 0, core := 0, path := 3, kind, items
    ord := Mod.ord x.m, scope := if Mod.scope x.m = 0 then scope else Mod.scope x.m }

/-- A load from a block's copy of a buffer; `member` is that of LDRS. -/
def scrLoad (blk m scope : Nat) (ev : Nat → Ev) (s : State) (c : Cur) (x : Ctx) : Res :=
  let lanes := if x.d.isScal then x.lanes.take 1 else x.lanes
  let n := mtBytes (Mod.mtype x.m)
  let buf := x.a.symNum
  let rels := x.rels c.split true lanes
  withScratch s c blk buf m n false rels <|
    if s.pathFull c 3 then .hold
    else
      let items := rels.map fun p => ({ lane := p.1, space := .scr blk buf, addr := p.2, bytes := n } : Item)
      .done (s.addOp (scrOp x (.load (Mod.mtype x.m) (dstOf x.d x.dWide)) items scope)) [(ev (8 * n), x.lanes.length)]

/-- A store to a block's copy of a buffer. -/
def scrStore (blk m scope : Nat) (ev : Nat → Ev) (s : State) (c : Cur) (x : Ctx) : Res :=
  let lanes := if x.d.uniform && x.b.uniform then x.lanes.take 1 else x.lanes
  let n := mtBytes (Mod.mtype x.m)
  let buf := x.a.symNum
  let rels := x.rels c.split true lanes
  withScratch s c blk buf m n true rels <|
    if s.pathFull c 3 then .hold
    else
      let items := rels.map fun p => ({ lane := p.1, space := .scr blk buf, addr := p.2, bytes := n
                                        data := BitVec.ofNat 64 (x.vD c.split p.1 % 2 ^ (8 * n)) } : Item)
      .done (s.addOp (scrOp x .store items scope)) [(ev (8 * n), x.lanes.length)]

/-! ## LDS, STS and ATOMS (R192) -/

def specLds (m : Nat) : Spec :=
  specScr (some (Slot.dst (mtWide (Mod.mtype m)))) (some Slot.const) false true (mFields m mtAll ordLd scopeScr [0] [0])

/-- The load of every active lane. -/
def bodyLds (s : State) (c : Cur) (x : Ctx) : Res :=
  if x.lanes.isEmpty then .done s [] else scrLoad c.blk.id 0 2 .sload s c x

/-- LDS (R192). -/
def execLds (f : Form) (s : State) : Host.Outcome State Fault Refusal := s.issueOp 0x0B0 f specLds bodyLds

def specSts (m : Nat) : Spec :=
  specScr (some (Slot.data (mtWide (Mod.mtype m)))) (some Slot.const) true false (mFields m mtAll ordSt scopeScr [0] [0])

/-- The store of every active lane. -/
def bodySts (s : State) (c : Cur) (x : Ctx) : Res :=
  if x.lanes.isEmpty then .done s [] else scrStore c.blk.id 0 2 .sstore s c x

/-- STS (R192). -/
def execSts (f : Form) (s : State) : Host.Outcome State Fault Refusal := s.issueOp 0x0B1 f specSts bodySts

def specAtoms (m : Nat) : Spec :=
  let w := mtWide (Mod.mtype m)
  specScr (some (Slot.dst w)) (some (Slot.data w)) (Mod.sub m = 7) true
    (mFields m mtAtom ordAny scopeScr [0] [0, 1, 2, 3, 4, 5, 6, 7] && (atomOk (Mod.mtype m) (Mod.sub m)))

/-- The atomic of every active lane. -/
def bodyAtoms (s : State) (c : Cur) (x : Ctx) : Res :=
  if x.lanes.isEmpty then .done s []
  else
    let n := mtBytes (Mod.mtype x.m)
    let buf := x.a.symNum
    let rels := x.rels c.split false x.lanes
    withScratch s c c.blk.id buf 0 n true rels <|
      if s.pathFull c 3 then .hold
      else
        let items := rels.map fun p => ({ lane := p.1, space := .scr c.blk.id buf, addr := p.2, bytes := n
                                          data := BitVec.ofNat 64 (x.vC c.split p.1)
                                          expected := BitVec.ofNat 64 (x.vD c.split p.1) } : Item)
        .done (s.addOp (scrOp x (.atom (Mod.sub x.m) (Mod.mtype x.m) (dstOf x.d x.dWide) (BitVec.ofNat 32 x.mode)) items 2))
          [(.satom (8 * n), x.lanes.length)]

/-- ATOMS (R190, R192). -/
def execAtoms (f : Form) (s : State) : Host.Outcome State Fault Refusal := s.issueOp 0x0B2 f specAtoms bodyAtoms

/-! ## LDRS and STRS (R258–R260) -/

/-- The block that is member m of a block's gang. -/
def State.memberOf (s : State) (b : Block) (m : Nat) : Option Block :=
  if b.index % s.gangSize b = m then some b
  else s.blocks.find? fun x => x.id ≠ b.id && s.inGang b x && x.index % s.gangSize b = m

def specLdrs (m : Nat) : Spec :=
  specScr (some (Slot.dst (mtWide (Mod.mtype m)))) (some Slot.const) false true
    (mFields m mtAll ordLd [0, 3] [0] [0, 1, 2, 3, 4, 5, 6, 7])

def specStrs (m : Nat) : Spec :=
  specScr (some (Slot.data (mtWide (Mod.mtype m)))) (some Slot.const) true false
    (mFields m mtAll ordSt [0, 3] [0] [0, 1, 2, 3, 4, 5, 6, 7])

/-- GANG_RANGE, then the access to the member's scratchpad. -/
def gangAccess (f : Nat → Nat → State → Cur → Ctx → Res) (s : State) (c : Cur) (x : Ctx) : Res :=
  let m := Mod.sub x.m
  if x.lanes.isEmpty then .done s []
  else if s.gangSize c.blk ≤ m then .fault Fc.gangRange m
  else f ((s.memberOf c.blk m).getD c.blk).id m s c x

/-- LDRS (R259). -/
def execLdrs (f : Form) (s : State) : Host.Outcome State Fault Refusal :=
  s.issueOp 0x0B3 f specLdrs (gangAccess fun blk m => scrLoad blk m 3 .rload)

/-- STRS (R259). -/
def execStrs (f : Form) (s : State) : Host.Outcome State Fault Refusal :=
  s.issueOp 0x0B4 f specStrs (gangAccess fun blk m => scrStore blk m 3 .rstore)

end Sys2Proof.Machine
end

