-- ==== Sys2Proof/Machine/Heavy.lean ====
section
/-! DEFINITION. Jobs and Lathe operations as the scheduler, the arbiter and memory see them: footprints and edges (R224–R226),
reservations (R175, R272), the translation of global ranges (R222), and their reads and writes of global memory (R213, R223,
R400, R403). -/
namespace Sys2Proof.Machine

/-! ## Footprints and edges -/

/-- Two ranges overlap. -/
def FpRange.meets (a b : FpRange) : Bool :=
  a.space = b.space && a.start < b.start + b.len && b.start < a.start + a.len && a.len ≠ 0 && b.len ≠ 0

/-- Whether a later operation must wait for an earlier one (R226). -/
def Op.edge (e l : Op) : Bool :=
  (e.writes.any fun x => l.reads.any x.meets) || (e.reads.any fun x => l.writes.any x.meets) ||
  (e.writes.any fun x => l.writes.any x.meets)

/-- The kinds that take edges: cards, and the Lathe's operations. -/
def OpKind.isLathe : OpKind → Bool
  | .mma _ _ _ _ => true
  | .accz _ => true
  | .accld _ _ _ _ _ _ => true
  | .accst _ _ _ _ _ _ _ => true
  | _ => false

def OpKind.isCard : OpKind → Bool
  | .job _ => true
  | _ => false

/-- Whether every edge of an operation is met. -/
def State.edgesMet (s : State) (l : Op) : Bool :=
  s.ops.all fun e => !(e.blk = l.blk && e.id < l.id && !e.complete && (e.kind.isLathe || e.kind.isCard) && e.edge l)

/-- Operations whose edges are met from now on are released, in their order. -/
def State.release (s : State) : State :=
  { s with ops := s.ops.map fun o =>
      if (o.kind.isLathe || o.kind.isCard) && o.released.isNone && s.edgesMet o then
        { o with released := some (o.id + s.nextOp * (1 + s.ops.foldl (fun n p => max n (p.released.getD 0)) 0)) }
      else o }

/-- A range of a block's scratchpad, from a buffer and an offset. -/
def State.scrRange (s : State) (blk buf off len : Nat) : FpRange := ⟨.scr blk 0, s.bufOff blk buf + off, len⟩

/-- An accumulator tile. -/
def tileRange (t : Nat) : FpRange := ⟨.tile, t, 1⟩

/-- A range of virtual bytes. -/
def globalRange (va len : Nat) : FpRange := ⟨.mem, va, len⟩

/-! ## Reservations (R272) -/

/-- The rate class of a pair of formats: 4, 8 or 16, or none where MMA does not accept the pair (R210). -/
def kstepOf (fa fb : Nat) : Option Nat :=
  let mx := fun f => 12 ≤ f && f ≤ 17
  if fa = 16 ∧ fb = 16 then some 4
  else if mx fa ∧ mx fb then some 8
  else if fa = fb ∧ (fa = 10 ∨ fa = 11) then some 16
  else none

/-- FMT, ROLE, KBM1 and the buffers of a descriptor (R207). -/
def TileDesc.valid (d : TileDesc) : Bool := bit d.w0.toNat 31
def TileDesc.role (d : TileDesc) : Bool := bit d.w0.toNat 30
def TileDesc.fmt (d : TileDesc) : Nat := fld d.w0.toNat 29 25
def TileDesc.kb (d : TileDesc) : Nat := fld d.w0.toNat 24 22 + 1
def TileDesc.dbuf (d : TileDesc) : Nat := fld d.w1.toNat 31 16
def TileDesc.sbuf (d : TileDesc) : Nat := fld d.w1.toNat 15 0
def TileDesc.rows (d : TileDesc) : Nat := if d.role then 128 else 96

/-- Block bytes of a format (R208). -/
def blockBytes (fmt : Nat) : Nat := if fmt = 10 ∨ fmt = 11 then 64 else if fmt = 16 then 16 else if fmt = 14 ∨ fmt = 15 then 24 else 32

/-- Units an operation reserves. -/
def OpKind.units : OpKind → Nat
  | .mma _ da db _ => match kstepOf da.fmt db.fmt with
    | some 4 => 340
    | some 8 => 300
    | _ => 220
  | .job _ => 30
  | _ => 60

/-- An operation asks its cluster for current (R175). -/
def State.ask (s : State) (o : Op) : State :=
  (s.request (o.core / 8) (.op o.id) o.kind.units).mapOp o.id fun o => { o with stage := 1 }

/-- Its reservation ends with it, in the cluster that gave it (R272). -/
def State.giveBack (s : State) (o : Op) : State :=
  let has := fun (l : List (CurrentOwner × Nat)) => l.any (·.1 = .op o.id)
  match s.clusters.find? fun e => has e.2.held || has e.2.queue with
  | none => s
  | some (cl, k) =>
    s.setCluster cl { k with held := k.held.filter (·.1 ≠ .op o.id), queue := k.queue.filter (·.1 ≠ .op o.id) }

/-- Whether a FENCE.job of its wave keeps a card or an MMA from starting: operations before the fence are not complete (R196). -/
def State.jobFenced (s : State) (o : Op) : Bool :=
  match (s.blockOf o.blk).bind fun b => b.waves.find? (·.wid = o.wid) with
  | none => false
  | some w => (o.kind.isCard || (match o.kind with | .mma _ _ _ _ => true | _ => false)) && w.jobFences.any fun f => f.2 ≤ o.id &&
      s.ops.any fun p => p.blk = o.blk && p.wid = o.wid && p.kind.isHeavy && !p.complete && p.id < f.2

/-- Lists whose cards are all complete, or all have nothing left but writes that staging holds (R206, R407). -/
def State.listsWhere (s : State) (p : Op → Bool) : List Nat :=
  s.ops.filterMap fun l => match l.kind with
    | .jobList cards => if !l.complete && (cards.all fun id => !(s.ops.any fun c => c.id = id && !p c)) then some l.id else none
    | _ => none

/-- A list all of whose cards are done with, while staging holds writes of one, is done with too (R407). -/
def State.markLists (s : State) : State :=
  (s.listsWhere fun c => c.complete || c.worked).foldl (fun s id => s.mapOp id fun l => { l with worked := true }) s

/-- A job or Lathe operation completes, and a list with its last card (R206). -/
def State.completeHeavy (s : State) (o : Op) : State :=
  let s := (s.giveBack o).complete o.id
  ((s.listsWhere (·.complete)).foldl State.complete s).markLists.release

/-! ## Global ranges -/

/-- The first byte of a range that fails the range step, with its code (R183, R222, R429). The status changes only at multiples of
64 KiB. -/
def State.rangeScan (s : State) (b : Block) : Nat → Nat → Nat → Option (Nat × Nat)
  | 0, _, _ => none
  | fuel + 1, va, stop =>
    if stop ≤ va then none
    else match s.rangeFault b va 1 with
      | some code => some (va, code)
      | none =>
        if va < 0xE000000000000 ∧ stop ≤ 0xE000000000000 then none
        else s.rangeScan b fuel ((va / 65536 + 1) * 65536) stop

/-- Translates a range page by page: the leaves used, or the first byte that fails. -/
def State.translateRange (s : State) (b : Block) (need : BitVec 3) (locks : Bool) :
    Nat → Nat → Nat → State × Except (Nat × AddrErr) (List (Nat × Nat × Nat))
  | 0, _, _ => (s, .ok [])
  | fuel + 1, va, stop =>
    if stop ≤ va then (s, .ok [])
    else match s.route b.fn va with
      | .error code => (s, .error (va, .range code))
      | .ok .table => match s.leafOf b.core b.fn b.child va with
        | (s, .error x) => (s, .error (va, .xlate x))
        | (s, .ok l) =>
          let pa := l.pa + (va - l.va)
          if l.perm &&& need ≠ need ∨ (locks ∧ s.locks.any fun k => pa / 65536 ≤ k.1 ∧ k.1 ≤ (l.pa + min (stop - l.va) l.size - 1) / 65536)
          then (s, .error (va, .perm))
          else match s.translateRange b need locks fuel (l.va + l.size) stop with
            | (s, .ok r) => (s, .ok ((l.va, l.size, l.pa) :: r))
            | r => r
      | .ok _ => s.translateRange b need locks fuel ((va / 65536 + 1) * 65536) stop

/-- Pages a range can have, for the recursion. -/
def pagesOf (va stop : Nat) : Nat := (stop - va) / 65536 + 2

/-- The place of a byte under the translations an operation keeps. -/
def State.placeIn (s : State) (fn : Nat) (pages : List (Nat × Nat × Nat)) (va : Nat) : Option (Space × Nat) :=
  match pages.find? fun p => p.1 ≤ va && va < p.1 + p.2.1 with
  | some p => some (.mem, p.2.2 + (va - p.1))
  | none => match s.route fn va with
    | .ok (.scratch key) => some (.cscr fn, key)
    | .ok (.window _) => some (.remote, va)
    | _ => none

/-- Rows of global bytes as items, by the places an operation keeps. -/
def State.rowItems (s : State) (o : Op) (pages : List (Nat × Nat × Nat)) (rows : List (Nat × Nat)) : List Item :=
  rows.flatMap fun r => (parts r.1 r.2).filterMap fun p => (s.placeIn o.fn pages p.1).map fun q =>
    ({ lane := 0, space := q.1, addr := q.2, bytes := p.2, va := BitVec.ofNat 64 p.1 } : Item)

/-- An operation that is issued before its block's turn, with the entries that its rows of writes will make in staging; none where they must
wait for the turn, at the instruction that issues it (R401). -/
def State.staging (s : State) (b : Block) (rows : List (Nat × Nat)) (pages : List (Nat × Nat × Nat)) (o : Op) : Op × List (Space × Nat) :=
  if !s.ahead b then (o, [])
  else
    let l := (s.rowItems { o with fn := b.fn } pages rows).flatMap Item.lines
    ({ o with entries := l.length }, l)

/-- Whether an access of an operation to a range is held, as the home mode of a granule there is being changed (R280). -/
def State.flipsIn (s : State) (o : Op) (pages : List (Nat × Nat × Nat)) (va n : Nat) : Bool :=
  !s.flipping.isEmpty && (s.rowItems o pages [(va, n)]).any fun i => i.space = .mem && s.flips i.addr

/-- Bytes read at a virtual address for an operation: memory at the home (R223), with what the block has staged over it (R403). A
remote word is a free value, and so is whether the device answered with an error (R433). -/
def State.readGlobal (s : State) (o : Op) (pages : List (Nat × Nat × Nat)) (va n : Nat) : State × List Byte × Bool :=
  (parts va n).foldl (fun (acc : State × List Byte × Bool) p =>
    let (s, bs, bad) := acc
    match s.placeIn o.fn pages p.1 with
    | none => (s, bs ++ List.replicate p.2 0, true)
    | some (.remote, _) =>
      let (s, v) := (s.bookTrip o.fn o.child).takeFree
      let (s, e) := s.takeFree
      let r := s.overlay o { lane := 0, space := .remote, addr := p.1, bytes := p.2 } (leBytes p.2 v.toNat) (bit e.toNat 0 || s.cutOff)
      (r.1, bs ++ r.2.1, bad || r.2.2)
    | some (sp, a) =>
      let t := s.scrub o.fn sp a p.2
      let t := if sp = .mem then t.touch o.fn o.child a p.2 false else t
      let t := if o.pol = 3 then t.evictFirst s a p.2 else t
      let r := t.fetchAt sp a p.2
      let r := t.overlay o { lane := 0, space := sp, addr := a, bytes := p.2 } r.1 r.2
      (r.1, bs ++ r.2.1, bad || r.2.2)) (s, [], false)

/-- A write of an operation as an operation of its own: an entry of staging, behind what its wave has staged before it, or sent. -/
def State.childWrite (s : State) (o : Op) (atom : Option (Nat × Nat × Word)) (staged : Bool) (i : Item) : State :=
  let kind := match atom with
    | some (aop, ty, mode) => OpKind.atom aop ty none mode
    | none => .store
  let s := if staged then s.portBefore o.blk o.wid o.id else s
  { s with
    nextOp := s.nextOp + 1
    ops := s.ops ++ [{ o with id := s.nextOp, sids := [], path := 7, kind, items := [i], ord := 0, scope := 5, pol := max 2 o.pol
                              donePart := 0, stage := 0, moved := 0, prog := [], worked := false, reads := [], writes := []
                              staged, entries := 0, port := if staged then s.nextPort o.blk else 0, parent := some o.id
                              released := none }] }

/-- Whether a write of a deterministic block waits for one of the block's that is still to be performed at bytes of it (R402). -/
def State.writeBehind (s : State) (o : Op) (i : Item) : Bool :=
  ((s.blockOf o.blk).any fun b => (s.kernelOf b).det) &&
  s.ops.any fun p => p.blk = o.blk && (p.kind.isStore || p.kind.isAtom) && p.undone.any fun j => j.meets i

/-- A write of an operation: performed at the home, where it updates the core's first-level copy (R223); staged as an entry of its own while
the block is not at the turn (R400); or sent behind the block's earlier writes to those bytes. `atom` gives the operation of a
reduce-copy. -/
def State.writeItem (s : State) (o : Op) (atom : Option (Nat × Nat × Word)) (ahead : Bool) (i : Item) : State :=
  if ahead || s.writeBehind o i then s.childWrite o atom ahead i
  else match i.space, atom with
    | .remote, _ =>
      let (s, e) := (s.bookTrip o.fn o.child).takeFree
      if bit e.toNat 0 || s.cutOff then s.logOp o i.va false else s
    | sp, none =>
      let bs := leBytes i.bytes i.data.toNat
      let t := s.storeAt o.fn sp i.addr bs (s.opRec o 0)
      let t := if o.pol = 3 then t.evictFirst s i.addr i.bytes else t
      let t := if i.bad then t.poisonAt sp i.addr i.bytes else t
      if sp = .mem then (t.l1Store o.core i.addr bs i.bad).l1Redo o.core (fun _ => true) (i.addr / 128) else t
    | sp, some (aop, ty, mode) =>
      let s := (s.bookAtom o i).scrub o.fn sp i.addr i.bytes
      if i.bad then (s.poisonAt sp i.addr i.bytes).logOp o (BitVec.ofNat 64 i.addr) true
      else
        let r := s.fetchAt sp i.addr i.bytes
        if r.2 then s.logOp o (BitVec.ofNat 64 i.addr) true
        else
          let v := atomicOp aop ty mode.toNat (ofLe r.1) i.data.toNat 0
          let s := s.storeAt o.fn sp i.addr (leBytes i.bytes v) (s.opRec o 0)
          if sp = .mem then s.l1Drop o.core (i.addr / 128) else s

/-- Bytes written at a virtual address for an operation. -/
def State.writeGlobal (s : State) (o : Op) (pages : List (Nat × Nat × Nat)) (atom : Option (Nat × Nat × Word)) (ahead : Bool)
    (va : Nat) (bs : List Byte) (bad : Bool) : State :=
  (parts va bs.length).foldl (fun s p =>
    match s.placeIn o.fn pages p.1 with
    | none => s
    | some (sp, a) => s.writeItem o atom ahead { lane := 0, space := sp, addr := a, bytes := p.2, va := BitVec.ofNat 64 p.1
                                                 data := BitVec.ofNat 64 (ofLe ((bs.drop (p.1 - va)).take p.2)), bad }) s

/-- Whether a deterministic block that an operation belongs to is still short of its turn. -/
def State.opAhead (s : State) (o : Op) : Bool := ((s.blockOf o.blk).map s.ahead).getD false

/-- Whether a change of the state poisons what a scratchpad load or an ACCRD that has issued is still to read: it comes after that read,
which had found no poison as it issued (R177, R192; notes/assumptions/93.md). -/
def State.spoils (s t : State) : Bool :=
  s.ops.any fun o => o.undone.any fun i => match i.space, o.kind with
    | .scr _ _, .load _ _ => !(s.fetchAt i.space i.addr i.bytes).2 && (t.fetchAt i.space i.addr i.bytes).2
    | .tile, .accrd _ _ =>
      let bad := fun (u : State) => (u.blockOf o.blk).any fun b => spGet false b.tilePoison i.addr
      !bad s && bad t
    | _, _ => false

/-- Whether staged writes of an operation are still to be performed. -/
def State.ownStaged (s : State) (o : Op) : Bool := s.ops.any fun e => e.parent = some o.id && !e.complete

end Sys2Proof.Machine
end

