-- ==== Sys2Proof/Machine/Lathe.lean ====
section
/-! DEFINITION. Tile descriptors and the Lathe: TDSET, TDGET, MMA, ACCZ, ACCRD, ACCWR, ACCLD and ACCST (opcodes 0x0D0–0x0D7,
R204–R215, R229). -/
namespace Sys2Proof.Machine

/-! ## Operands -/

/-- Number of the descriptor or tile an operand names. -/
def Opnd.unitNum : Opnd → Nat
  | .td n => n
  | .acc n => n
  | _ => 0

/-- A tile descriptor as the split reads it. -/
def Split.desc (sp : Split) (n : Nat) : TileDesc :=
  let v := sp.read (.td n) 0
  ⟨v.setWidth 32, (v >>> 32).setWidth 32⟩

/-- An operation of the Lathe or the job engine, before it is issued. -/
def heavyOp (path : Nat) (kind : OpKind) (reads writes : List FpRange) : Op :=
  { id := 0, blk := 0, wid := 0, sid := 0, fn := 0, child := 0, core := 0, path, kind, reads, writes }

/-- An operation received by the block's scheduler (R224). -/
def State.receive (s : State) (o : Op) : State := (s.addOp o).release

/-- OPERAND_CLASS of an operand in a position. -/
def classFault (o : Opnd) (pos : Nat) : Res := .fault Fc.operandClass (classInfo o.desc pos)

/-! ## TDSET and TDGET (R207–R209) -/

/-- FMT and ROLE of TDSET's modifier. -/
def tdFmt (m : Nat) : Nat := Mod.type m
def tdRole (m : Nat) : Bool := bit m 9

def specTdset (m : Nat) : Spec :=
  { d := some Slot.td, a := some Slot.buf, b := some { kinds := [.buf, .zero] }, c := some (Slot.uni), wave := true, selNever := true
    mOk := 10 ≤ tdFmt m && tdFmt m ≤ 17 && m % 2 ^ 9 = 0 }

/-- The two words of a descriptor as one value. -/
def descValue (role : Bool) (fmt kb data scale : Nat) : Nat :=
  2 ^ 31 + b2n role * 2 ^ 30 + fmt * 2 ^ 25 + (kb - 1) * 2 ^ 22 + (data * 2 ^ 16 + scale) * 2 ^ 32

/-- The checks of R208 in their order, and the descriptor. -/
def bodyTdset (s : State) (c : Cur) (x : Ctx) : Res :=
  let fmt := tdFmt x.m
  let mx := decide (12 ≤ fmt)
  let kb := if x.c = .zero then 1 else x.vC c.split 0 % 2 ^ 32
  let isBuf := match x.b with | .sym _ => true | _ => false
  let bufs := (s.kernelOf c.blk).bufs
  let data := x.a.symNum
  let scale := x.b.symNum
  let rows := if tdRole x.m then 128 else 96
  let need := rows * kb * blockBytes fmt
  let bad := fun buf off => Res.fault Fc.access (memInfo 0 false true 0 (scrAddr buf off))
  if kb < 1 ∨ 8 < kb then classFault x.c 3
  else if isBuf ≠ mx then classFault x.b 2
  else if ((bufs[data]?).map (·.align)).getD 0 < 128 ∨ ((bufs[data]?).map (·.size)).getD 0 < need then bad data need
  else if mx ∧ ((bufs[scale]?).map (·.size)).getD 0 < rows * kb then bad scale (rows * kb)
  else if s.pathFull c 5 then .hold
  else
    let v := descValue (tdRole x.m) fmt kb data (if mx then scale else 0xFFFF)
    let s := { s with cur := some { c with split := c.split.land (.td x.d.unitNum) [(0, BitVec.ofNat 64 v)] } }
    .done (s.addOp { heavyOp 5 .instant [] [] with complete := true }).retire [(.td, 1)]

/-- TDSET (R208). -/
def execTdset (f : Form) (s : State) : Host.Outcome State Fault Refusal := s.issueOp 0x0D0 f specTdset bodyTdset

def specTdget (m : Nat) : Spec :=
  { d := some { kinds := [.scal] }, a := some Slot.td, wave := true, selNever := true, noBase := true, mOk := Mod.own m ≤ 1, lat := 2 }

/-- One word of a descriptor. -/
def bodyTdget (s : State) (c : Cur) (x : Ctx) : Res :=
  let d := c.split.desc x.a.unitNum
  doneWith s c (c.split.result x.d false [(0, (if Mod.own x.m = 1 then d.w1 else d.w0).toNat)] x.lat) [(.td, 1)]

/-- TDGET (R209). -/
def execTdget (f : Form) (s : State) : Host.Outcome State Fault Refusal := s.issueOp 0x0D1 f specTdget bodyTdget

/-! ## MMA (R105, R210–R212) -/

def specMma (m : Nat) : Spec :=
  { d := some Slot.acc, a := some Slot.td, b := some Slot.td, dRead := true, wave := true, selNever := true, noBase := true, mOk := Mod.own m = 0 }

/-- The scratchpad ranges that a descriptor names (R211). -/
def State.descRanges (s : State) (blk : Nat) (d : TileDesc) : List FpRange :=
  s.scrRange blk d.dbuf 0 (d.rows * d.kb * blockBytes d.fmt) ::
    (if 12 ≤ d.fmt then [s.scrRange blk d.sbuf 0 (d.rows * d.kb)] else [])

/-- The event of an MMA's k-steps. -/
def kstepEv (rate : Nat) : Ev := if rate = 4 then .kstep4 else if rate = 8 then .kstep8 else .kstep16

/-- The checks of R210, and the operation with both descriptors and MODE captured. -/
def bodyMma (s : State) (c : Cur) (x : Ctx) : Res :=
  let da := c.split.desc x.a.unitNum
  let db := c.split.desc x.b.unitNum
  let t := x.d.unitNum
  match kstepOf da.fmt db.fmt with
  | none => classFault x.b 2
  | some rate =>
    if !da.valid || !db.valid || da.role || !db.role || da.kb ≠ db.kb then classFault x.b 2
    else if s.pathFull c 5 then .hold
    else
      let o := heavyOp 5 (.mma t da db (BitVec.ofNat 32 x.mode))
        (tileRange t :: (s.descRanges c.blk.id da ++ s.descRanges c.blk.id db)) [tileRange t]
      .done (s.receive o) [(kstepEv rate, 32 * da.kb)]

/-- MMA (R212). -/
def execMma (f : Form) (s : State) : Host.Outcome State Fault Refusal := s.issueOp 0x0D2 f specMma bodyMma

/-! ## ACCZ (R213) -/

def specAccz (m : Nat) : Spec :=
  { d := some Slot.acc, wave := true, selNever := true, noBase := true, mOk := Mod.own m = 0 }

/-- The clearing of a tile. -/
def bodyAccz (s : State) (c : Cur) (x : Ctx) : Res :=
  if s.pathFull c 5 then .hold
  else .done (s.receive (heavyOp 5 (.accz x.d.unitNum) [] [tileRange x.d.unitNum])) [(.acctile, 1)]

/-- ACCZ (R213). -/
def execAccz (f : Form) (s : State) : Host.Outcome State Fault Refusal := s.issueOp 0x0D3 f specAccz bodyAccz

/-! ## ACCRD and ACCWR (R214, R215) -/

/-- Row and column of each active lane: 32-bit unsigned. -/
def Ctx.elems (x : Ctx) (sp : Split) : List (Nat × Nat × Nat) :=
  let b := x.vB sp 0 % 2 ^ 32
  let c := x.vC sp 0 % 2 ^ 32
  x.lanes.map fun i => if Mod.own x.m = 1 then (i, (b + i) % 2 ^ 32, c) else (i, b, (c + i) % 2 ^ 32)

/-- TRAP_INFO of an element outside the tile. -/
def elemInfo (lane : Nat) (wr : Bool) (t r c : Nat) : Nat :=
  memInfo lane wr false 0 (t * 2 ^ 32 + min r 0xFFFF * 2 ^ 16 + min c 0xFFFF)

/-- Key of an element in a block's tiles (R166). -/
def elemKey (t r c : Nat) : Nat := 12288 * t + 128 * r + c

/-- The operation of an access to elements, by lane. -/
def accOp (kind : OpKind) (t : Nat) (l : List (Nat × Nat × Nat)) (data : Nat → Dword) : Op :=
  { heavyOp 5 kind [] [] with
    items := l.map fun p => ({ lane := p.1, space := .tile, addr := elemKey t p.2.1 p.2.2, bytes := 4, data := data p.1 } : Item) }

def specAccrd (m : Nat) : Spec :=
  { d := some { kinds := [.vec, .orf] }, a := some Slot.acc, b := some (Slot.uni), c := some (Slot.uni), notScalar := true
    noBase := true, mOk := Mod.own m ≤ 1 }

/-- A read of one element per active lane. A poisoned one faults. -/
def bodyAccrd (s : State) (c : Cur) (x : Ctx) : Res :=
  let t := x.a.unitNum
  let l := x.elems c.split
  if l.isEmpty then .done s []
  else match l.find? fun p => 96 ≤ p.2.1 || 128 ≤ p.2.2 with
    | some p => .fault Fc.access (elemInfo p.1 false t p.2.1 p.2.2)
    | none => match l.find? fun p => spGet false c.blk.tilePoison (elemKey t p.2.1 p.2.2) with
      | some p => .fault Fc.ecc (p.1 * 2 ^ 16 + x.a.desc)
      | none =>
        if s.pathFull c 5 then .hold
        else .done (s.addOp (accOp (.accrd t (dstOf x.d false)) t l fun _ => 0)) [(.accrw, l.length)]

/-- ACCRD (R214). -/
def execAccrd (f : Form) (s : State) : Host.Outcome State Fault Refusal := s.issueOp 0x0D4 f specAccrd bodyAccrd

def specAccwr (m : Nat) : Spec :=
  { d := some Slot.acc, a := some { kinds := [.vec, .orf] }, b := some (Slot.uni), c := some (Slot.uni), dWrite := false
    notScalar := true, noBase := true, mOk := Mod.own m ≤ 1 }

/-- A write of one element per active lane; the data is read at issue (R206). -/
def bodyAccwr (s : State) (c : Cur) (x : Ctx) : Res :=
  let t := x.d.unitNum
  let l := x.elems c.split
  if l.isEmpty then .done s []
  else match l.find? fun p => 96 ≤ p.2.1 || 128 ≤ p.2.2 with
    | some p => .fault Fc.access (elemInfo p.1 true t p.2.1 p.2.2)
    | none =>
      if s.pathFull c 5 then .hold
      else .done (s.addOp (accOp (.accwr t) t l fun i => BitVec.ofNat 64 (x.vA c.split i))) [(.accrw, l.length)]

/-- ACCWR (R214). -/
def execAccwr (f : Form) (s : State) : Host.Outcome State Fault Refusal := s.issueOp 0x0D5 f specAccwr bodyAccwr

/-! ## ACCLD and ACCST (R213, R222) -/

/-- Bytes of an element of ACCLD and ACCST. -/
def accBytes (ty : Nat) : Nat := if ty = 10 ∨ ty = 11 then 2 else 4

/-- The base and a pitch; `rnd` says whether RND may be set. -/
def specAccMem (rnd : Bool) (m : Nat) : Spec :=
  { d := some Slot.acc, a := some Slot.pair, b := some (Slot.uni), dRead := rnd, dWrite := !rnd, wave := true, selNever := true
    noBase := true
    mOk := [0, 9, 10, 11].contains (Mod.type m) && (if rnd then Mod.rnd m ≤ 4 else Mod.rnd m = 0) &&
      [0, 2, 3].contains (Mod.pol m) && fld m 6 5 = 0 && fld m 2 0 = 0 }

/-- The lines of a matrix of rows, counted row by row: for `jline` as R229 says, and for `accline`, where the manual leaves open whether a
line that two rows share counts twice, in the same way (DESIGN CHOICE, notes/assumptions/102.md). -/
def rowLines (base rows pitch width : Nat) : Nat := sumBy (fun r => (linesIn (base + r * pitch) width).length) (List.range rows)

/-- The checks, translation and issue of ACCLD or ACCST. -/
def accMem (wr : Bool) (kind : Nat → Dword → Nat → Word → List (Nat × Nat × Nat) → OpKind) (s : State) (c : Cur) (x : Ctx) : Res :=
  let e := accBytes (Mod.type x.m)
  let a := x.vA c.split 0
  let b := x.vB c.split 0 % 2 ^ 32
  let len := 95 * b + 128 * e
  let t := x.d.unitNum
  if a % e ≠ 0 then .fault Fc.align (memInfo 0 wr false 0 a)
  else if b % e ≠ 0 then .fault Fc.align (memInfo 0 wr false 1 b)
  else match s.rangeScan c.blk (pagesOf a (a + len)) a (a + len) with
    | some (va, code) => .fault code (memInfo 0 wr false 0 va)
    | none => match s.translateRange c.blk (if wr then needW else needR) wr (pagesOf a (a + len)) a (a + len) with
      | (s, .error (va, err)) => addrRes s 0 va wr err
      | (s, .ok pages) =>
        let hull := globalRange a len
        let o := { heavyOp 5 (kind t (BitVec.ofNat 64 a) b (BitVec.ofNat 32 x.mode) pages)
            (if wr then [tileRange t] else [hull]) (if wr then [hull] else [tileRange t]) with pol := max 2 (Mod.pol x.m) }
        let st := s.staging c.blk (if wr then (List.range 96).map fun r => (a + r * b, 128 * e) else []) pages o
        if s.pathFull c 5 || (s.ahead c.blk && s.stageFull c.blk st.2) then .hold
        else .done (s.receive st.1) [(.accline, rowLines a 96 b (128 * e))]

/-- ACCLD (R213). -/
def bodyAccld (s : State) (c : Cur) (x : Ctx) : Res :=
  accMem false (fun t g p mode pages => .accld t (Mod.type x.m) g p mode pages) s c x

/-- ACCLD (R213). -/
def execAccld (f : Form) (s : State) : Host.Outcome State Fault Refusal := s.issueOp 0x0D6 f (specAccMem false) bodyAccld

/-- ACCST (R213). -/
def bodyAccst (s : State) (c : Cur) (x : Ctx) : Res :=
  accMem true (fun t g p mode pages => .accst t (Mod.type x.m) (Mod.rnd x.m) g p mode pages) s c x

/-- ACCST (R213). -/
def execAccst (f : Form) (s : State) : Host.Outcome State Fault Refusal := s.issueOp 0x0D7 f (specAccMem true) bodyAccst

/-! ## The Lathe at work -/

/-- An element of a tile, and whether it is poisoned. -/
def Block.elem (b : Block) (key : Nat) : Nat × Bool := ((spGet 0 b.tiles key).toNat, spGet false b.tilePoison key)

/-- An element set. -/
def Block.setElem (b : Block) (key v : Nat) (bad : Bool) : Block :=
  { b with tiles := spSet 0 b.tiles key (BitVec.ofNat 32 v), tilePoison := spSet false b.tilePoison key bad }

/-- Element t of a k-block's bytes (R94). -/
def blockElem (bytes : Nat) (width t : Nat) : Nat := bytes / 2 ^ (width * t) % 2 ^ width

/-- A row's k-block of an operand: its 32 elements, its scale, and whether a word of it is poisoned (R211, R212). -/
def State.mmaRow (s : State) (blk : Nat) (d : TileDesc) (mode r b : Nat) : List FV × Option Nat × Bool :=
  let bb := blockBytes d.fmt
  let data := s.fetchAt (.scr blk d.dbuf) ((r * d.kb + b) * bb) bb
  let ty := (ftyOf d.fmt).getD .mxi8
  let vs := (List.range 32).map fun t => ty.decode (ty.daz mode) (blockElem (ofLe data.1) ty.width t)
  if 12 ≤ d.fmt then
    let sc := s.fetchAt (.scr blk d.sbuf) (b * d.rows + r) 1
    (vs, some (ofLe sc.1), data.2 || sc.2)
  else (vs, none, data.2)

/-- Single-bit errors in a row's k-block are corrected as it is read (R177). -/
def State.mmaScrub (s : State) (o : Op) (d : TileDesc) (r b : Nat) : State :=
  let bb := blockBytes d.fmt
  let s := s.scrub o.fn (.scr o.blk d.dbuf) ((r * d.kb + b) * bb) bb
  if 12 ≤ d.fmt then s.scrub o.fn (.scr o.blk d.sbuf) (b * d.rows + r) 1 else s

/-- One k-block added to one element: an indivisible step (R105, R212). A poisoned word poisons the element, and the error is
logged. -/
def State.mmaStep (s : State) (o : Op) (tile : Nat) (da db : TileDesc) (mode e b : Nat) : State :=
  match s.blockOf o.blk with
  | none => s
  | some blk =>
    let s := (s.mmaScrub o da (e / 128) b).mmaScrub o db (e % 128) b
    let ra := s.mmaRow o.blk da mode (e / 128) b
    let rb := s.mmaRow o.blk db mode (e % 128) b
    let key := 12288 * tile + e
    let old := blk.elem key
    let bad := ra.2.2 || rb.2.2
    let v := accAdd mode old.1 (blockSum (ra.1.zip rb.1) ra.2.1 rb.2.1)
    let s := (s.scrubWords o.fn [.tile o.blk key]).mapBlock o.blk fun blk => blk.setElem key v (old.2 || bad)
    if bad then s.logOp o 0 true else s

/-- Whether an element's read of global memory is held, as the home mode of its granule is being changed (R280). -/
def State.elemHeld (s : State) (o : Op) (e : Nat) : Bool :=
  match o.kind with
  | .accld _ ty g pitch _ pages => s.flipsIn o pages (g.toNat + e / 128 * pitch + e % 128 * accBytes ty) (accBytes ty)
  | _ => false

/-- One element of an operation on a tile that has k-blocks left to add, or is still to be written, brought to `upto`. -/
def State.elemStep (s : State) (o : Op) (e upto : Nat) : State :=
  let n := spGet 0 ((s.op? o.id).elim [] (·.prog)) e
  let total := match o.kind with | .mma _ da _ _ => da.kb | _ => 1
  let goal := min upto total
  if goal ≤ n || s.elemHeld o e then s
  else
    let s := match o.kind with
      | .mma t da db mode => (List.range (goal - n)).foldl (fun (s : State) i => s.mmaStep o t da db mode.toNat e (n + i)) s
      | .accz t => (s.renew (.tile o.blk (12288 * t + e))).mapBlock o.blk fun b => b.setElem (12288 * t + e) 0 false
      | .accld t ty g pitch mode pages =>
        let w := accBytes ty
        let at_ := g.toNat + e / 128 * pitch + e % 128 * w
        let r := s.readGlobal o pages at_ w
        let r := (if r.2.2 && (at_ % 8 < w || e % 128 = 0) then r.1.logOp o (BitVec.ofNat 64 at_) true else r.1, r.2)
        let v := ofLe r.2.1
        let v := match ftyOf ty with
          | some f => if w = 2 then (FTy.float fp32).round false false 1 0 (f.decode (f.daz mode.toNat) v) else v
          | none => v
        (r.1.renew (.tile o.blk (12288 * t + e))).mapBlock o.blk fun b => b.setElem (12288 * t + e) v r.2.2
      | _ => s
    s.mapOp o.id fun o => { o with prog := spSet 0 o.prog e goal }

/-- Whether an operation has brought every element to its end. -/
def Op.elemsDone (o : Op) : Bool :=
  let total := match o.kind with | .mma _ da _ _ => da.kb | _ => 1
  (List.range 12288).all fun e => total ≤ spGet 0 o.prog e

/-- The part of a row that lies in the k-th aligned 8-byte word it touches: offset and length. -/
def piece (start len k : Nat) : Option (Nat × Nat) :=
  let lo := max start ((start / 8 + k) * 8)
  let hi := min (start + len) ((start / 8 + k + 1) * 8)
  if lo < hi then some (lo - start, hi - lo) else none

/-- Pieces that a row of some length can have. -/
def piecesOf (len : Nat) : Nat := (len + 7) / 8 + 1

/-- The bytes of a tile's elements as ACCST stores them, and whether one is poisoned. The narrowing to 16 bits reads the FP32 elements as
they are held: R213 names RND and FTZ16 alone, so DAZ32 is not applied (DESIGN CHOICE, notes/assumptions/101.md). -/
def Block.narrowed (b : Block) (t ty rnd mode r first n : Nat) : List Byte × Bool :=
  (List.range n).foldl (fun acc i =>
    let e := b.elem (elemKey t r (first + i))
    let v := match ftyOf ty with
      | some f => if accBytes ty = 2 then f.write mode rnd 0 ((FTy.float fp32).decode false e.1) else e.1
      | none => e.1
    (acc.1 ++ leBytes (accBytes ty) v, acc.2 || e.2)) ([], false)

/-- The next pieces of an ACCST's rows stored, in order; one that a change of home mode holds ends the run. -/
def State.accstSteps : Nat → State → Op → Nat → Nat → Nat → Dword → Nat → Nat → List (Nat × Nat × Nat) → State
  | 0, s, _, _, _, _, _, _, _, _ => s
  | n + 1, s, o, t, ty, rnd, g, pitch, mode, pages =>
    let w := accBytes ty
    let per := piecesOf (128 * w)
    let m := ((s.op? o.id).elim 0 (·.moved))
    let r := m / per
    let row := g.toNat + r * pitch
    if 96 ≤ r then s
    else
      let ahead := s.opAhead o
      let next := fun (s : State) =>
        State.accstSteps n (s.mapOp o.id fun o => { o with moved := m + 1 }) o t ty rnd g pitch mode pages
      match piece row (128 * w) (m % per), s.blockOf o.blk with
      | some (off, len), some b =>
        if s.flipsIn o pages (row + off) len then s
        else
          let bs := b.narrowed t ty rnd mode r (off / w) (len / w)
          let s := s.scrubWords o.fn ((List.range (len / w)).map fun i => .tile o.blk (elemKey t r (off / w + i)))
          let s := if bs.2 then s.logOp o (BitVec.ofNat 64 (row + off)) true else s
          next (s.writeGlobal o pages none ahead (row + off) bs.1 bs.2)
      | _, _ => next s

end Sys2Proof.Machine
end

