-- ==== Sys2Proof/Machine/Jobs.lean ====
section
/-! DEFINITION. Job cards, JOB and JOBQ (opcodes 0x0E0 and 0x0E1, R216–R223, R225, R229), and the data that a card moves (R218). -/
namespace Sys2Proof.Machine

/-! ## Cards (R216, R217) -/

/-- Word n of a card. -/
def cw (ws : List Word) (n : Nat) : Nat := (nth 0 ws n).toNat

/-- Length and kind that word 0 names. -/
def cardSize (ws : List Word) : Nat := fld (cw ws 0) 15 8
def cardKind (ws : List Word) : Nat := fld (cw ws 0) 23 16

/-- Buffer and offset of a scratchpad reference. -/
def refBuf (w : Nat) : Nat := w / 2 ^ 20
def refOff (w : Nat) : Nat := w % 2 ^ 20

/-- A card's words decoded, for a scratchpad place. -/
def cardOf (ws : List Word) (buf off mode : Nat) : Card :=
  { kind := cardKind ws, dir := bit (cw ws 0) 24, strm := bit (cw ws 0) 25, rb := cw ws 1 / 2 ^ 16, rows := cw ws 1 % 2 ^ 16
    g := BitVec.ofNat 64 (cw ws 2 + cw ws 3 * 2 ^ 32), gp := cw ws 4, sp := cw ws 5, buf, off, w7 := nth 0 ws 7
    pattern := BitVec.ofNat 64 (cw ws 2 + cw ws 3 * 2 ^ 32), mode := BitVec.ofNat 32 mode, pages := [] }

/-- Bytes of a transpose's or reduce-copy's element; 1 for the other kinds. -/
def Card.esize (c : Card) : Nat := if c.kind = 4 then 2 ^ (c.w7.toNat % 4) else if c.kind = 5 then 4 else 1

/-- Whether the global side is written. -/
def Card.toGlobal (c : Card) : Bool := c.kind = 5 || ((c.kind = 1 || c.kind = 4) && c.dir)

/-- A card that moves nothing. -/
def Card.isEmpty (c : Card) : Bool := c.rows = 0 || c.rb = 0

/-- Rows of bytes at a pitch. -/
structure Rows where
  base : Nat
  count : Nat
  pitch : Nat
  width : Nat
  deriving DecidableEq, Repr

/-- Bytes from the first of row 0 to the last of the last row (R225). -/
def Rows.hull (r : Rows) : Nat := (r.count - 1) * r.pitch + r.width

/-- The rows of the global side; a fill has none, and a gather's are known as it runs. -/
def Card.globalRows (c : Card) : Option Rows :=
  if c.isEmpty ∨ c.kind = 3 ∨ c.kind = 6 then none
  else if c.kind = 4 ∧ c.dir then some ⟨c.g.toNat, c.rb / c.esize, c.gp, c.rows * c.esize⟩
  else some ⟨c.g.toNat, c.rows, c.gp, c.rb⟩

/-- The rows of the scratchpad side, within the buffer. -/
def Card.scrRows (c : Card) : Option Rows :=
  if c.isEmpty ∨ (c.kind = 2 ∧ c.w7.toNat % 256 = 0) then none
  else if c.kind = 4 ∧ !c.dir then some ⟨c.off, c.rb / c.esize, c.sp, c.rows * c.esize⟩
  else some ⟨c.off, c.rows, c.sp, c.rb⟩

/-- The index table of a gather: buffer and rows. -/
def Card.indexRows (c : Card) : Option (Nat × Rows) :=
  if c.isEmpty ∨ c.kind ≠ 3 then none else some (refBuf c.w7.toNat, ⟨refOff c.w7.toNat, 1, 0, 4 * c.rows⟩)

/-! ## Checks (R221, R222) -/

/-- TRAP_INFO of JOB_CARD. -/
def cardInfo (reason idx word : Nat) : Nat := reason * 2 ^ 16 + idx * 2 ^ 8 + word

/-- The first of the checks of word 0: reasons 1 to 4. -/
def headDefect (ws : List Word) : Option Nat :=
  let w0 := cw ws 0
  let kind := cardKind ws
  if w0 % 256 ≠ 1 then some 1
  else if cardSize ws < 8 ∨ 16 < cardSize ws then some 2
  else if kind < 1 ∨ 6 < kind then some 3
  else if w0 / 2 ^ 26 ≠ 0 ∨ (bit w0 24 ∧ kind ≠ 1 ∧ kind ≠ 4) ∨ (bit w0 25 ∧ kind = 6) then some 4
  else none

/-- The first word that R217 wants zero and is not. -/
def zeroDefect (ws : List Word) : Option Nat :=
  let kind := cardKind ws
  let w7 := cw ws 7
  let low := if kind = 6 ∧ cw ws 4 ≠ 0 then some 4
    else if (kind = 1 ∧ w7 ≠ 0) ∨ (kind = 2 ∧ w7 / 2 ^ 8 ≠ 0) ∨ ((kind = 4 ∨ kind = 5) ∧ w7 / 4 ≠ 0) ∨ (kind = 6 ∧ w7 ≠ 0) then some 7
    else none
  low.or ((List.range (cardSize ws - 8)).map (8 + ·) |>.find? fun i => cw ws i ≠ 0)

/-- The first of the checks of reason 9, as the word that fails: element size or type, row bytes, references. -/
def bodyDefect (nbuf : Nat) (queue : Bool) (ws : List Word) : Option Nat :=
  let kind := cardKind ws
  let t := cw ws 7 % 4
  let rb := cw ws 1 / 2 ^ 16
  let e := if kind = 4 then 2 ^ t else 4
  if (kind = 4 ∧ t = 3) ∨ (kind = 5 ∧ 1 < t) then some 7
  else if (kind = 4 ∨ kind = 5) ∧ rb % e ≠ 0 then some 1
  else if queue ∧ nbuf ≤ refBuf (cw ws 6) then some 6
  else if kind = 3 ∧ nbuf ≤ refBuf (cw ws 7) then some 7
  else none

/-- JOB_CARD of a card: its TRAP_INFO (R221). `named` is JOB's KIND, and `fits` says that its scalars exist (reason 7). -/
def cardDefect (nbuf named idx : Nat) (queue fits : Bool) (ws : List Word) : Option Nat :=
  match headDefect ws with
  | some r => some (cardInfo r idx 0)
  | none => match (if fits then zeroDefect ws else none) with
    | some w => some (cardInfo 5 idx w)
    | none =>
      if named ≠ 0 ∧ named ≠ cardKind ws then some (cardInfo 6 idx 0)
      else if !fits then some (cardInfo 7 idx 0)
      else (bodyDefect nbuf queue ws).map (cardInfo 9 idx)

/-- GANG_RANGE of a card (R222). -/
def Card.gangDefect (c : Card) (gang idx : Nat) : Option Nat :=
  if c.kind ≠ 2 then none
  else ((List.range 8).find? fun m => gang ≤ m && bit c.w7.toNat m).map fun m => idx * 2 ^ 8 + m

/-- ALIGN of a card: its addresses, then its pitches (R184, R222). -/
def Card.alignDefect (c : Card) (idx : Nat) : Option Nat :=
  let e := c.esize
  let place := memInfo idx (!c.toGlobal) true 0 (scrAddr c.buf c.off)
  let addr := memInfo idx c.toGlobal false 0 c.g.toNat
  if c.kind = 3 then
    if refOff c.w7.toNat % 4 ≠ 0 then some (memInfo idx false true 0 (scrAddr (refBuf c.w7.toNat) (refOff c.w7.toNat))) else none
  else if c.g.toNat % e ≠ 0 ∧ c.kind ≠ 6 then some addr
  else if c.off % e ≠ 0 then some place
  else if c.gp % e ≠ 0 then some (memInfo idx c.toGlobal false 1 (c.gp % 2 ^ 32))
  else if c.kind = 5 ∧ c.sp % e ≠ 0 then some (memInfo idx false true 1 (c.sp % 2 ^ 32))
  else none

/-- ACCESS for range of a card: code and TRAP_INFO (R222). The checks of one card go in the order scratchpad place, index table, global hull,
which the manual leaves open (DESIGN CHOICE, notes/assumptions/103.md). -/
def State.cardRange (s : State) (b : Block) (c : Card) (idx : Nat) : Option (Nat × Nat) :=
  let size := fun (buf : Nat) => (((s.kernelOf b).bufs[buf]?).map (·.size)).getD 0
  let scr := fun (buf : Nat) (r : Rows) (wr : Bool) =>
    if size buf < r.base + r.hull then some (Fc.access, memInfo idx wr true 0 (scrAddr buf (max r.base (size buf)))) else none
  ((c.scrRows.bind fun r => scr c.buf r (!c.toGlobal)).or (c.indexRows.bind fun p => scr p.1 p.2 false)).or <|
  c.globalRows.bind fun r =>
    (s.rangeScan b (pagesOf r.base (r.base + r.hull)) r.base (r.base + r.hull)).map fun p =>
      (p.2, memInfo idx c.toGlobal false 0 p.1)

/-- What a card needs of its pages. -/
def Card.need (c : Card) : BitVec 3 := if c.kind = 5 then needRW else if c.toGlobal then needW else needR

/-- A card with the translations of its hull, or the fault that one raises. -/
def State.cardPages (s : State) (b : Block) (c : Card) (idx : Nat) : State × Except Res Card :=
  match c.globalRows with
  | none => (s, .ok c)
  | some r => match s.translateRange b c.need c.toGlobal (pagesOf r.base (r.base + r.hull)) r.base (r.base + r.hull) with
    | (s, .ok pages) => (s, .ok { c with pages })
    | (s, .error (va, .xlate x)) => (s, .error (.xlate s va 3 x (memInfo idx c.toGlobal false 0 va)))
    | (s, .error (va, e)) => (s, .error (addrRes s idx va c.toGlobal e))

/-- The translations of a list of cards, in order. -/
def State.cardsPages (s : State) (b : Block) : Nat → List Card → State × Except Res (List Card)
  | _, [] => (s, .ok [])
  | idx, c :: rest =>
    match s.cardPages b c idx with
    | (s, .error r) => (s, .error r)
    | (s, .ok c) => match s.cardsPages b (idx + 1) rest with
      | (s, .error r) => (s, .error r)
      | (s, .ok l) => (s, .ok (c :: l))

/-- Each check made for every card before the next (R222); then the cards are received. `go` is given them with their pages. -/
def withCards (s : State) (c : Cur) (cards : List Card) (go : State → List Card → Res) : Res :=
  let idx := cards.zipIdx
  let gang := s.gangSize c.blk
  match idx.findSome? fun p => p.1.gangDefect gang p.2 with
  | some info => .fault Fc.gangRange info
  | none => match idx.findSome? fun p => p.1.alignDefect p.2 with
    | some info => .fault Fc.align info
    | none => match idx.findSome? fun p => s.cardRange c.blk p.1 p.2 with
      | some (code, info) => .fault code info
      | none => match s.cardsPages c.blk 0 cards with
        | (_, .error r) => r
        | (s, .ok l) => go s l

/-! ## Footprints and charges (R225, R229) -/

/-- The footprint of a card: what it reads, and what it writes. -/
def State.cardPrint (s : State) (b : Block) (c : Card) : List FpRange × List FpRange :=
  let scr := fun (buf : Nat) (r : Rows) => s.scrRange b.id buf r.base r.hull
  let glob := (c.globalRows.map fun r => globalRange r.base r.hull).toList
  let own := match c.scrRows with
    | none => []
    | some r => if c.kind = 2 && !bit c.w7.toNat (b.index % s.gangSize b) then [] else [scr c.buf r]
  let index := (c.indexRows.map fun p => scr p.1 p.2).toList
  if c.isEmpty then ([], [])
  else if c.kind = 3 then (globalRange 0 (2 ^ 64) :: index, own)
  else if c.kind = 5 then (own ++ glob, glob)
  else if c.toGlobal then (own, glob)
  else (glob, own)

/-- Words of rows, each counted once (R229): rows rise, so that a row adds the words behind those counted so far. -/
def rowWords (base : Nat) (r : Rows) : Nat :=
  ((List.range r.count).foldl (fun (acc : Nat × Nat) i =>
    let lo := max acc.2 ((base + r.base + i * r.pitch) / 8)
    let hi := (base + r.base + i * r.pitch + r.width + 7) / 8
    (acc.1 + (hi - lo), max acc.2 hi)) (0, 0)).1

/-- The events of a card at its issue. -/
def State.cardEvents (s : State) (b : Block) (c : Card) : List (Ev × Nat) :=
  let lines := (c.globalRows.map fun r => rowLines r.base r.count r.pitch r.width).getD 0
  let words := (c.scrRows.map fun r => rowWords (s.bufOff b.id c.buf) r).getD 0
  let copies := if c.kind = 2 then popcount 8 c.w7.toNat else 1
  let index := (c.indexRows.map fun p => rowWords (s.bufOff b.id p.1) p.2).getD 0
  [(.jobcard, 1), (.jline, lines), (.jword, copies * words + index)]

/-- The rows of global bytes that a card names before it runs, as address and length. -/
def Card.rowsOf (c : Card) : List (Nat × Nat) :=
  (c.globalRows.map fun r => (List.range r.count).map fun i => (r.base + i * r.pitch, r.width)).getD []

/-- A card's operation on a path, and the entries that its writes will make in staging. -/
def State.cardOp (s : State) (b : Block) (path : Nat) (c : Card) : Op × List (Space × Nat) :=
  let fp := s.cardPrint b c
  s.staging b (if c.toGlobal then c.rowsOf else []) c.pages { heavyOp path (.job c) fp.1 fp.2 with pol := if c.strm then 3 else 2 }

/-- Whether cards are held at the instruction that issues them until their block's turn (R401). -/
def State.cardsWait (s : State) (b : Block) (l : List (Op × List (Space × Nat))) : Bool := s.ahead b && s.stageFull b (l.flatMap (·.2))

/-! ## JOB (R219) -/

def specJob (m : Nat) : Spec :=
  { a := some Slot.buf, b := some { kinds := [.scal] }, c := some Slot.const, wave := true, selNever := true, mOk := Mod.own m ≤ 6 }

/-- Number of the scalar an operand names. -/
def Opnd.scalNum : Opnd → Nat
  | .scal n => n
  | _ => 0

/-- The scalars of a card that follow its first: their UNDERSTALL, hold or poison (R56, R82, R186). -/
def State.scalExc (s : State) (c : Cur) (mode : Nat) (l : List Nat) : Option Exc :=
  (l.findSome? fun n => readAt c.split (bit mode 8) (s.awaited c.split) (Opnd.scal n).desc (.scal n)).or <|
  l.findSome? fun n => if c.split.badWord (.scal n) 0 then some (.fault Fc.ecc (Opnd.scal n).desc) else none

/-- The card read from scalars, checked, translated and received. -/
def bodyJob (s : State) (c : Cur) (x : Ctx) : Res :=
  let sb := x.b.scalNum
  let k := s.kernelOf c.blk
  let w0 := [BitVec.ofNat 32 (x.vB c.split 0)]
  let size := cardSize w0
  let fits := sb + size - 1 ≤ 63 && sb + size - 1 < k.nscal
  let read := (headDefect w0).isNone && fits
  match (if read then s.scalExc c x.mode ((List.range (size - 1)).map (sb + 1 + ·)) else none) with
  | some .hold => .hold
  | some (.fault code info) => .fault code info
  | none =>
    let ws := if read then (List.range size).map fun i => (c.split.read (.scal (sb + i)) 0).setWidth 32 else w0
    match cardDefect k.nbuf (Mod.own x.m) 0 false fits ws with
    | some info => .fault Fc.jobCard info
    | none => withCards s c [cardOf ws x.a.symNum (x.vC c.split 0 % 2 ^ 32) x.mode] fun s cards =>
      let ops := cards.map (s.cardOp c.blk 4)
      if s.pathFull c 4 || s.cardsWait c.blk ops then .hold
      else .done ((ops.foldl (fun s o => s.receive o.1) s).readRegs x.act
        ((List.range (size - 1)).map fun i => .scal (sb + 1 + i))) (cards.flatMap (s.cardEvents c.blk))

/-- JOB (R219). -/
def execJob (f : Form) (s : State) : Host.Outcome State Fault Refusal := s.issueOp 0x0E0 f specJob bodyJob

/-! ## JOBQ (R220) -/

def specJobq (m : Nat) : Spec :=
  { a := some Slot.buf, b := some (Slot.uni), c := some Slot.const, wave := true, selNever := true, mOk := Mod.own m = 0 }

/-- Whether a store or atomic of a wave to its scratchpad is still to be performed. -/
def State.scrPending (s : State) (c : Cur) : Bool :=
  s.ops.any fun o => o.blk = c.blk.id && o.wid = c.wave.wid && o.path = 3 && !o.kind.isLoad && o.undone.any fun i =>
    match i.space with | .scr blk _ => blk = c.blk.id | _ => false

/-- The words of the card in slot n, and whether one is poisoned. -/
def State.slotWords (s : State) (blk buf j n : Nat) : List Word × Bool :=
  let r := s.fetchAt (.scr blk buf) (j + 64 * n) 64
  ((List.range 16).map fun i => BitVec.ofNat 32 (ofLe ((r.1.drop (4 * i)).take 4)), r.2)

/-- Operations received in order, each on a path of its own kind. -/
def State.receiveAll (s : State) (l : List Op) : State := l.foldl State.receive s

/-- The list checked, then every card, then all received with the list that counts them. -/
def bodyJobq (s : State) (c : Cur) (x : Ctx) : Res :=
  let buf := x.a.symNum
  let j := x.vC c.split 0 % 2 ^ 32
  let n := x.vB c.split 0 % 2 ^ 32
  let k := s.kernelOf c.blk
  let size := ((k.bufs[buf]?).map (·.size)).getD 0
  if 64 < n then .fault Fc.jobCard (cardInfo 8 0xFF 0)
  else if j % 64 ≠ 0 then .fault Fc.align (memInfo 0 false true 0 (scrAddr buf j))
  else if n ≠ 0 ∧ size < j + 64 * n then .fault Fc.access (memInfo 0 false true 0 (scrAddr buf (max j size)))
  else if s.scrPending c then .hold
  else
    let slots := (List.range n).map fun i => s.slotWords c.blk.id buf j i
    match slots.zipIdx.find? (·.1.2) with
    | some p => .fault Fc.ecc (memInfo p.2 false true 0 (scrAddr buf (j + 64 * p.2)))
    | none => match slots.zipIdx.findSome? fun p => cardDefect k.nbuf 0 p.2 true true p.1.1 with
      | some info => .fault Fc.jobCard info
      | none =>
        withCards s c (slots.map fun p => cardOf p.1 (refBuf (cw p.1 6)) (refOff (cw p.1 6)) x.mode) fun s cards =>
          let ops := cards.map (s.cardOp c.blk 7)
          if s.pathFull c 4 || s.cardsWait c.blk ops then .hold
          else
            let list := { heavyOp 4 (.jobList (cards.zipIdx.map fun p => s.nextOp + 1 + p.2)) [] [] with complete := cards.isEmpty }
            .done (((s.addOp list).receiveAll (ops.map (·.1))).retire) (cards.flatMap (s.cardEvents c.blk))

/-- JOBQ (R220). -/
def execJobq (f : Form) (s : State) : Host.Outcome State Fault Refusal := s.issueOp 0x0E1 f specJobq bodyJobq

/-! ## What a card moves (R218) -/

/-- Bytes stored in a scratchpad, poisoned where their source was. -/
def State.storeScr (s : State) (o : Op) (blk buf rel : Nat) (bs : List Byte) (bad : Bool) : State :=
  let s := s.storeAt o.fn (.scr blk buf) rel bs
  if bad then s.poisonAt (.scr blk buf) rel bs.length else s

/-- Whether a row that reaches a member of a gang is discarded: it has been saved, and its image does not hold the scratchpad (R388). -/
def Block.dropsRow (b : Block) : Bool :=
  match b.phase with
  | .saved _ scr => !scr
  | _ => false

/-- Members that a multicast writes, in order. -/
def Card.members (c : Card) : List Nat := (List.range 8).filter fun m => bit c.w7.toNat m

/-- Units of a card: 8-byte pieces of its rows, a multicast's for each member in turn, or elements of a transpose or reduce-copy. -/
def Card.perRow (c : Card) : Nat :=
  if c.kind = 4 ∨ c.kind = 5 then c.rb / c.esize else if c.kind = 2 then c.members.length * piecesOf c.rb else piecesOf c.rb
def Card.units (c : Card) : Nat := if c.isEmpty then 0 else c.rows * c.perRow

/-- The part of row r of the destination that unit k of the row is, in a scratchpad that holds a buffer. -/
def State.scrPiece (s : State) (blk : Nat) (c : Card) (r k : Nat) : Option (Nat × Nat) :=
  piece (s.bufOff blk c.buf + c.off + r * c.sp) c.rb k

/-- The row of a gather that is fixed now: its source address, with the translations it has obtained, or none where it cannot be read. -/
def State.fixRow (s : State) (o : Op) (r : Nat) (va : Option (Nat × List (Nat × Nat × Nat))) : State :=
  s.mapOp o.id fun o => { o with
    prog := spSet 0 o.prog r (match va with | some va => va.1 + 2 | none => 1)
    kind := match o.kind, va with
      | .job c, some va => .job { c with pages := va.2 }
      | k, _ => k }

/-- A gathered row whose page has no translation: where the function's ring is enabled, a fault is recorded and the job is held under its
token, or held until the ring has room (R218, R285–R287); the row stays as it is until the host has dealt with it. -/
def State.gatherFault (s : State) (o : Op) (b : Block) (row va : Nat) (x : XFail) : State :=
  if s.xfFull o.fn then s
  else
    let n := s.xfCount o.fn
    let tail := (s.cfgReg o.fn 0xE0C).toNat % n
    let token := s.freeToken o.fn
    let grid := ((s.gridOf b).map (·.rcd.number.toNat)).getD 0
    let s := s.storeAt o.fn .mem ((s.cfgReg o.fn 0xE00).toNat / 4096 * 4096 + 32 * tail) (xfRecord va o.pc grid b.index token o.wid 3 x o.child)
    let s := s.setCfg o.fn 0xE0C (BitVec.ofNat 64 ((tail + 1) % n))
    { s with
      nextToken := token + 1
      xholds := s.xholds ++ [⟨o.fn, o.child, token, o.blk, o.wid, o.sid, BitVec.ofNat 64 row, o.pc, 0, o.id + 1⟩] }

/-- The source of a gathered row is fixed as its index is read, with the lines booked. A row that cannot be read, as its address is out of
range, its page grants no read, or no translation of it can be had, is logged. `false`: the row waits for its translation. -/
def State.gatherRow (s : State) (o : Op) (c : Card) (r : Nat) : State × Bool :=
  if spGet 0 o.prog r ≠ 0 then (s, true)
  else if s.xholds.any (·.job = o.id + 1) then (s, false)
  else
    let s := s.scrub o.fn (.scr o.blk (refBuf c.w7.toNat)) (refOff c.w7.toNat + 4 * r) 4
    let ix := s.fetchAt (.scr o.blk (refBuf c.w7.toNat)) (refOff c.w7.toNat + 4 * r) 4
    let va := (c.g.toNat + ofLe ix.1 * c.gp) % 2 ^ 64
    match s.blockOf o.blk with
    | none => (s.fixRow o r none, true)
    | some b =>
      let booked := fun (s : State) => s.bookCore o.fn o.child o.core [(.jline, (linesIn va c.rb).length)]
      match s.translateRange b needR false (pagesOf va (va + c.rb)) va (va + c.rb) with
      | (s, .ok pages) => if ix.2 then (((booked s).logOp o (BitVec.ofNat 64 va) true).fixRow o r none, true)
          else ((booked s).fixRow o r (some (va, pages)), true)
      | (s, .error (at_, .xlate x)) =>
        if s.xfCount o.fn = 0 then (((booked s).logOp o (BitVec.ofNat 64 va) false).fixRow o r none, true) else (s.gatherFault o b va at_ x, false)
      | (s, .error _) => (((booked s).logOp o (BitVec.ofNat 64 va) false).fixRow o r none, true)

/-- The row of a gather that its job stands at cannot be translated: it is logged, and left as one that cannot be read (R218). -/
def State.gatherLost (s : State) (id : Nat) (va : Dword) : State :=
  match s.op? id with
  | none => s
  | some o => match o.kind with
    | .job c => ((s.bookCore o.fn o.child o.core [(.jline, (linesIn va.toNat c.rb).length)]).logOp o va false).fixRow o
        (o.moved / max 1 c.perRow) none
    | _ => s

/-- The translations that an operation keeps for the row it stands at. -/
def State.rowPages (s : State) (id : Nat) : List (Nat × Nat × Nat) :=
  match s.op? id with
  | some o => (match o.kind with | .job c => c.pages | _ => [])
  | none => []

/-- Poison that a job reads is logged (R281, R444). -/
def State.logRead (s : State) (o : Op) (at_ : Nat) (bad : Bool) : State := if bad then s.logOp o (BitVec.ofNat 64 at_) true else s

/-- Bytes of the job's block's scratchpad. -/
def State.jobScr (s : State) (o : Op) (c : Card) (rel n : Nat) : State × List Byte × Bool :=
  let s := s.scrub o.fn (.scr o.blk c.buf) rel n
  let r := s.fetchAt (.scr o.blk c.buf) rel n
  (s.logRead o (scrAddr c.buf rel) (r.2 && c.kind ≠ 5), r.1, r.2)

/-- Bytes of global memory. -/
def State.jobGlobal (s : State) (o : Op) (c : Card) (va n : Nat) : State × List Byte × Bool :=
  let r := s.readGlobal o c.pages va n
  (r.1.logRead o va r.2.2, r.2)

/-- One unit of a card moved: unit k of row r. -/
def State.jobUnit (s : State) (o : Op) (c : Card) (ahead : Bool) (r k : Nat) : State :=
  let e := c.esize
  match c.kind with
  | 1 =>
    if c.dir then
      match piece (c.g.toNat + r * c.gp) c.rb k with
      | none => s
      | some (off, n) =>
        let src := s.jobScr o c (c.off + r * c.sp + off) n
        src.1.writeGlobal o c.pages none ahead (c.g.toNat + r * c.gp + off) src.2.1 src.2.2
    else
      match s.scrPiece o.blk c r k with
      | none => s
      | some (off, n) =>
        let src := s.jobGlobal o c (c.g.toNat + r * c.gp + off) n
        src.1.storeScr o o.blk c.buf (c.off + r * c.sp + off) src.2.1 src.2.2
  | 2 =>
    match s.scrPiece o.blk c r (k % piecesOf c.rb), s.blockOf o.blk with
    | some (off, n), some b =>
      let src := s.jobGlobal o c (c.g.toNat + r * c.gp + off) n
      match s.memberOf b (nth 0 c.members (k / piecesOf c.rb)) with
      | some x => if x.dropsRow then src.1 else src.1.storeScr o x.id c.buf (c.off + r * c.sp + off) src.2.1 src.2.2
      | none => src.1
    | _, _ => s
  | 3 =>
    match s.scrPiece o.blk c r k with
    | none => s
    | some (off, n) =>
      let va := spGet 0 ((s.op? o.id).elim [] (·.prog)) r
      if va < 2 then s.storeScr o o.blk c.buf (c.off + r * c.sp + off) (List.replicate n 0) true
      else
        let src := s.readGlobal o (s.rowPages o.id) (va - 2 + off) n
        (src.1.logRead o (va - 2 + off) src.2.2).storeScr o o.blk c.buf (c.off + r * c.sp + off) src.2.1 src.2.2
  | 4 =>
    if c.dir then
      let src := s.jobScr o c (c.off + r * c.sp + k * e) e
      src.1.writeGlobal o c.pages none ahead (c.g.toNat + k * c.gp + r * e) src.2.1 src.2.2
    else
      let src := s.jobGlobal o c (c.g.toNat + r * c.gp + k * e) e
      src.1.storeScr o o.blk c.buf (c.off + k * c.sp + r * e) src.2.1 src.2.2
  | 5 =>
    let src := s.jobScr o c (c.off + r * c.sp + 4 * k) 4
    let ty := if c.w7.toNat % 4 = 1 then 9 else 0
    src.1.writeGlobal o c.pages (some (0, ty, c.mode)) ahead (c.g.toNat + r * c.gp + 4 * k) src.2.1 src.2.2
  | _ =>
    match s.scrPiece o.blk c r k with
    | none => s
    | some (off, n) =>
      let bs := (List.range n).map fun j => BitVec.ofNat 8 (c.pattern.toNat / 2 ^ (8 * ((off + j) % 8)))
      s.storeScr o o.blk c.buf (c.off + r * c.sp + off) bs false

/-- The global bytes that a unit reads or writes: address and length. A gather's row is fixed by then. -/
def State.unitGlobal (s : State) (o : Op) (c : Card) (r k : Nat) : Option (Nat × Nat) :=
  let row := c.g.toNat + r * c.gp
  match c.kind with
  | 1 =>
    if c.dir then (piece row c.rb k).map fun p => (row + p.1, p.2) else (s.scrPiece o.blk c r k).map fun p => (row + p.1, p.2)
  | 2 => (s.scrPiece o.blk c r (k % piecesOf c.rb)).map fun p => (row + p.1, p.2)
  | 3 =>
    let va := spGet 0 ((s.op? o.id).elim [] (·.prog)) r
    if va < 2 then none else (s.scrPiece o.blk c r k).map fun p => (va - 2 + p.1, p.2)
  | 4 => if c.dir then some (c.g.toNat + k * c.gp + r * c.esize, c.esize) else some (row + k * c.esize, c.esize)
  | 5 => some (row + 4 * k, 4)
  | _ => none

/-- The next units of a card moved, in order; a gathered row that waits for its translation, a unit that a change of home mode holds, and one
that would poison what an issued load is still to read, end the run. -/
def State.jobSteps : Nat → State → Nat → Card → State
  | 0, s, _, _ => s
  | n + 1, s, id, c =>
    match s.op? id with
    | none => s
    | some o =>
      let r := o.moved / max 1 c.perRow
      let k := o.moved % max 1 c.perRow
      if c.units ≤ o.moved then s
      else
        let row := if c.kind = 3 then s.gatherRow o c r else (s, true)
        let held := (row.1.unitGlobal o c r k).any fun p => row.1.flipsIn o (row.1.rowPages id) p.1 p.2
        let t := row.1.jobUnit o c (s.opAhead o) r k
        if !row.2 || held || s.spoils t then row.1
        else State.jobSteps n (t.mapOp id fun o => { o with moved := o.moved + 1 }) id c

end Sys2Proof.Machine
end

