-- ==== Sys2Proof/Machine/Sync.lean ====
section
/-! DEFINITION. WAITC, the barriers and DRAIN (opcodes 0x0C0–0x0C4, R181, R199–R202, R295–R297). -/
namespace Sys2Proof.Machine

/-- A progress event of the wave that issues (R79). -/
def Cur.progress (c : Cur) : Cur := { c with wave := { c.wave with hangcnt := 0 } }

/-! ## WAITC (R199) -/

/-- A uniform count; PATH in SUB. -/
def specWaitc (m : Nat) : Spec :=
  { a := some (Slot.uni), wave := true, selNever := true, mOk := m < 7 }

/-- The split is held until the wave's counter is at most the count. -/
def bodyWaitc (s : State) (c : Cur) (x : Ctx) : Res :=
  if x.vA c.split 0 % 2 ^ 32 < s.count c.blk.id c.wave.wid (Mod.sub x.m) then .hold
  else .done ({ s with cur := some c.progress } |>.loupeCover c.blk c.wave.wid fun p => decide (p = Mod.sub x.m)) x.sync

/-- WAITC (R199). -/
def execWaitc (f : Short) (s : State) : Host.Outcome State Fault Refusal := s.issueOp 0x0C0 (.base f) specWaitc bodyWaitc

/-- WAITC (R199). -/
def execWaitcLong (f : Long) (s : State) : Host.Outcome State Fault Refusal := s.issueOp 0x0C0 (.long f) specWaitc bodyWaitc

/-! ## Barriers (R200, R201) -/

/-- SCOPE of a layout P synchronisation, and whether it is the whole modifier. -/
def syncScope (m : Nat) : Nat := fld m 7 5
def syncOnly (m : Nat) : Bool := m = syncScope m * 32

/-- A barrier, and for an arrival the number of waves. -/
def specBar (count : Bool) (m : Nat) : Spec :=
  { a := some Slot.bar, b := if count then some (Slot.uni) else none, wave := true, selNever := true
    mOk := syncOnly m && [0, 2, 3].contains (syncScope m) }

/-- Scope of a barrier operation: the gang's, or the block's. -/
def State.barScope (s : State) (c : Cur) (x : Ctx) : Bool := s.gangScope c.blk (syncScope x.m)

/-- The release of an arrival (R201). -/
def State.arrivalReady (s : State) (c : Cur) (gang : Bool) : Bool :=
  s.released c.blk c.wave.wid (· = c.split.sid) (s.before c) (if gang then 3 else 2)

/-- The arrival in the state, for the split that issues. -/
def State.arrived (s : State) (c : Cur) (x : Ctx) : State :=
  s.arrive c (s.barScope c x) x.a.symNum (x.vB c.split 0 % 2 ^ 32)

/-- BARA: the arrival, once what it releases is performed. -/
def bodyBara (s : State) (c : Cur) (x : Ctx) : Res :=
  if !s.arrivalReady c (s.barScope c x) then .hold
  else
    let s := s.arrived c x
    .done { s with cur := s.cur.map Cur.progress } x.sync

/-- BARA (R201). -/
def execBara (f : Short) (s : State) : Host.Outcome State Fault Refusal := s.issueOp 0x0C1 (.base f) (specBar true) bodyBara

/-- BARA (R201). -/
def execBaraLong (f : Long) (s : State) : Host.Outcome State Fault Refusal := s.issueOp 0x0C1 (.long f) (specBar true) bodyBara

/-- The wait on a barrier by the split that issues: over once the phase it waits on has completed, with the acquire; until then held.
The phase is the recorded one, or else the barrier's phase now. -/
def waitBar (s : State) (c : Cur) (x : Ctx) : Res :=
  let gang := s.barScope c x
  let key := waitKey gang x.a.symNum
  let v := spGet 0 c.split.waitPhase key
  if v = 3 ∨ v = 6 then
    let c := { c.progress with split := { c.split with waitPhase := spSet 0 c.split.waitPhase key 0 } }
    .done ((({ s with cur := some c } : State).loupeWait c.blk c.wave.wid (s.gangKey c.blk gang) x.a.symNum).acquire c.blk.core
      (if gang then 3 else 2)) x.sync
  else
    let v := if v = 0 then phaseCode (s.bar c.blk gang x.a.symNum).phase true else v
    .wait { s with cur := some { c with split := { c.split with waitPhase := spSet 0 c.split.waitPhase key v } } } x.sync

/-- BARW (R201). -/
def execBarw (f : Short) (s : State) : Host.Outcome State Fault Refusal := s.issueOp 0x0C2 (.base f) (specBar false) waitBar

/-- BARW (R201). -/
def execBarwLong (f : Long) (s : State) : Host.Outcome State Fault Refusal := s.issueOp 0x0C2 (.long f) (specBar false) waitBar

/-- BARS: the arrival, made once, and the wait. -/
def bodyBars (s : State) (c : Cur) (x : Ctx) : Res :=
  if c.split.arrived then waitBar s c x
  else if !s.arrivalReady c (s.barScope c x) then .hold
  else
    let s := s.arrived c x
    match s.cur with
    | none => .done s []
    | some c =>
      let c := { c with split := { c.split with arrived := true } }
      waitBar { s with cur := some c } c x

/-- BARS (R201). -/
def execBars (f : Short) (s : State) : Host.Outcome State Fault Refusal := s.issueOp 0x0C3 (.base f) (specBar true) bodyBars

/-- BARS (R201). -/
def execBarsLong (f : Long) (s : State) : Host.Outcome State Fault Refusal := s.issueOp 0x0C3 (.long f) (specBar true) bodyBars

/-! ## DRAIN (R295–R297) -/

def specDrain (m : Nat) : Spec :=
  { wave := true, selNever := true, mOk := syncOnly m && [0, 4, 5, 6].contains (syncScope m) }

/-- A partition's phase tag (R295). -/
def State.tagOf (s : State) (fn child : Nat) : Bool := spGet false s.tags (8 * fn + child)

/-- Whether an operation has a message under way: a COMB has none before it is sent, and a CHWAIT that waits has none (R295). -/
def OpKind.hasMessage : OpKind → Bool
  | .comb _ _ _ _ _ sent _ => sent
  | .chwait _ _ => false
  | _ => true

/-- The operations in flight that a drain which starts now waits for: the partition's in its scope, but those that staging holds, or holds
all that is left of (R295, R402). -/
def State.drainOld (s : State) (fn child scope die : Nat) : List Nat :=
  (s.ops.filter fun o => o.fn = fn && o.child = child && !o.staged && !o.worked && !o.complete && o.kind.hasMessage &&
    (scope ≠ 4 || dieOfCore o.core = die)).map (·.id)

/-- The global ranges that an operation in flight has still to reach, as address and length: of an access its lanes in windows, of a job or a
Lathe operation its rows, of a gather those whose source is fixed. -/
def Op.reach (o : Op) : List (Nat × Nat) :=
  let rows := fun (g : Dword) (pitch ty : Nat) => (List.range 96).map fun r => (g.toNat + r * pitch, 128 * accBytes ty)
  match o.kind with
  | .job c =>
    if c.kind ≠ 3 then c.rowsOf
    else (List.range c.rows).filterMap fun r =>
      if o.moved / max 1 c.perRow ≤ r ∧ 2 ≤ spGet 0 o.prog r then some (spGet 0 o.prog r - 2, c.rb) else none
  | .accld _ ty g pitch _ _ => rows g pitch ty
  | .accst _ ty _ g pitch _ _ => rows g pitch ty
  | _ => o.undone.filterMap fun i => if i.space = .remote then some (i.va.toNat, i.bytes) else none

/-- The windows that an operation in flight has messages in, or is to have: those of its ranges, or of a COMB that waits for its answer. What
staging holds, and what a worked operation has left there, has none (R402). -/
def State.windowsOf (s : State) (o : Op) : List Nat :=
  if o.complete || o.staged || o.worked then []
  else match o.kind with
    | .comb _ _ id _ _ sent answers => if sent ∧ idWin id ≠ 0 ∧ answers.isEmpty then [idWin id] else []
    | _ => (o.reach).flatMap fun r => [r.1, r.1 + r.2 - 1].filterMap fun va =>
        match s.route o.fn va with
        | .ok (.window w) => some w
        | _ => none

/-- The devices behind them. -/
def State.devsOf (s : State) (o : Op) : List Nat := (s.windowsOf o).map fun w => fld (s.window o.fn w).toNat 14 3

/-- Devices that hold messages of the partition tagged X (R436). -/
def State.drainTargets (s : State) (fn child scope : Nat) : List Nat :=
  if scope ≠ 6 then [] else ((s.ops.filter fun o => o.fn = fn && o.child = child).flatMap s.devsOf).eraseDups

/-- A drain's marker for a target, as the port sends it (R436). -/
def drainMarker (fn child : Nat) (tag : Bool) (dev : Nat) : Msg :=
  ⟨"DRAIN_MARKER", dev, [BitVec.ofNat 8 fn, BitVec.ofNat 8 child, if tag then 1 else 0]⟩

/-- A drain starts: the tag is recorded and changes in every node of the scope, every target is sent a marker, and the drain is charged (R296,
R299, R436). -/
def State.startDrain (s : State) (d : Drain) : State :=
  let tag := s.tagOf d.fn d.child
  let targets := s.drainTargets d.fn d.child d.scope
  let d := { d with tag, running := true, old := s.drainOld d.fn d.child d.scope d.die, targets }
  ({ s with
    tags := spSet false s.tags (8 * d.fn + d.child) (!tag)
    drains := s.drains ++ [d]
    out := s.out ++ targets.map (drainMarker d.fn d.child tag) } : State).book d.fn d.child 14 0 [(.drain, 1)]

/-- The widest of two scopes of a drain; requests at `.die` from two dies make it `.dev` (R296). -/
def widest (s1 die1 s2 die2 : Nat) : Nat := if s1 = 4 ∧ s2 = 4 then (if die1 = die2 then 4 else 5) else max s1 s2

/-- Whether a partition's drain serves a split, and whether it is done. -/
def Drain.isFor (d : Drain) (fn child : Nat) : Bool := d.fn = fn && d.child = child

/-- The drain that serves a requester. -/
def State.drainFor (s : State) (fn child : Nat) (who : Nat × Nat × Nat) : Option Drain :=
  s.drains.find? fun d => d.isFor fn child && d.serves.contains who

/-- A requester leaves its drain, which is gone when it is done and serves no other. -/
def State.leaveDrain (s : State) (d : Drain) (who : Nat × Nat × Nat) : State :=
  let d' := { d with serves := d.serves.filter (· ≠ who) }
  { s with drains := (s.drains.map fun e => if e = d then d' else e).filter fun e => !(e.done && e.serves.isEmpty) }

/-- Requesters that are gone, or have abandoned their DRAIN (R381), are served no more. -/
def State.dropServed (s : State) (gone : Nat × Nat × Nat → Bool) : State :=
  { s with drains := (s.drains.map fun e => { e with serves := e.serves.filter fun w => !gone w }).filter fun e =>
      !(e.done && e.serves.isEmpty) }

/-- A drain asked for: it joins the one that waits, waits itself behind the one that runs, or starts, which the Bool says (R296). -/
def State.askDrain (s : State) (fn child scope die : Nat) (who : Nat × Nat × Nat) : State × Bool :=
  let new : Drain := { fn, child, tag := false, scope, die, old := [], serves := [who] }
  match s.drains.find? fun d => d.isFor fn child && !d.done && !d.running with
  | some d => ({ s with drains := s.drains.map fun e => if e = d then
      { d with scope := widest d.scope d.die scope die, serves := d.serves ++ [who] } else e }, false)
  | none =>
    if s.drains.any fun d => d.isFor fn child && !d.done then ({ s with drains := s.drains ++ [{ new with running := false }] }, false)
    else (s.startDrain new, true)

/-- The drain: requested once what the split has to send is sent, waited for, and ended with FENCE.ar at the scope, which names the writes
issued, and covers what the split has observed, until the drain's end (R197, R297). -/
def bodyDrain (s : State) (c : Cur) (x : Ctx) : Res :=
  let scope := if syncScope x.m = 0 then 5 else syncScope x.m
  let who := (c.blk.id, c.wave.wid, c.split.sid)
  match (if c.split.started then s.drainFor c.blk.fn c.blk.child who else none) with
  | some d =>
    let c := if d.done && c.split.since = 0 && s.observed c then { c with split := { c.split with since := s.nextOp + 1 } } else c
    if !d.done || !s.fenceDone c 4 scope then .wait { s with cur := some c } [(.sync, 1)]
    else .done (((s.leaveDrain d who).loupeFence c.blk c.wave.wid true true).acquire c.blk.core scope) [(.sync, 1)]
  | none =>
    if s.ops.any fun o => o.blk = c.blk.id && o.wid = c.wave.wid && o.sids.contains c.split.sid && !o.staged &&
        (match o.kind with | .comb _ _ _ _ _ sent _ => !sent | _ => false) then .hold
    else match (s.dropServed (· = who)).askDrain c.blk.fn c.blk.child scope (dieOfCore c.blk.core) who with
      | (s, _) => .wait (s.mapSplit fun sp => { sp with since := 0 }) [(.sync, 1)]

/-- DRAIN (R297). -/
def execDrain (f : Short) (s : State) : Host.Outcome State Fault Refusal := s.issueOp 0x0C4 (.base f) specDrain bodyDrain

/-- DRAIN (R297). -/
def execDrainLong (f : Long) (s : State) : Host.Outcome State Fault Refusal := s.issueOp 0x0C4 (.long f) specDrain bodyDrain

end Sys2Proof.Machine
end

