-- ==== Sys2Proof/Machine/EvMemory.lean ====
section
/-! DEFINITION. Steps of the cores, caches, walkers and arbiters: hang reports, sleep, current, accesses performed, walks, the fault
queue's answers and drains (R80, R136, R175, R185, R190, R193, R273, R284, R288, R296, R436). A step that is not due leaves
the state as it is. -/
namespace Sys2Proof.Machine

/-- A change made to one split. -/
def State.mapSplitAt (s : State) (blk wid sid : Nat) (f : Split → Split) : State :=
  s.mapSplits blk wid fun sp => if sp.sid = sid then f sp else sp

/-! ## Hang reports and sleep -/

/-- The hang limit of a function (R78). -/
def State.hangLimit (s : State) (fn : Nat) : Option (Nat × Nat) :=
  let k := (s.pr 0x808 fn 0 0).toNat % 32
  if k = 0 then none else some (k, 2 ^ k)

/-- Whether a wave has reached the limit. -/
def State.hangReached (s : State) (c : Cur) : Bool :=
  match s.hangLimit c.blk.fn with
  | some (_, n) => decide (n ≤ c.wave.hangcnt)
  | none => false

/-- The report: logged, HANGRPT set in the wave's splits, HANGCNT zero, and HANG due under MODE.HANGTRAP (R80). -/
def State.hangReported (s : State) (c : Cur) : State :=
  let k := ((s.hangLimit c.blk.fn).map (·.1)).getD 0
  let s := s.logErr c.blk.fn (s.errOf c.blk Fc.hang 0 c.wave.wid c.split.pc 0)
  let s := s.mapCurWave fun w =>
    { w with hangcnt := 0, hangDue := if bit (c.split.read .mode 0).toNat 10 then some k else w.hangDue }
  s.mapSplits c.blk.id c.wave.wid <| Split.everywhere fun sp => sp.setStatus 4

/-- Whether a split stands at an instruction boundary: at an instruction that has not issued, or behind a SLEEP, which a trap ends
(R136, R152). -/
def Split.atBoundary (sp : Split) : Bool :=
  match sp.run with
  | .ready => true
  | .held => !sp.started
  | .sleeping _ => true
  | _ => false

/-- HANG taken by the split that issues, where it is due and neither a handler nor an earlier trap of R152 holds it back. -/
def State.takeHang (s : State) : State :=
  match s.cur with
  | none => s
  | some c => match c.wave.hangDue with
    | none => s
    | some k =>
      if c.split.uni.inHandler || c.wave.quotaDue || c.wave.preemptDue || !c.split.atBoundary then s
      else s.takeTrap { c with wave := { c.wave with hangDue := none } } Fc.hang c.split.pc (BitVec.ofNat 64 k)

/-- HANG_REPORT: at the next boundary of a wave whose HANGCNT has reached the limit (R80, R152). -/
def execHangReport (s : State) : Host.Outcome State Fault Refusal :=
  let s := s.focus s.arg.blk s.arg.wid s.arg.sid
  match s.cur with
  | none => .next s
  | some c => .next (if s.hangReached c && c.split.atBoundary then (s.hangReported c).takeHang else s.takeHang)

/-- SLEEP_EXPIRY: the count of a sleeping split has run out (R136). -/
def execSleepExpiry (s : State) : Host.Outcome State Fault Refusal :=
  .next (s.unfocus.mapSplitAt s.arg.blk s.arg.wid s.arg.sid fun sp =>
    match sp.run with
    | .sleeping _ => { sp with run := .ready }
    | _ => sp)

/-! ## Current -/

/-- BURST_END: a quarter's burst releases its reservation (R175). -/
def execBurstEnd (s : State) : Host.Outcome State Fault Refusal :=
  let s := s.unfocus
  let o := CurrentOwner.burst s.arg.core s.arg.quarter
  let k := s.clusterOf (s.arg.core / 8)
  .next (s.setCluster (s.arg.core / 8) { k with held := k.held.filter (·.1 ≠ o), queue := k.queue.filter (·.1 ≠ o) })

/-- Whether the request at the head of the queue is granted now: the budget covers it, or it is larger than the whole budget and
alone (R273). -/
def Cluster.grants (k : Cluster) : Bool :=
  match k.queue with
  | [] => false
  | (_, n) :: _ => decide (k.reserved + n ≤ k.budget) || (decide (k.budget < n) && k.held.isEmpty)

/-- CURRENT_GRANT: the head of a cluster's queue is granted (R273). -/
def execCurrentGrant (s : State) : Host.Outcome State Fault Refusal :=
  let s := s.unfocus
  let k := s.clusterOf s.arg.cluster
  match k.queue with
  | [] => .next s
  | r :: rest =>
    if !k.grants then .next s
    else
      let s := s.setCluster s.arg.cluster { k with queue := rest, held := k.held ++ [r] }
      .next (match r.1 with
        | .op id => s.mapOp id fun o => { o with stage := 2 }
        | .burst _ _ => s)

/-! ## Accesses -/

/-- LOAD_COMPLETE: lanes of a load are performed; `tag` says that a remote device answered with an error (R185, R187). -/
def execLoadComplete (s : State) : Host.Outcome State Fault Refusal :=
  .next (s.unfocus.performLoads s.arg.op s.arg.lanes s.arg.tag)

/-- An operation goes on: one that is to be staged reaches its block's staging port (R400, R442). -/
def State.advance (s : State) (id : Nat) (perform : State → State) : State :=
  match s.op? id with
  | none => s
  | some o => if o.staged then s.reachPort o else perform s

/-- STORE_PERFORMED: lanes of a store, or lines of a CWB, are performed (R193, R269); an entry of staging reaches the port. -/
def execStorePerformed (s : State) : Host.Outcome State Fault Refusal :=
  .next (s.unfocus.advance s.arg.op fun t => t.performStores s.arg.op s.arg.lanes s.arg.tag)

/-- ATOMIC_PERFORMED: an address group of an atomic, named by its lowest lane, is performed (R190); an entry of staging reaches the port. -/
def execAtomicPerformed (s : State) : Host.Outcome State Fault Refusal :=
  .next (s.unfocus.advance s.arg.op fun t => t.performAtomic s.arg.op s.arg.lane s.arg.tag)

/-! ## Translation -/

/-- TRANSLATION_WALK: a walk for a partition, which is charged for it (R299). A valid leaf is cached by the core that missed and by those of its
die that share the walk; a failed walk leaves nothing behind, and raises XLATE in the split named where its fetch asked for it (R284, R285,
R287). -/
def execTranslationWalk (s : State) : Host.Outcome State Fault Refusal :=
  let a := s.arg
  let w := s.unfocus.walk a.fn a.child a.va.toNat
  let s := s.unfocus.walked a.fn a.child a.va.toNat
  match w with
  | .ok l => .next ((a.core :: a.cores.filter fun k => dieOfCore k = dieOfCore a.core).foldl (fun s k => s.cache k a.fn a.child l) s)
  | .error x =>
    let s := s.focus a.blk a.wid a.sid
    match s.cur with
    | none => .next s
    | some c =>
      if c.blk.fn = a.fn ∧ c.blk.child = a.child ∧ bundleOf c.split.pc = a.va ∧ c.split.isReady ∧
          (s.route a.fn a.va.toNat).toOption = some .table ∧ (s.kernelOf c.blk).inCode a.va ∧
          (s.cached c.blk.core a.fn a.child a.va.toNat).isNone then
        let info := memInfo 0 false false 0 a.va.toNat
        .next (s.xlateFault c 0 a.va.toNat 2 x info fun s => s.deliver c Fc.xlate c.split.pc (BitVec.ofNat 64 info))
      else .next s

/-- A response to a token that is not held is ignored and logged (R288). -/
def State.unknownToken (s : State) (fn token : Nat) : State := s.logErr fn { code := 0x70, info := BitVec.ofNat 64 token }

/-- The held fault of a function with a token. -/
def State.xhold? (s : State) (fn token : Nat) : Option XHold := s.xholds.find? fun h => h.fn = fn && h.token = token

/-- The driver's replay: the held instruction is tried again from the start (R288). -/
def State.xfReplay (s : State) (fn token : Nat) : State :=
  match s.xhold? fn token with
  | none => s.unknownToken fn token
  | some h =>
    let s := { s with xholds := s.xholds.filter (· ≠ h) }
    s.mapSplitAt h.blk h.wid h.sid fun sp => if sp.run = .xlate token then { sp with run := .ready } else sp

/-- The driver's delivery: the held instruction raises XLATE as an H delivery (R288). A gathered row is poisoned (R218). A fetch books nothing of its own; for a spill slot the grid aborts with ACCESS (R241); on a parameter block the grid aborts
(R443). -/
def State.xfDeliver (s : State) (fn token : Nat) : State :=
  match s.xhold? fn token with
  | none => s.unknownToken fn token
  | some h =>
    let s := { s with xholds := s.xholds.filter (· ≠ h) }
    if h.job ≠ 0 then s.gatherLost (h.job - 1) h.info
    else
    let s := s.focus h.blk h.wid h.sid
    match s.cur with
    | none => s
    | some c =>
      let c := { c with split := { c.split with run := .ready } }
      if !c.blk.loaded then ({ s with cur := some c } : State).gridAbort c.blk Fc.xlate c.split.pc c.wave.wid h.info
      else if bit h.info.toNat 63 then s.spillAbort c h.passes h.info
      else if h.passes = 0 then s.deliver c Fc.xlate h.pc h.info else s.faulted c h.passes Fc.xlate h.info.toNat

/-- XF_RESP_REPLAY (R288). -/
def execXfRespReplay (s : State) : Host.Outcome State Fault Refusal := .next (s.unfocus.xfReplay s.arg.fn s.arg.token)

/-- XF_RESP_DELIVER (R288). -/
def execXfRespDeliver (s : State) : Host.Outcome State Fault Refusal := .next (s.unfocus.xfDeliver s.arg.fn s.arg.token)

/-! ## Drains (R296, R436) -/

/-- The drain that a partition's controller runs. -/
def State.runningDrain (s : State) (fn child : Nat) : Option Drain := s.drains.find? fun d => d.isFor fn child && d.running && !d.done

/-- Whether every node is quiet for a drain's tag: what was in flight is complete, and every target has acknowledged. -/
def State.drainQuiet (s : State) (d : Drain) : Bool :=
  d.targets.isEmpty && !(s.ops.any fun o => d.old.contains o.id && !o.complete && !o.worked)

/-- The next drain of a partition, if one waits, starts. -/
def State.nextDrain (s : State) (fn child : Nat) : State :=
  match s.drains.find? fun d => d.isFor fn child && !d.running with
  | none => s
  | some d => ({ s with drains := s.drains.filter (· ≠ d) } : State).startDrain d

/-- DRAIN_COMPLETE: a partition's drain ends, and the next that waits starts (R296, R297). -/
def execDrainComplete (s : State) : Host.Outcome State Fault Refusal :=
  let s := s.unfocus
  match s.runningDrain s.arg.fn s.arg.child with
  | none => .next s
  | some d =>
    if !s.drainQuiet d then .next s
    else
      let l := s.drains.map fun e => if e = d then { d with done := true } else e
      let s := { s with drains := l.filter fun e => !(e.done && e.serves.isEmpty) }
      .next (s.nextDrain s.arg.fn s.arg.child)

/-- Whether a partition's old messages to a device are all answered. -/
def State.targetQuiet (s : State) (d : Drain) (dev : Nat) : Bool :=
  !(s.ops.any fun o => d.old.contains o.id && (s.devsOf o).contains dev)

/-- FABRIC_DRAIN_ACK: a target acknowledges a marker once every message so tagged is performed or answered (R436). -/
def execFabricDrainAck (s : State) : Host.Outcome State Fault Refusal :=
  let s := s.unfocus
  let f := fun (d : Drain) => if d.isFor s.arg.fn s.arg.child && d.running && s.targetQuiet d s.arg.dev then
      { d with targets := d.targets.filter (· ≠ s.arg.dev) } else d
  .next { s with drains := s.drains.map f }

end Sys2Proof.Machine
end

