-- ==== Sys2Proof/Machine/Launch.lean ====
section
/-! DEFINITION. RSHARE, RQUERY, LAUNCH, CHWAIT, EREAD and TARM (opcodes 0x0F0–0x0F5; R249–R252, R348–R350, R376, R389). -/
namespace Sys2Proof.Machine

/-! ## Register shares (R250, R252) -/

/-- Registers of a quarter's file, in bytes (R159). -/
def quarterBytes : Nat := 131072

/-- Blocks that hold resources of a core: those of a stopped one until it retires (R165). -/
def State.coreBlocks (s : State) (core : Nat) : List Block :=
  s.allBlocks.filter fun b => b.core = core && b.method.isNone && (match b.phase with | .saved _ _ => false | _ => true)

/-- Waves of other numbers that hold registers of a quarter, with their blocks (R159, R165). -/
def State.quarterMates (s : State) (core quarter blk wid : Nat) : List (Block × Wave) :=
  (s.coreBlocks core).flatMap fun b =>
    (b.waves.filter fun w => w.quarter = quarter && !(b.id = blk && w.wid = wid)).map fun w => (b, w)

/-- Bytes that a wave of a share holds. -/
def shareBytes (share width : Nat) : Nat := share * width * 4

/-- Bytes of a quarter's file that no other wave holds. -/
def State.freeFor (s : State) (core quarter blk wid : Nat) : Nat :=
  quarterBytes - sumBy (fun (p : Block × Wave) => shareBytes p.2.share p.2.width) (s.quarterMates core quarter blk wid)

/-- Cap() of R250 for a wave. -/
def State.capOf (s : State) (b : Block) (w : Wave) : Nat :=
  let others := sumBy (fun (p : Block × Wave) => shareBytes (s.kernelOf p.1).minshare p.2.width) (s.quarterMates b.core w.quarter b.id w.wid)
  min (s.kernelOf b).demand ((quarterBytes - others) / (w.width * 8) * 2)

/-! ## Rebinding (R247) -/

/-- The instruction at which a split is held, where it is one at which a wave may be rebound: its opcode. -/
def State.heldIn (s : State) (b : Block) (sp : Split) : Option Nat :=
  if sp.run ≠ .held then none
  else match (s.fetch b sp.pc).2 with
    | .instr i _ _ _ _ => match i with
      | .rshare _ => some 0x0F0
      | .rshareLong _ => some 0x0F0
      | .barw _ => some 0x0C2
      | .barwLong _ => some 0x0C2
      | .bars _ => some 0x0C3
      | .barsLong _ => some 0x0C3
      | .waitc _ => some 0x0C0
      | .waitcLong _ => some 0x0C0
      | .fence _ => some 0x0A7
      | .fenceLong _ => some 0x0A7
      | _ => none
    | _ => none

/-- Whether a split may pause for a rebind: at the start of a bundle, at the instruction that holds it, in SLEEP, or parked. -/
def State.pausable (s : State) (b : Block) (sp : Split) : Bool :=
  sp.pc.toNat % 32 = 0 || (match sp.run with | .ready => false | .held => (s.heldIn b sp).isSome | .xlate _ => false | _ => true)

/-- A wave runs at a new share: a count of R163 begins anew (R164). -/
def Wave.rebound (w : Wave) (share : Nat) : Wave := { w with share, bundles := 0 }

/-- The print of a block's kernel at a share, from its function's cache. -/
def State.printFor (s : State) (b : Block) (share : Nat) : State := s.usePrint b.fn b.child (s.kernelOf b) share b.nwaves

/-- A uniform destination that may be discarded. -/
def dstScalZero : Slot := { kinds := [.scal, .zero] }

/-- A scalar destination takes a word at once. -/
def Split.landScal (sp : Split) (o : Opnd) (v : Nat) : Split :=
  match o with
  | .scal n => sp.land (.scal n) [(0, BitVec.ofNat 64 (v % 2 ^ 32))]
  | _ => sp

def specRshare (m : Nat) : Spec := { d := some dstScalZero, a := some Slot.uni, mOk := Mod.own m = 0 }

/-- What an RSHARE's split holds in `asked` once another of its wave has changed the wanted share. -/
def superseded : Nat := 2 ^ 20

/-- The share an RSHARE asks for. -/
def State.shareAsked (s : State) (c : Cur) (a : Nat) : Nat :=
  let k := s.kernelOf c.blk
  max k.minshare (if a = 0 then c.blk.baseShare else min (min (roundUp 2 a) k.demand) (s.capOf c.blk c.wave))

/-- An RSHARE completes with the share that the wave holds. -/
def rshareDone (s : State) (c : Cur) (x : Ctx) : Res :=
  doneWith s c { (c.split.landScal x.d c.wave.share) with asked := 0 } [(.sreg, 1)]

/-- RSHARE: the wanted share, a shrink at once where the wave's other splits may pause, and otherwise the hold until the wave runs at it
(R247, R250). -/
def bodyRshare (s : State) (c : Cur) (x : Ctx) : Res :=
  if c.split.started then
    if c.split.asked = superseded ∨ c.wave.share = c.wave.wanted then rshareDone s c x
    else .wait s [(.sreg, 1)]
  else
    let t := s.shareAsked c (x.vA c.split 0 % 2 ^ 32)
    let mark := fun (sp : Split) => if t ≠ c.wave.wanted ∧ sp.asked ≠ 0 then { sp with asked := superseded } else sp
    let w := { c.wave with wanted := t, splits := c.wave.splits.map mark }
    let shrinks := t < c.wave.share && c.wave.splits.all (s.pausable c.blk)
    let c := { c with wave := if shrinks then w.rebound t else w, split := { c.split with asked := t + 1 } }
    let s := if shrinks then s.printFor c.blk t else s
    if c.wave.share = t then rshareDone s c x else .wait { s with cur := some c } [(.sreg, 1)]

/-- RSHARE (R250). -/
def execRshare (f : Short) (s : State) : Host.Outcome State Fault Refusal := s.issueOp 0x0F0 (.base f) specRshare bodyRshare

/-- RSHARE (R250). -/
def execRshareLong (f : Long) (s : State) : Host.Outcome State Fault Refusal := s.issueOp 0x0F0 (.long f) specRshare bodyRshare

def specRquery (m : Nat) : Spec := { d := some dstScalZero, mOk := Mod.own m ≤ 5 }

/-- The value that RQUERY writes (R252). -/
def State.shareQuery (s : State) (c : Cur) (sel : Nat) : Nat :=
  let k := s.kernelOf c.blk
  match sel with
  | 0 => c.wave.share
  | 1 => k.demand
  | 2 => k.minshare
  | 3 => c.blk.baseShare
  | 4 => k.slotsAt c.wave.share
  | _ => s.capOf c.blk c.wave

/-- RQUERY: a fact about the wave's share. -/
def bodyRquery (s : State) (c : Cur) (x : Ctx) : Res :=
  doneWith s c (c.split.landScal x.d (s.shareQuery c (Mod.own x.m))) [(.sreg, 1)]

/-- RQUERY (R252). -/
def execRquery (f : Short) (s : State) : Host.Outcome State Fault Refusal := s.issueOp 0x0F1 (.base f) specRquery bodyRquery

/-- RQUERY (R252). -/
def execRqueryLong (f : Long) (s : State) : Host.Outcome State Fault Refusal := s.issueOp 0x0F1 (.long f) specRquery bodyRquery

/-! ## LAUNCH (R349) -/

/-- An operation on the `job` path, before it is issued. -/
def jobPathOp (kind : OpKind) : Op :=
  { id := 0, blk := 0, wid := 0, sid := 0, fn := 0, child := 0, core := 0, path := 4, kind }

def specLaunch (m : Nat) : Spec := { d := some { kinds := [.scal] }, a := some Slot.pair, mOk := Mod.own m = 0 }

/-- LAUNCH: its checks and its release at issue; the record is read by RECORD_ADMIT, for a block ahead of the turn after its release
from staging. -/
def bodyLaunch (s : State) (c : Cur) (x : Ctx) : Res :=
  let depth := ((s.gridOf c.blk).map (·.depth)).getD 1
  if c.wave.wid ≠ 0 then .fault Fc.access (accessInfo 0x0F2 7)
  else if depth = 10 then .fault Fc.launchDepth 11
  else withPlaces s c 128 true false false needR [(0, x.vA c.split 0)] fun s l =>
    let items := (l.filter fun p => p.2.2.1 = .mem).map fun p =>
      ({ lane := 0, space := .mem, addr := p.2.2.2, bytes := 128, va := BitVec.ofNat 64 p.2.1 } : Item)
    let ahead := s.ahead c.blk
    if items.isEmpty then .fault Fc.access (memInfo 0 false false 0 (x.vA c.split 0))
    else if !ahead && !s.released c.blk c.wave.wid (· = c.split.sid) (s.before c) 5 then .hold
    else if s.pathFull c 4 || (ahead && s.stageFull c.blk (entryLines items)) then .hold
    else match dstOf x.d false with
      | none => .done s [(.launch, 1)]
      | some d =>
        let entries := if ahead then (entryLines items).length else 0
        .done (s.addOp { jobPathOp (.launch d 0) with items, ord := 3, scope := 5, staged := ahead, entries }) [(.launch, 1)]

/-- LAUNCH (R349). -/
def execLaunch (f : Short) (s : State) : Host.Outcome State Fault Refusal := s.issueOp 0x0F2 (.base f) specLaunch bodyLaunch

/-- LAUNCH (R349). -/
def execLaunchLong (f : Long) (s : State) : Host.Outcome State Fault Refusal := s.issueOp 0x0F2 (.long f) specLaunch bodyLaunch

/-! ## CHWAIT (R350) -/

/-- The status of a block's child grid, once it has retired. -/
def State.childStatus (s : State) (b : Block) (handle : Nat) : Option Nat :=
  ((b.children.find? (·.1 = handle)).bind fun e => s.grid? e.2).bind (·.status)

/-- The value that completes a CHWAIT, once what it names has retired. `o.moved` is the number of the last child that a handle of 0
covers, and an earlier LAUNCH still in flight keeps it open. -/
def State.chwaitValue (s : State) (o : Op) (handle : Nat) : Option Nat :=
  match s.blockOf o.blk with
  | none => none
  | some b =>
    if handle ≠ 0 then
      if b.launches < handle then some 0x80000003 else s.childStatus b handle
    else if s.ops.any fun p => p.blk = o.blk && p.id < o.id && !p.complete && (match p.kind with | .launch _ _ => true | _ => false) then none
    else
      let l := (List.range o.moved).map fun i => s.childStatus b (i + 1)
      if l.all Option.isSome then some ((l.filterMap id).find? (· ≠ 0) |>.getD 0) else none

/-- A CHWAIT that can complete does: D, and the acquire. -/
def State.chwaitDone (s : State) (o : Op) : State :=
  match o.kind with
  | .chwait d handle => match s.chwaitValue o handle with
    | none => s
    | some v =>
      let s := match d with
        | some d => s.deliverTo o d 0 (BitVec.ofNat 64 v) false
        | none => s
      (s.acquire o.core 5).complete o.id
  | _ => s

/-- Every CHWAIT that can complete does. -/
def State.sweepChwait (s : State) : State := (s.ops.filter fun o => !o.complete).foldl State.chwaitDone s

def specChwait (m : Nat) : Spec := { d := some dstScalZero, a := some Slot.uni, mOk := Mod.own m = 0 }

/-- CHWAIT: in flight until the child grids named have retired. -/
def bodyChwait (s : State) (c : Cur) (x : Ctx) : Res :=
  if s.pathFull c 4 then .hold
  else
    let o := { jobPathOp (.chwait (dstOf x.d false) (x.vA c.split 0 % 2 ^ 32)) with ord := 2, scope := 5, moved := c.blk.launches }
    .done (s.addOp o).sweepChwait [(.sync, 1)]

/-- CHWAIT (R350). -/
def execChwait (f : Short) (s : State) : Host.Outcome State Fault Refusal := s.issueOp 0x0F3 (.base f) specChwait bodyChwait

/-- CHWAIT (R350). -/
def execChwaitLong (f : Long) (s : State) : Host.Outcome State Fault Refusal := s.issueOp 0x0F3 (.long f) specChwait bodyChwait

/-! ## EREAD (R376) -/

def specEread (m : Nat) : Spec := { d := some { kinds := [.scal], span := 4, align := 2 }, mOk := Mod.own m ≤ 2 }

/-- A partition's counter. -/
def State.counter (s : State) (fn child : Nat) : BitVec 96 := spGet 0 s.counters (8 * fn + child)

/-- A partition's quota in µJ as software reads it: all ones for none. -/
def State.quotaRead (s : State) (fn child : Nat) : Nat := (s.quota fn child).getD (2 ^ 64 - 1)

/-- The units that EREAD reads: a counter or the quota. -/
def State.ereadUnits (s : State) (fn child sel : Nat) : Nat :=
  match sel with
  | 0 => (s.counter fn child).toNat
  | 1 => s.quotaRead fn child * 2 ^ 32
  | _ => (s.counter fn 0).toNat

/-- EREAD: one snapshot, which holds EREAD's own booking. -/
def bodyEread (s : State) (c : Cur) (x : Ctx) : Res :=
  let s := ({ s with cur := some c } : State).bookIssue c 1 [(.eread, 1)]
  let u := s.ereadUnits c.blk.fn c.blk.child (Mod.own x.m)
  let words := [u / 2 ^ 32, u / 2 ^ 64, u, (s.pr 0x864 0 0 0).toNat]
  match x.d with
  | .scal n => .booked (s.mapSplit fun sp => words.zipIdx.foldl (fun sp p => sp.landScal (.scal (n + p.2)) p.1) sp)
  | _ => .booked s

/-- EREAD (R376). -/
def execEread (f : Short) (s : State) : Host.Outcome State Fault Refusal := s.issueOp 0x0F4 (.base f) specEread bodyEread

/-- EREAD (R376). -/
def execEreadLong (f : Long) (s : State) : Host.Outcome State Fault Refusal := s.issueOp 0x0F4 (.long f) specEread bodyEread

/-! ## TARM (R389) -/

def specTarm (m : Nat) : Spec := { d := some dstScalZero, mOk := Mod.own m ≤ 1 }

/-- CL_CURRENT.THROTTLED of a cluster (R273). -/
def State.throttled (s : State) (cluster : Nat) : Bool := (s.clusterOf cluster).budget < 4096

/-- TARM: the block's THROTTLE trap armed or disarmed. -/
def bodyTarm (s : State) (c : Cur) (x : Ctx) : Res :=
  let on := Mod.own x.m = 1
  let b := { c.blk with armed := on, throttle := if on then c.blk.throttle else none }
  doneWith s { c with blk := b } (c.split.landScal x.d (b2n (s.throttled (c.blk.core / 8)))) [(.sreg, 1)]

/-- TARM (R389). -/
def execTarm (f : Short) (s : State) : Host.Outcome State Fault Refusal := s.issueOp 0x0F5 (.base f) specTarm bodyTarm

/-- TARM (R389). -/
def execTarmLong (f : Long) (s : State) : Host.Outcome State Fault Refusal := s.issueOp 0x0F5 (.long f) specTarm bodyTarm

end Sys2Proof.Machine
end

