-- ==== Sys2Proof/Machine/Power.lean ====
section
/-! DEFINITION. Whose a core is (R362, R364, R446), and the time that passes, with the static power that it costs (R373, R414, R416). -/
namespace Sys2Proof.Machine

/-! ## Whose a core is -/

/-- Clusters of a set register. -/
def inSet (v : Dword) (cl : Nat) : Bool := bit v.toNat cl

/-- A core that was not retired at manufacture or since (R1, R425). -/
def State.present (s : State) (core : Nat) : Bool := core < 384 && !s.hw.absentCores.contains core

/-- The pool that holds a cluster. -/
def State.poolOf (s : State) (cl : Nat) : Option Nat := (List.range 8).find? fun p => inSet (s.pr 0x850 0 0 p) cl

/-- Function that owns a cluster, of F1–F7 by PM_CLUSTERS, or else F0 (R362, R446). -/
def State.clusterOwner (s : State) (cl : Nat) : Option Nat :=
  if (s.poolOf cl).isSome then none
  else some ((([1, 2, 3, 4, 5, 6, 7].find? fun f => s.partState f 0 ≠ 0 && inSet (s.pr 0x820 f 0 0) cl)).getD 0)

/-- Partition that owns a core; none in a pool. -/
def State.coreOwner (s : State) (core : Nat) : Option (Nat × Nat) :=
  (s.clusterOwner (core / 8)).map fun f => (f, ([1, 2, 3, 4].find? fun c =>
    s.partState f c ≠ 0 && bit (s.pr 0x821 f c (core / 8)).toNat (core % 8)).getD 0)

/-- A pool's members: function, child and slice in units of 10 µs (R364, R368). -/
def State.poolMembers (s : State) (p : Nat) : List (Nat × Nat × Nat) :=
  ((List.range 4).map fun i =>
    let e := fld (s.pr 0x851 0 0 p).toNat (16 * i + 15) (16 * i)
    (e % 8, fld e 5 3, fld e 15 6)).filter fun m => m.2.2 ≠ 0

/-- The member of a pool that is resident. -/
def State.residentMember (s : State) (p : Nat) : Option (Nat × Nat) :=
  let v := spGet 0 s.poolTurn p
  if v % 2 = 1 then ((s.poolMembers p)[v / 2]?).map fun m => (m.1, m.2.1) else none

/-- Whether a block holds a core: it is no batch's, and not saved. -/
def Block.onCore (b : Block) (core : Nat) : Bool :=
  b.core = core && b.method.isNone && (match b.phase with | .saved _ _ => false | _ => true)

/-- The blocks of the device as they stand, the one of the split that issues among them. -/
def State.standing (s : State) : List Block := s.blocks ++ (s.cur.map (·.blk)).toList

/-! ## Static power (R373, R416; notes/assumptions/109.md) -/

/-- Who pays for a core's static power at a moment: its owner; in a pool the partition that has not left it yet, or else the member resident;
and no partition while its cluster changes its operating point (R275, R364, R373). -/
def State.corePayer (s : State) (core : Nat) : Option (Nat × Nat) :=
  if (s.clusterOf (core / 8)).changing.isSome && !(s.standing.any fun b => (List.range 8).any fun j => b.onCore (core / 8 * 8 + j)) then none
  else match s.poolOf (core / 8) with
    | some p => ((s.standing.find? (·.onCore core)).map fun b => (b.fn, b.child)).or (s.residentMember p)
    | none => s.coreOwner core

/-- Static power of the cores for some nanoseconds, at the value of each core's gating. -/
def State.bookCores (s : State) (ns : Nat) : State :=
  ((List.range 384).filter s.present).foldl (fun s c => match s.corePayer c with
    | some m => s.book m.1 m.2 (railOfCore c) ((s.clusterOf (c / 8)).cls + 4 * spGet 0 s.hw.gate c) [(.coreTime, ns)]
    | none => s) s

/-- Static power of the slices: each function's in proportion to its ways (R264). -/
def State.bookSlices (s : State) (ns : Nat) : State :=
  (List.range 48).foldl (fun s sl => (List.range 8).foldl (fun s f =>
    s.bookSlice f 0 sl [(.wayTime, ns * popcount 16 (s.pr 0x840 f 0 sl).toNat)]) s) s

/-- Units booked for a partition on a rail, where it is charged on the calibrated table. -/
def State.bookStatic (s : State) (fn child rail units : Nat) : State :=
  if s.nominal fn child then s else (s.bookUnits fn child units).tally fn child rail units

/-- Refresh and static power of the DRAM channels of a die for a function: each child its DRAM fraction, and the rest the level-1
partition's; a partition on the nominal table pays none of its part (DESIGN CHOICE, notes/assumptions/109.md). -/
def State.bookChannels (s : State) (ns f die : Nat) : State :=
  let u := s.calibrated (8 + die) 0 [(.channelTime, ns * popcount 48 (s.pr 0x822 f 0 die).toNat)]
  let part := fun (s : State) (c : Nat) => if s.partState f c = 0 then 0 else u * fld (s.pr 0x824 f c 0).toNat 10 0 / 1024
  let kids := [1, 2, 3, 4]
  kids.foldl (fun t c => t.bookStatic f c (8 + die) (part s c)) (s.bookStatic f 0 (8 + die) (u - sumBy (part s) kids))

/-- The static power of some nanoseconds, as far as a partition is charged for it; what remains of each rail's goes to the house account. -/
def State.bookTime (s : State) (ns : Nat) : State :=
  (List.range 8).foldl (fun s f => (List.range 4).foldl (fun s d => s.bookChannels ns f d) s) ((s.bookCores ns).bookSlices ns)

/-- Time passes, by an amount that the manual leaves open: the always-on clock goes on, and each partition is charged the static power of what it
holds as it stands (R373, R414). What is about to change who pays, or at what price, comes after this. -/
def State.passTime (s : State) : State :=
  let (s, v) := s.takeFree
  let ns := (v >>> 24).toNat
  let s := s.bookTime ns
  { s with hw := { s.hw with clockNs := s.hw.clockNs + BitVec.ofNat 64 ns } }

end Sys2Proof.Machine
end

