-- ==== Sys2Proof/Machine/Package.lean ====
section
/-! DEFINITION. What Tailstock and the dispatch logic do with grids and blocks: launch records and their checks (R340, R341), completion
records and events (R342, R343), admission (R339), resources (R165), blocks and their end (R345, R347). -/
namespace Sys2Proof.Machine

/-- Whether the device is up: before step 7 of bring-up, in recovery and without power no host request is answered (R421, R422). -/
def State.awake (s : State) : Bool := s.hw.powered && s.hw.running

/-! ## Stores and loads of the package -/

/-- The place of an address for the package, by a walk of its own; none where it is not mapped with the permissions given. -/
def State.devPlace (s : State) (fn child va : Nat) (need : BitVec 3) : Option (Space × Nat) :=
  match s.route fn va with
  | .error _ => none
  | .ok (.scratch key) => some (.cscr fn, key)
  | .ok (.window _) => some (.remote, va)
  | .ok .table => match s.walk fn child va with
    | .ok l => if l.perm &&& need = need then some (.mem, l.pa + (va - l.va)) else none
    | .error _ => none

/-- Bytes stored by the package for a partition, and whether they could be. -/
def State.devStore (s : State) (fn child va : Nat) (bs : List Byte) : State × Bool :=
  let t := s.devWalk fn child va
  match s.devPlace fn child va needW with
  | none => (t, false)
  | some (sp, a) => if sp = .mem ∧ s.locked a then (t, false) else (t.storeAt fn sp a bs { flags := child }, true)

/-! ## Images in the save area (R386) -/

/-- Bytes of a partition's virtual memory, from an address on, take free values where they can be stored to: `left` bytes in at most n pages. -/
def State.blurPages (fn child : Nat) : Nat → Nat → Nat → State → State
  | 0, _, _, s => s
  | n + 1, va, left, s =>
    let size := min left (65536 - va % 65536)
    let s := match s.devPlace fn child va needW with
      | none => s.devWalk fn child va
      | some (sp, a) =>
        let s := s.devWalk fn child va
        if sp = .mem ∧ s.locked a then s else if sp = .mem then (s.blurAt sp a size).touch fn child a size true else s.blurAt sp a size
    State.blurPages fn child n (va + size) (left - size) s

/-- An image of 1,772 KiB goes to one of the 2 MiB places of the partition's save area, which the spec does not name: the bytes there take free
values, as no layout of an image is given (R270, R386, notes/assumptions/58.md). -/
def State.imageOut (s : State) (fn child : Nat) : State :=
  let n := (s.pr 0x828 fn child 0).toNat / 2 ^ 21
  if n = 0 then s
  else
    let (s, v) := s.takeFree
    let va := (s.pr 0x827 fn child 0).toNat + 2 ^ 21 * (v.toNat % n)
    State.blurPages fn child 29 va (1772 * 1024) s

/-- Whether every page of a range is mapped in the page tables with the permissions given. -/
def State.mapped (s : State) (fn child va n : Nat) (need : BitVec 3) : Bool :=
  (List.range ((va + max n 1 - 1) / 65536 - va / 65536 + 1)).all fun i =>
    match s.devPlace fn child (if i = 0 then va else (va / 65536 + i) * 65536) need with
    | some (.mem, _) => true
    | _ => false

/-! ## Launch records (R340, R341) -/

/-- The fields of a record; DEFAULT is PRIO's bit 6, or PRIO 0xFF. -/
def launchRecOf (b : List Byte) : LaunchRec :=
  let p := bytesAt b 2 1
  let wait := fun i => (bytesAt b (0x50 + 8 * i) 2, bytesAt b (0x54 + 8 * i) 4)
  { prio := p % 4, deflt := bit p 6, serial := bit p 7 && p ≠ 0xFF, cls := bytesAt b 3 1, number := BitVec.ofNat 32 (bytesAt b 4 4)
    hdr := BitVec.ofNat 64 (bytesAt b 8 8), param := BitVec.ofNat 64 (bytesAt b 0x10 8), gdimx := bytesAt b 0x18 4
    gdimy := bytesAt b 0x1C 4, gdimz := bytesAt b 0x20 4, waves := bytesAt b 0x24 1, tiles := bytesAt b 0x25 1
    lmem := BitVec.ofNat 64 (bytesAt b 0x28 8), lmemsz := BitVec.ofNat 64 (bytesAt b 0x30 8)
    hashtab := BitVec.ofNat 64 (bytesAt b 0x38 8), npages := bytesAt b 0x40 4, sig := BitVec.ofNat 64 (bytesAt b 0x48 8)
    waits := ((List.range 4).map wait).filter (·.1 ≠ 0), signal := bytesAt b 0x70 2, cpl := BitVec.ofNat 64 (bytesAt b 0x78 8) }

/-- VERSION, SIZE and the fields that are zero. -/
def recordTag (b : List Byte) : Bool :=
  bytesAt b 0 1 = 1 && bytesAt b 1 1 = 8 && bytesAt b 0x26 2 = 0 && bytesAt b 0x44 4 = 0 && bytesAt b 0x72 6 = 0 &&
  (List.range 4).all fun i => bytesAt b (0x52 + 8 * i) 2 = 0

/-- Reason 1. -/
def recordOk (b : List Byte) : Bool :=
  let p := bytesAt b 2 1
  recordTag b && (p = 0xFF || (fld p 5 2 = 0 && !(bit p 6 && p % 4 ≠ 0))) && bytesAt b 3 1 ≤ 3

/-- The code key of a function (R341, R368). -/
def State.codeKey (s : State) (fn : Nat) : BitVec 256 :=
  BitVec.ofNat 256 ((List.range 4).foldl (fun n i => n + (s.pr (0x80A + i) fn 0 0).toNat * 2 ^ (64 * i)) 0)

/-- Whether the signature over the hash table verifies. -/
def State.signed (s : State) (fn child : Nat) (r : LaunchRec) : Bool :=
  match s.peekR fn child r.hashtab.toNat (64 * r.npages), s.peekR fn child r.sig.toNat 64 with
  | some msg, some sig => Config.ed25519Verify (s.codeKey fn) msg (BitVec.ofNat 512 (ofLe sig))
  | _, _ => false

/-- Blocks of a grid. -/
def LaunchRec.blocks (r : LaunchRec) : Nat := r.gdimx * r.gdimy * r.gdimz

/-- The events that a record names: number + 1. -/
def LaunchRec.events (r : LaunchRec) : List Nat := (r.waits.map (·.1)) ++ (if r.signal = 0 then [] else [r.signal])

/-- EV_BASE of a function (R338). -/
def State.evBase (s : State) (fn : Nat) : Nat := (s.cfgReg fn 0xF00).toNat

/-- Whether a record's grid breaks reason 7. -/
def LaunchRec.badShape (r : LaunchRec) (k : Kernel) : Bool :=
  r.gdimx = 0 || r.gdimy = 0 || r.gdimz = 0 || 2 ^ 32 ≤ r.blocks || r.waves < 1 || 32 < r.waves || 2048 < r.waves * k.width ||
  8 < r.tiles || (bit k.trap.toNat 1 && r.lmemsz.toNat < 65536)

/-- The outcome of R341's checks: the pages verified, counted from the header's, and the kernel or the reason. Each page of the tables is
verified before it is read: of one that fails nothing is read, so that the Enlarger has no kernel (R443; notes/assumptions/104.md). -/
def State.checkLaunch (s : State) (fn child : Nat) (b : List Byte) : List Nat × Except Nat Kernel :=
  let r := launchRecOf b
  let hdr := r.hdr.toNat
  if !recordOk b then ([], .error 1)
  else if !(s.mapped fn child hdr 64 (needR ||| needX) && (s.devPlace fn child r.param.toNat needR).isSome &&
      s.mapped fn child r.hashtab.toNat (64 * r.npages) needR && s.mapped fn child r.sig.toNat 64 needR) then ([], .error 2)
  else if !s.signed fn child r then ([], .error 3)
  else match s.peekR fn child hdr 64 with
    | none => ([0], .error 4)
    | some h =>
      let k := kernelOfHeader hdr h
      if k.hashIdx < r.npages && !s.pageMatches fn child r k 0 then ([0], .error 4)
      else if !headerOk h k r.npages then ([0], .error 5)
      else
        let ok := s.pageMatches fn child r k
        let t := s.tables fn child k ok
        let stop := s.kernelEnd fn child k ok t
        (0 :: (k.tablePages stop).filter (· ≠ 0),
          if r.npages < k.hashIdx + k.pagesTo stop then .error 5
          else if k.cls ≠ 3 ∧ r.cls ≠ 3 ∧ r.cls ≠ k.cls then .error 6
          else if r.badShape k then .error 7
          else if r.blocks % k.gang ≠ 0 then .error 8
          else match t.bind fun t => k.withTables t (s.codeBytes fn child k) with
            | none => .error 9
            | some k =>
              if r.events.any (4096 < ·) || (s.evBase fn = 0 && !r.events.isEmpty) then .error 10
              else if k.role = 1 ∨ k.role = 2 ∨ (k.role = 3 ∧ fn ≠ 0) then .error 11
              else .ok { k with hash := s.kernelHash fn child r.hashtab.toNat h k stop })

/-- What the checks read: the header, the places that the record names, the hash table with its signature, and the pages verified
(R299, R357). -/
def State.launchReads (s : State) (fn child : Nat) (b : List Byte) (pages : List Nat) : State :=
  let r := launchRecOf b
  if !recordOk b then s
  else
    let s := (((s.readRange fn child r.hdr.toNat 64).devWalk fn child r.param.toNat).readRange fn child r.hashtab.toNat
      (64 * r.npages)).readRange fn child r.sig.toNat 64
    s.verifyPages fn child r (kernelOfHeader r.hdr.toNat ((s.peekR fn child r.hdr.toNat 64).getD [])) pages

/-! ## Completion records and events (R342, R343) -/

/-- The bytes of a completion record. -/
def completionBytes (a : AbortInfo) : List Byte :=
  leBytes 4 (2 ^ 31 + a.status) ++ leBytes 4 a.code.toNat ++ leBytes 8 a.pc.toNat ++ leBytes 4 a.block ++ leBytes 4 a.wid ++
  leBytes 8 a.info.toNat

/-- A grid's completion record written; one whose place is misaligned or not mapped is logged (R341). -/
def State.writeCompletion (s : State) (g : Grid) (a : AbortInfo) : State :=
  let cpl := g.rcd.cpl.toNat
  if cpl = 0 then s
  else
    let r := if cpl % 32 = 0 then s.devStore g.fn g.child cpl (completionBytes a) else (s, false)
    if r.2 then r.1
    else r.1.logErr g.fn { code := 0x71, cause := a.status, flags := g.child, grid := g.rcd.number, info := g.rcd.cpl }

/-- Address of an event's counter; a record holds the number + 1. -/
def State.eventVa (s : State) (fn field : Nat) : Nat := s.evBase fn + 8 * (field - 1)

/-- The value of an event's counter, by a `.home` load of the function's level-1 partition. -/
def State.eventValue (s : State) (fn field : Nat) : Option Nat :=
  match s.devPlace fn 0 (s.eventVa fn field) needR with
  | some (sp, a) => let r := s.fetchAt sp a 8; if r.2 then none else some (ofLe r.1)
  | none => none

/-- SIGNAL: 1 added to the counter, by an atomic of the level-1 partition; one that cannot be made, of a line of locked code among them,
is logged (R281, R343, R357). -/
def State.signal (s : State) (g : Grid) : State :=
  if g.rcd.signal = 0 ∨ 4096 < g.rcd.signal ∨ s.evBase g.fn = 0 then s
  else
    let va := s.eventVa g.fn g.rcd.signal
    let t := s.devWalk g.fn 0 va
    let bad := t.logErr g.fn { code := 0x71, flags := g.child, grid := g.rcd.number, info := BitVec.ofNat 64 va }
    match s.devPlace g.fn 0 va needRW with
    | none => bad
    | some (sp, a) =>
      let r := s.fetchAt sp a 8
      if sp = .mem ∧ s.locked a then bad
      else if r.2 then t.logErr g.fn { code := 0x71, flags := g.child, grid := g.rcd.number, info := BitVec.ofNat 64 a } true
      else (t.scrub g.fn sp a 8).storeAt g.fn sp a (leBytes 8 ((ofLe r.1 + 1) % 2 ^ 64))

/-- The grid before another in its queue. -/
def State.queueBefore (s : State) (g : Grid) : Option Grid :=
  if g.queue.isNone then none
  else (s.grids.filter fun x => x.fn = g.fn && x.queue = g.queue && x.handle < g.handle).getLast?

/-- Whether a grid's waits are met, and for a SERIAL one the grid before it has retired. -/
def State.waitsMet (s : State) (g : Grid) : Bool :=
  (g.rcd.waits.all fun w => match s.eventValue g.fn w.1 with | some v => decide (w.2 ≤ v) | none => false) &&
  (!g.rcd.serial || ((s.queueBefore g).map (·.status.isSome)).getD true)

/-- A test of a grid's waits, each by a load at its home (R281, R299, R343). -/
def State.retest (s : State) (h : Nat) : State :=
  match s.grid? h with
  | some g =>
    if g.status.isSome ∨ g.ready then s
    else
      let t := g.rcd.waits.foldl (fun s w => s.readRange g.fn 0 (s.eventVa g.fn w.1) 8) s
      if s.waitsMet g then t.mapGrid h fun g => { g with ready := true } else t
  | none => s

/-! ## Admission (R339, R349) -/

/-- A grid admitted with its record's bytes: the checks, the record of a failed launch, and otherwise the pages verified and the first
print, the one at the minimum share, which the reserve is taken from (R232, R238, R357). A child of a grid that has aborted since its LAUNCH
aborts with it (R154, R350). -/
def State.takeGrid (s : State) (g : Grid) (b : List Byte) (dfltPrio : Nat) : State :=
  let rcd := launchRecOf b
  let r := s.checkLaunch g.fn g.child b
  let s := s.launchReads g.fn g.child b r.1
  let kept := r.1.filter fun i => match r.2 with
    | .ok k => s.pageMatches g.fn g.child rcd k i
    | .error _ => false
  let g := { g with handle := s.nextGrid, rcd, prio := if rcd.deflt then dfltPrio else rcd.prio }
  let s := { s with nextGrid := s.nextGrid + 1 }
  match r.2 with
  | .error reason =>
    let s := (s.writeCompletion g ⟨2, BitVec.ofNat 32 reason, 0, 0, 0, 0⟩).signal g
    { s with grids := s.grids ++ [{ g with status := some 2 }] }
  | .ok k =>
    let g := { g with
      kernel := k, cls := if k.cls ≠ 3 then k.cls else rcd.cls
      level := if k.role = 3 then 2 else g.level
      verified := kept.foldl (fun v i => spSet false v (k.hashIdx + i) true) []
      abort := (g.parent.bind fun p => (s.grid? p.1).bind (·.abort)).map fun a => { a with status := 5 } }
    let s := kept.foldl (fun s i => s.lockPage g.fn g.child (k.addr.toNat / 65536 + i) g.handle) s
    let s := s.usePrint g.fn g.child k k.minshare rcd.waves
    ({ s with grids := s.grids ++ [g] } : State).retest g.handle

/-! ## Resources (R158, R165) -/

/-- A sum over the waves of blocks that lie in a quarter. -/
def inQuarter (bs : List Block) (q : Nat) (f : Wave → Nat) : Nat :=
  sumBy (fun (b : Block) => sumBy (fun (w : Wave) => if w.quarter = q then f w else 0) b.waves) bs

/-- What a block asks of a core. -/
structure Need where
  kernel : Kernel
  waves : Nat
  tiles : Nat
  share : Nat

/-- The first quarter of a block's waves: the one with the most free register bytes. -/
def firstQuarter (used : Nat → Nat) : Nat :=
  [1, 2, 3].foldl (fun q x => if used x < used q then x else q) 0

/-- Whether a core can grant everything a block needs: the quarter of its first wave. -/
def State.grant (s : State) (core : Nat) (n : Need) : Option Nat :=
  let bs := s.coreBlocks core
  let used := fun q => inQuarter bs q fun w => shareBytes w.share w.width
  let q0 := firstQuarter used
  let news := fun q => ((List.range n.waves).filter fun j => (q0 + j) % 4 = q).length
  let fits := fun q =>
    used q + news q * shareBytes n.share n.kernel.width ≤ quarterBytes &&
    inQuarter bs q (fun w => b2n w.live) + news q ≤ 16 && inQuarter bs q (fun w => w.splits.length) + news q ≤ 32
  let scratch := sumBy (fun (b : Block) => (s.kernelOf b).scratchBytes b.nwaves) bs
  let bars := sumBy (fun (b : Block) => (s.kernelOf b).barSlots) bs
  let tiles := sumBy (fun (b : Block) => s.tilesOf b) bs
  if (List.range 4).all fits && scratch + n.kernel.scratchBytes n.waves ≤ 786432 && bars + n.kernel.barSlots ≤ 16 &&
      tiles + n.tiles ≤ 8 then some q0 else none

/-! ## Blocks (R25, R58, R99, R158, R162) -/

/-- The age of the next wave on a core. -/
def State.nextAge (s : State) (core : Nat) : Nat :=
  ((s.coreBlocks core).flatMap (·.waves)).foldl (fun n w => max n (w.age + 1)) 0

/-- A wave at its start. -/
def startWave (g : Grid) (b : Block) (share q0 age j : Nat) : Wave :=
  let k := g.kernel
  let full := fullMask k.width
  let sp : Split := { sid := 0, owned := full, exec := full, pc := k.entry, uni := { mode := k.modeInit } }
  { wid := j, width := k.width, quarter := (q0 + j) % 4, age := age + j, share, wanted := share, level := g.level
    splits := [sp.sets .rseed (seedVals b g.rcd.gdimx g.rcd.gdimy j full 0)] }

/-- A block of a grid at its dispatch to a core. -/
def State.newBlock (s : State) (g : Grid) (index core q0 share slot : Nat) : Block :=
  let r := g.rcd
  let b : Block := { id := s.nextBlk, grid := g.handle, fn := g.fn, child := g.child, index, bidx := index % r.gdimx
                     bidy := index / r.gdimx % r.gdimy, bidz := index / (r.gdimx * r.gdimy), param := r.param, core
                     nwaves := r.waves, baseShare := share, slot, loaded := g.kernel.params.isEmpty }
  { b with waves := (List.range r.waves).map (startWave g b share q0 (s.nextAge core)) }

/-- A partition becomes resident on a core: the first-level cache of another's is invalidated (R170). -/
def State.occupy (s : State) (core fn child : Nat) : State :=
  let who := 8 * fn + child + 1
  if spGet 0 s.lastOn core = who then s else { s.l1Clear core with lastOn := spSet 0 s.lastOn core who }

/-- A block placed. -/
def State.placeBlock (s : State) (g : Grid) (index core q0 share slot : Nat) : State :=
  let b := s.newBlock g index core q0 share slot
  let s := s.occupy core g.fn g.child
  let s := { s with nextBlk := s.nextBlk + 1, blocks := s.blocks ++ [b] }
  let s := s.bookCore g.fn g.child core [(.clearing, 1)]
  s.mapGrid g.handle fun g => { g with dispatched := spSet false g.dispatched index true }

/-! ## The end of blocks (R345, R347) -/

/-- Whether every wave of a block has ended. -/
def Block.ended (b : Block) : Bool := b.waves.all fun w => w.splits.isEmpty

/-- Whether a block has no operation in flight. -/
def State.quiet (s : State) (b : Block) : Bool := !(s.ops.any fun o => o.blk = b.id)

/-- Whether a block is over: its waves have ended, or its grid's abort or handoff has stopped them, and its counters are zero. One that a
reserved opcode has stopped waits for what becomes of it, in a grid handed off before too (R439). -/
def State.blockOver (s : State) (b : Block) : Bool :=
  let gone := match s.gridOf b with
    | some g => b.phase = .stopped && (g.abort.isSome || g.handoff.isSome) && g.absent.isNone
    | none => false
  (gone || (b.phase = .resident && b.ended)) && s.quiet b

/-- A slot's place among those of the device. -/
def Bind.place (d : Bind) : Nat := 64 * d.cluster + d.slot

/-- Blocks that a slot has bound (R347). -/
def Bind.holds (d : Bind) (b : Block) : Bool := b.grid = d.words.grid && b.method.isNone && b.slot = d.place

/-- Slots whose blocks have all retired, or that are withdrawn and have none left (R347). -/
def State.sweepBinds (s : State) : State :=
  { s with binds := s.binds.filter fun d =>
      match s.grid? d.words.grid with
      | none => false
      | some g =>
        let range := List.range (d.words.last + 1 - d.words.first)
        g.status.isNone && if d.withdrawn
          then s.allBlocks.any d.holds
          else range.any fun i => !spGet false g.retired (d.words.first + i) }

/-- A block retires: it leaves its core, and what it held is free; in a pool another may pay for the core from now on. -/
def State.retireBlock (s : State) (b : Block) : State :=
  let s := if (s.poolOf (b.core / 8)).isSome then s.passTime else s
  let s := s.mapGrid b.grid fun g => { g with
    retired := spSet false g.retired b.index true
    gangBars := g.gangBars.filter fun e => e.1 / 64 ≠ b.index / max 1 g.kernel.gang }
  let s := { s with blocks := s.blocks.filter (·.id ≠ b.id), xholds := s.xholds.filter (·.blk ≠ b.id) }
  (((s.dropServed fun w => w.1 = b.id).sweepDarkroom).sweepBinds).settleStops b.fn

end Sys2Proof.Machine
end

