-- ==== Sys2Proof/Machine/EvLaunch.lean ====
section
/-! DEFINITION. Steps of Tailstock, the dispatch logic, the Enlarger and the Ordered Release Unit: queues, records, waits, bind records,
dispatch, retirement, code pages, rebinding and the turn (R247, R251, R257, R339–R351, R357, R402). A step that is not due leaves the
state as it is. -/
namespace Sys2Proof.Machine

/-! ## Queues (R338, R339) -/

/-- Offset of a register of a launch queue. -/
def qReg (q off : Nat) : Nat := 0x1000 + 32 * q + off

/-- log2 of a queue's record count; 0 where it is disabled. -/
def State.qSize (s : State) (fn q : Nat) : Nat := (s.cfgReg fn (qReg q 8)).toNat % 16

/-- A bit of Q_ERR set. -/
def State.qError (s : State) (fn q n : Nat) : State :=
  s.setCfg fn (qReg q 0x18) (s.cfgReg fn (qReg q 0x18) ||| BitVec.ofNat 64 (2 ^ n))

/-- A store to Q_TAIL. -/
def State.doorbell (s : State) (fn q tail : Nat) : State :=
  let k := s.qSize fn q
  if k = 0 then s.qError fn q 0
  else if 2 ^ k ≤ tail then s.qError fn q 1
  else s.setCfg fn (qReg q 0x14) (BitVec.ofNat 64 tail)

/-- Q_TAIL_DOORBELL (R339). -/
def execQTailDoorbell (s : State) : Host.Outcome State Fault Refusal :=
  let s := s.unfocus
  .next (if s.awake then s.doorbell s.arg.fn s.arg.q (s.arg.value.toNat % 2 ^ 32) else s)

/-- The child that a queue's records run in; 0 is the level-1 partition. -/
def State.routeOf (s : State) (fn q : Nat) : Nat :=
  ([1, 2, 3, 4].find? fun c => bit (s.pr 0x82A fn c 0).toNat q).getD 0

/-- Whether Tailstock takes a record from a queue now. -/
def State.queueDue (s : State) (fn q : Nat) : Bool :=
  let st := s.partState fn (s.routeOf fn q)
  s.qSize fn q ≠ 0 && s.cfgReg fn (qReg q 0x10) ≠ s.cfgReg fn (qReg q 0x14) && bit (s.pr 0x82A fn 0 0).toNat q && (st = 1 || st = 3)

/-- The record at Q_HEAD admitted, and Q_HEAD advanced; one that cannot be read is logged and passed over. -/
def State.takeRecord (s : State) (fn q : Nat) : State :=
  let head := (s.cfgReg fn (qReg q 0x10)).toNat
  let va := (s.cfgReg fn (qReg q 0)).toNat + 128 * head
  let child := s.routeOf fn q
  let s := s.setCfg fn (qReg q 0x10) (BitVec.ofNat 64 ((head + 1) % 2 ^ s.qSize fn q))
  let t := s.readRange fn 0 va 128
  match s.peekR fn 0 va 128 with
  | none => t.logErr fn { code := 0x70, flags := child, info := BitVec.ofNat 64 va }
  | some b => t.takeGrid { handle := 0, fn, child, queue := some q, level := b2n (bit (s.pr 0x809 fn 0 0).toNat q) } b
      ((s.cfgReg fn (qReg q 0xC)).toNat % 4)

/-- Whether a LAUNCH's record is read now: released from staging, its release made, and no earlier LAUNCH of its block outstanding. -/
def State.launchDue (s : State) (o : Op) : Bool :=
  !o.staged && !o.complete && s.mayPerform o &&
  s.ops.all fun p => !(p.blk = o.blk && p.id < o.id && !p.complete && (match p.kind with | .launch _ _ => true | _ => false))

/-- Child grids of a function that have not retired. -/
def State.openChildren (s : State) (fn : Nat) : Nat :=
  (s.grids.filter fun g => g.fn = fn && g.parent.isSome && g.status.isNone).length

/-- A LAUNCH completes: D is written. -/
def State.launched (s : State) (o : Op) (d : Dst) (v : Nat) (bad : Bool) : State :=
  (s.deliverTo o d 0 (BitVec.ofNat 64 v) bad).complete o.id

/-- The record of a LAUNCH read, and the child admitted (R349). A poisoned record admits nothing and leaves D poisoned. -/
def State.readLaunch (s : State) (o : Op) (d : Dst) : State :=
  match o.items.head?, s.blockOf o.blk with
  | some i, some b =>
    let s := (s.scrub o.fn i.space i.addr 128).touch o.fn o.child i.addr 128 false
    let r := s.fetchAt i.space i.addr 128
    if r.2 then (s.countUE o.fn 1).launched o d 0 true
    else if !recordTag r.1 then s.launched o d 0x80000002 false
    else if 4096 ≤ s.openChildren o.fn then s.launched o d 0x80000001 false
    else
      let n := b.launches + 1
      let depth := ((s.gridOf b).map (·.depth)).getD 1
      let s := s.mapBlock b.id fun b => { b with launches := n, children := b.children ++ [(n, s.nextGrid)] }
      let later := fun (p : Op) => if p.blk = o.blk && o.id < p.id && (match p.kind with | .chwait _ _ => true | _ => false)
        then { p with moved := p.moved + 1 } else p
      let s := { s with ops := s.ops.map later }
      (s.launched o d n false).takeGrid
        { handle := 0, fn := o.fn, child := o.child, depth := depth + 1, parent := some (b.grid, b.id, n) } r.1 0
  | _, _ => s

/-- RECORD_ADMIT: a record of a launch queue, or with `arg.tag` of a LAUNCH (R339, R341, R349). -/
def execRecordAdmit (s : State) : Host.Outcome State Fault Refusal :=
  let s := s.unfocus
  if s.arg.tag then
    match s.op? s.arg.op with
    | none => .next s
    | some o => match o.kind with
      | .launch d _ => .next (if s.launchDue o then (s.readLaunch o d).sweepChwait else s)
      | _ => .next s
  else .next (if s.queueDue s.arg.fn s.arg.q then s.takeRecord s.arg.fn s.arg.q else s)

/-! ## Readiness and merging (R343, R344, R351) -/

/-- WAIT_RETEST (R343). -/
def execWaitRetest (s : State) : Host.Outcome State Fault Refusal := .next (s.unfocus.retest s.arg.grid)

/-- PRIORITY_AGING: 4 ms of readiness without a dispatch (R344). -/
def execPriorityAging (s : State) : Host.Outcome State Fault Refusal :=
  .next (s.unfocus.mapGrid s.arg.grid fun g =>
    if g.ready ∧ g.dispatched.isEmpty ∧ g.status.isNone then { g with prio := min 3 (g.prio + 1) } else g)

/-- Whether a grid has neither begun nor been merged. -/
def Grid.fresh (g : Grid) : Bool := g.status.isNone && g.abort.isNone && g.dispatched.isEmpty && g.lead.isNone

/-- What launches that merge have in common (R351): of the priority what their records carry, whatever age has made of it (R344). -/
def Grid.mergeKey (g : Grid) : List Nat :=
  [(g.parent.map (·.1)).getD 0, g.fn, g.child, g.rcd.hdr.toNat, g.rcd.hashtab.toNat, g.rcd.gdimx, g.rcd.gdimy, g.rcd.gdimz, g.rcd.waves,
   g.rcd.tiles, g.cls, g.rcd.lmemsz.toNat, if g.rcd.deflt then 0 else g.rcd.prio]

/-- Whether a launch may be merged at all. -/
def Grid.mergeable (g : Grid) : Bool := g.parent.isSome && g.rcd.waits.isEmpty && g.rcd.signal = 0 && !g.rcd.serial

/-- LAUNCH_AGGREGATE: a child grid becomes the next member of the grid that the first one leads (R351). -/
def execLaunchAggregate (s : State) : Host.Outcome State Fault Refusal :=
  let s := s.unfocus
  match s.grid? s.arg.grid, s.grid? s.arg.other with
  | some a, some b =>
    let members := (s.mergedWith a.handle).length + 1
    if a.handle < b.handle ∧ a.fresh ∧ b.fresh ∧ a.mergeable ∧ b.mergeable ∧ a.mergeKey = b.mergeKey ∧ members < 64 ∧
        (s.mergedWith b.handle).isEmpty
    then .next (s.mapGrid b.handle fun g => { g with lead := some a.handle })
    else .next s
  | _, _ => .next s

/-! ## Bind records (R346, R347, R405) -/

/-- An installed slot. -/
def State.bind? (s : State) (cluster slot : Nat) : Option Bind := s.binds.find? fun d => d.cluster = cluster && d.slot = slot

/-- Whether a partition may place work on a core: it owns the core, or is a member of the pool that holds it. -/
def State.mayUse (s : State) (fn child core : Nat) : Bool :=
  s.present core &&
  match s.poolOf (core / 8) with
  | some p => (s.poolMembers p).any fun m => m.1 = fn && m.2.1 = child
  | none => s.coreOwner core = some (fn, child)

/-- Cores of a cluster that a record names. -/
def coreList (w : BindWords) (cl : Nat) : List Nat := ((List.range 8).filter fun j => w.cores.getLsbD j).map (8 * cl + ·)

/-- Whether a share lies in a kernel's range (R233; R253's example, which goes past it, is followed by R233: notes/assumptions/51.md). -/
def Kernel.shareOk (k : Kernel) (n : Nat) : Bool := n % 2 = 0 && k.minshare ≤ n && n ≤ k.demand

/-- Whether an installed slot covers a block of a range. One that is withdrawn covers the blocks that are left of it alone (R347). -/
def State.covered (s : State) (g first last : Nat) : Bool :=
  s.binds.any fun d => d.words.grid = g && d.words.first ≤ last && first ≤ d.words.last &&
    (!d.withdrawn || s.allBlocks.any fun b => d.holds b && first ≤ b.index && b.index ≤ last)

/-- Whether a cluster may take work of a class: its own, or work of any class (R274), and none after an error in its registers (R276). -/
def State.classOk (s : State) (cl cls : Nat) : Bool := (cls = 3 || cls = (s.clusterOf cl).cls) && !(s.clusterOf cl).failed

/-- Whether PRINT holds a kernel at a share (R346). -/
def State.printHeld (s : State) (fn : Nat) (k : Kernel) (share place : Nat) : Bool := (s.print? fn k share).any (·.place = place)

/-- Headstock's checks of a bind record for a slot (R346, R405, and CORE_HOLD, CHANGING). -/
def State.bindOk (s : State) (cl slot : Nat) (w : BindWords) : Bool :=
  match s.grid? w.grid with
  | none => false
  | some g =>
    let k := g.kernel
    let cores := coreList w cl
    let c := s.clusterOf cl
    g.status.isNone && g.fn = w.fn && g.child = w.child && cl < 48 && slot < 64 &&
    cores.all (s.mayUse w.fn w.child) && (cores.all fun j => !bit (s.pr 0x861 0 0 cl).toNat (j % 8)) &&
    c.changing.isNone && w.cls = g.cls && s.classOk cl w.cls && s.printHeld w.fn k w.share w.print && k.shareOk w.share &&
    w.first ≤ w.last && w.last < g.rcd.blocks && w.first % k.gang = 0 && (w.last + 1) % k.gang = 0 && k.gang ≤ cores.length &&
    !s.covered w.grid w.first w.last && (s.bind? cl slot).isNone &&
    (!k.det || w.first ≤ g.turn ||
      (s.allBlocks.any fun b => b.grid = g.handle && b.method.isNone && b.phase = .resident && b.index = g.turn) ||
      (s.binds.any fun d => d.words.grid = w.grid && !d.withdrawn && d.words.first ≤ g.turn && g.turn ≤ d.words.last))

/-- Word 0 of a bind record. -/
def bindWord0 (w : BindWords) : Nat :=
  2 ^ 31 + w.fn * 2 ^ 28 + w.child * 2 ^ 25 + w.cls * 2 ^ 23 + w.cores.toNat * 2 ^ 15 + w.share * 2 ^ 6

/-- A record that Headstock discards is logged in F0's error registers. -/
def State.discard (s : State) (w : BindWords) : State :=
  s.logErr 0 { code := 0x70, flags := w.child, info := BitVec.ofNat 64 (bindWord0 w) }

/-- Whether a grid's blocks are dispatched now: active partition within its quota, ready, not ended early (R365, R380, R343). -/
def State.dispatches (s : State) (g : Grid) : Bool :=
  s.partState g.fn g.child = 1 && !s.over g.fn 0 && !s.over g.fn g.child && g.ready && g.status.isNone && g.abort.isNone &&
  g.absent.isNone && g.handoff.isNone

/-- Whether a block of a grid stands in no slot, and has not been dispatched. -/
def State.unbound (s : State) (g : Grid) : Bool :=
  let mine := s.binds.filter fun d => d.words.grid = g.handle && !d.withdrawn
  let gone := (g.dispatched ++ g.withdrawnBlocks).filter fun e => !(mine.any fun d => d.words.first ≤ e.1 && e.1 ≤ d.words.last)
  sumBy (fun (d : Bind) => d.words.last + 1 - d.words.first) mine + gone.length < g.rcd.blocks

/-- The grid that the shipped policy binds next: of the next function in turn, the one of the highest effective priority, and among
equals the earliest admitted (R344). -/
def State.policyGrid (s : State) : Option Nat :=
  let l := s.grids.filter fun g => s.dispatches g && s.unbound g
  let fn? := ((List.range 8).map fun i => (s.lastBound + 1 + i) % 8).find? fun f => l.any (·.fn = f)
  fn?.bind fun f => ((l.filter (·.fn = f)).foldl (fun (m : Option Grid) g => match m with
    | none => some g
    | some x => if x.prio < g.prio ∨ (x.prio = g.prio ∧ g.handle < x.handle) then some g else m) none).map (·.handle)

/-- The print that a record names is taken from the cache, or made (R246). -/
def State.printAsked (s : State) (w : BindWords) : State :=
  match s.grid? w.grid with
  | none => s
  | some g => if g.kernel.shareOk w.share then s.usePrint g.fn g.child g.kernel w.share g.rcd.waves else s

/-- BIND_RECORD_INSTALL (R346): a record that Tailstock has written, with the print that it asks for; one that is discarded changes nothing.
`arg.tag` says that the shipped policy writes it, which it does for the grid that it chooses alone; no record is trusted. -/
def execBindRecordInstall (s : State) : Host.Outcome State Fault Refusal :=
  let s := s.unfocus
  let a := s.arg
  if a.tag ∧ s.policyGrid ≠ some a.bind.grid then .next s
  else
    let t := s.printAsked a.bind
    if t.bindOk a.cluster a.slot a.bind then
      .next { t with binds := t.binds ++ [{ cluster := a.cluster, slot := a.slot, words := a.bind }], lastBound := a.bind.fn }
    else .next (s.discard a.bind)

/-- Whether a record written over an installed one changes its share alone: PRINT stays, or names the print at the new share (R347;
notes/assumptions/105.md). -/
def State.sharesOnly (s : State) (d : Bind) (k : Kernel) (w : BindWords) : Bool :=
  !d.withdrawn && k.shareOk w.share && { w with share := d.words.share, print := d.words.print } = d.words &&
  (w.print = d.words.print || s.printHeld w.fn k w.share w.print)

/-- BIND_SHARE_REWRITE: a slot's record written anew with another share (R347). -/
def execBindShareRewrite (s : State) : Host.Outcome State Fault Refusal :=
  let s := s.unfocus
  let w := s.arg.bind
  match s.bind? s.arg.cluster s.arg.slot with
  | none => .next (s.discard w)
  | some d =>
    let k := ((s.grid? w.grid).map (·.kernel)).getD {}
    let t := s.printAsked w
    if !t.sharesOnly d k w then .next (s.discard w)
    else
      let s := t
      let binds := s.binds.map fun e => if e = d then { d with words := w } else e
      let s := s.mapWaves d.holds fun x => { x with wanted := w.share }
      .next { s with binds, blocks := s.blocks.map fun b => if d.holds b then { b with baseShare := w.share } else b }

/-- BIND_WITHDRAW: a slot's undispatched blocks go back to Tailstock (R347). -/
def execBindWithdraw (s : State) : Host.Outcome State Fault Refusal :=
  let s := s.unfocus
  let binds := s.binds.map fun d => if d.cluster = s.arg.cluster && d.slot = s.arg.slot then { d with withdrawn := true } else d
  .next ({ s with binds } : State).sweepBinds

/-! ## Dispatch (R255, R256, R347) -/

/-- Whether a partition may be given a core now: powered (R416), not held by blocks of another partition (R446), in a pool only while
it is the resident member (R364). -/
def State.coreOpen (s : State) (fn child core : Nat) : Bool :=
  s.mayUse fn child core && spGet 0 s.hw.gate core ≠ 2 &&
  ((s.coreBlocks core).all fun b => b.fn = fn && b.child = child) &&
  match s.poolOf (core / 8) with
  | some p => s.residentMember p = some (fn, child)
  | none => true

/-- The next block of a slot's range that is not dispatched. -/
def nextBlockOf (g : Grid) (d : Bind) : Option Nat :=
  ((List.range (d.words.last + 1 - d.words.first)).map (d.words.first + ·)).find? fun i =>
    !spGet false g.dispatched i && !spGet false g.withdrawnBlocks i

/-- Whether a deterministic grid's blocks before one have all been dispatched, or given away: they are dispatched in increasing index (R405). -/
def Grid.inTurn (g : Grid) (i : Nat) : Bool :=
  !g.kernel.det || (List.range i).all fun j => spGet false g.dispatched j || spGet false g.withdrawnBlocks j

/-- Blocks of a Loupe grid that are resident (R410). -/
def State.loupeRoom (s : State) (g : Grid) (n : Nat) : Bool :=
  !bit g.kernel.trap.toNat 1 || (s.allBlocks.filter fun b => b.grid = g.handle && b.method.isNone).length + n ≤ 256

/-- BLOCK_DISPATCH: the next block, or gang, of a slot is placed, if cores can grant what it needs (R347). -/
def execBlockDispatch (s : State) : Host.Outcome State Fault Refusal :=
  let s := s.unfocus
  match s.bind? s.arg.cluster s.arg.slot with
  | none => .next s
  | some d => match s.grid? d.words.grid with
    | none => .next s
    | some g => match nextBlockOf g d with
      | none => .next s
      | some i =>
        let n : Need := ⟨g.kernel, g.rcd.waves, g.rcd.tiles, d.words.share⟩
        let cores := (coreList d.words d.cluster).filterMap fun c =>
          if s.coreOpen g.fn g.child c then (s.grant c n).map fun q => (c, q) else none
        if d.withdrawn || !s.dispatches g || !s.classOk d.cluster d.words.cls || (s.clusterOf d.cluster).changing.isSome ||
            cores.length < g.kernel.gang || !s.loupeRoom g g.kernel.gang || !g.inTurn i then .next s
        else
          .next ((cores.take g.kernel.gang).zipIdx.foldl
            (fun s p => s.placeBlock g (i + p.2) p.1.1 p.1.2 d.words.share d.place)
            (s.usePrint g.fn g.child g.kernel d.words.share g.rcd.waves))

/-! ## Retirement (R257, R345) -/

/-- Members of a block's gang that are present. -/
def State.gangOf (s : State) (b : Block) : List Block :=
  s.allBlocks.filter fun x => x.method.isNone && s.inGang b x

/-- Whether a card of a block's job writes the scratchpad of a block: its own, or that of a member that a multicast names (R218). -/
def State.aims (s : State) (blk : Nat) (c : Card) (b : Block) : Bool :=
  if c.kind = 2 then (s.gangOf b).any (·.id = blk) && c.members.contains (b.index % s.gangSize b)
  else blk = b.id && !c.toGlobal

/-- Whether a job aimed at a block's scratchpad has not completed (R257, R388). -/
def State.aimedAt (s : State) (b : Block) : Bool :=
  s.ops.any fun o => !o.complete && match o.kind with | .job c => s.aims o.blk c b | _ => false

/-- Whether an access to a block's scratchpad is still to be performed. -/
def State.reachedAt (s : State) (b : Block) : Bool :=
  s.ops.any fun o => o.kind.isAccess && o.undone.any fun i => match i.space with | .scr k _ => k = b.id | _ => false

/-- BLOCK_RETIRE: a block of no gang whose waves have ended and whose counters are zero (R345). -/
def execBlockRetire (s : State) : Host.Outcome State Fault Refusal :=
  let s := s.unfocus
  match s.block? s.arg.blk with
  | none => .next s
  | some b => .next (if b.method.isNone && s.gangSize b = 1 && s.blockOver b then s.retireBlock b else s)

/-- GANG_RETIRE: every member's waves have ended, its counters are zero, and no job is aimed at a member (R257). -/
def execGangRetire (s : State) : Host.Outcome State Fault Refusal :=
  let s := s.unfocus
  match s.block? s.arg.blk with
  | none => .next s
  | some b =>
    let l := s.gangOf b
    .next (if b.method.isNone && 1 < s.gangSize b && l.all fun x => s.blockOver x && !s.aimedAt x then l.foldl State.retireBlock s else s)

/-- Whether a grid's blocks and children have all retired; one that ended early waits for its blocks alone (R345). -/
def State.gridOver (s : State) (g : Grid) : Bool :=
  g.status.isNone && !(s.allBlocks.any fun b => b.grid = g.handle && b.method.isNone) &&
  (g.abort.isSome || g.retired.length + g.withdrawnBlocks.length = g.rcd.blocks) && g.fromHandoff ≠ some false &&
  s.grids.all fun x => !(x.status.isNone && (match x.parent with | some p => p.1 = g.handle | none => false))

/-- What a grid's completion record says. -/
def Grid.outcome (g : Grid) : AbortInfo := g.abort.getD ⟨0, 0, 0, 0, 0, 0⟩

/-- The Loupe's report, written before the completion record; a part without a mapped page is logged (R411). -/
def State.loupeReport (s : State) (g : Grid) : State :=
  if !g.louped then s
  else
    let va := g.rcd.lmem.toNat + g.rcd.lmemsz.toNat - 65536
    ((List.range 1024).filter fun i => i ≤ g.loupe.recs.length).foldl (fun s i =>
      let r := s.devStore g.fn g.child (va + 64 * i) ((g.loupe.report.drop (64 * i)).take 64)
      if r.2 then r.1
      else r.1.logErr g.fn { code := 0x71, flags := g.child, grid := g.rcd.number, info := BitVec.ofNat 64 (va + 64 * i) }) s

/-- A grid retires once its drain is done: the Loupe's report of what ran here, and its record and SIGNAL, or the report to the device it was
handed to (R345, R411, R438). -/
def State.retireGrid (s : State) (g : Grid) : State :=
  let a := g.outcome
  let s := s.loupeReport g
  let s := match g.handoff with
    | some h =>
      let m : Msg := ⟨"HANDOFF_RETIRED", h.1, leBytes 4 g.rcd.number.toNat ++ completionBytes a⟩
      { s with out := s.out ++ [m] }
    | none => (s.writeCompletion g a).signal g
  ((s.mapGrid g.handle fun g => { g with status := some a.status }).unlock g.handle).sweepBinds

/-- Who asks for a grid's retirement drain. -/
def gridDrainer (h : Nat) : Nat × Nat × Nat := (2 ^ 40 + h, 0, 0)

/-- GRID_RETIRE: the drain at `.dev` of a grid whose blocks are over, and once it is done the end of the grid and of those merged with
it (R345, R351). -/
def execGridRetire (s : State) : Host.Outcome State Fault Refusal :=
  let s := s.unfocus
  match s.grid? s.arg.grid with
  | none => .next s
  | some g =>
    let l := g :: (s.mergedWith g.handle).filterMap s.grid?
    if !l.all s.gridOver then .next s
    else match s.drainFor g.fn g.child (gridDrainer g.handle) with
      | none =>
        .next (s.askDrain g.fn g.child 5 0 (gridDrainer g.handle)).1
      | some d =>
        if !d.done then .next s
        else .next ((l.foldl State.retireGrid (s.leaveDrain d (gridDrainer g.handle))).sweepChwait)

/-! ## Code pages (R357, R358) -/

/-- Whether a page at a virtual address holds a poisoned word. -/
def State.pagePoisoned (s : State) (fn child page : Nat) : Bool :=
  match s.devPlace fn child (page * 65536) needX with
  | some (sp, a) => (s.fetchAt sp a 65536).2
  | none => false

/-- CODE_PAGE_VERIFY: the page that a wave's fetch waits for is hashed. A page that fails ends the grid, and poison in it is an
instruction fetch's (R281, R358). -/
def execCodePageVerify (s : State) : Host.Outcome State Fault Refusal :=
  let s := s.focus s.arg.blk s.arg.wid s.arg.sid
  match s.cur with
  | none => .next s
  | some c => match (s.fetch c.blk c.split.pc).2, s.gridOf c.blk with
    | .page i, some g =>
      let page := g.kernel.addr.toNat / 65536 + (i - g.kernel.hashIdx)
      let poisoned := s.pagePoisoned g.fn g.child page
      let s := if poisoned then s.book g.fn g.child 14 0 [(.pghash, 1)]
        else s.verifyPages g.fn g.child g.rcd g.kernel [i - g.kernel.hashIdx]
      if poisoned then .next (s.gridAbort c.blk Fc.ecc c.split.pc c.wave.wid 0)
      else if i < g.rcd.npages && s.hashMatches g.fn g.child g.rcd.hashtab.toNat i page = some true then
        let s := s.mapGrid g.handle fun g => { g with verified := spSet false g.verified i true }
        .next (s.lockPage g.fn g.child page g.handle)
      else .next (s.gridAbort c.blk Fc.codeIntegrity c.split.pc c.wave.wid (BitVec.ofNat 64 i))
    | _, _ => .next s

/-! ## Shares (R247, R251) -/

/-- Whether the bytes that a wave's wanted share asks for are free. -/
def State.shareFits (s : State) (b : Block) (w : Wave) : Bool :=
  w.wanted ≤ w.share || shareBytes w.wanted w.width ≤ s.freeFor b.core w.quarter b.id w.wid

/-- Whether a wave may run at the share it wants as soon as its splits have paused (R247). -/
def State.rebindDue (s : State) (b : Block) (w : Wave) : Bool :=
  b.phase = .resident && b.method.isNone && w.wanted ≠ w.share && s.shareFits b w

/-- REBIND: a wave of a resident block moves to the share it wants, once its splits have paused (R247). -/
def execRebind (s : State) : Host.Outcome State Fault Refusal :=
  let s := s.unfocus
  match s.block? s.arg.blk with
  | none => .next s
  | some b => match b.waves.find? (·.wid = s.arg.wid) with
    | none => .next s
    | some w =>
      if s.rebindDue b w && w.splits.all (s.pausable b) then
        .next ((s.printFor b w.wanted).mapWave b.id w.wid fun w => w.rebound w.wanted)
      else .next s

/-- Whether a split is held in RSHARE, or in a barrier wait: at which opcode it stands. -/
def State.waitsIn (s : State) (b : Block) (sp : Split) : Option Nat :=
  if sp.started then (s.heldIn b sp).filter fun op => op = 0x0F0 || op = 0x0C2 || op = 0x0C3 else none

/-- Whether a split cannot go on by itself: held so with nothing met, or parked behind its siblings. -/
def State.stuck (s : State) (b : Block) (w : Wave) (sp : Split) : Bool :=
  sp.run = .parked ||
  match s.waitsIn b sp with
  | some op => if op = 0x0F0 then sp.asked ≠ superseded && w.share ≠ w.wanted && !s.shareFits b w
      else !(sp.waitPhase.any fun e => e.2 = 3 || e.2 = 6)
  | none => false

/-- Whether a block's live waves are all held in RSHARE or a barrier wait. -/
def State.blockStuck (s : State) (b : Block) : Bool :=
  b.waves.all fun w => !w.quotaDue && !w.preemptDue && w.splits.all (s.stuck b w)

/-- Waves of a core that wait for growth, lowest (block, wave) first. -/
def State.growers (s : State) (core : Nat) : List (Block × Wave) :=
  (sortBy (fun (b : Block) => b.index) ((s.coreBlocks core).filter (·.phase = .resident))).flatMap fun b =>
    (b.waves.filter fun w => w.share < w.wanted && w.splits.any fun sp => s.waitsIn b sp = some 0x0F0).map fun w => (b, w)

/-- Whether a core is blocked (R251); the members of its gangs on other cores are to be held as well. A block that has been stopped frees
what it holds as it retires, so that waves may go on without force. -/
def State.coreBlocked (s : State) (core : Nat) : Bool :=
  ((s.coreBlocks core).all fun b => b.phase = .resident && (s.gangOf b).all s.blockStuck) && !(s.growers core).isEmpty

/-- A wave lowered to a share. One that waits in RSHARE goes on to want what it asked for; any other wants no more than it has. -/
def State.lowerTo (s : State) (b : Block) (w : Wave) (share : Nat) : State :=
  let asks := w.splits.any fun sp => s.waitsIn b sp = some 0x0F0
  (s.printFor b share).mapWave b.id w.wid fun w => { w.rebound share with wanted := if asks then w.wanted else share }

/-- Shares lowered, one wave after another, until enough bytes are free. -/
def lowerShares (s : State) (missing : Nat) : List (Block × Wave) → State
  | [] => s
  | (b, w) :: rest =>
    if missing = 0 then s
    else
      let per := 8 * w.width
      let room := (w.share - (s.kernelOf b).minshare) / 2
      let n := min room ((missing + per - 1) / per)
      lowerShares (if n = 0 then s else s.lowerTo b w (w.share - 2 * n)) (missing - n * per) rest

/-- FORCED_GROWTH: on a blocked core the first waiting wave grows, others of its quarter giving way in turn, or else to Cap() (R251). -/
def execForcedGrowth (s : State) : Host.Outcome State Fault Refusal :=
  let s := s.unfocus
  match (if s.coreBlocked s.arg.core then (s.growers s.arg.core).head? else none) with
  | none => .next s
  | some (b, w) =>
    let mates := s.quarterMates b.core w.quarter b.id w.wid
    let order := (sortBy (fun (p : Block × Wave) => p.1.index * 32 + p.2.wid) (mates.filter (·.1.phase = .resident))).reverse
    let goal := min w.wanted (s.capOf b w)
    let free := s.freeFor b.core w.quarter b.id w.wid
    let s := lowerShares s (shareBytes goal w.width - free) order
    .next ((s.printFor b goal).mapWave b.id w.wid fun w => { w.rebound goal with wanted := goal })

/-! ## The turn (R399, R402) -/

/-- Whether the block of an index has finished. -/
def State.finished (s : State) (g : Grid) (i : Nat) : Bool :=
  spGet false g.retired i ||
  s.allBlocks.any fun b => b.grid = g.handle && b.method.isNone && b.index = i && b.ended && s.quiet b

/-- A staged entry as it is sent at its release. The core's copy is updated with the sending, as at the issue of any store: not behind an
acquire or an `.sc` access that is still open, and by a release at `.wave` or `.blk` only once it may be performed (R188, R193, R194). -/
def State.sentNow (s : State) (o : Op) : Op :=
  let o := { o with staged := false, entries := 0, send := s.nextOp + 1 }
  let late := (s.ops.any fun p => p.blk = o.blk && p.wid = o.wid && p.ofSplits o.sids.contains && p.id < o.id && p.holdsBack) ||
    (relOrd o.ord && decide (o.scopeOf ≤ 2) && !s.mayPerform o)
  { o with pol := if late then max 2 o.pol else o.pol }

/-- A staged entry released: it is sent as an access of its kind now. A release waits, in staging order, for what it orders behind it, and a
COMB is sent once its ordering lets it (R305, R402). -/
def State.unstage (s : State) (o : Op) : State :=
  let o := s.sentNow o
  let s := ({ s with nextOp := s.nextOp + 1 } : State).mapOp o.id fun _ => o
  match o.kind with
  | .store => s.l1Stores o.core o.pol o.items
  | .atom _ _ _ _ => s.l1Atoms o.core o.items
  | .comb _ _ _ _ _ _ _ => if s.sendable o then s.sendComb o.id else s
  | _ => s

/-- The entries that a block has staged are released: those that its staging port has received in the order in which it did, and behind them
those still on their way there (R400, R402). -/
def State.releaseAll (s : State) (h i : Nat) : State :=
  let ids := (s.allBlocks.filter fun b => b.grid = h && b.method.isNone && b.index = i).map (·.id)
  let l := s.ops.filter fun o => o.staged && ids.contains o.blk
  (sortBy (fun (o : Op) => o.port) (l.filter (·.port ≠ 0)) ++ l.filter (·.port = 0)).foldl State.unstage s

/-- TURN_ADVANCE: the block at the turn has finished, and the next one's entries are released (R402). -/
def execTurnAdvance (s : State) : Host.Outcome State Fault Refusal :=
  let s := s.unfocus
  match s.grid? s.arg.grid with
  | none => .next s
  | some g =>
    if g.kernel.det && g.status.isNone && decide (g.turn < g.rcd.blocks) && s.finished g g.turn then
      .next ((s.mapGrid g.handle fun g => { g with turn := g.turn + 1 }).releaseAll g.handle (g.turn + 1))
    else .next s

end Sys2Proof.Machine
end

