-- ==== Sys2Proof/Machine/Partition.lean ====
section
/-! DEFINITION. Partitions: the privileged registers and what Headstock makes of their writes (R264–R266, R280, R362–R368, R390, R445,
R446), the commands of PM_CTRL (R365), and contact sheets (R378). -/
namespace Sys2Proof.Machine

/-! ## The map of R368 -/

/-- Whose register it is. -/
inductive PrScope where
  | function
  | partition
  | device
  deriving DecidableEq, Repr

/-- A row of R368: two words wide, number of instances, access, and scope. -/
structure PrInfo where
  wide : Bool
  insts : Nat
  /-- software reads it with RDPR, and writes it with WRPR -/
  canRead : Bool
  canWrite : Bool
  scope : PrScope
  deriving DecidableEq, Repr

/-- The row of a register number; none outside the map. -/
def prInfo (n : Nat) : Option PrInfo :=
  if n = 0x800 then some ⟨false, 1, true, false, .function⟩
  else if n = 0x808 then some ⟨false, 1, true, true, .function⟩
  else if 0x809 ≤ n ∧ n ≤ 0x80D then some ⟨true, 1, true, true, .function⟩
  else if 0x810 ≤ n ∧ n ≤ 0x817 then some ⟨true, 1, true, true, .function⟩
  else if n = 0x818 ∨ n = 0x819 then some ⟨true, 1, true, false, .function⟩
  else if n = 0x820 ∨ n = 0x824 ∨ n = 0x825 then some ⟨true, 1, true, true, .partition⟩
  else if n = 0x821 then some ⟨false, 48, true, true, .partition⟩
  else if n = 0x822 then some ⟨true, 4, true, true, .partition⟩
  else if n = 0x823 ∨ n = 0x826 ∨ n = 0x82F then some ⟨false, 1, true, true, .partition⟩
  else if 0x827 ≤ n ∧ n ≤ 0x82A then some ⟨true, 1, true, true, .partition⟩
  else if n = 0x82B ∨ n = 0x82E then some ⟨false, 1, true, false, .partition⟩
  else if n = 0x82C then some ⟨false, 1, false, true, .partition⟩
  else if n = 0x82D then some ⟨true, 1, true, false, .partition⟩
  else if n = 0x830 then some ⟨false, 48, true, true, .function⟩
  else if n = 0x840 then some ⟨false, 48, true, false, .function⟩
  else if n = 0x841 then some ⟨false, 48, true, true, .function⟩
  else if n = 0x842 ∨ n = 0x843 then some ⟨false, 48, true, false, .device⟩
  else if n = 0x844 then some ⟨false, 768, true, false, .device⟩
  else if n = 0x850 ∨ n = 0x851 then some ⟨true, 8, true, true, .device⟩
  else if n = 0x860 then some ⟨true, 1, false, true, .device⟩
  else if n = 0x861 then some ⟨false, 48, true, true, .device⟩
  else if n = 0x862 ∨ n = 0x864 then some ⟨true, 1, true, false, .device⟩
  else if n = 0x863 then some ⟨false, 1, true, false, .device⟩
  else if n = 0x865 then some ⟨false, 16, true, false, .device⟩
  else none

/-- Key of an instance: the function and child that count for the register's scope. -/
def PrInfo.home (i : PrInfo) (fn child : Nat) : Nat × Nat :=
  match i.scope with
  | .function => (fn, 0)
  | .partition => (fn, child)
  | .device => (0, 0)

/-! ## Selectors (R367) -/

/-- What a selector names. -/
structure PrSel where
  inst : Nat
  other : Bool
  fn : Nat
  child : Nat
  deriving DecidableEq, Repr

/-- A selector read for a caller: none with a reserved bit set, a CHILD above 4 or an INST outside a register's range. -/
def prSel (insts fn child sel : Nat) : Option PrSel :=
  if fld sel 31 26 ≠ 0 ∨ fld sel 15 8 ≠ 0 ∨ bit sel 6 ∨ 4 < fld sel 5 3 ∨ insts ≤ fld sel 25 16 then none
  else if bit sel 7 then some ⟨fld sel 25 16, true, sel % 8, fld sel 5 3⟩
  else some ⟨fld sel 25 16, false, fn, child⟩

/-- Who acts on a privileged register: function, child and level; F0's host acts as a supervisor of F0 (R367). -/
structure Caller where
  fn : Nat
  child : Nat
  level : Nat
  deriving DecidableEq, Repr

/-! ## Reads (R368, R445) -/

/-- Clusters that F0's level-1 partition owns (R446). -/
def State.f0Clusters (s : State) : Nat :=
  sumBy (fun cl => if s.clusterOwner cl = some 0 && (List.range 8).any (fun j => s.present (8 * cl + j)) then 2 ^ cl else 0) (List.range 48)

/-- DR_SLOT (R271). -/
def State.drSlot (s : State) (slot : Nat) : Nat :=
  let owner := spGet 0 s.darkroom slot
  if owner = 0 then 0
  else
    let l := s.allBlocks.filter (·.inSlot slot)
    let isOpen := l.any fun b => 1 < s.gangSize b && (s.gangOf b).any s.aimedAt
    2 ^ 31 + (owner - 1) / 8 * 2 ^ 28 + (owner - 1) % 8 * 2 ^ 25 + b2n isOpen * 2 ^ 24 + l.foldl (fun n b => max n b.saveSeq) 0 % 2 ^ 16

/-- PM_STATE: OVER says that the counter is above the quota (R368). -/
def State.partStatus (s : State) (fn child : Nat) : Nat := s.partState fn child + 8 * b2n (s.aboveQuota fn child (s.counter fn child).toNat)

/-- The value of a privileged register. -/
def State.readPr (s : State) (who : Caller) (n : Nat) (t : PrSel) : Nat :=
  let (fn, child) := ((prInfo n).map (·.home t.fn t.child)).getD (0, 0)
  let units := (s.counter fn child).toNat
  match n with
  | 0x800 => who.fn + who.child * 8 + who.level * 64
  | 0x818 => (spGet 0 s.errCE fn).toNat
  | 0x819 => (spGet 0 s.errUE fn).toNat
  | 0x820 => if fn = 0 ∧ child = 0 then s.f0Clusters else (s.pr n fn child 0).toNat
  | 0x82B => s.partStatus fn child
  | 0x82D => units / 2 ^ 32
  | 0x82E => units % 2 ^ 32
  | 0x841 => s.scrw fn t.inst
  | 0x842 => (s.clusterOf t.inst).budget + b2n (s.throttled t.inst) * 2 ^ 31
  | 0x843 => (s.clusterOf t.inst).cls + b2n (s.clusterOf t.inst).changing.isSome * 2 ^ 31
  | 0x844 => s.drSlot t.inst
  | 0x862 => wrap 64 (s.house / 2 ^ 32)
  | 0x863 => wrap 32 s.house
  | _ => (s.pr n fn child t.inst).toNat

/-- Whether tenant privilege opens a register to a read (R445). -/
def tenantReads (who : Caller) (n : Nat) (t : PrSel) : Bool :=
  t.fn = who.fn && (n = 0x800 || (0x808 ≤ n && n ≤ 0x819) || [0x840, 0x841, 0x842, 0x843, 0x864, 0x865].contains n ||
    (0x820 ≤ n && n ≤ 0x830 && (t.child = who.child || (who.child = 0 && t.child ≠ 0))))

/-- Why a selector or a register is not the caller's: the reason of ACCESS, or what is named. -/
def prTarget (who : Caller) (n sel : Nat) (write : Bool) : Except Nat PrSel :=
  match prSel ((prInfo n).map (·.insts) |>.getD 1) who.fn who.child sel with
  | none => .error 9
  | some t =>
    if who.level = 2 then .ok t
    else if t.fn ≠ who.fn then .error 2
    else if (if write then n = 0x841 else tenantReads who n t) then .ok t else .error 2

/-! ## Writes (R368) -/

/-- What comes of a write. -/
inductive PrWrite where
  | done (s : State)
  | refused
  /-- accesses admitted before have to be performed first (R266, R280) -/
  | wait (s : State)

/-- Clusters in which a level-2 child of F0 owns cores (R390). -/
def State.f0ChildIn (s : State) (cl : Nat) : Bool :=
  [1, 2, 3, 4].any fun c => s.partState 0 c ≠ 0 && (s.pr 0x821 0 c cl).toNat % 256 ≠ 0

/-- Clusters of a 48-bit set. -/
def clustersIn (v : Nat) : List Nat := (List.range 48).filter fun c => bit v c

/-- Whether clusters may go to a function's partition: none is another function's of F1–F7, in a pool, or held in part by a child of
F0 (R362, R446). -/
def State.clustersFree (s : State) (fn v : Nat) : Bool :=
  (clustersIn v).all fun cl => (s.poolOf cl).isNone && !s.f0ChildIn cl &&
    !([1, 2, 3, 4, 5, 6, 7].any fun f => f ≠ fn && s.partState f 0 ≠ 0 && inSet (s.pr 0x820 f 0 0) cl)

/-- F0's bind slots on clusters that leave it are withdrawn (R446). -/
def State.leaveF0 (s : State) (v : Nat) : State :=
  ({ s with binds := s.binds.map fun d => if d.words.fn = 0 && d.words.child = 0 && bit v d.cluster then { d with withdrawn := true } else d }
    : State).sweepBinds

/-- Whether a child's cores lie in its parent's clusters, and no other child of the function owns one of them (R362). -/
def State.coresFree (s : State) (fn child cl v : Nat) : Bool :=
  v = 0 || (s.clusterOwner cl = some fn &&
    !([1, 2, 3, 4].any fun c => c ≠ child && s.partState fn c ≠ 0 && (s.pr 0x821 fn c cl).toNat &&& v ≠ 0))

/-- Whether a job or a Lathe operation names a range of global memory; a gather names none before it runs. -/
def Op.namesRange (o : Op) (lo hi : Nat) : Bool :=
  let gathers := match o.kind with | .job c => c.kind = 3 | _ => false
  !gathers && (o.reads ++ o.writes).any fun r => r.space = .mem && r.start < hi && lo < r.start + r.len

/-- Whether accesses to a function's scratch offsets from some MiB on in a slice are still to be performed, or a job that names them is to
be completed (R266). -/
def State.scratchBusy (s : State) (fn cl mib : Nat) : Bool :=
  let lo := 2 ^ 24 * cl + mib * 2 ^ 20
  let hi := 2 ^ 24 * (cl + 1)
  s.ops.any fun o => o.fn = fn && !o.complete &&
    ((o.undone.any fun i => i.space = .cscr fn && 2 ^ 30 * fn + lo ≤ i.addr && i.addr < 2 ^ 30 * fn + hi) ||
      o.namesRange (0xFF00000000000 + lo) (0xFF00000000000 + hi))

/-- A function's lines in ways of a slice that it holds as cache no more are written back and leave (R266). `after` is the state with the
ways as they are to be. -/
def State.waysLeft (s after : State) (fn cl : Nat) : State :=
  s.writeBack .wayback fun x => x.slice = cl && bit (s.pr 0x840 fn 0 cl).toNat x.way && !(after.openWays fn cl).contains x.way

/-- Scratch bytes of a function in a slice from some MiB on discarded. -/
def State.scratchDrop (s : State) (fn cl mib : Nat) : State :=
  let lo := 2 ^ 30 * fn + 2 ^ 24 * cl + mib * 2 ^ 20
  let hi := 2 ^ 30 * fn + 2 ^ 24 * (cl + 1)
  { s with
    cscr := s.cscr.filter fun e => !(lo ≤ e.1 && e.1 < hi)
    cscrPoison := s.cscrPoison.filter fun e => !(lo ≤ 8 * e.1 && 8 * e.1 < hi) }

/-- SCRW of a function in a slice as it is set. -/
def State.putScrw (s : State) (fn cl n : Nat) : State := s.setCfg fn (0x2000 + 4 * cl) (BitVec.ofNat 64 n)

/-- A shrink that waits: accesses of what it surrenders fail from now on, and its ways stay scratch until those admitted before are over. -/
def State.shrink (s : State) (fn cl n : Nat) : State :=
  let key := 64 * fn + cl
  { s.putScrw fn cl n with shrinking := if spGet 0 s.shrinking key = 0 then spSet 0 s.shrinking key (s.scrw fn cl + 1) else s.shrinking }

/-- A shrink done: what it surrenders is discarded, and its ways are cache. -/
def State.shrunk (s : State) (fn cl : Nat) : State :=
  { s.scratchDrop fn cl (s.scrw fn cl) with shrinking := spSet 0 s.shrinking (64 * fn + cl) 0 }

/-- SCRW of a function in a slice set by the sequence of R266; a growth follows a shrink that still waits. -/
def State.setScrw (s : State) (fn cl n : Nat) : PrWrite :=
  let waits := spGet 0 s.shrinking (64 * fn + cl) ≠ 0
  if n < s.scrw fn cl ∨ (waits ∧ n = s.scrw fn cl) then
    let s := s.shrink fn cl n
    if s.scratchBusy fn cl n then .wait s else .done (s.shrunk fn cl)
  else if waits ∧ s.scratchBusy fn cl (s.scrw fn cl) then .wait s
  else
    let s := if waits then s.shrunk fn cl else s
    .done ((s.waysLeft (s.putScrw fn cl n) fn cl).putScrw fn cl n)

/-- The clamp of R265. -/
def State.clampScrw (s : State) (fn cl n : Nat) : Nat :=
  let lim := (s.pr 0x840 fn 0 cl).toNat
  min (n % 32) (min (fld lim 20 16) (popcount 16 (lim % 2 ^ 16)))

/-- CC_WAYPART written. -/
def State.writeWaypart (s : State) (fn cl v : Nat) : PrWrite := s.setScrw fn cl (s.clampScrw fn cl v)

/-- PM_WAYS written, and copied into CC_LIMIT: refused where WAYS would overlap another function's (R264, R266). -/
def State.writeWays (s : State) (fn cl v : Nat) : PrWrite :=
  if 2 ^ 21 ≤ v ∨ 16 < fld v 20 16 ∨
      (List.range 8).any (fun f => f ≠ fn && (s.pr 0x840 f 0 cl).toNat % 2 ^ 16 &&& (v % 2 ^ 16) ≠ 0) then .refused
  else
    let set := fun (s : State) => (s.setPr 0x830 fn 0 cl (BitVec.ofNat 64 v)).setPr 0x840 fn 0 cl (BitVec.ofNat 64 v)
    let n := (set s).clampScrw fn cl (s.scrw fn cl)
    let fits := n = s.scrw fn cl ∧ spGet 0 s.shrinking (64 * fn + cl) = 0
    match (if fits then .done s else s.setScrw fn cl n) with
    | .done s =>
      let s := s.passTime
      .done (set (s.waysLeft (set s) fn cl))
    | r => r

/-- Whether a line of a registered object lies in a granule (R302). -/
def State.objectIn (s : State) (g : Nat) : Bool := s.objs.any fun o => o.pa / 65536 ≤ g && g ≤ (o.pa + max o.size 1 - 1) / 65536

/-- Whether accesses to a granule that were sent before a change of its home mode began are still to be performed: those of the operations
before number `first`, less 1. What staging holds is sent at its release (R280, R402). -/
def State.granuleBusy (s : State) (g first : Nat) : Bool :=
  s.ops.any fun o => !o.staged && decide (o.key + 1 < first) && o.undone.any fun i => i.space = .mem && decide (i.addr / 65536 = g)

/-- HOMEMODE written: new accesses to the granule are held until those admitted before are performed; then its lines are written back and
invalidated, and its bit set (R280). It is refused where an object lies there (R302). -/
def State.writeHomemode (s : State) (v : Nat) : PrWrite :=
  let g := v % 2 ^ 26
  let a := g * 65536
  if fld v 62 26 ≠ 0 ∨ dramTop ≤ a ∨ (s.objectIn g ∧ spGet 0 s.flipping g = 0) then .refused
  else
    let first := if spGet 0 s.flipping g = 0 then s.nextOp + 1 else spGet 0 s.flipping g / 2
    if s.granuleBusy g first then .wait { s with flipping := spSet 0 s.flipping g (2 * first + b2n (bit v 63)) }
    else
      let s := (s.writeBack .modeflip fun x => 128 * x.line / 65536 = g).l1ClearRange a 65536
      .done { s with near := spSet false s.near g (bit v 63), flipping := spSet 0 s.flipping g 0 }

/-- A quota written: a crossing is undone in the partitions whose counters are within their quotas (R393). -/
def State.writeQuota (s : State) (fn : Nat) (v : Dword) : State :=
  [0, 1, 2, 3, 4].foldl (fun s c => if s.aboveQuota fn c (s.counter fn c).toNat then s else s.setOver fn c false) (s.setPr 0x825 fn 0 0 v)

/-- Whether the children's fractions of each budget sum to at most 1,024, with one of them new (R363). -/
def State.fracOk (s : State) (fn child v : Nat) : Bool :=
  fld v 15 11 = 0 && fld v 31 27 = 0 && fld v 47 43 = 0 && fld v 63 59 = 0 &&
  [0, 16, 32, 48].all fun b => sumBy (fun c => fld (if c = child then v else (s.pr 0x824 fn c 0).toNat) (b + 10) b) [1, 2, 3, 4] ≤ 1024

/-- POOL_CL written (R390, R446). -/
def State.writePool (s : State) (pool v : Nat) : PrWrite :=
  if 2 ^ 48 ≤ v ∨ (clustersIn v).any (fun cl => s.f0ChildIn cl || (s.poolOf cl).any (· ≠ pool) ||
      [1, 2, 3, 4, 5, 6, 7].any fun f => s.partState f 0 ≠ 0 && inSet (s.pr 0x820 f 0 0) cl) then .refused
  else .done ((s.setPr 0x850 0 0 pool (BitVec.ofNat 64 v)).leaveF0 v)

/-! ## Contact sheets (R378) -/

/-- Key of the house account beside the partitions'. -/
def houseKey : Nat := 63

/-- A counter as a sheet writes it: µJ, fraction, zero. -/
def counterBytes (u : Nat) : List Byte := leBytes 8 (u / 2 ^ 32) ++ leBytes 4 u ++ leBytes 4 0

/-- A window opens at a partition's activation (R378); after a cold power loss the window goes on from the persisted sheet (R379). -/
def State.openSheet (s : State) (fn child : Nat) : State :=
  let k := 8 * fn + child
  let w := spGet {} s.sheets k
  if w.gap then s
  else { s with sheets := spSet {} s.sheets k { w with endNs := s.hw.clockNs, cend := s.counter fn child, crossed := false } }

/-- A partition's window, or the house account's, closed: the sheet's 256 bytes. -/
def State.closeSheet (s : State) (fn child kind : Nat) : State × List Byte :=
  let s := s.passTime
  let k := 8 * fn + child
  let house := k = houseKey
  let w := spGet {} s.sheets k
  let (s, free) := if house then s.takeFree else (s, 0)
  let now : BitVec 96 := if house then BitVec.ofInt 96 s.house else s.counter fn child
  let quota := if house then free.toNat else s.quotaRead fn child
  let flags := b2n w.gap + 2 * b2n (!house && s.nominal fn child) + 4 * b2n w.crossed + 8 * b2n house
  let head := leBytes 4 0x54434853 ++ leBytes 2 1 ++ leBytes 1 (if w.gap then 3 else kind) ++ leBytes 1 flags ++
    leBytes 8 Config.serial.toNat ++ leBytes 1 fn ++ leBytes 1 child ++ leBytes 6 0 ++ leBytes 8 (w.seq + 1) ++
    leBytes 8 w.endNs.toNat ++ leBytes 8 s.hw.clockNs.toNat ++ counterBytes w.cend.toNat ++ counterBytes now.toNat ++
    leBytes 8 quota ++ leBytes 8 (s.pr 0x864 0 0 0).toNat ++ leBytes 96 0
  let w' : SheetWin := { endNs := s.hw.clockNs, cend := now, seq := w.seq + 1, crossed := false, gap := false }
  ({ s with sheets := spSet {} s.sheets k w' }, head ++ hashBytes (Config.identitySign (hashBytes (Config.sha512 head))))

/-- A sheet that Headstock keeps in the module's non-volatile store (R379). -/
def State.persistSheet (s : State) (fn child kind : Nat) : State :=
  let r := s.closeSheet fn child kind
  { r.1 with persisted := spSet {} r.1.persisted (8 * fn + child) { spGet {} r.1.sheets (8 * fn + child) with bytes := r.2 } }

/-! ## The commands of PM_CTRL (R365) -/

/-- Cores that a partition may occupy: present ones it owns, and those of pools it is a member of. -/
def State.mayOccupy (s : State) (fn child : Nat) : Nat :=
  ((List.range 384).filter fun c => s.present c &&
    match s.poolOf (c / 8) with
    | some p => (s.poolMembers p).any fun m => m.1 = fn && m.2.1 = child
    | none =>
      if child ≠ 0 then bit (s.pr 0x821 fn child (c / 8)).toNat (c % 8)
      else inSet (s.pr 0x820 fn 0 0) (c / 8) && !([1, 2, 3, 4].any fun k => s.partState fn k ≠ 0 && bit (s.pr 0x821 fn k (c / 8)).toNat (c % 8))).length

/-- The check of a partition's whole configuration (R362, R365, R386). -/
def State.configOk (s : State) (fn child : Nat) : Bool :=
  s.mayOccupy fn child * 2 ^ 21 ≤ (s.pr 0x828 fn child 0).toNat &&
  if child = 0 then s.clustersFree fn (s.pr 0x820 fn 0 0).toNat
  else s.partState fn 0 ≠ 0 && (List.range 48).all fun cl => s.coresFree fn child cl ((s.pr 0x821 fn child cl).toNat % 256)

/-- A partition active, its window open. -/
def State.activate (s : State) (fn child : Nat) : State :=
  let s := (s.passTime.setPartState fn child 1).openSheet fn child
  let s := s.setOver fn child (s.aboveQuota fn child (s.counter fn child).toNat)
  if child = 0 then s.leaveF0 (s.pr 0x820 fn 0 0).toNat else s

/-- PREEMPT signalled to every wave of a partition's blocks. -/
def State.signalPreempt (s : State) (fn child : Nat) : State :=
  s.mapWaves (fun b => b.fn = fn && b.child = child && b.method.isNone && b.phase = .resident) fun w => { w with preemptDue := true }

/-- A grid aborted by the package itself. -/
def State.abortGrid (s : State) (g : Grid) (code : Nat) : State :=
  let s := s.logErr g.fn { code, flags := g.child, grid := g.rcd.number }
  s.abortTree 11 g.handle ⟨1, BitVec.ofNat 32 code, 0, 0, 0, 0⟩

/-- Unretired grids of a partition, oldest first. -/
def State.openGrids (s : State) (fn child : Nat) : List Grid := s.grids.filter fun g => g.fn = fn && g.child = child && g.status.isNone

/-- Quiesce begins: admission stops and the grids abort with PREEMPT. -/
def State.quiesce (s : State) (fn child : Nat) : State :=
  let s := { s.setPartState fn child 2 with quiescing := s.quiescing ++ [(fn, child)] }
  (s.openGrids fn child).foldl (fun s g => if ((s.grid? g.handle).map (·.abort.isSome)).getD true then s else s.abortGrid g Fc.preempt) s

/-- Who asks for the drain of a quiesce. -/
def quiesceDrainer (fn child : Nat) : Nat × Nat × Nat := (2 ^ 50 + 8 * fn + child, 0, 0)

/-- Quiesce goes on: once every grid has retired, a drain at `.sys`, and once that is done a sheet and the state quiesced. -/
def State.quiesceOn (s : State) (fn child : Nat) : State :=
  if !s.quiescing.contains (fn, child) || !(s.openGrids fn child).isEmpty then s
  else match s.drainFor fn child (quiesceDrainer fn child) with
    | none => (s.askDrain fn child 6 0 (quiesceDrainer fn child)).1
    | some d =>
      if !d.done then s
      else
        let s := (s.leaveDrain d (quiesceDrainer fn child)).persistSheet fn child 2
        { s.setPartState fn child 4 with quiescing := s.quiescing.filter (· ≠ (fn, child)) }

/-- Destroy: darkroom slots, objects and translations of the partition go, and it is absent (R365, R446). -/
def State.destroy (s : State) (fn child : Nat) : State :=
  let mine := fun (o : Obj) => o.fn = fn && (child = 0 || o.child = child)
  let s := s.passTime
  let s := (s.objs.filter mine).foldl State.freeObject s
  let s := { s with
    objGen := if child = 0 then s.objGen.filter (fun e => e.1 / 4096 ≠ fn) else s.objGen
    tlb := s.tlb.filter fun t => !(t.fn = fn && t.child = child)
    darkroom := s.darkroom.filter fun e => e.2 ≠ 8 * fn + child + 1
    badImages := s.badImages.filter fun n => spGet 0 s.darkroom n ≠ 8 * fn + child + 1 }
  (s.setOver fn child false).setPartState fn child 0

/-- A command, where the state accepts it. -/
def State.command (s : State) (fn child cmd : Nat) : PrWrite :=
  let st := s.partState fn child
  if fn = 0 ∧ child = 0 then .refused
  else if cmd = 1 ∧ (st = 0 ∨ st = 4) ∧ s.configOk fn child then .done (s.activate fn child)
  else if cmd = 2 ∧ st = 3 ∧ !s.aboveQuota fn child (s.counter fn child).toNat then .done (s.setPartState fn child 1)
  else if cmd = 3 ∧ st = 1 then .done (((s.setPartState fn child 2).signalPreempt fn child).settleStops fn)
  else if cmd = 4 ∧ (st = 1 ∨ st = 3) then .done (s.quiesce fn child)
  else if cmd = 5 ∧ st = 4 then .done (s.destroy fn child)
  else .refused

/-- Registers that say whose cores and channels are, and in what parts (R373): time passes before a write of them. -/
def payerRegs : List Nat := [0x820, 0x821, 0x822, 0x824, 0x850, 0x851]

/-- A write of a privileged register, checked by Headstock. -/
def State.writePr (s : State) (n : Nat) (t : PrSel) (v : Nat) : PrWrite :=
  let s := if payerRegs.contains n then s.passTime else s
  let put := fun (fn child : Nat) => PrWrite.done (s.setPr n fn child t.inst (BitVec.ofNat 64 v))
  let fn := t.fn
  let child := t.child
  let level1 := fun (ok : Bool) => if child = 0 ∧ ok then put fn 0 else .refused
  let live := s.partState fn child ≠ 0
  match n with
  | 0x808 => if v = 0 ∨ (16 ≤ v ∧ v ≤ 31) then put fn 0 else .refused
  | 0x820 => level1 (fn ≠ 0 && v < 2 ^ 48 && (!live || s.clustersFree fn v))
  | 0x821 => if child ≠ 0 ∧ v < 256 ∧ (List.range 8).all (fun j => !bit v j || s.present (8 * t.inst + j)) ∧
      (!live || s.coresFree fn child t.inst v) then put fn child else .refused
  | 0x822 => if v < 2 ^ 48 then put fn child else .refused
  | 0x823 => level1 (fld v 15 11 = 0 && fld v 31 27 = 0)
  | 0x824 => if child ≠ 0 ∧ s.fracOk fn child v then
      .done ((s.setPr n fn child 0 (BitVec.ofNat 64 v)).writeQuota fn (s.pr 0x825 fn 0 0)) else .refused
  | 0x825 => if child = 0 then .done (s.writeQuota fn (BitVec.ofNat 64 v)) else .refused
  | 0x826 => if v < 2 ^ 24 then put fn child else .refused
  | 0x827 => put fn child
  | 0x828 => put fn child
  | 0x829 => put fn child
  | 0x82A => if child ≠ 0 ∧ ([1, 2, 3, 4].any fun c => c ≠ child && (s.pr 0x82A fn c 0).toNat &&& v ≠ 0) then .refused else put fn child
  | 0x82C => if v < 8 then s.command fn child v else .refused
  | 0x82F => if v ≤ 1 ∧ !live then put fn child else .refused
  | 0x830 => s.writeWays fn t.inst v
  | 0x841 => s.writeWaypart fn t.inst v
  | 0x850 => s.writePool t.inst v
  | 0x851 => put 0 0
  | 0x860 => s.writeHomemode v
  | 0x861 => if v < 256 then put 0 0 else .refused
  | _ => put fn 0

/-- A write that Headstock refuses is logged in F0's error registers (R368). -/
def State.logRefused (s : State) (n : Nat) : State := s.logErr 0 { code := 0x70, cause := 8, info := BitVec.ofNat 64 n }

end Sys2Proof.Machine
end

