-- ==== Sys2Proof/Machine/Priv.lean ====
section
/-! DEFINITION. RDPR, WRPR, PRDONE, CTXSV, TLBINV and SHEET (opcodes 0x100–0x105; R289, R360, R366, R367, R377, R384). -/
namespace Sys2Proof.Machine

/-- The wave that issues, as a caller. -/
def Cur.caller (c : Cur) : Caller := ⟨c.blk.fn, c.blk.child, c.wave.level⟩

/-! ## RDPR and WRPR (R366) -/

/-- RDPR of a register: a scalar, or a pair for one of 64 bits. -/
def specRdpr (n m : Nat) : Spec :=
  let i := prInfo n
  { d := some { kinds := [.scal], wide := (i.map (·.wide)).getD false }, a := some { kinds := [.preg] }
    aOk := (i.map (·.canRead)).getD false, b := some { kinds := [.scal, .zero, .small, .lit] }, wave := true, selNever := true
    noBase := true, mOk := Mod.own m = 0 }

/-- RDPR: the register that the selector names. Reason 2 of a register that the wave's level does not open is raised here, behind the
checks of the operands (DESIGN CHOICE, notes/assumptions/90.md). -/
def bodyRdpr (s : State) (c : Cur) (x : Ctx) : Res :=
  let n := x.a.sregNum
  match prTarget c.caller n (x.vB c.split 0 % 2 ^ 32) false with
  | .error r => .fault Fc.access (accessInfo 0x100 r)
  | .ok t =>
    let v := s.readPr c.caller n t
    let sp := c.split.landScal x.d v
    doneWith s c (match x.d with | .scal d => if x.dWide then sp.landScal (.scal (d + 1)) (v / 2 ^ 32) else sp | _ => sp) [(.sreg, 1)]

/-- RDPR (R366). -/
def execRdpr (f : Form) (s : State) : Host.Outcome State Fault Refusal :=
  s.issueOp 0x100 f (specRdpr (Raw.of true f).a.sregNum) bodyRdpr

/-- WRPR of a register: a uniform value, a pair for one of 64 bits. -/
def specWrpr (n m : Nat) : Spec :=
  let i := prInfo n
  { d := some { kinds := [.preg] }, dWrite := false, dOk := (i.map (·.canWrite)).getD false
    a := some (Slot.uni ((i.map (·.wide)).getD false)), b := some Slot.uni, wave := true, selNever := true, noBase := true
    mOk := Mod.own m = 0 }

/-- WRPR: held until Headstock has accepted the write and it governs the device (R369); a refused one is logged and faults. Reason 2 as for
RDPR (notes/assumptions/90.md). -/
def bodyWrpr (s : State) (c : Cur) (x : Ctx) : Res :=
  let n := x.d.sregNum
  match prTarget c.caller n (x.vB c.split 0 % 2 ^ 32) true with
  | .error r => .fault Fc.access (accessInfo 0x101 r)
  | .ok t =>
    match ({ s with cur := some c } : State).writePr n t (x.vA c.split 0 % (if x.aWide then 2 ^ 64 else 2 ^ 32)) with
    | .done s => .done s [(.sreg, 1)]
    | .wait s => .wait s [(.sreg, 1)]
    | .refused => .faultIn (s.logRefused n) Fc.access (accessInfo 0x101 8)

/-- WRPR (R366). -/
def execWrpr (f : Form) (s : State) : Host.Outcome State Fault Refusal :=
  s.issueOp 0x101 f (specWrpr (Raw.of true f).d.sregNum) bodyWrpr

/-! ## PRDONE and CTXSV (R384) -/

/-- The split that issues is parked, with what its wave asks of the save. -/
def parked (s : State) (c : Cur) (done : Dword × Bool × Bool × Bool) : Res :=
  let sp := (c.issued s.tick).split
  let w := { c.wave with pre := c.wave.pre.map fun p => { p with done := some done } }
  .gone { s with cur := some { c with wave := w, split := { sp with run := .prParked } } } [(.ctl, 1)]

def specPrdone (m : Nat) : Spec :=
  { a := some { kinds := [.scal, .zero], wide := true }, wave := true, selNever := true, mOk := Mod.own m ≤ 3 }

/-- PRDONE: parked at a resume PC, or at the recorded one. -/
def bodyPrdone (s : State) (c : Cur) (x : Ctx) : Res :=
  let pc := match x.a with
    | .zero => (c.wave.pre.map (·.pc)).getD c.split.pc
    | _ => BitVec.ofNat 64 (x.vA c.split 0)
  if x.a ≠ .zero ∧ !(s.kernelOf c.blk).targetOk pc then .fault Fc.branchAlign pc.toNat
  else parked s c (pc, bit (Mod.own x.m) 0, bit (Mod.own x.m) 1, false)

/-- PRDONE (R384). -/
def execPrdone (f : Short) (s : State) : Host.Outcome State Fault Refusal := s.issueOp 0x102 (.base f) specPrdone bodyPrdone

/-- PRDONE (R384). -/
def execPrdoneLong (f : Long) (s : State) : Host.Outcome State Fault Refusal := s.issueOp 0x102 (.long f) specPrdone bodyPrdone

def specCtxsv (m : Nat) : Spec := { wave := true, selNever := true, mOk := Mod.own m = 0 }

/-- CTXSV: parked, asking for the full image. -/
def bodyCtxsv (s : State) (c : Cur) (_ : Ctx) : Res := parked s c ((c.wave.pre.map (·.pc)).getD c.split.pc, false, false, true)

/-- CTXSV (R384). -/
def execCtxsv (f : Short) (s : State) : Host.Outcome State Fault Refusal := s.issueOp 0x103 (.base f) specCtxsv bodyCtxsv

/-- CTXSV (R384). -/
def execCtxsvLong (f : Long) (s : State) : Host.Outcome State Fault Refusal := s.issueOp 0x103 (.long f) specCtxsv bodyCtxsv

/-! ## TLBINV (R289) -/

def specTlbinv (m : Nat) : Spec :=
  let sel := Mod.own m
  { a := if sel = 0 then some Slot.pair else none, b := if sel = 2 then some Slot.uni else none, mOk := sel ≤ 2 }

/-- What a TLBINV names: function, child, and where `.va` an address. -/
structure TlbTarget where
  fn : Nat
  child : Nat
  va : Option Nat

/-- Whether an entry is named. -/
def TlbTarget.names (t : TlbTarget) (e : TlbEntry) : Bool :=
  e.fn = t.fn && e.child = t.child && match t.va with | some va => e.va ≤ va && va < e.va + e.size | none => true

/-- Whether an address was translated by an entry that is named. -/
def State.named (s : State) (t : TlbTarget) (va : Nat) : Bool := s.tlb.any fun e => t.names e && e.va ≤ va && va < e.va + e.size

/-- The translations that a job or a Lathe operation holds: virtual start and size. -/
def OpKind.holds : OpKind → List (Nat × Nat × Nat)
  | .job c => c.pages
  | .accld _ _ _ _ _ p => p
  | .accst _ _ _ _ _ _ p => p
  | _ => []

/-- Whether an operation in flight still uses a translation that is named: an access, staged or not, that is not performed at `.dev`, a
LAUNCH whose record is not read, or a job or Lathe operation that holds one. -/
def State.usesNamed (s : State) (t : TlbTarget) (o : Op) : Bool :=
  o.fn = t.fn && o.child = t.child && !o.complete &&
  (((match o.kind with | .launch _ _ => true | k => k.isAccess && !o.performed 5) &&
      o.undone.any fun i => i.space = .mem && s.named t i.va.toNat) ||
    o.kind.holds.any fun p => s.named t p.1)

/-- TLBINV: complete once nothing in flight uses what it names, which is then gone. Reason 2 of `.fn` is raised here, behind the checks of
the operands (DESIGN CHOICE, notes/assumptions/90.md). -/
def bodyTlbinv (s : State) (c : Cur) (x : Ctx) : Res :=
  let sel := Mod.own x.m
  let b := x.vB c.split 0 % 2 ^ 32
  if sel = 2 ∧ c.wave.level ≠ 2 then .fault Fc.access (accessInfo 0x104 2)
  else if sel = 2 ∧ (64 ≤ b ∨ 4 < fld b 5 3) then .fault Fc.operandClass (classInfo x.b.desc 2)
  else
    let t : TlbTarget := if sel = 2 then ⟨b % 8, fld b 5 3, none⟩
      else ⟨c.blk.fn, c.blk.child, if sel = 0 then some (x.vA c.split 0) else none⟩
    if s.ops.any (s.usesNamed t) then .wait s [(.tlbinv, 1)]
    else .done { s with tlb := s.tlb.filter fun e => !t.names e } [(.tlbinv, 1)]

/-- TLBINV (R289). -/
def execTlbinv (f : Short) (s : State) : Host.Outcome State Fault Refusal := s.issueOp 0x104 (.base f) specTlbinv bodyTlbinv

/-- TLBINV (R289). -/
def execTlbinvLong (f : Long) (s : State) : Host.Outcome State Fault Refusal := s.issueOp 0x104 (.long f) specTlbinv bodyTlbinv

/-! ## SHEET (R377) -/

def specSheet (m : Nat) : Spec := { a := some Slot.pair, b := some Slot.uni, mOk := Mod.own m = 0 }

/-- The house account's selector. -/
def houseSel : Nat := 0xBF

/-- The account that a SHEET names, or the reason of ACCESS. -/
def sheetTarget (who : Caller) (sel : Nat) : Except Nat (Nat × Nat) :=
  if sel = houseSel then (if who.level = 2 then .ok (7, 7) else .error 2)
  else match prSel 1 who.fn who.child sel with
    | none => .error 9
    | some t =>
      if who.level = 2 ∨ (t.fn = who.fn ∧ (t.child = who.child ∨ (who.child = 0 ∧ t.child ≠ 0))) then .ok (t.fn, t.child)
      else .error 2

/-- SHEET: the window closed and the signed sheet written, as a `.rel.sys` store of the partition that issues. -/
def bodySheet (s : State) (c : Cur) (x : Ctx) : Res :=
  let va := x.vA c.split 0
  match sheetTarget c.caller (x.vB c.split 0 % 2 ^ 32) with
  | .error r => .fault Fc.access (accessInfo 0x105 r)
  | .ok (fn, child) =>
    if va % 256 ≠ 0 then .fault Fc.align (memInfo 0 true false 0 va)
    else match s.devPlace c.blk.fn c.blk.child va needW with
      | none =>
        let why := b2n (s.devPlace c.blk.fn c.blk.child va 0).isSome
        .faultIn (s.devWalk c.blk.fn c.blk.child va) Fc.access (memInfo 0 true false why va)
      | some (sp, a) =>
        let t := s.devWalk c.blk.fn c.blk.child va
        if sp ≠ .mem then .faultIn t Fc.access (memInfo 0 true false 0 va)
        else if s.locked a then .faultIn t Fc.access (memInfo 0 true false 1 va)
        else if !s.released c.blk c.wave.wid (· = c.split.sid) (s.before c) 6 then .wait s [(.sheet, 1)]
        else
          let r := (({ t with cur := some c } : State).bookIssue c 1 [(.sheet, 1)]).closeSheet fn child 1
          .booked (r.1.storeAt c.blk.fn .mem a r.2)

/-- SHEET (R377). -/
def execSheet (f : Short) (s : State) : Host.Outcome State Fault Refusal := s.issueOp 0x105 (.base f) specSheet bodySheet

/-- SHEET (R377). -/
def execSheetLong (f : Long) (s : State) : Host.Outcome State Fault Refusal := s.issueOp 0x105 (.long f) specSheet bodySheet

end Sys2Proof.Machine
end

