-- ==== Sys2Proof/Machine/Reset.lean ====
section
/-! DEFINITION. Power, the three reset domains and bring-up (R379, R418–R423, R426). -/
namespace Sys2Proof.Machine

/-! ## Hosts (R427) -/

/-- Whether an adapter is F0's host and the request comes through a fabric port that the record's PORTS allows it (R423). -/
def State.isF0 (s : State) (adapter : Nat) : Bool := adapter = s.hw.f0Host && bit (bytesAt s.hw.fabricRec 10 1) s.arg.port

/-- Whether an adapter is the host of a function. -/
def State.isHost (s : State) (fn adapter : Nat) : Bool :=
  if fn = 0 then s.isF0 adapter else spGet 0 s.hw.hosts fn = adapter + 1

/-- Whether an adapter is any function's host. -/
def State.anyHost (s : State) (adapter : Nat) : Bool := (List.range 8).any fun f => s.isHost f adapter

/-! ## Bring-up (R420–R423) -/

/-- One bit of the CRC-32 of IEEE 802.3, lowest bit first. -/
def crcBit (c : Word) : Word := if c.getLsbD 0 then (c >>> 1) ^^^ 0xEDB88320#32 else c >>> 1

/-- CRC-32 with the polynomial of IEEE 802.3 (R423; notes/assumptions/4.md). -/
def crc32 (bs : List Byte) : Word :=
  ~~~(bs.foldl (fun c b => (List.range 8).foldl (fun c _ => crcBit c) (c ^^^ b.setWidth 32)) 0xFFFFFFFF#32)

/-- Whether a fabric record is valid: MAGIC, VERSION, reserved bits and CRC (R423). -/
def fabricRecordOk (b : List Byte) : Bool :=
  b.length = 32 && bytesAt b 0 4 = 0x43465246 && bytesAt b 4 2 = 1 && bytesAt b 6 2 < 4096 && bytesAt b 8 2 < 4096 &&
  ((b.drop 11).take 17).all (· = 0) && bytesAt b 0x1C 4 = (crc32 (b.take 0x1C)).toNat

/-- Whether the flash holds a valid image and a valid record. -/
def State.bootable (s : State) : Bool := s.hw.fwValid && s.hw.fwMin ≤ s.hw.fwVersion && s.hw.fabricValid

/-- Every partition absent, F0's level-1 partition active with its window open (R421, R446). -/
def State.firstPartition (s : State) : State := (s.setPartState 0 0 1).openSheet 0 0

/-- Bring-up from step 3 on: recovery where the flash is not bootable, else step 7 with the reset cause recorded. -/
def State.bringUp (s : State) (cause : Nat) : State :=
  if s.bootable then
    let hw := { s.hw with powered := true, running := true, cause, f0Host := bytesAt s.hw.fabricRec 8 2 % 4096 }
    ({ s with hw } : State).firstPartition
  else { s with hw := { s.hw with powered := true, running := false, cause } }

/-! ## Budgets (R417) -/

/-- Budget of the clusters of a die at a temperature, inlet and die in 1/16 °C (R417). -/
def budgetAt (temp inlet : Int) : Nat :=
  if 640 < inlet ∨ 1680 ≤ temp then 1024
  else if temp < 1520 then 4096
  else 4096 - 256 * ((temp.toNat - 1520) / 16)

/-! ## The warm reset (R418, R419) -/

/-- Active partitions, in function and child order. -/
def State.activePartitions (s : State) : List (Nat × Nat) :=
  ((List.range 8).flatMap fun f => (List.range 5).map fun c => (f, c)).filter fun p => s.partState p.1 p.2 = 1

/-- What a warm reset leaves: memory, the counters, the house account, the sheets, the calibration, the clock and the package. What left the
device stays sent, and numbers once given are not given again. -/
def State.warmDomain (s : State) : State :=
  { mem := s.mem, memPoison := s.memPoison, soft := s.soft.filter fun w => match w with | .mem _ => true | _ => false
    preg := s.preg.filter fun e => e.1 / 65536 = 0x864 || e.1 / 65536 = 0x865
    counters := s.counters, house := s.house, booked := s.booked, sheets := s.sheets, persisted := s.persisted
    hw := { s.hw with
      hosts := [], gate := [], linksDown := [], portsDown := [], cxlDown := []
      cxl := s.hw.cxl.filter fun e => !s.hw.cxlDown.contains e.1 }
    clusters := s.clusters.map fun e => (e.1, { budget := e.2.budget })
    nextOp := s.nextOp, nextBlk := s.nextBlk, nextGrid := s.nextGrid, out := s.out, tick := s.tick, fresh := s.fresh, saves := s.saves }

/-- A warm reset: a sheet of every active partition, then bring-up. -/
def State.warmReset (s : State) (cause : Nat) : State :=
  ((s.activePartitions.foldl (fun s p => s.persistSheet p.1 p.2 2) s).warmDomain).bringUp cause

/-- WARM_RESET by F0 (R418, R426). -/
def execWarmReset (s : State) : Host.Outcome State Fault Refusal :=
  let s := s.unfocus
  .next (if s.awake then s.warmReset 1 else s)

/-- HEADSTOCK_WATCHDOG (R426). -/
def execHeadstockWatchdog (s : State) : Host.Outcome State Fault Refusal :=
  let s := s.unfocus
  .next (if s.awake then s.warmReset 3 else s)

/-! ## Cold power (R379, R418, R421) -/

/-- Every account that a sheet is kept of. -/
def accounts : List Nat := ((List.range 8).flatMap fun f => (List.range 5).map fun c => 8 * f + c) ++ [houseKey]

/-- What a cold power loss leaves: the flash and the persisted sheets, from which the counters and the clock resume. The dies are as warm as
they were, and the clusters' budgets as they allow (R417). -/
def State.coldDomain (s : State) : State :=
  let p := s.persisted
  { persisted := p
    counters := (accounts.filter (· ≠ houseKey)).foldl (fun m k => spSet 0 m k (spGet {} p k).cend) []
    house := (spGet {} p houseKey).cend.toInt
    sheets := accounts.foldl (fun m k => spSet {} m k { spGet {} p k with crossed := false, gap := true, bytes := [] }) []
    hw := {
      powered := false, running := false, fwBytes := s.hw.fwBytes, fwVersion := s.hw.fwVersion, fwValid := s.hw.fwValid
      fwMin := s.hw.fwMin, fabricRec := s.hw.fabricRec, fabricValid := s.hw.fabricValid, absentCores := s.hw.absentCores
      temp := s.hw.temp, inlet := s.hw.inlet, cxl := s.hw.cxl.filter fun e => !s.hw.cxlDown.contains e.1
      clockNs := BitVec.ofNat 64 (p.foldl (fun n e => max n e.2.endNs.toNat) 0) }
    clusters := (List.range 48).foldl (fun m cl => spSet {} m cl { budget := budgetAt (spGet 0 s.hw.temp (cl / 12)) s.hw.inlet }) []
    nextOp := s.nextOp, nextBlk := s.nextBlk, nextGrid := s.nextGrid, out := s.out, tick := s.tick, fresh := s.fresh }

/-- COLD_POWER_LOSS (R379). -/
def execColdPowerLoss (s : State) : Host.Outcome State Fault Refusal :=
  let s := s.unfocus
  .next (if s.hw.powered then s.coldDomain else s)

/-- POWER_GOOD: bring-up after a cold power loss (R421). -/
def execPowerGood (s : State) : Host.Outcome State Fault Refusal :=
  let s := s.unfocus
  .next (if s.hw.powered then s else s.bringUp 0)

/-! ## The function reset (R418) -/

/-- Who marks a function that is being reset. -/
def resetMark (fn : Nat) : Nat × Nat := (fn, 7)

/-- The configuration registers that a function reset clears: those of the queues, the fault ring, EV_BASE and CC_WAYPART (R418). The
others are kept; a cleared CC_WAYPART returns every way to the cache. -/
def State.clearCfg (s : State) (fn : Nat) : State :=
  { s with cfg := s.cfg.filter fun e => !(e.1 / 65536 = fn && e.1 % 65536 < 0x20C0) }

/-- A reset begins: the function's grids abort with PREEMPT and without completion records, and its queues take no more. -/
def State.beginReset (s : State) (fn : Nat) : State :=
  let s := (s.grids.filter fun g => g.fn = fn && g.status.isNone && g.abort.isNone && g.parent.isNone).foldl
    (fun s g => if ((s.grid? g.handle).map (·.abort.isSome)).getD true then s else s.abortGrid g Fc.preempt) s
  let grids := s.grids.map fun g => if g.fn = fn then { g with rcd := { g.rcd with cpl := 0, signal := 0 } } else g
  let cfg := s.cfg.filter fun e => !(e.1 / 65536 = fn && e.1 % 65536 < 0x2000)
  { s with grids, cfg, quiescing := s.quiescing ++ [resetMark fn], xholds := s.xholds.filter (·.fn ≠ fn) }

/-- Whether everything of a function that its reset ends has ended. -/
def State.resetQuiet (s : State) (fn : Nat) : Bool :=
  !(s.allBlocks.any fun b => b.fn = fn && b.method.isNone) && !(s.grids.any fun g => g.fn = fn && g.status.isNone) &&
  !(s.ops.any fun o => o.fn = fn)

/-- A reset ends: objects, scratch and the error record go, and the function's partitions are active again. -/
def State.endReset (s : State) (fn : Nat) : State :=
  let s := (s.objs.filter (·.fn = fn)).foldl State.freeObject s
  let s := (List.range 48).foldl (fun s cl => (s.scratchDrop fn cl 0)) (s.clearCfg fn)
  let s := { s with
    objGen := s.objGen.filter fun e => e.1 / 4096 ≠ fn
    errRec := s.errRec.filter fun e => e.1 ≠ fn
    shrinking := s.shrinking.filter fun e => e.1 / 64 ≠ fn
    hostWaits := s.hostWaits.filter fun e => !(e.1 = 0x841 && e.2.1 = fn)
    quiescing := s.quiescing.filter fun p => p.1 ≠ fn }
  [0, 1, 2, 3, 4].foldl (fun s c => if s.partState fn c = 0 then s else s.setPartState fn c 1) s

/-- Whether a function reset is asked for by one who may: the function's host, or F0, which `arg.tag` stands for, for any function (R418). -/
def State.mayReset (s : State) (fn : Nat) : Bool := s.arg.tag || s.isHost fn s.arg.adapter || s.isF0 s.arg.adapter

/-- FUNCTION_RESET: the function's grids abort; when they and what they had in flight are over, the rest of its domain is cleared. -/
def execFunctionReset (s : State) : Host.Outcome State Fault Refusal :=
  let s := s.unfocus
  let fn := s.arg.fn
  if !s.awake ∨ 8 ≤ fn ∨ !(s.quiescing.contains (resetMark fn) || s.mayReset fn) then .next s
  else
    let s := if s.quiescing.contains (resetMark fn) then s else s.beginReset fn
    .next (if s.resetQuiet fn then s.endReset fn else s)

end Sys2Proof.Machine
end

