-- ==== Sys2Proof/Machine/EvPartition.lean ====
section
/-! DEFINITION. Steps of Headstock, the power controller and the hosts on partitions: pre-emption, saves and restores, pools, classes,
budgets, gating, calibration, sheets, and writes to configuration and privileged registers (R270–R275, R364–R369, R372–R389, R416,
R417). A step that is not due leaves the state as it is. -/
namespace Sys2Proof.Machine

/-! ## P deliveries (R380, R381, R383) -/

/-- Whether a split has issued an instruction that holds issue for a bounded time, which completes before a delivery (R381). -/
def State.bounded (s : State) (b : Block) (sp : Split) : Bool :=
  sp.started &&
  match (s.fetch b sp.pc).2 with
  | .instr i _ _ _ _ => match i with
    | .wrpr _ => true
    | .sheet _ => true
    | .sheetLong _ => true
    | _ => false
  | _ => false

/-- The split at its boundary: a held instruction is abandoned, with the phase that a wait of it found, and a sleeping one is at its SLEEP
again; one that is parked at a JOIN stays so (R140, R381). -/
def Split.boundary (sp : Split) : Split :=
  let waitPhase := sp.waitPhase.filter (·.2 < 4)
  match sp.run with
  | .sleeping _ => { sp with pc := sp.lastPc.getD sp.pc, run := .ready, started := false, asked := 0, since := 0, waitPhase }
  | .parked => { sp with asked := 0, since := 0, waitPhase }
  | _ => { sp with run := .ready, started := false, asked := 0, since := 0, waitPhase }

/-- Handler budget of a block's kernel (R383). -/
def State.preBudget (s : State) (b : Block) : Nat :=
  let p := (s.pr 0x826 b.fn b.child 0).toNat % 2 ^ 24
  let h := (s.kernelOf b).cycles
  if h ≠ 0 ∧ h < p then h else p

/-- A P delivery to the wave of the split that issues: ignored in the pre-emption handler, a forced save where the wave has another live
split or the kernel no handler, and otherwise the handler is entered. Results on their way keep their distances until the resume (R56). -/
def State.pDeliver (s : State) (c : Cur) : State :=
  let k := s.kernelOf c.blk
  let s := (s.dropServed fun w => w.1 = c.blk.id && w.2.1 = c.wave.wid)
  if c.wave.pre.isSome then { s with cur := some c }
  else if !c.wave.splits.isEmpty ∨ k.prehandler = 0 then { s with cur := some { c with blk := { c.blk with forced := true } } }
  else
    let sp := c.split.boundary
    let pre : PreRec := { pc := sp.pc, exec := sp.readMask 16, budget := s.preBudget c.blk, arrived := sp.arrived }
    let xholds := s.xholds.filter fun x => !(x.blk = c.blk.id && x.wid = c.wave.wid)
    let sp := { sp.setAside with pc := k.addr + BitVec.ofNat 64 k.prehandler, arrived := false }
    { s with xholds, cur := some { c with wave := { c.wave.enters c.split.sid with pre := some pre }, split := sp } }

/-- Whether a delivery may be made to the split that issues. -/
def State.pOpen (s : State) (c : Cur) : Bool :=
  c.blk.phase = .resident && !c.blk.forced && c.blk.method.isNone && c.split.run ≠ .parked && c.split.run ≠ .prParked &&
  !s.bounded c.blk c.split

/-- QUOTA at the boundary of the split that issues. -/
def State.takeQuota (s : State) (c : Cur) : State :=
  if c.wave.quotaDue ∧ s.pOpen c then s.pDeliver { c with wave := { c.wave with quotaDue := false } } else s

/-- PREEMPT at the boundary of the split that issues, behind a QUOTA (R152). -/
def State.takePreempt (s : State) (c : Cur) : State :=
  if c.wave.preemptDue ∧ !c.wave.quotaDue ∧ s.pOpen c then s.pDeliver { c with wave := { c.wave with preemptDue := false } } else s

/-- QUOTA_DELIVERY (R380). -/
def execQuotaDelivery (s : State) : Host.Outcome State Fault Refusal :=
  let s := s.focus s.arg.blk s.arg.wid s.arg.sid
  match s.cur with
  | none => .next s
  | some c => .next (s.takeQuota c)

/-- PREEMPT_DELIVERY (R381). -/
def execPreemptDelivery (s : State) : Host.Outcome State Fault Refusal :=
  let s := s.focus s.arg.blk s.arg.wid s.arg.sid
  match s.cur with
  | none => .next s
  | some c => .next (s.takePreempt c)

/-- Lanes of the side that a fork record sets aside. -/
def Fork.asideLanes (r : Fork) : Mask :=
  match r.kind with
  | .serial x => x.owned
  | .serialSecond (some x) => x.owned
  | _ => 0

/-- The lowest live lane that a split holds, those of its sides set aside among them. -/
def Split.lowest (sp : Split) : Nat := (lowLane (sp.forks.foldl (fun m r => m ||| r.asideLanes) sp.owned)).getD 128

/-- Whether the split that issues is the one that THROTTLE goes to: it holds the lowest live lane of the block's lowest live wave. -/
def Cur.throttled (c : Cur) : Bool :=
  (c.blk.waves.all fun w => !w.live || decide (c.wave.wid < w.wid)) && c.wave.splits.all fun sp => decide (c.split.lowest < sp.lowest)

/-- Whether a THROTTLE may be taken by the split that issues: no trap that goes before it is pending, and no handler runs (R152). -/
def State.throttleOpen (s : State) (c : Cur) : Bool :=
  !c.split.uni.inHandler && c.throttled && c.blk.issues && c.split.atBoundary && !c.wave.quotaDue && !c.wave.preemptDue &&
  c.wave.hangDue.isNone && !s.hangReached c

/-- THROTTLE at the boundary of the split that issues (R389). -/
def State.takeThrottle (s : State) (c : Cur) : State :=
  match c.blk.throttle with
  | none => s
  | some v =>
    let quiet := { c with blk := { c.blk with throttle := none } }
    if !c.blk.armed then { s with cur := some quiet }
    else if !s.throttleOpen c then s
    else s.takeTrap { quiet with blk := { quiet.blk with lastThrottle := some v } } Fc.throttle c.split.pc (if v then 1 else 0)

/-- THROTTLE_DELIVERY (R389). -/
def execThrottleDelivery (s : State) : Host.Outcome State Fault Refusal :=
  let s := s.focus s.arg.blk s.arg.wid s.arg.sid
  match s.cur with
  | none => .next s
  | some c => .next (s.takeThrottle c)

/-- HANDLER_BUDGET_OVERRUN: the wave has not parked within its budget (R386). -/
def execHandlerBudgetOverrun (s : State) : Host.Outcome State Fault Refusal :=
  let s := s.unfocus
  match s.block? s.arg.blk with
  | none => .next s
  | some b => .next (if b.waves.any fun w => w.wid = s.arg.wid && w.pre.any fun p => p.done.isNone then
      s.mapBlock b.id fun b => { b with forced := true } else s)

/-! ## Saves (R270, R385, R386, R388) -/

/-- What a wave asked at PRDONE or CTXSV. -/
def Wave.asks (w : Wave) : Option (Dword × Bool × Bool × Bool) := w.pre.bind (·.done)

/-- Whether a wave has ended, or parked. -/
def Wave.parked (w : Wave) : Bool := w.splits.isEmpty || w.asks.isSome

/-- Whether a block's image is held. -/
def Block.isSaved (b : Block) : Bool :=
  match b.phase with
  | .saved _ _ => true
  | _ => false

/-- Whether the members of a gang are to be saved: by force, or as all the waves of those that are still resident have parked. -/
def saveDue (l : List Block) : Bool :=
  let here := l.filter (·.phase = .resident)
  l.all (fun b => b.phase = .resident || b.isSaved) &&
  (here.any (·.forced) ||
    (here.all (fun b => b.waves.all Wave.parked) && (l.any Block.isSaved || here.any fun b => b.waves.any fun w => w.asks.isSome)))

/-- Whether an operation keeps its block from being saved; what a deterministic block has staged does not (R386, R407). -/
def Op.keepsBack (o : Op) : Bool := !o.complete && !o.staged && !o.worked

/-- Whether a block is saved now: its gang is to be, and its own operations and what other members have sent to its scratchpad are over. -/
def State.saveReady (s : State) (b : Block) : Bool :=
  b.method.isNone && b.phase = .resident && saveDue (s.gangOf b) && !(s.ops.any fun o => o.blk = b.id && o.keepsBack) && !s.reachedAt b

/-- A split as the cooperative image keeps it: what R385 discards is gone. -/
def Split.discarded (sp : Split) : Split :=
  let kept := fun (r : RegId) => match r with
    | .sym _ => false
    | .orf _ => false
    | .td _ => false
    | _ => true
  let stays := fun (key : Nat) => decide ((RegId.scal 0).key ≤ key / 128) && decide (key / 128 < (RegId.td 0).key)
  let f := fun (l : List Pend) => l.filter fun p => kept p.reg
  { sp with
    vreg := [], ofile := [], uni := { sp.uni with td := [] }, pend := f sp.pend, held := sp.held.map f
    poison := spFilter stays sp.poison, flaw := spFilter stays sp.flaw }

/-- A split put at a resume point, with the results that the entry of its handler set aside; what a wait of the handler found is gone (R201). -/
def Split.resumeAt (sp : Split) (pc : Dword) (exec : Mask) (arrived : Bool) : Split :=
  { ({ sp with pend := sp.pend.filter fun p => p.reg ≠ RegId.mask 16 } : Split).takeBack 0 with
    pc, exec, arrived, run := .ready, started := false, since := 0, waitPhase := sp.waitPhase.filter (·.2 < 4) }

/-- What a save writes: the full image, by force or as a wave has asked for it, or the cooperative one (R385, R386). -/
inductive ImageKind where
  | cooperative
  | full
  | forced
  deriving DecidableEq, Repr

/-- A split as an image keeps it. A full image keeps what a wave holds and the recorded PC; in a forced one a wave that has issued PRDONE has
discarded what PRDONE discards. Sides that wait behind a serial fork hold registers of their own, and lose them alike. -/
def Wave.imageOf (w : Wave) (kind : ImageKind) (sp : Split) : Split :=
  match w.pre with
  | none => sp.boundary
  | some p => match p.done with
    | none => sp.resumeAt p.pc p.exec p.arrived
    | some d =>
      if kind = .full ∨ (kind = .forced ∧ d.2.2.2) then sp.resumeAt p.pc p.exec p.arrived
      else (sp.everywhere Split.discarded).resumeAt d.1 p.exec (p.arrived && d.1 = p.pc)

/-- A wave as an image keeps it: words with an uncorrectable error arrive there poisoned (R83). -/
def Wave.image (w : Wave) (kind : ImageKind) : Wave :=
  { w with
    splits := w.splits.map fun sp =>
      { (w.imageOf kind sp).everywhere (·.arrives fun _ => true) with behind := [], asked := 0, issuedPc := none }
    pre := none, quotaDue := false, preemptDue := false, bundles := 0, behind := [] }

/-- The image that a block receives (R384, R386). -/
def Block.imageKind (b : Block) (forced : Bool) : ImageKind :=
  if forced then .forced else if b.waves.any fun w => w.asks.any (·.2.2.2) then .full else .cooperative

/-- A block's image. -/
def Block.image (b : Block) (kind : ImageKind) (slot : Option Nat) (seq : Nat) : Block :=
  let asks := fun (f : Dword × Bool × Bool × Bool → Bool) => kind ≠ .cooperative || (b.waves.filterMap Wave.asks).any f
  let scr := asks (·.2.1)
  { b with
    waves := b.waves.map fun w => w.image kind, forced := false, phase := .saved slot scr, saveSeq := seq
    scratch := if scr then b.scratch else [], scrPoison := if scr then b.scrPoison else []
    tiles := if asks (·.2.2.1) then b.tiles else [], tilePoison := if asks (·.2.2.1) then b.tilePoison else [] }

/-- Darkroom slots of a core. -/
def slotsOf (core : Nat) : List Nat := [16 * (core / 8) + 2 * (core % 8), 16 * (core / 8) + 2 * (core % 8) + 1]

/-- The slot of a core that takes a partition's image: the one that holds it, or a free one; none is the save area (R270, R386,
notes/assumptions/59.md). -/
def State.slotFor (s : State) (core fn child : Nat) : Option Nat :=
  ((slotsOf core).find? fun n => spGet 0 s.darkroom n = 8 * fn + child + 1).or ((slotsOf core).find? fun n => spGet 0 s.darkroom n = 0)

/-- Whether the save of a block is forced: that of every member of its gang then is (R388). -/
def State.forcedSave (s : State) (b : Block) : Bool := (s.gangOf b).any (·.forced)

/-- A block's part of an image written. -/
def State.saveBlock (s : State) (kind : ImageKind) (slot : Option Nat) (seq : Nat) (b : Block) : State :=
  let s := s.mapBlock b.id fun _ => b.image kind slot seq
  ({ s with xholds := s.xholds.filter (·.blk ≠ b.id) } : State).dropServed fun w => w.1 = b.id

/-- The members of forced gangs that are not saved yet are forced as well. -/
def State.forceGangs (s : State) (l : List Block) : State :=
  let ids := (l.filter s.forcedSave).flatMap fun b => (s.gangOf b).map (·.id)
  { s with blocks := s.blocks.map fun b => if ids.contains b.id && b.phase = .resident then { b with forced := true } else b }

/-- The image of a partition on a core: its blocks there that are to be saved move to a slot, or to the save area, charged to the partition as
one save (R270, R271, R277). -/
def State.saveCore (s : State) (core fn child : Nat) : State :=
  let l := (s.coreBlocks core).filter fun b => b.fn = fn && b.child = child && s.saveReady b
  if l.isEmpty then s
  else
    let s := if (s.poolOf (core / 8)).isSome ∨ (s.clusterOf (core / 8)).changing.isSome then s.passTime else s
    let slot := s.slotFor core fn child
    let t := l.foldl (fun t b => t.saveBlock (b.imageKind (s.forcedSave b)) slot (s.saves + 1) b) (s.forceGangs l)
    let t := { t with
      saves := s.saves + 1
      darkroom := match slot with
        | some n => spSet 0 t.darkroom n (8 * fn + child + 1)
        | none => t.darkroom }
    let t := if slot.isSome then t else t.imageOut fn child
    (t.bookCore fn child core [(.darkroom, 886)]).settleStops fn

/-- BLOCK_SAVE: a block that is to be saved is, with those of its partition on its core that are to be as well (R386). -/
def execBlockSave (s : State) : Host.Outcome State Fault Refusal :=
  let s := s.unfocus
  match s.block? s.arg.blk with
  | none => .next s
  | some b => .next (if s.saveReady b then s.saveCore b.core b.fn b.child else s)

/-! ## Restores (R248, R271, R387, R388) -/

/-- Whether a core may take a block back: its partition's, of its grid's class, with room for it. -/
def State.restoreFits (s : State) (g : Grid) (b : Block) (core : Nat) : Option Nat :=
  if s.coreOpen b.fn b.child core && (s.clusterOf (core / 8)).changing.isNone && s.classOk (core / 8) g.cls then
    s.grant core ⟨g.kernel, b.nwaves, g.rcd.tiles, b.baseShare⟩
  else none

/-- Whether a block's image lies in the darkroom of another cluster than a core's: it moves by way of the save area (R386). -/
def Block.elsewhere (b : Block) (core : Nat) : Bool :=
  match b.phase with
  | .saved (some n) _ => n / 16 ≠ core / 8
  | _ => false

/-- Whether control state of a block's image has an uncorrectable error (R276). -/
def State.badImage (s : State) (b : Block) : Bool :=
  match b.phase with
  | .saved (some n) _ => s.badImages.contains n
  | _ => false

/-- A block back on a core, at its base share, for which a print is used; its grid aborts where the control state of its image is lost
(R246, R276). -/
def State.restoreBlock (s : State) (b : Block) (core q0 : Nat) : State :=
  let s := if b.elsewhere core then s.imageOut b.fn b.child else s
  let age := s.nextAge core
  let waves := b.waves.map fun w =>
    { w with quarter := (q0 + w.wid) % 4, age := age + w.wid, share := b.baseShare, wanted := b.baseShare }
  let back : Block := { b with core, waves, phase := .resident }
  let bad := s.badImage b
  let s := ((s.printFor back b.baseShare).occupy core b.fn b.child).mapBlock b.id fun _ => back
  let s := (s.l1Clear core).sweepDarkroom
  let s : State := { s with ops := s.ops.map fun (o : Op) => if o.blk = b.id then { o with core } else o }
  if bad then s.gridAbort back Fc.ecc 0 0 0 else s

/-- A gang of distinct cores of one cluster. -/
def gangCores (l : List Nat) : Bool :=
  l.eraseDups.length = l.length && match l with
    | [] => false
    | c :: rest => rest.all (· / 8 = c / 8)

/-- A saved block and its gang restored on the cores given, where these can grant their resources and every image is closed; of a
deterministic grid the block at the turn first (R388, R405). The restore of each core's image is charged once: `paid` lists the cores
whose image has been. -/
def State.restoreGang (s : State) (b : Block) (cores paid : List Nat) : State × List Nat :=
  match s.gridOf b with
  | none => (s, paid)
  | some g =>
    let l := s.gangOf b
    let pairs := l.zip cores
    let ats := pairs.map fun p => s.restoreFits g p.1 p.2
    let first := !g.kernel.det || l.any (·.index = g.turn) ||
      !(s.blocks.any fun x => x.grid = g.handle && x.method.isNone && x.isSaved && x.index = g.turn)
    if l.all (fun x => x.isSaved && !s.aimedAt x) && l.length = cores.length && gangCores cores && ats.all Option.isSome && first &&
        s.partState b.fn b.child = 1 && !s.over b.fn 0 && !s.over b.fn b.child && (g.abort.isNone || g.handoff.isSome) then
      let t := (pairs.zip ats).foldl (fun s p => s.restoreBlock p.1.1 p.1.2 (p.2.getD 0)) s
      let due := cores.filter fun c => !paid.contains c
      (due.foldl (fun t c => t.bookCore b.fn b.child c [(.darkroom, 886)]) t, paid ++ due)
    else (s, paid)

/-- BLOCK_RESTORE (R387): a gang's members on the cores that `arg.blocks` lists, another block on `arg.core`. -/
def execBlockRestore (s : State) : Host.Outcome State Fault Refusal :=
  let s := s.unfocus
  match s.block? s.arg.blk with
  | none => .next s
  | some b => .next (s.restoreGang b (if s.gangSize b = 1 then [s.arg.core] else s.arg.blocks) []).1

/-- Blocks whose image lies in a core's darkroom slots. -/
def State.inDarkroom (s : State) (core : Nat) : List Block :=
  s.blocks.filter fun b => (slotsOf core).any b.inSlot

/-- The partitions that have blocks on a core. -/
def State.partsOn (s : State) (core : Nat) : List (Nat × Nat) := ((s.coreBlocks core).map fun b => (b.fn, b.child)).eraseDups

/-- The images of a core saved, and blocks restored to it that lay in its slots before. -/
def State.swapCore (s : State) (core : Nat) : State :=
  let t := (s.partsOn core).foldl (fun t p => t.saveCore core p.1 p.2) s
  (((s.inDarkroom core).map (·.id)).foldl (fun (acc : State × List Nat) id => match acc.1.block? id with
    | some b => acc.1.restoreGang b (if acc.1.gangSize b = 1 then [core] else (acc.1.gangOf b).map (·.core)) acc.2
    | none => acc) (t, [])).1

/-- DARKROOM_SWAP: a core's blocks that are due are saved, and what its slots hold of the partition whose turn it is restored (R270). -/
def execDarkroomSwap (s : State) : Host.Outcome State Fault Refusal :=
  let s := s.unfocus
  .next (s.swapCore s.arg.core)

/-! ## Pools and classes (R275, R364) -/

/-- PREEMPT signalled to the resident blocks that satisfy a test. -/
def State.preemptWhere (s : State) (p : Block → Bool) : State :=
  s.mapWaves (fun b => b.method.isNone && b.phase = .resident && p b) fun w => { w with preemptDue := true }

/-- Whether a pool's member is active and has a grid or an image (R364, R390). -/
def State.hasWork (s : State) (m : Nat × Nat × Nat) : Bool :=
  s.partState m.1 m.2.1 = 1 && s.grids.any fun g => g.fn = m.1 && g.child = m.2.1 && g.status.isNone

/-- The next member of a pool whose turn it is, cyclically, beginning after the resident one or where the last turn has ended; those without
work are skipped. -/
def State.nextMember (s : State) (p : Nat) : Option Nat :=
  let l := s.poolMembers p
  let n := l.length
  let v := spGet 0 s.poolTurn p
  ((List.range n).map fun i => (v / 2 + v % 2 + i) % n).find? fun i => (l[i]?).any s.hasWork

/-- The turn of a pool after a slice: the next member's, or where no member has work no one's. -/
def State.nextTurn (s : State) (p : Nat) : Nat :=
  let v := spGet 0 s.poolTurn p
  match s.nextMember p with
  | some i => 2 * i + 1
  | none => if v % 2 = 1 then 2 * ((v / 2 + 1) % max 1 (s.poolMembers p).length) else v

/-- POOL_SLICE_END: the resident member takes PREEMPT, and the next one's slice begins (R364). It also begins the first slice, and the one
after a time in which no member had work. -/
def execPoolSliceEnd (s : State) : Host.Outcome State Fault Refusal :=
  let s := s.unfocus.passTime
  let p := s.arg.pool
  let t := match s.residentMember p with
    | some m => s.preemptWhere fun b => b.fn = m.1 && b.child = m.2 && s.poolOf (b.core / 8) = some p
    | none => s
  .next { t with poolTurn := spSet 0 t.poolTurn p (s.nextTurn p) }

/-- CLUSTER_REASSIGN: CHANGING is set and the resident blocks take PREEMPT (R275). -/
def execClusterReassign (s : State) : Host.Outcome State Fault Refusal :=
  let s := s.unfocus.passTime
  let cl := s.arg.cluster
  let k := s.clusterOf cl
  if 48 ≤ cl ∨ 3 ≤ s.arg.cls ∨ k.changing.isSome then .next s
  else .next ((s.setCluster cl { k with changing := some s.arg.cls }).preemptWhere fun b => b.core / 8 = cl)

/-- CLASS_CHANGE_DONE: every block has been saved, and the operating point has changed (R275). -/
def execClassChangeDone (s : State) : Host.Outcome State Fault Refusal :=
  let s := s.unfocus.passTime
  let cl := s.arg.cluster
  let k := s.clusterOf cl
  match k.changing with
  | none => .next s
  | some v =>
    .next (if (List.range 8).all fun j => (s.coreBlocks (8 * cl + j)).isEmpty then s.setCluster cl { k with cls := v, changing := none } else s)

/-! ## Power (R272, R273, R416, R417) -/

/-- A beginning or an end of throttling for an armed block: one that is still pending is merged with it, and what is kept is dropped where it
repeats the last value delivered (R389). -/
def Block.throttleEvent (b : Block) (v : Bool) : Block :=
  { b with throttle := if b.throttle.isSome ∧ b.lastThrottle = some v then none else some v }

/-- A cluster's budget set; where throttling begins or ends, the armed blocks resident on it have an event (R273, R389). -/
def State.setBudget (s : State) (cl v : Nat) : State :=
  let k := s.clusterOf cl
  let v := min v 4096
  let s := s.setCluster cl { k with budget := v }
  if decide (k.budget < 4096) = decide (v < 4096) then s
  else
    let f := fun (b : Block) =>
      if b.core / 8 = cl ∧ b.method = none ∧ b.phase = .resident ∧ b.armed then b.throttleEvent (decide (v < 4096)) else b
    { s with blocks := s.blocks.map f }

/-- The most that a cluster's budget is at its die's temperature and the inlet's. -/
def State.budgetCap (s : State) (cl : Nat) : Nat := budgetAt (spGet 0 s.hw.temp (cl / 12)) s.hw.inlet

/-- BUDGET_CHANGE, within what the temperature of the die allows (R272, R417). -/
def execBudgetChange (s : State) : Host.Outcome State Fault Refusal :=
  let s := s.unfocus
  .next (if s.arg.cluster < 48 then s.setBudget s.arg.cluster (min s.arg.budget (s.budgetCap s.arg.cluster)) else s)

/-- DIE_TEMP_CHANGE (R417). -/
def execDieTempChange (s : State) : Host.Outcome State Fault Refusal :=
  let s := s.unfocus
  let a := s.arg
  if 4 ≤ a.die then .next s
  else
    let hot := decide (decide (640 < s.hw.inlet) ≠ decide (640 < a.inlet16))
    let s := { s with hw := { s.hw with temp := spSet 0 s.hw.temp a.die a.temp16, inlet := a.inlet16 } }
    let s := ((List.range 48).filter fun cl => hot || cl / 12 = a.die).foldl
      (fun s cl => s.setBudget cl (s.budgetCap cl)) s
    .next (if decide (1840 ≤ a.temp16) && s.awake then s.warmReset 2 else s)

/-- Gating of a core set: what its static power costs changes from then on (R416). -/
def State.setGate (s : State) (core v : Nat) : State :=
  let s := s.passTime
  { s with hw := { s.hw with gate := spSet 0 s.hw.gate core v } }

/-- CLOCK_GATE: no split of the core is ready to issue (R416). -/
def execClockGate (s : State) : Host.Outcome State Fault Refusal :=
  let s := s.unfocus
  let c := s.arg.core
  .next (if s.present c ∧ spGet 0 s.hw.gate c = 0 ∧ (List.range 4).all (fun q => (s.readyIn c q).isEmpty) then s.setGate c 1 else s)

/-- POWER_GATE: the core holds no resident block (R416). -/
def execPowerGate (s : State) : Host.Outcome State Fault Refusal :=
  let s := s.unfocus
  let c := s.arg.core
  .next (if s.present c ∧ (s.coreBlocks c).isEmpty then s.setGate c 2 else s)

/-- CORE_WAKE (R416). -/
def execCoreWake (s : State) : Host.Outcome State Fault Refusal :=
  let s := s.unfocus
  let c := s.arg.core
  .next (if spGet 0 s.hw.gate c = 2 then s.setGate c 0 else s)

/-! ## Calibration and sheets (R372, R374, R379) -/

/-- A ratio in units of 1/4,096, rounded to the nearest, within 0.8–1.25. -/
def factorOf (measured : Int) (booked : Nat) : Nat :=
  min 5120 (max 3277 ((measured.toNat * 8192 + booked) / (2 * booked)))

/-- The factor of a rail for the next epoch; nothing is stated of a rail on which nothing was booked, and its factor is a free value. -/
def State.calibrate (s : State) (rails : List Int) (r : Nat) : State :=
  let b := spGet 0 s.booked r
  if b = 0 then
    let t := s.takeFree
    t.1.setPr 0x865 0 0 r (BitVec.ofNat 64 (3277 + t.2.toNat % 1844))
  else s.setPr 0x865 0 0 r (BitVec.ofNat 64 (factorOf ((rails[r]?).getD 0 + b) b))

/-- CALIBRATION_EPOCH: the epoch's last time passes, and the rails are calibrated. `arg.rails` is what each rail measured beyond what was
booked on it; a rail measures no less than nothing. -/
def execCalibrationEpoch (s : State) : Host.Outcome State Fault Refusal :=
  let s := s.unfocus.passTime
  let rails := (List.range 16).map fun r => max (-((spGet 0 s.booked r : Nat) : Int)) ((s.arg.rails[r]?).getD 0)
  let s := (List.range 16).foldl (fun s r => s.calibrate rails r) s
  let house := s.house + rails.foldl (· + ·) 0 - ((spGet 0 s.booked nominalKey : Nat) : Int)
  .next (({ s with house, booked := [] } : State).setPr 0x864 0 0 0 (s.pr 0x864 0 0 0 + 1))

/-- PERIODIC_SHEET (R379). -/
def execPeriodicSheet (s : State) : Host.Outcome State Fault Refusal :=
  let s := s.unfocus
  let all := (List.range 8).flatMap fun f => (List.range 5).map fun c => (f, c)
  let l := all.filter fun p => decide (s.partState p.1 p.2 ≠ 0)
  .next (if s.awake then (l ++ [(7, 7)]).foldl (fun (s : State) (p : Nat × Nat) => s.persistSheet p.1 p.2 0) s else s)

/-- What SH_SEL names: a partition of the function, or the house account for F0. -/
def State.sheetSel (s : State) (fn : Nat) : Option (Nat × Nat) :=
  let v := (s.cfgReg fn 0x2108).toNat
  if bit v 7 then (if fn = 0 then some (7, 7) else none)
  else if v % 8 ≤ 4 then some (fn, v % 8) else none

/-- A host's request of a sheet: what cannot be written is logged, and closes no window. -/
def State.hostSheet (s : State) (fn : Nat) : State :=
  let va := (s.cfgReg fn 0x2100).toNat
  let s := s.devWalk fn 0 va
  let bad := s.logErr fn { code := 0x70, info := BitVec.ofNat 64 va }
  match s.sheetSel fn, s.devPlace fn 0 va needW with
  | some (f, c), some (sp, a) =>
    if va % 256 ≠ 0 ∨ sp ≠ .mem ∨ s.locked a then bad
    else
      let r := s.closeSheet f c 1
      let seq := (spGet {} r.1.sheets (8 * f + c)).seq % 65536
      (r.1.storeAt fn .mem a r.2).setCfg fn 0x2110 (BitVec.ofNat 64 (65536 * seq))
  | _, _ => bad

/-- SH_REQ (R379). -/
def execShReq (s : State) : Host.Outcome State Fault Refusal :=
  let s := s.unfocus
  .next (if s.awake ∧ s.arg.fn < 8 then s.hostSheet s.arg.fn else s)

/-! ## Commands (R365) -/

/-- The register and the selector that F0's privileged access block names (R367). -/
def State.praNum (s : State) : Nat := (s.cfgReg 0 0x4008).toNat % 2 ^ 32
def State.praSel (s : State) : Nat := (s.cfgReg 0 0x4000).toNat % 2 ^ 32

/-- PRA_ERR bit 0 set. -/
def State.praError (s : State) : State := s.setCfg 0 0x4018 1

/-- Whether a write that waits is of the same register as another, and for HOMEMODE of the same granule. -/
def sameWrite (e f : Nat × Nat × Nat × Dword) : Bool :=
  e.1 = f.1 && e.2.1 = f.2.1 && e.2.2.1 = f.2.2.1 && (e.1 ≠ 0x860 || e.2.2.2.toNat % 2 ^ 26 = f.2.2.2.toNat % 2 ^ 26)

/-- A write that waits kept, in the place of an earlier one of the same register. -/
def keepWrite (l : List (Nat × Nat × Nat × Dword)) (e : Nat × Nat × Nat × Dword) : List (Nat × Nat × Nat × Dword) :=
  if l.any (sameWrite · e) then l.map fun x => if sameWrite x e then e else x else l ++ [e]

/-- What comes of a host's write of a register: one that waits is kept, in the place of an earlier one of the same register, until it is tried
again; one refused is logged and sets PRA_ERR (R266, R280, R367, R368). -/
def State.settle (s : State) (n : Nat) (t : PrSel) (v : Nat) (r : PrWrite) : State :=
  let e : Nat × Nat × Nat × Dword := (n, t.fn, t.inst, BitVec.ofNat 64 v)
  let others := fun (l : List (Nat × Nat × Nat × Dword)) => l.filter fun x => !sameWrite x e
  match r with
  | .done s' => { s' with hostWaits := others s'.hostWaits }
  | .wait s' => { s' with hostWaits := keepWrite s'.hostWaits e }
  | .refused => (({ s with hostWaits := others s.hostWaits } : State).logRefused n).praError

/-- A command given to the partition that `arg` names. -/
def State.commanded (s : State) (cmd : Nat) : State :=
  if s.awake ∧ s.arg.fn < 8 ∧ s.arg.child ≤ 4 then s.settle 0x82C ⟨0, true, s.arg.fn, s.arg.child⟩ cmd (s.command s.arg.fn s.arg.child cmd) else s

/-- ACTIVATE (R365). -/
def execActivate (s : State) : Host.Outcome State Fault Refusal := .next (s.unfocus.commanded 1)

/-- RESUME (R365). -/
def execResume (s : State) : Host.Outcome State Fault Refusal := .next (s.unfocus.commanded 2)

/-- STOP (R365). -/
def execStopPartition (s : State) : Host.Outcome State Fault Refusal := .next (s.unfocus.commanded 3)

/-- QUIESCE: the command, and while it is in progress its next stage (R365). -/
def execQuiesce (s : State) : Host.Outcome State Fault Refusal :=
  let s := s.unfocus
  .next (if s.quiescing.contains (s.arg.fn, s.arg.child) then s.quiesceOn s.arg.fn s.arg.child else s.commanded 4)

/-- DESTROY (R365). -/
def execDestroy (s : State) : Host.Outcome State Fault Refusal := .next (s.unfocus.commanded 5)

/-! ## Writes of F0's host (R264–R266, R280, R367, R393) -/

/-- A write of a privileged register by F0's host. -/
def State.hostWrites (s : State) (n : Nat) (t : PrSel) (v : Nat) : State :=
  if s.awake ∧ t.fn < 8 ∧ t.child ≤ 4 ∧ t.inst < ((prInfo n).map (·.insts)).getD 0 then s.settle n t v (s.writePr n t v) else s

/-- PM_QUOTA_WRITE (R393). -/
def execPmQuotaWrite (s : State) : Host.Outcome State Fault Refusal :=
  let s := s.unfocus
  .next (s.hostWrites 0x825 ⟨0, true, s.arg.fn, s.arg.child⟩ s.arg.value.toNat)

/-- HOMEMODE_WRITE (R280). -/
def execHomemodeWrite (s : State) : Host.Outcome State Fault Refusal :=
  let s := s.unfocus
  .next (s.hostWrites 0x860 ⟨0, true, 0, 0⟩ s.arg.value.toNat)

/-- CC_WAYPART_WRITE (R266). -/
def execCcWaypartWrite (s : State) : Host.Outcome State Fault Refusal :=
  let s := s.unfocus
  .next (s.hostWrites 0x841 ⟨s.arg.cluster, true, s.arg.fn, 0⟩ (s.arg.value.toNat % 2 ^ 32))

/-- PM_WAYS_WRITE (R266). -/
def execPmWaysWrite (s : State) : Host.Outcome State Fault Refusal :=
  let s := s.unfocus
  .next (s.hostWrites 0x830 ⟨s.arg.cluster, true, s.arg.fn, 0⟩ (s.arg.value.toNat % 2 ^ 32))

/-- POOL_CL_WRITE (R390). -/
def execPoolClWrite (s : State) : Host.Outcome State Fault Refusal :=
  let s := s.unfocus
  .next (s.hostWrites 0x850 ⟨s.arg.pool, true, 0, 0⟩ s.arg.value.toNat)

/-! ## The privileged access block (R367) -/

/-- F0's host as a caller. -/
def f0Caller : Caller := ⟨0, 0, 2⟩

/-- PRA_DATA_READ: acts as RDPR. -/
def execPraDataRead (s : State) : Host.Outcome State Fault Refusal :=
  let s := s.unfocus
  let n := s.praNum
  if !s.awake then .next s
  else if !((prInfo n).map (·.canRead)).getD false then .next s.praError
  else match prTarget f0Caller n s.praSel false with
    | .error _ => .next s.praError
    | .ok t =>
      let m : Msg := ⟨"PRA_DATA", s.hw.f0Host, leBytes 8 (s.readPr f0Caller n t)⟩
      .next { s with out := s.out ++ [m] }

/-- PRA_DATA_WRITE: acts as WRPR. -/
def execPraDataWrite (s : State) : Host.Outcome State Fault Refusal :=
  let s := s.unfocus
  let n := s.praNum
  if !s.awake then .next s
  else if !((prInfo n).map (·.canWrite)).getD false then .next s.praError
  else match prTarget f0Caller n s.praSel true with
    | .error _ => .next s.praError
    | .ok t =>
      let wide := ((prInfo n).map (·.wide)).getD false
      let v := s.arg.value.toNat % (if wide then 2 ^ 64 else 2 ^ 32)
      .next (s.settle n t v (s.writePr n t v))

/-! ## Other configuration registers (R286, R338, R359, R369) -/

/-- A launch queue's register written (R338). -/
def State.writeQueue (s : State) (fn q off v : Nat) : State :=
  let set := fun (x : Nat) => s.setCfg fn (qReg q off) (BitVec.ofNat 64 x)
  match off with
  | 0x00 => set (v / 128 * 128)
  | 0x08 => set (if 2 ≤ v % 16 ∧ v % 16 ≤ 12 then v % 16 else 0)
  | 0x0C => set (v % 4)
  | 0x14 => s.doorbell fn q (v % 2 ^ 32)
  | 0x18 => s.setCfg fn (qReg q 0x18) (s.cfgReg fn (qReg q 0x18) &&& ~~~BitVec.ofNat 64 v)
  | _ => s

/-- A register of a function's configuration space written by its host. -/
def State.writeCfg (s : State) (fn off v : Nat) : State :=
  let set := fun (x : Nat) => s.setCfg fn off (BitVec.ofNat 64 x)
  if off = 0xE00 then set (v / 4096 * 4096)
  else if off = 0xE08 then set (if 4 ≤ v % 16 ∧ v % 16 ≤ 12 then v % 16 else 0)
  else if off = 0xE10 then set (v % 2 ^ 32)
  else if off = 0xE14 then
    if fld v 30 16 ≠ 0 then s.logErr fn { code := 0x70, info := BitVec.ofNat 64 v }
    else if bit v 31 then s.xfDeliver fn (v % 65536)
    else s.xfReplay fn (v % 65536)
  else if off = 0xF00 then set (v % 2 ^ 64)
  else if 0x1000 ≤ off ∧ off < 0x1800 then s.writeQueue fn ((off - 0x1000) / 32) ((off - 0x1000) % 32) v
  else if 0x2000 ≤ off ∧ off < 0x20C0 ∧ off % 4 = 0 then s.settle 0x841 ⟨(off - 0x2000) / 4, true, fn, 0⟩ (v % 2 ^ 32) (s.writeWaypart fn ((off - 0x2000) / 4) (v % 2 ^ 32))
  else if off = 0x2100 then set (v % 2 ^ 64)
  else if off = 0x2108 then set (v % 8 + (if fn = 0 then b2n (bit v 7) * 128 else 0))
  else if off = 0x210C then (if v % 2 = 1 then s.hostSheet fn else s)
  else if fn = 0 ∧ (off = 0x4000 ∨ off = 0x4008) then set (v % 2 ^ 32)
  else if fn = 0 ∧ off = 0x4018 then (if bit v 0 then set 0 else s)
  else s

/-- CONFIG_REGISTER_WRITE: a configuration register of `arg.fn` by its host or F0's, or with `arg.tag` a privileged register that
`arg.value2` selects, by F0's host (R359, R369). -/
def execConfigRegisterWrite (s : State) : Host.Outcome State Fault Refusal :=
  let s := s.unfocus
  let a := s.arg
  if !s.awake ∨ 8 ≤ a.fn ∨ !(s.isF0 a.adapter || (!a.tag && s.isHost a.fn a.adapter)) then .next s
  else if a.tag then
    if !((prInfo a.offset).map (·.canWrite)).getD false then .next s.praError
    else match prTarget f0Caller a.offset (a.value2.toNat % 2 ^ 32) true with
      | .error _ => .next s.praError
      | .ok t => .next (s.settle a.offset t a.value.toNat (s.writePr a.offset t a.value.toNat))
  else .next (s.writeCfg a.fn a.offset a.value.toNat)

end Sys2Proof.Machine
end

