-- ==== Sys2Proof/Machine/EvFabric.lean ====
section
/-! DEFINITION. Steps of the package and the fabric: management operations, windows and exports, accesses that arrive, links and expanders,
recovery, hand-off and the debug port (R151, R244, R413, R422, R426–R440). A step that is not due leaves the state as it is. -/
namespace Sys2Proof.Machine

/-! ## Refusals and answers (R427) -/

/-- An answer to an adapter. -/
def State.send (s : State) (tag : String) (dest : Nat) (bytes : List Byte) : State :=
  let m : Msg := ⟨tag, dest, bytes⟩
  { s with out := s.out ++ [m] }

/-- An operation refused: it changes nothing but F0's error registers, and is answered so. -/
def State.opRefused (s : State) (adapter : Nat) : State :=
  (s.logErr 0 { code := 0x70, info := BitVec.ofNat 64 adapter }).send "REFUSED" adapter []

/-! ## The description record and attestation (R426, R440) -/

/-- The module's 384 cores, one bit each. -/
def State.presentBytes (s : State) : List Byte :=
  (List.range 48).map fun i => BitVec.ofNat 8 (sumBy (fun j => b2n (s.present (8 * i + j)) * 2 ^ j) (List.range 8))

/-- Die pairs that are up. -/
def State.linkBits (s : State) : Nat := sumBy (fun p => b2n (!s.hw.linksDown.contains p) * 2 ^ p) (List.range 6)

/-- GiB of the expanders that remain. -/
def State.cxlGib (s : State) : Nat := sumBy (fun (e : Nat × Nat) => if s.hw.cxlDown.contains e.1 then 0 else e.2) s.hw.cxl

/-- The package description record. -/
def State.description (s : State) : List Byte :=
  leBytes 4 0x50484453 ++ leBytes 2 1 ++ leBytes 2 Config.revision.toNat ++ leBytes 8 Config.serial.toNat ++ leBytes 4 s.hw.fwVersion ++
  leBytes 4 ((List.range 384).filter s.present).length ++ s.presentBytes ++ leBytes 4 288 ++ leBytes 4 s.cxlGib ++
  ((List.range 4).flatMap fun d => leBytes 2 (wrap 16 (spGet 0 s.hw.temp d))) ++ leBytes 2 (wrap 16 s.hw.inlet) ++
  leBytes 1 s.linkBits ++ leBytes 1 s.hw.cause ++ leBytes 4 0 ++ leBytes 32 Config.identityKey.toNat

/-- DESC. -/
def execDescRead (s : State) : Host.Outcome State Fault Refusal :=
  let s := s.unfocus
  let a := s.arg.adapter
  .next (if !s.awake then s else if s.anyHost a then s.send "DESC" a s.description else s.opRefused a)

/-- Registers whose values MAPDIGEST covers, in order of their numbers: those of R440's names that have a value to read. -/
def mapRegs : List Nat :=
  [0x80A, 0x80B, 0x80C, 0x80D] ++ (List.range 8).map (0x810 + ·) ++
  [0x820, 0x821, 0x822, 0x823, 0x824, 0x825, 0x826, 0x827, 0x828, 0x829, 0x82A, 0x82B, 0x82D, 0x82E, 0x82F, 0x830]

/-- The bytes of one register's instances, for a function and a child. -/
def State.mapBytes (s : State) (fn child n : Nat) : List Byte :=
  match prInfo n with
  | none => []
  | some i =>
    if i.scope ≠ .partition ∧ child ≠ 0 then []
    else (List.range i.insts).flatMap fun k => leBytes (if i.wide then 8 else 4) (s.readPr f0Caller n ⟨k, true, fn, child⟩)

/-- The partition map as MAPDIGEST covers it; the pools stand with F0. -/
def State.mapImage (s : State) : List Byte :=
  (List.range 8).flatMap fun f =>
    (mapRegs.flatMap fun n => (List.range 5).flatMap fun c => s.mapBytes f c n) ++
    (if f = 0 then s.mapBytes 0 0 0x850 ++ s.mapBytes 0 0 0x851 else [])

/-- The attestation record. -/
def State.quote (s : State) (nonce : BitVec 256) : List Byte :=
  let head := leBytes 4 0x51545441 ++ leBytes 2 1 ++ leBytes 2 Config.revision.toNat ++ leBytes 8 Config.serial.toNat ++
    leBytes 4 s.hw.fwVersion ++ leBytes 4 s.hw.fwMin ++ leBytes 32 nonce.toNat ++ hashBytes (Config.sha512 s.hw.fwBytes) ++
    hashBytes (Config.sha512 s.mapImage) ++ leBytes 8 s.hw.clockNs.toNat
  head ++ hashBytes (Config.identitySign (hashBytes (Config.sha512 head)))

/-- QUOTE: the attestation record, and the identity certificate. -/
def execQuoteRecord (s : State) : Host.Outcome State Fault Refusal :=
  let s := s.unfocus
  let a := s.arg.adapter
  .next (if !s.awake then s else if s.anyHost a then s.passTime.send "QUOTE" a (s.passTime.quote s.arg.nonce ++ Config.certificate)
    else s.opRefused a)

/-! ## Bindings, windows and exports (R427, R429–R431) -/

/-- FNHOST: the adapter `arg.value` bound to a function (R427). -/
def execFnhost (s : State) : Host.Outcome State Fault Refusal :=
  let s := s.unfocus
  let a := s.arg
  if !s.awake then .next s
  else if s.isF0 a.adapter ∧ 1 ≤ a.fn ∧ a.fn ≤ 7 ∧ a.value.toNat < 4096 then
    .next (({ s with hw := { s.hw with hosts := spSet 0 s.hw.hosts a.fn (a.value.toNat + 1) } } : State).send "FNHOST" a.adapter [])
  else .next (s.opRefused a.adapter)

/-- Whether accesses admitted under a window's entry are still to be performed or answered (R431). What is staged is sent at its release. -/
def State.windowBusy (s : State) (fn w : Nat) : Bool := s.ops.any fun o => o.fn = fn && (s.windowsOf o).contains w

/-- WINDOW: complete once what was admitted under the old entry is over. -/
def execWindowWrite (s : State) : Host.Outcome State Fault Refusal :=
  let s := s.unfocus
  let a := s.arg
  if !s.awake then .next s
  else if !(s.isHost a.fn a.adapter || s.isF0 a.adapter) ∨ 8 ≤ a.fn ∨ a.entry < 1 ∨ 127 < a.entry then .next (s.opRefused a.adapter)
  else if s.windowBusy a.fn a.entry then .next s
  else .next (({ s with windows := spSet 0 s.windows (128 * a.fn + a.entry) (a.value &&& 0x8000000000007FFF#64) } : State).send
    "WINDOW" a.adapter [])

/-- Whether requests admitted under an export entry are still to be answered: COMB packets of other devices, which entry 0 admits (R431, R435).
Other accesses are performed as they arrive. -/
def State.exportBusy (s : State) (fn e : Nat) : Bool :=
  e = 0 && s.chucks.any fun k => (k.2.ingress.flatMap (·.reqs) ++ s.chuckHeld k.2).any fun r => remoteBase ≤ r.op && r.fn = fn

/-- EXPORT: complete once what was admitted under the old entry is over. PAGES is 262,144 at most (R427, R430). -/
def execExportWrite (s : State) : Host.Outcome State Fault Refusal :=
  let s := s.unfocus
  let a := s.arg
  let key := 128 * a.fn + 2 * a.entry
  if !s.awake then .next s
  else if !(s.isHost a.fn a.adapter || s.isF0 a.adapter) ∨ 8 ≤ a.fn ∨ 63 < a.entry ∨ 262144 < a.value.toNat % 2 ^ 19 then
    .next (s.opRefused a.adapter)
  else if s.exportBusy a.fn a.entry then .next s
  else .next (({ s with exports := spSet 0 (spSet 0 s.exports key (a.value &&& 0xFFFFF0000007FFFF#64)) (key + 1)
                                     (a.value2 &&& 0x000FFFFFFFFF0000#64) } : State).send "EXPORT" a.adapter [])

/-! ## Accesses that arrive (R430, R432–R435) -/

/-- Word k of an export entry. -/
def State.exportWord (s : State) (fn e k : Nat) : Nat := (spGet 0 s.exports (128 * fn + 2 * e + k)).toNat

/-- Whether an entry admits a source. -/
def State.sourceOk (s : State) (fn e dev srcFn : Nat) : Bool :=
  let w := s.exportWord fn e 0
  bit w 63 && (bit w 59 || (fld w 58 47 = dev && fld w 46 44 = srcFn))

/-- Whether an arriving access reads and whether it writes: a CWB needs what a load does (R269). -/
def remoteReads (r : RemoteReq) : Bool := r.kind ≠ 1
def remoteWrites (r : RemoteReq) : Bool := r.kind = 1 || r.kind = 2

/-- The virtual address that an arriving access has in the exporting function; none where its entry does not serve it (R430). -/
def State.exportedVa (s : State) (r : RemoteReq) : Option Nat :=
  let e := r.offset / 2 ^ 34
  let rel := r.offset % 2 ^ 34
  let w := s.exportWord r.tfn e 0
  if e < 64 ∧ s.sourceOk r.tfn e r.dev r.srcFn ∧ rel < w % 2 ^ 19 * 65536 ∧ (!remoteReads r ∨ bit w 62) ∧ (!remoteWrites r ∨ bit w 61)
  then some ((s.exportWord r.tfn e 1) % 2 ^ 52 + rel) else none

/-- Its place in memory, where the function's page tables permit it; what no page table maps is not served (R267, R430). -/
def State.exported (s : State) (r : RemoteReq) : Option Nat :=
  let need := if remoteWrites r then (if remoteReads r then needRW else needW) else needR
  (s.exportedVa r).bind fun va => match s.devPlace r.tfn 0 va need with
    | some (.mem, a) => if remoteWrites r ∧ s.locked a then none else some a
    | _ => none

/-- An answer to another device: whether it is an error, and data, of an atomic the old value of each lane. -/
def State.remoteAnswer (s : State) (r : RemoteReq) (error : Bool) (vs : List Nat) : State :=
  (s.bookFlit r.tfn 0).send "REMOTE_ANSWER" r.dev (leBytes 1 (b2n error) ++ vs.flatMap (leBytes 8 ·))

/-- A refusal, logged in the exporting function's error registers (R433). -/
def State.remoteRefused (s : State) (r : RemoteReq) : State :=
  (s.logErr r.tfn { code := 0x70, info := BitVec.ofNat 64 r.offset }).remoteAnswer r true []

/-- The lanes of an arriving atomic's address group, in order (R190, R432). -/
def remoteGroup (r : RemoteReq) : List Item :=
  ((r.data, r.expected) :: r.more).zipIdx.map fun p => ⟨p.2, .mem, 0, r.bytes, 0, p.1.1, p.1.2, false⟩

/-- A line that a CWB of another device names written back where it is dirty, and with `.inv` gone from its home (R269, R432). -/
def State.remoteCwb (s : State) (r : RemoteReq) (a : Nat) : State :=
  let line := a / 128
  let s := match s.lines.find? fun x => x.line = line && x.dirty with
    | some x => ((s.bookSlice r.tfn 0 (s.homeOf a) [(.cwb, 1), (.line, 1)]).bookLine r.tfn 0 line).cleanLine x
    | none => s
  if r.aop = 1 then { s with lines := s.lines.filter (·.line ≠ line) } else s

/-- A load, a store, an atomic's group or a CWB performed at its home for the exporting partition, which is charged for it (R432–R435). -/
def State.remoteAccess (s : State) (r : RemoteReq) : State :=
  let s := s.bookFlit r.tfn 0
  let s := match s.exportedVa r with
    | some va => s.devWalk r.tfn 0 va
    | none => s
  match s.exported r with
  | none => s.remoteRefused r
  | some a =>
    let read := (s.scrub r.tfn .mem a r.bytes).touch r.tfn 0 a r.bytes false
    let old := s.fetchAt .mem a r.bytes
    match r.kind with
    | 0 => (if old.2 then read.logPoison r.tfn a else read).remoteAnswer r old.2 [ofLe old.1]
    | 1 => (s.storeAt r.tfn .mem a (leBytes r.bytes r.data.toNat)).remoteAnswer r false []
    | 4 => (s.remoteCwb r a).remoteAnswer r false []
    | _ =>
      let s := read.bookSlice r.tfn 0 (s.homeOf a) [(.homeatom, 1)]
      if old.2 then (s.logPoison r.tfn a).remoteAnswer r true []
      else
        let t := applyLanes r.aop r.ty r.mode.toNat (remoteGroup r) (ofLe old.1)
        (s.storeAt r.tfn .mem a (leBytes r.bytes t.1)).remoteAnswer r false (t.2.map (·.2))

/-- Requests of a COMB packet of another device, by the packet's number: one per lane of `arg.lanes`, with 16 bytes of argument each
(R320). -/
def remoteReqs (a : EvArg) (slot pkt : Nat) : List CombReq :=
  ((List.range 128).filter a.lanes.getLsbD).zipIdx.map fun p =>
    { op := remoteBase + a.remote.dev, lane := p.1, arg := BitVec.ofNat 128 (bytesAt a.bytes (16 * p.2) 16), fn := a.remote.tfn, child := 0
      slot, pkt }

/-- A COMB packet of another device queued at the ingress of its object's home, under a number of its own (R320, R435). One that entry 0 or
the table does not admit is answered with status. -/
def State.remoteComb (s : State) (a : EvArg) : State :=
  let r := a.remote
  let id := r.offset % 2 ^ 24
  let num := remoteBase + s.nextOp
  let reqs := remoteReqs a (id % 4096) num
  let s := { s.bookFlit r.tfn 0 with nextOp := s.nextOp + 1 }
  let status := fun (s : State) => reqs.foldl (fun s q => s.answer q false (combStatus Fc.object)) s
  if !(s.sourceOk r.tfn 0 r.dev r.srcFn && bit (s.exportWord r.tfn 0 0) 60) then
    status (s.logErr r.tfn { code := 0x70, info := BitVec.ofNat 64 r.offset })
  else match s.objOf r.tfn id with
    | none => status s
    | some o =>
      let slice := s.homeOf o.pa
      s.setChuck slice { s.chuck slice with ingress := (s.chuck slice).ingress ++ [⟨num, r.tfn, id, reqs, [remoteBase + r.dev]⟩] }

/-- REMOTE_ACCESS_ARRIVAL (R430). -/
def execRemoteAccessArrival (s : State) : Host.Outcome State Fault Refusal :=
  let s := s.unfocus
  let r := s.arg.remote
  if !s.awake ∨ 8 ≤ r.tfn then .next s
  else .next (if r.kind = 3 then s.remoteComb s.arg else s.remoteAccess r)

/-- REMOTE_TIMEOUT: what an operation has in a window and no answer has come for is answered with an error (R433). -/
def execRemoteTimeout (s : State) : Host.Outcome State Fault Refusal :=
  let s := s.unfocus
  match s.op? s.arg.op with
  | none => .next s
  | some o =>
    let l := (o.undone.filter (·.space = .remote)).map (·.lane)
    match o.kind with
    | .load _ _ => .next (s.performLoads o.id (maskOf l) true)
    | .store => .next (s.performStores o.id (maskOf l) true)
    | .cwb _ => .next (s.performStores o.id (maskOf l) true)
    | .atom _ _ _ _ => .next (l.foldl (fun s i => s.performAtomic o.id i true) s)
    | .comb _ _ id _ reqs sent answers =>
      if sent ∧ idWin id ≠ 0 ∧ answers.isEmpty ∧ !o.complete ∧ !o.staged then
        let s := s.remoteAnswers reqs true
        .next (match s.op? o.id with | some o => s.finishComb o | none => s)
      else .next s
    | _ => .next s

/-! ## Drain markers of other devices (R436) -/

/-- Packets of another device whose requests are still to be answered. Its other messages are performed as they arrive. -/
def State.packetsOf (s : State) (dev : Nat) : List Nat :=
  (s.chucks.flatMap fun k => ((k.2.ingress.flatMap (·.reqs) ++ s.chuckHeld k.2).filter (·.op = remoteBase + dev)).map (·.pkt)).eraseDups

/-- Whether every message before a marker has been performed or answered. -/
def State.markerDue (s : State) (m : Marker) : Bool := !(s.packetsOf m.dev).any m.pkts.contains

/-- A marker acknowledged. -/
def State.ackMarker (s : State) (m : Marker) : State :=
  s.send "DRAIN_ACK" m.dev [BitVec.ofNat 8 m.fn, BitVec.ofNat 8 m.child, if m.tag then 1 else 0]

/-- FABRIC_DRAIN_MARKER: a marker of device `arg.dev` for its partition's messages with a tag arrives, and is acknowledged once each of them
is answered (R436). -/
def execFabricDrainMarker (s : State) : Host.Outcome State Fault Refusal :=
  let s := s.unfocus
  let a := s.arg
  if !s.awake then .next s
  else match s.markers.find? fun m => m.dev = a.dev && m.fn = a.fn && m.child = a.child && m.tag = a.tag with
    | some m => .next (if s.markerDue m then ({ s with markers := s.markers.filter (· ≠ m) } : State).ackMarker m else s)
    | none =>
      let m : Marker := ⟨a.dev, a.fn, a.child, a.tag, s.packetsOf a.dev⟩
      .next (if m.pkts.isEmpty then s.ackMarker m else { s with markers := s.markers ++ [m] })

/-! ## Links and expanders (R413, R436, R437) -/

/-- The dies of a pair. -/
def pairOf (p : Nat) : Nat × Nat := ([(0, 1), (0, 2), (0, 3), (1, 2), (1, 3), (2, 3)][p]?).getD (0, 0)

/-- Dies reached from a set in n more hops over links that are up. -/
def reached (down : List Nat) : Nat → List Nat → List Nat
  | 0, l => l
  | n + 1, l =>
    let up := ((List.range 6).filter fun p => !down.contains p).map pairOf
    reached down n ((List.range 4).filter fun d => l.contains d || up.any fun e => (e.1 = d && l.contains e.2) || (e.2 = d && l.contains e.1))

/-- DIE_LINK_DOWN: a die pair's link marked down (R413). -/
def execDieLinkDown (s : State) : Host.Outcome State Fault Refusal :=
  let s := s.unfocus
  let p := s.arg.port
  if 6 ≤ p ∨ s.hw.linksDown.contains p ∨ !s.awake then .next s
  else
    let s := s.logErr 0 { code := 0x71, info := BitVec.ofNat 64 p }
    let s := { s with hw := { s.hw with linksDown := s.hw.linksDown ++ [p] } }
    .next (if (reached s.hw.linksDown 3 [0]).length = 4 then s else s.warmReset 5)

/-- FABRIC_PORT_DOWN: a port marked down (R436). What it carried goes another way or is answered by REMOTE_TIMEOUT. -/
def execFabricPortDown (s : State) : Host.Outcome State Fault Refusal :=
  let s := s.unfocus
  let p := s.arg.port
  if 8 ≤ p ∨ s.hw.portsDown.contains p then .next s
  else .next { s.logErr 0 { code := 0x71, info := BitVec.ofNat 64 p } with hw := { s.hw with portsDown := s.hw.portsDown ++ [p] } }

/-- CXL_LINK_FAIL: an expander gone; its range answers as poisoned (R437). -/
def execCxlLinkFail (s : State) : Host.Outcome State Fault Refusal :=
  let s := s.unfocus
  let p := s.arg.port
  if s.hw.cxlDown.contains p ∨ !(s.hw.cxl.any fun e => e.1 = p) then .next s
  else .next { s.logErr 0 { code := 0x71, info := BitVec.ofNat 64 p } with hw := { s.hw with cxlDown := s.hw.cxlDown ++ [p] } }

/-! ## Recovery (R422) -/

/-- The parts of a push that pass their checks written to the flash. -/
def State.flashed (s : State) (p : RecoveryPush) : State :=
  let hw := match p.image with
    | some (bs, v, sig) =>
      if s.hw.fwMin ≤ v && Config.ed25519Verify Config.imageKey (hashBytes (Config.sha512 bs)) sig then
        { s.hw with fwBytes := bs, fwVersion := v, fwValid := true } else s.hw
    | none => s.hw
  let hw := match p.record with
    | some bs => if fabricRecordOk bs then { hw with fabricRec := bs, fabricValid := true } else hw
    | none => hw
  { s with hw }

/-- IMAGE: a host pushes to the ROM loader, which answers on port 0 alone; with a valid image and a valid record the device restarts with
cause 4. Outside recovery it is refused. -/
def execImagePush (s : State) : Host.Outcome State Fault Refusal :=
  let s := s.unfocus
  if !s.hw.powered then .next s
  else if s.hw.running then .next (s.opRefused s.arg.adapter)
  else if s.arg.port ≠ 0 then .next s
  else
    let s := (s.flashed s.arg.push).send "IMAGE" s.arg.adapter []
    .next (if s.bootable then s.bringUp 4 else s)

/-! ## Hand-off (R438, R439) -/

/-- A launch record's 128 bytes. -/
def LaunchRec.bytes (r : LaunchRec) : List Byte :=
  let wait := fun i => match r.waits[i]? with
    | some w => leBytes 2 w.1 ++ leBytes 2 0 ++ leBytes 4 w.2
    | none => leBytes 8 0
  let prio := if r.deflt then 64 + 128 * b2n r.serial else r.prio + 128 * b2n r.serial
  leBytes 1 1 ++ leBytes 1 8 ++ leBytes 1 prio ++ leBytes 1 r.cls ++ leBytes 4 r.number.toNat ++ leBytes 8 r.hdr.toNat ++
  leBytes 8 r.param.toNat ++ leBytes 4 r.gdimx ++ leBytes 4 r.gdimy ++ leBytes 4 r.gdimz ++ leBytes 1 r.waves ++ leBytes 1 r.tiles ++
  leBytes 2 0 ++ leBytes 8 r.lmem.toNat ++ leBytes 8 r.lmemsz.toNat ++ leBytes 8 r.hashtab.toNat ++ leBytes 4 r.npages ++ leBytes 4 0 ++
  leBytes 8 r.sig.toNat ++ wait 0 ++ wait 1 ++ wait 2 ++ wait 3 ++ leBytes 2 r.signal ++ leBytes 6 0 ++ leBytes 8 r.cpl.toNat

/-- Whether a kernel's blocks may run again from their start (R355). -/
def Kernel.restartable (k : Kernel) : Bool := bit k.trap.toNat 3

/-- Blocks of a grid that a reserved opcode has stopped. -/
def State.absentBlocks (s : State) (g : Grid) : List Block :=
  s.blocks.filter fun b => b.grid = g.handle && b.method.isNone && b.phase = .stopped

/-- Whether a HANDOFF of a grid is refused by the source. -/
def State.handoffBad (s : State) (g : Grid) : Bool :=
  g.status.isSome || g.abort.isSome || g.handoff.isSome || g.kernel.det || g.parent.isSome ||
  s.grids.any fun x => x.status.isNone && (match x.parent with | some p => p.1 = g.handle | none => false)

/-- A grid's end as the wait of a block of it for a HANDOFF is over, whether others have been handed over before or not (R439). -/
def State.featureAbort (s : State) (g : Grid) : State :=
  match g.absent with
  | none => s
  | some (blk, wid, pc, info) =>
    let s := s.logErr g.fn { code := Fc.featureAbsent, wid, flags := g.child, grid := g.rcd.number, block := BitVec.ofNat 32 blk, pc, info }
    let a : AbortInfo := ⟨1, BitVec.ofNat 32 Fc.featureAbsent, pc, blk, wid, info⟩
    (s.mergedWith g.handle).foldl (fun s h => s.abortTree 11 h { a with status := 4 }) (s.abortTree 11 g.handle a)

/-- The grid handed over: its unstarted blocks leave, and of those stopped by a reserved opcode the restartable ones. -/
def State.handOver (s : State) (g : Grid) (dev tfn q : Nat) : State :=
  let unstarted := (List.range g.rcd.blocks).filter fun i => !spGet false g.dispatched i && !spGet false g.withdrawnBlocks i
  let again := if g.kernel.restartable then (s.absentBlocks g).map (·.index) else []
  let abort := if g.kernel.restartable then none
    else g.absent.map fun a => ⟨1, BitVec.ofNat 32 Fc.featureAbsent, a.2.2.1, a.1, a.2.1, a.2.2.2⟩
  let s := s.mapGrid g.handle fun g => { g with
    handoff := some (dev, tfn, q), abort, absent := none
    withdrawnBlocks := unstarted.foldl (fun m i => spSet false m i true) g.withdrawnBlocks }
  s.send "HANDOFF" dev (leBytes 1 tfn ++ leBytes 1 q ++ g.rcd.bytes ++ (unstarted ++ again).flatMap (leBytes 4 ·))

/-- HANDOFF: of a grid to queue `arg.q` of function `arg.other` on a device; `arg.tag` says that the target refuses it. -/
def execHandoff (s : State) : Host.Outcome State Fault Refusal :=
  let s := s.unfocus
  let a := s.arg
  if !s.awake then .next s
  else match s.grid? a.grid with
    | none => .next (s.opRefused a.adapter)
    | some g =>
      if !s.isF0 a.adapter then .next (s.opRefused a.adapter)
      else if s.handoffBad g ∨ a.tag then
        .next (if g.status.isNone then (s.opRefused a.adapter).featureAbort g else s.opRefused a.adapter)
      else .next ((s.handOver g a.dev a.other a.q).send "HANDED_OFF" a.adapter [])

/-- HANDOFF_TIMEOUT (R439). -/
def execHandoffTimeout (s : State) : Host.Outcome State Fault Refusal :=
  let s := s.unfocus
  match s.grid? s.arg.grid with
  | none => .next s
  | some g => .next (if g.status.isNone then s.featureAbort g else s)

/-- HANDOFF_ARRIVAL: the record `arg.bytes` admitted to queue `arg.q` of `arg.fn`, for the blocks listed in `arg.blocks`; one that fails
R341 is refused. -/
def execHandoffArrival (s : State) : Host.Outcome State Fault Refusal :=
  let s := s.unfocus
  let a := s.arg
  let child := s.routeOf a.fn a.q
  let open_ := bit (s.pr 0x82A a.fn 0 0).toNat a.q && (s.partState a.fn child = 1 || s.partState a.fn child = 3)
  if !s.awake ∨ 8 ≤ a.fn ∨ 64 ≤ a.q then .next s
  else match (if open_ then (s.checkLaunch a.fn child a.bytes).2 else .error 0) with
    | .error reason => .next (s.send "HANDOFF_REFUSED" a.dev (leBytes 4 reason))
    | .ok _ =>
      let h := s.nextGrid
      let level := b2n (bit (s.pr 0x809 a.fn 0 0).toNat a.q)
      let s := s.takeGrid { handle := 0, fn := a.fn, child, queue := some a.q, level, fromHandoff := some false } a.bytes
        ((s.cfgReg a.fn (qReg a.q 0xC)).toNat % 4)
      let others := fun (g : Grid) => (List.range g.rcd.blocks).filter fun i => !a.blocks.contains i
      .next (s.mapGrid h fun g => { g with withdrawnBlocks := (others g).foldl (fun m i => spSet false m i true) [] })

/-- The outcome that a source reports: status, code, PC, block, WID and TRAP_INFO. -/
def outcomeOf (b : List Byte) : AbortInfo :=
  ⟨bytesAt b 0 4 % 256, BitVec.ofNat 32 (bytesAt b 4 4), BitVec.ofNat 64 (bytesAt b 8 8), bytesAt b 16 4, bytesAt b 20 4,
    BitVec.ofNat 64 (bytesAt b 24 8)⟩

/-- HANDOFF_RETIRE_REPORT: every block that the source ran has retired; `arg.bytes` is its outcome, which is the grid's where it is an
error. It is taken when the listed blocks are over as well. -/
def execHandoffRetireReport (s : State) : Host.Outcome State Fault Refusal :=
  let s := s.unfocus
  match s.grid? s.arg.grid with
  | none => .next s
  | some g =>
    let ended := !(s.allBlocks.any fun b => b.grid = g.handle && b.method.isNone) &&
      (g.abort.isSome || g.retired.length + g.withdrawnBlocks.length = g.rcd.blocks)
    if g.fromHandoff ≠ some false ∨ !ended then .next s
    else
      let a := outcomeOf s.arg.bytes
      .next (s.mapGrid g.handle fun g =>
        { g with fromHandoff := some true, abort := if g.abort.isNone ∧ a.status ≠ 0 then some a else g.abort })

/-! ## The Chady debug port (R151, R244) -/

/-- CHADY_PORT_RESUME: a wave that the port has stopped goes on (R151). -/
def execChadyPortResume (s : State) : Host.Outcome State Fault Refusal :=
  .next (s.unfocus.mapWave s.arg.blk s.arg.wid fun w => if w.debug = 1 then { w with debug := 2 } else w)

/-- Whether a symbolic register is live in a split: its interval holds the PC (R230). -/
def State.symLive (s : State) (b : Block) (sp : Split) (n : Nat) : Bool := ((s.kernelOf b).liveIdx n ((s.kernelOf b).offOf sp.pc)).isSome

/-- An operation of the port that names no register it may write or read is refused. -/
def State.portRefused (s : State) (c : Cur) (n : Nat) : State :=
  s.logErr c.blk.fn { code := 0x70, wid := c.wave.wid, flags := c.blk.child, info := BitVec.ofNat 64 n }

/-- A register's stale words gone, where the path has come to another interval of it: what the port writes is of the interval at the PC
(R230). `dst` gives the symbolic destination of an operation in flight. -/
def Split.renewed (sp : Split) (k : Kernel) (dst : Nat → Option Nat) (n : Nat) : Split :=
  let sp := if sp.keepsAt k n sp.pc then sp
    else { sp with
      vreg := spFilter (fun key => key / 128 ≠ n) sp.vreg, poison := spFilter (fun key => key / 128 ≠ n) sp.poison
      flaw := spFilter (fun key => key / 128 ≠ n) sp.flaw, pend := sp.pend.filter (·.reg ≠ .sym n)
      awaits := sp.awaits.map fun a => if dst a.1 = some n then (a.1, BitVec.allOnes 128) else a }
  { sp with ported := sp.ported ++ [(n, sp.pc)] }

/-- The parts of the wave that the port looks at: the split named first, and every side that waits behind a serial fork. -/
def Cur.portParts (c : Cur) : List Split := (c.split :: c.wave.splits).flatMap Split.parts

/-- A part of a wave with a symbolic register written in those of some lanes that it owns. -/
def Split.portWrite (sp : Split) (k : Kernel) (dst : Nat → Option Nat) (n : Nat) (lanes : Mask) (v : Word) : Split :=
  match (lanesOf sp.owned).filter lanes.getLsbD with
  | [] => sp
  | l => (sp.renewed k dst n).land (.sym n) (l.map fun i => (i, v.setWidth 64))

/-- A symbolic register written by the port in every lane it names, of whichever part of the wave it is; one that is not live in the split
named, or at one of the lanes, is refused (R244). -/
def State.portWrites (s : State) (blk wid sid n : Nat) (lanes : Mask) (v : Word) : State :=
  let s := s.focus blk wid sid
  match s.cur with
  | none => s
  | some c =>
    let live := fun (i : Nat) => c.portParts.any fun sp => sp.owned.getLsbD i && s.symLive c.blk sp n
    if !s.symLive c.blk c.split n ∨ !(lanesOf lanes).all live then s.portRefused c n
    else
      let f := Split.everywhere fun sp => sp.portWrite (s.kernelOf c.blk) s.symDst n lanes v
      { s with cur := some { c with split := f c.split, wave := { c.wave with splits := c.wave.splits.map f } } }

/-- Whether a page of a block's kernel, by its number there, has been verified: nothing is read from another (R357, R443). -/
def State.pageVerified (s : State) (b : Block) (i : Nat) : Bool :=
  match b.method with
  | some m => (s.obj? m.fn m.slot).any fun o => o.pages.any (·.1 = o.kernel.addr.toNat / 65536 + i)
  | none => (s.gridOf b).any fun g => spGet false g.verified (g.kernel.hashIdx + i)

/-- The symbolic number that a name of a block's symbol map stands for, and of an array an element of it (R443). -/
def State.symNamed (s : State) (b : Block) (name : List Byte) (elem : Nat) : Option Nat :=
  let k := s.kernelOf b
  (((s.symbolMap b.fn b.child k (s.pageVerified b)).bind fun m => m.1.find? fun e => e.1 = 0 && e.2.2 = name)).bind fun e =>
    if elem < (k.array e.2.1).2 then some (e.2.1 + elem) else none

/-- The words of a symbolic register as the port reads them, lane by lane at the place where the map of the lane's part of the wave has it;
zero where it is not live, and in lanes that have ended (R243, R244). -/
def State.portWords (s : State) (c : Cur) (n : Nat) : List Byte :=
  let k := s.kernelOf c.blk
  let ps := slotParts k c.wave.share (c.split :: c.wave.splits)
  let l := c.portParts.map fun sp =>
    (s.fill c.blk (s.spillArea c.blk) c.wave.wid ps ((slotWordsOf (sp.locs k c.wave.share)).filter (·.1 = n)) sp).2
  (List.range c.wave.width).flatMap fun i =>
    leBytes 4 (((l.find? fun sp => sp.owned.getLsbD i).map fun sp => (sp.wordAt k n i).toNat).getD 0)

/-- The binding view: every register and spill slot that holds a live word, with the symbolic number and the word in every lane (R244). -/
def State.portView (s : State) (c : Cur) : List Byte :=
  let k := s.kernelOf c.blk
  leBytes 4 c.wave.share ++ (k.locs c.wave.share (k.offOf c.split.pc)).flatMap fun e => locBytes (some e.2) ++ leBytes 2 e.1 ++ s.portWords c e.1

/-- What the port shows of a split. -/
def State.portShows (s : State) (blk wid sid : Nat) (f : State → Cur → Option (List Byte)) : State :=
  let t := s.focus blk wid sid
  match t.cur with
  | none => t
  | some c => match f t c with
    | some bs => t.send "CHADY" 0 bs
    | none => t.portRefused c 0

/-- CHADY_PORT_WRITE: a symbolic register written or read by number or by name, the binding view shown, a breakpoint set, or the port's
breakpoints armed for a function (R151, R243, R244). -/
def execChadyPortWrite (s : State) : Host.Outcome State Fault Refusal :=
  let s := s.unfocus
  match s.arg.portAct with
  | .writeSym blk wid sid n lanes v => .next (s.portWrites blk wid sid n lanes v)
  | .readSym blk wid sid n => .next (s.portShows blk wid sid fun s c => some (s.portWords c n))
  | .writeName blk wid sid name elem lanes v => .next (match (s.block? blk).bind fun b => s.symNamed b name elem with
      | some n => s.portWrites blk wid sid n lanes v
      | none => s.portShows blk wid sid fun _ _ => none)
  | .readName blk wid sid name elem =>
    .next (s.portShows blk wid sid fun s c => (s.symNamed c.blk name elem).map (s.portWords c))
  | .bindingView blk wid sid => .next (s.portShows blk wid sid fun s c => some (s.portView c))
  | .setBreakpoint fn pc =>
    .next { s with hw := { s.hw with breakpoints := if s.hw.breakpoints.contains (fn, pc) then s.hw.breakpoints
                                                      else s.hw.breakpoints ++ [(fn, pc)] } }
  | .arm fn on =>
    let rest := s.hw.armedFns.filter (· ≠ fn)
    .next { s with hw := { s.hw with armedFns := if on then rest ++ [fn] else rest } }

end Sys2Proof.Machine
end

