-- ==== Sys2Proof/Machine/EvLathe.lean ====
section
/-! DEFINITION. Steps of the Lathe and the job engine: starts, work and completion (R206, R212, R215, R218, R226). A step that is not
due leaves the state as it is. -/
namespace Sys2Proof.Machine

/-- Place of an operation in the order of release (R212). -/
def Op.turn (o : Op) : Nat := o.released.getD 0

/-- Whether the Lathe of a core is free for an operation: none is under way there, and no other was released before it. An ACCST that has only
writes in staging left has left it (R212, R407). -/
def State.latheFree (s : State) (o : Op) : Bool :=
  !(s.ops.any fun p => p.core = o.core && p.kind.isLathe && !p.complete && !p.worked && p.id ≠ o.id &&
    (p.stage ≠ 0 || (p.released.isSome && p.turn < o.turn)))

/-- A released operation asks for current, and starts once it is granted (R175), unless a FENCE.job of its wave holds it back. -/
def State.startHeavy (s : State) (o : Op) : State :=
  if o.complete || o.released.isNone || s.jobFenced o then s
  else if o.stage = 0 then s.ask o
  else if o.stage = 2 then s.mapOp o.id fun o => { o with stage := 3 }
  else s

/-- LATHE_OP_START (R212, R226): the oldest released operation of a core takes the Lathe. -/
def execLatheOpStart (s : State) : Host.Outcome State Fault Refusal :=
  let s := s.unfocus
  match s.op? s.arg.op with
  | none => .next s
  | some o => .next (if o.kind.isLathe && s.latheFree o then s.startHeavy o else s)

/-- The global accesses of an ACCLD or ACCST that is over, for the Loupe. -/
def State.lathePlaces (s : State) (o : Op) : State :=
  let rows := fun (g : Dword) (pitch ty : Nat) => (List.range 96).map fun r => (g.toNat + r * pitch, 128 * accBytes ty)
  if ((s.blockOf o.blk).bind s.loupeGrid).isNone then s
  else match o.kind with
  | .accld _ ty g pitch _ pages => s.loupeJob o (s.rowItems o pages (rows g pitch ty)) []
  | .accst _ ty _ g pitch _ pages => s.loupeJob o [] (s.rowItems o pages (rows g pitch ty))
  | _ => s

/-- The places of the rows that a gather has read. -/
def State.gatherItems (s : State) (b : Block) (o : Op) (c : Card) : List Item :=
  (List.range c.rows).flatMap fun r =>
    let n := spGet 0 o.prog r
    if n < 2 then []
    else match (s.translateRange b needR false (pagesOf (n - 2) (n - 2 + c.rb)) (n - 2) (n - 2 + c.rb)).2 with
      | .ok pages => s.rowItems o pages [(n - 2, c.rb)]
      | .error _ => []

/-- The global accesses of a card that is over, for the Loupe. -/
def State.cardPlaces (s : State) (o : Op) (c : Card) : State :=
  match s.blockOf o.blk with
  | none => s
  | some b =>
    if (s.loupeGrid b).isNone then s
    else
      let l := match c.globalRows with
        | some _ => s.rowItems o c.pages c.rowsOf
        | none => if c.kind = 3 then s.gatherItems b o c else []
      if c.toGlobal then s.loupeJob o [] l else s.loupeJob o l []

/-- The work of a Lathe operation under way: the elements and k-blocks that the step names, or everything that is left. -/
def State.latheWork (s : State) (o : Op) (steps : List (Nat × Nat)) : State :=
  match o.kind with
  | .accst t ty rnd g pitch mode pages =>
    let n := if steps.isEmpty then 96 * piecesOf (128 * accBytes ty) else steps.length
    State.accstSteps n s o t ty rnd g pitch mode.toNat pages
  | _ =>
    let l := if steps.isEmpty then (List.range 12288).map fun e => (e, 8) else steps.filter fun p => p.1 < 12288
    l.foldl (fun s p => let t := s.elemStep o p.1 p.2; if s.spoils t then s else t) s

/-- Whether a Lathe operation has nothing left to do, and whether staging holds no write of it either. -/
def Op.latheWorked (o : Op) : Bool :=
  match o.kind with
  | .accst _ ty _ _ _ _ _ => 96 * piecesOf (128 * accBytes ty) ≤ o.moved
  | _ => o.elemsDone
def State.latheDone (s : State) (o : Op) : Bool := o.latheWorked && !s.ownStaged o

/-- An operation whose work is done while staging holds writes of it, and a list all of whose cards are done with: it gives its current back
(R175, R407). -/
def State.markWorked (s : State) (o : Op) (b : Bool) : State :=
  if b && !o.worked then
    ((s.giveBack o).mapOp o.id fun o => { o with worked := true }).markLists
  else s

/-- LATHE_OP_COMPLETE (R206, R212, R213): elements of the operation on the Lathe are written, and it completes with the last. -/
def execLatheOpComplete (s : State) : Host.Outcome State Fault Refusal :=
  let s := s.unfocus
  match s.op? s.arg.op with
  | none => .next s
  | some o =>
    if !o.kind.isLathe || o.stage ≠ 3 || o.complete then .next s
    else
      let s := s.latheWork o s.arg.steps
      match s.op? o.id with
      | none => .next s
      | some o => .next (if s.latheDone o then (s.lathePlaces o).completeHeavy o else s.markWorked o o.latheWorked)

/-- One lane of ACCRD or ACCWR performed (R214, R215). -/
def State.accItem (s : State) (o : Op) (i : Item) : State :=
  match o.kind, s.blockOf o.blk with
  | .accrd _ dst, some b =>
    let e := b.elem i.addr
    match dst with
    | some d => (s.scrubWords o.fn [.tile o.blk i.addr]).deliverTo o d i.lane (BitVec.ofNat 64 e.1) e.2
    | none => s
  | .accwr _, some _ => (s.renew (.tile o.blk i.addr)).mapBlock o.blk fun b => b.setElem i.addr i.data.toNat false
  | _, _ => s

/-- ACCRD_COMPLETE: lanes of an ACCRD or ACCWR are performed; of two lanes of one ACCWR that name one element, the higher stands. -/
def execAccrdComplete (s : State) : Host.Outcome State Fault Refusal :=
  let s := s.unfocus
  match s.op? s.arg.op with
  | none => .next s
  | some o =>
    let due := (match o.kind with | .accrd _ _ => true | .accwr _ => true | _ => false) && !o.complete
    let l := o.undone.filter fun i => s.arg.lanes.getLsbD i.lane &&
      !(o.undone.any fun j => j.addr = i.addr && j.lane < i.lane && !s.arg.lanes.getLsbD j.lane)
    .next (if due then (l.foldl (fun s i => s.accItem o i) s).didLanes o.id (l.map (·.lane)) else s)

/-- JOB_START (R226): a received card whose edges are met starts, once its current is granted. -/
def execJobStart (s : State) : Host.Outcome State Fault Refusal :=
  let s := s.unfocus
  match s.op? s.arg.op with
  | none => .next s
  | some o => .next (if o.kind.isCard then s.startHeavy o else s)

/-- JOB_COMPLETE (R206, R218): units of a running card are moved (all that are left where the step names none), and it completes with the
last once no write of it is still staged. -/
def execJobComplete (s : State) : Host.Outcome State Fault Refusal :=
  let s := s.unfocus
  match s.op? s.arg.op with
  | none => .next s
  | some o => match o.kind with
    | .job c =>
      if o.stage ≠ 3 || o.complete then .next s
      else
        let s := State.jobSteps (if s.arg.units = 0 then c.units else s.arg.units) s o.id c
        match s.op? o.id with
        | none => .next s
        | some o => .next (if c.units ≤ o.moved && !s.ownStaged o then (s.cardPlaces o c).completeHeavy o
            else s.markWorked o (c.units ≤ o.moved))
    | _ => .next s

end Sys2Proof.Machine
end

