-- ==== Sys2Proof/Machine/Dispatch.lean ====
section
/-! DEFINITION. One arm per constructor of `Instr`: the meaning of each step. -/
namespace Sys2Proof.Machine

def exec (i : Instr) (s : State) : Host.Outcome State Fault Refusal :=
  match i with
  | .nop f => Sys2Proof.Machine.execNop f s
  | .nopLong f => Sys2Proof.Machine.execNopLong f s
  | .iadd f => Sys2Proof.Machine.execIadd f s
  | .iaddLong f => Sys2Proof.Machine.execIaddLong f s
  | .isub f => Sys2Proof.Machine.execIsub f s
  | .isubLong f => Sys2Proof.Machine.execIsubLong f s
  | .imul f => Sys2Proof.Machine.execImul f s
  | .imulLong f => Sys2Proof.Machine.execImulLong f s
  | .imulh f => Sys2Proof.Machine.execImulh f s
  | .imulhLong f => Sys2Proof.Machine.execImulhLong f s
  | .imad f => Sys2Proof.Machine.execImad f s
  | .imin f => Sys2Proof.Machine.execImin f s
  | .iminLong f => Sys2Proof.Machine.execIminLong f s
  | .imax f => Sys2Proof.Machine.execImax f s
  | .imaxLong f => Sys2Proof.Machine.execImaxLong f s
  | .iabs f => Sys2Proof.Machine.execIabs f s
  | .ineg f => Sys2Proof.Machine.execIneg f s
  | .inegLong f => Sys2Proof.Machine.execInegLong f s
  | .iaddc f => Sys2Proof.Machine.execIaddc f s
  | .andBits f => Sys2Proof.Machine.execAndBits f s
  | .andBitsLong f => Sys2Proof.Machine.execAndBitsLong f s
  | .orBits f => Sys2Proof.Machine.execOrBits f s
  | .orBitsLong f => Sys2Proof.Machine.execOrBitsLong f s
  | .xorBits f => Sys2Proof.Machine.execXorBits f s
  | .xorBitsLong f => Sys2Proof.Machine.execXorBitsLong f s
  | .andn f => Sys2Proof.Machine.execAndn f s
  | .andnLong f => Sys2Proof.Machine.execAndnLong f s
  | .notBits f => Sys2Proof.Machine.execNotBits f s
  | .notBitsLong f => Sys2Proof.Machine.execNotBitsLong f s
  | .shl f => Sys2Proof.Machine.execShl f s
  | .shlLong f => Sys2Proof.Machine.execShlLong f s
  | .shr f => Sys2Proof.Machine.execShr f s
  | .shrLong f => Sys2Proof.Machine.execShrLong f s
  | .sar f => Sys2Proof.Machine.execSar f s
  | .sarLong f => Sys2Proof.Machine.execSarLong f s
  | .rotl f => Sys2Proof.Machine.execRotl f s
  | .rotlLong f => Sys2Proof.Machine.execRotlLong f s
  | .bfx f => Sys2Proof.Machine.execBfx f s
  | .bfi f => Sys2Proof.Machine.execBfi f s
  | .popc f => Sys2Proof.Machine.execPopc f s
  | .popcLong f => Sys2Proof.Machine.execPopcLong f s
  | .clz f => Sys2Proof.Machine.execClz f s
  | .clzLong f => Sys2Proof.Machine.execClzLong f s
  | .brev f => Sys2Proof.Machine.execBrev f s
  | .brevLong f => Sys2Proof.Machine.execBrevLong f s
  | .prmt f => Sys2Proof.Machine.execPrmt f s
  | .lea f => Sys2Proof.Machine.execLea f s
  | .icmp f => Sys2Proof.Machine.execIcmp f s
  | .sel f => Sys2Proof.Machine.execSel f s
  | .fadd f => Sys2Proof.Machine.execFadd f s
  | .faddLong f => Sys2Proof.Machine.execFaddLong f s
  | .fsub f => Sys2Proof.Machine.execFsub f s
  | .fsubLong f => Sys2Proof.Machine.execFsubLong f s
  | .fmul f => Sys2Proof.Machine.execFmul f s
  | .fmulLong f => Sys2Proof.Machine.execFmulLong f s
  | .ffma f => Sys2Proof.Machine.execFfma f s
  | .fmin f => Sys2Proof.Machine.execFmin f s
  | .fminLong f => Sys2Proof.Machine.execFminLong f s
  | .fmax f => Sys2Proof.Machine.execFmax f s
  | .fmaxLong f => Sys2Proof.Machine.execFmaxLong f s
  | .fcmp f => Sys2Proof.Machine.execFcmp f s
  | .frcp f => Sys2Proof.Machine.execFrcp f s
  | .frcpLong f => Sys2Proof.Machine.execFrcpLong f s
  | .frsq f => Sys2Proof.Machine.execFrsq f s
  | .frsqLong f => Sys2Proof.Machine.execFrsqLong f s
  | .fsqrt f => Sys2Proof.Machine.execFsqrt f s
  | .fsqrtLong f => Sys2Proof.Machine.execFsqrtLong f s
  | .fexp2 f => Sys2Proof.Machine.execFexp2 f s
  | .fexp2Long f => Sys2Proof.Machine.execFexp2Long f s
  | .flog2 f => Sys2Proof.Machine.execFlog2 f s
  | .flog2Long f => Sys2Proof.Machine.execFlog2Long f s
  | .ftanh f => Sys2Proof.Machine.execFtanh f s
  | .ftanhLong f => Sys2Proof.Machine.execFtanhLong f s
  | .fsigm f => Sys2Proof.Machine.execFsigm f s
  | .fsigmLong f => Sys2Proof.Machine.execFsigmLong f s
  | .frnd f => Sys2Proof.Machine.execFrnd f s
  | .frndLong f => Sys2Proof.Machine.execFrndLong f s
  | .fscale f => Sys2Proof.Machine.execFscale f s
  | .fscaleLong f => Sys2Proof.Machine.execFscaleLong f s
  | .fclass f => Sys2Proof.Machine.execFclass f s
  | .fdiv f => Sys2Proof.Machine.execFdiv f s
  | .fdivLong f => Sys2Proof.Machine.execFdivLong f s
  | .padd f => Sys2Proof.Machine.execPadd f s
  | .paddLong f => Sys2Proof.Machine.execPaddLong f s
  | .pmul f => Sys2Proof.Machine.execPmul f s
  | .pmulLong f => Sys2Proof.Machine.execPmulLong f s
  | .pfma f => Sys2Proof.Machine.execPfma f s
  | .pmax f => Sys2Proof.Machine.execPmax f s
  | .pmaxLong f => Sys2Proof.Machine.execPmaxLong f s
  | .pmin f => Sys2Proof.Machine.execPmin f s
  | .pminLong f => Sys2Proof.Machine.execPminLong f s
  | .pdot2 f => Sys2Proof.Machine.execPdot2 f s
  | .cvt f => Sys2Proof.Machine.execCvt f s
  | .mxq f => Sys2Proof.Machine.execMxq f s
  | .mxd f => Sys2Proof.Machine.execMxd f s
  | .pack f => Sys2Proof.Machine.execPack f s
  | .unpk f => Sys2Proof.Machine.execUnpk f s
  | .shfl f => Sys2Proof.Machine.execShfl f s
  | .shflLong f => Sys2Proof.Machine.execShflLong f s
  | .bcast f => Sys2Proof.Machine.execBcast f s
  | .bcastLong f => Sys2Proof.Machine.execBcastLong f s
  | .vote f => Sys2Proof.Machine.execVote f s
  | .voteLong f => Sys2Proof.Machine.execVoteLong f s
  | .wred f => Sys2Proof.Machine.execWred f s
  | .wredLong f => Sys2Proof.Machine.execWredLong f s
  | .wscan f => Sys2Proof.Machine.execWscan f s
  | .wscanLong f => Sys2Proof.Machine.execWscanLong f s
  | .matchLanes f => Sys2Proof.Machine.execMatchLanes f s
  | .matchLanesLong f => Sys2Proof.Machine.execMatchLanesLong f s
  | .kand f => Sys2Proof.Machine.execKand f s
  | .kor f => Sys2Proof.Machine.execKor f s
  | .kxor f => Sys2Proof.Machine.execKxor f s
  | .knot f => Sys2Proof.Machine.execKnot f s
  | .kpop f => Sys2Proof.Machine.execKpop f s
  | .kffs f => Sys2Proof.Machine.execKffs f s
  | .kmov f => Sys2Proof.Machine.execKmov f s
  | .mov f => Sys2Proof.Machine.execMov f s
  | .movLong f => Sys2Proof.Machine.execMovLong f s
  | .movl f => Sys2Proof.Machine.execMovl f s
  | .movlLong f => Sys2Proof.Machine.execMovlLong f s
  | .rdsr f => Sys2Proof.Machine.execRdsr f s
  | .wrsr f => Sys2Proof.Machine.execWrsr f s
  | .xset f => Sys2Proof.Machine.execXset f s
  | .xsetLong f => Sys2Proof.Machine.execXsetLong f s
  | .xadd f => Sys2Proof.Machine.execXadd f s
  | .xaddLong f => Sys2Proof.Machine.execXaddLong f s
  | .bra f => Sys2Proof.Machine.execBra f s
  | .braLong f => Sys2Proof.Machine.execBraLong f s
  | .brc f => Sys2Proof.Machine.execBrc f s
  | .call f => Sys2Proof.Machine.execCall f s
  | .callLong f => Sys2Proof.Machine.execCallLong f s
  | .ret f => Sys2Proof.Machine.execRet f s
  | .retLong f => Sys2Proof.Machine.execRetLong f s
  | .split f => Sys2Proof.Machine.execSplit f s
  | .join f => Sys2Proof.Machine.execJoin f s
  | .joinLong f => Sys2Proof.Machine.execJoinLong f s
  | .exit f => Sys2Proof.Machine.execExit f s
  | .exitLong f => Sys2Proof.Machine.execExitLong f s
  | .yield f => Sys2Proof.Machine.execYield f s
  | .yieldLong f => Sys2Proof.Machine.execYieldLong f s
  | .trap f => Sys2Proof.Machine.execTrap f s
  | .trapLong f => Sys2Proof.Machine.execTrapLong f s
  | .tret f => Sys2Proof.Machine.execTret f s
  | .tretLong f => Sys2Proof.Machine.execTretLong f s
  | .bkpt f => Sys2Proof.Machine.execBkpt f s
  | .bkptLong f => Sys2Proof.Machine.execBkptLong f s
  | .sleep f => Sys2Proof.Machine.execSleep f s
  | .sleepLong f => Sys2Proof.Machine.execSleepLong f s
  | .ld f => Sys2Proof.Machine.execLd f s
  | .ldLong f => Sys2Proof.Machine.execLdLong f s
  | .st f => Sys2Proof.Machine.execSt f s
  | .stLong f => Sys2Proof.Machine.execStLong f s
  | .atom f => Sys2Proof.Machine.execAtom f s
  | .atomr f => Sys2Proof.Machine.execAtomr f s
  | .cas f => Sys2Proof.Machine.execCas f s
  | .pref f => Sys2Proof.Machine.execPref f s
  | .prefLong f => Sys2Proof.Machine.execPrefLong f s
  | .cwb f => Sys2Proof.Machine.execCwb f s
  | .cwbLong f => Sys2Proof.Machine.execCwbLong f s
  | .fence f => Sys2Proof.Machine.execFence f s
  | .fenceLong f => Sys2Proof.Machine.execFenceLong f s
  | .lds f => Sys2Proof.Machine.execLds f s
  | .sts f => Sys2Proof.Machine.execSts f s
  | .atoms f => Sys2Proof.Machine.execAtoms f s
  | .ldrs f => Sys2Proof.Machine.execLdrs f s
  | .strs f => Sys2Proof.Machine.execStrs f s
  | .waitc f => Sys2Proof.Machine.execWaitc f s
  | .waitcLong f => Sys2Proof.Machine.execWaitcLong f s
  | .bara f => Sys2Proof.Machine.execBara f s
  | .baraLong f => Sys2Proof.Machine.execBaraLong f s
  | .barw f => Sys2Proof.Machine.execBarw f s
  | .barwLong f => Sys2Proof.Machine.execBarwLong f s
  | .bars f => Sys2Proof.Machine.execBars f s
  | .barsLong f => Sys2Proof.Machine.execBarsLong f s
  | .drain f => Sys2Proof.Machine.execDrain f s
  | .drainLong f => Sys2Proof.Machine.execDrainLong f s
  | .tdset f => Sys2Proof.Machine.execTdset f s
  | .tdget f => Sys2Proof.Machine.execTdget f s
  | .mma f => Sys2Proof.Machine.execMma f s
  | .accz f => Sys2Proof.Machine.execAccz f s
  | .accrd f => Sys2Proof.Machine.execAccrd f s
  | .accwr f => Sys2Proof.Machine.execAccwr f s
  | .accld f => Sys2Proof.Machine.execAccld f s
  | .accst f => Sys2Proof.Machine.execAccst f s
  | .job f => Sys2Proof.Machine.execJob f s
  | .jobq f => Sys2Proof.Machine.execJobq f s
  | .objreg f => Sys2Proof.Machine.execObjreg f s
  | .objfree f => Sys2Proof.Machine.execObjfree f s
  | .objfreeLong f => Sys2Proof.Machine.execObjfreeLong f s
  | .comb f => Sys2Proof.Machine.execComb f s
  | .cbatch f => Sys2Proof.Machine.execCbatch f s
  | .cbatchLong f => Sys2Proof.Machine.execCbatchLong f s
  | .carg f => Sys2Proof.Machine.execCarg f s
  | .cargLong f => Sys2Proof.Machine.execCargLong f s
  | .creply f => Sys2Proof.Machine.execCreply f s
  | .creplyLong f => Sys2Proof.Machine.execCreplyLong f s
  | .cend f => Sys2Proof.Machine.execCend f s
  | .cendLong f => Sys2Proof.Machine.execCendLong f s
  | .rshare f => Sys2Proof.Machine.execRshare f s
  | .rshareLong f => Sys2Proof.Machine.execRshareLong f s
  | .rquery f => Sys2Proof.Machine.execRquery f s
  | .rqueryLong f => Sys2Proof.Machine.execRqueryLong f s
  | .launch f => Sys2Proof.Machine.execLaunch f s
  | .launchLong f => Sys2Proof.Machine.execLaunchLong f s
  | .chwait f => Sys2Proof.Machine.execChwait f s
  | .chwaitLong f => Sys2Proof.Machine.execChwaitLong f s
  | .eread f => Sys2Proof.Machine.execEread f s
  | .ereadLong f => Sys2Proof.Machine.execEreadLong f s
  | .tarm f => Sys2Proof.Machine.execTarm f s
  | .tarmLong f => Sys2Proof.Machine.execTarmLong f s
  | .rdpr f => Sys2Proof.Machine.execRdpr f s
  | .wrpr f => Sys2Proof.Machine.execWrpr f s
  | .prdone f => Sys2Proof.Machine.execPrdone f s
  | .prdoneLong f => Sys2Proof.Machine.execPrdoneLong f s
  | .ctxsv f => Sys2Proof.Machine.execCtxsv f s
  | .ctxsvLong f => Sys2Proof.Machine.execCtxsvLong f s
  | .tlbinv f => Sys2Proof.Machine.execTlbinv f s
  | .tlbinvLong f => Sys2Proof.Machine.execTlbinvLong f s
  | .sheet f => Sys2Proof.Machine.execSheet f s
  | .sheetLong f => Sys2Proof.Machine.execSheetLong f s
  | .illegalOpcode op f => Sys2Proof.Machine.execIllegalOpcode op f s
  | .reservedOpcode op f => Sys2Proof.Machine.execReservedOpcode op f s
  | .hangReport => Sys2Proof.Machine.execHangReport s
  | .sleepExpiry => Sys2Proof.Machine.execSleepExpiry s
  | .burstEnd => Sys2Proof.Machine.execBurstEnd s
  | .currentGrant => Sys2Proof.Machine.execCurrentGrant s
  | .loadComplete => Sys2Proof.Machine.execLoadComplete s
  | .storePerformed => Sys2Proof.Machine.execStorePerformed s
  | .atomicPerformed => Sys2Proof.Machine.execAtomicPerformed s
  | .latheOpStart => Sys2Proof.Machine.execLatheOpStart s
  | .latheOpComplete => Sys2Proof.Machine.execLatheOpComplete s
  | .accrdComplete => Sys2Proof.Machine.execAccrdComplete s
  | .jobStart => Sys2Proof.Machine.execJobStart s
  | .jobComplete => Sys2Proof.Machine.execJobComplete s
  | .translationWalk => Sys2Proof.Machine.execTranslationWalk s
  | .xfRespReplay => Sys2Proof.Machine.execXfRespReplay s
  | .xfRespDeliver => Sys2Proof.Machine.execXfRespDeliver s
  | .combPacketAdmit => Sys2Proof.Machine.execCombPacketAdmit s
  | .batchStart => Sys2Proof.Machine.execBatchStart s
  | .methodBudgetExpiry => Sys2Proof.Machine.execMethodBudgetExpiry s
  | .combComplete => Sys2Proof.Machine.execCombComplete s
  | .drainComplete => Sys2Proof.Machine.execDrainComplete s
  | .fabricDrainAck => Sys2Proof.Machine.execFabricDrainAck s
  | .qTailDoorbell => Sys2Proof.Machine.execQTailDoorbell s
  | .recordAdmit => Sys2Proof.Machine.execRecordAdmit s
  | .waitRetest => Sys2Proof.Machine.execWaitRetest s
  | .priorityAging => Sys2Proof.Machine.execPriorityAging s
  | .launchAggregate => Sys2Proof.Machine.execLaunchAggregate s
  | .bindRecordInstall => Sys2Proof.Machine.execBindRecordInstall s
  | .bindShareRewrite => Sys2Proof.Machine.execBindShareRewrite s
  | .bindWithdraw => Sys2Proof.Machine.execBindWithdraw s
  | .blockDispatch => Sys2Proof.Machine.execBlockDispatch s
  | .blockRetire => Sys2Proof.Machine.execBlockRetire s
  | .gangRetire => Sys2Proof.Machine.execGangRetire s
  | .gridRetire => Sys2Proof.Machine.execGridRetire s
  | .codePageVerify => Sys2Proof.Machine.execCodePageVerify s
  | .rebind => Sys2Proof.Machine.execRebind s
  | .forcedGrowth => Sys2Proof.Machine.execForcedGrowth s
  | .turnAdvance => Sys2Proof.Machine.execTurnAdvance s
  | .quotaDelivery => Sys2Proof.Machine.execQuotaDelivery s
  | .preemptDelivery => Sys2Proof.Machine.execPreemptDelivery s
  | .throttleDelivery => Sys2Proof.Machine.execThrottleDelivery s
  | .handlerBudgetOverrun => Sys2Proof.Machine.execHandlerBudgetOverrun s
  | .blockSave => Sys2Proof.Machine.execBlockSave s
  | .darkroomSwap => Sys2Proof.Machine.execDarkroomSwap s
  | .blockRestore => Sys2Proof.Machine.execBlockRestore s
  | .poolSliceEnd => Sys2Proof.Machine.execPoolSliceEnd s
  | .clusterReassign => Sys2Proof.Machine.execClusterReassign s
  | .classChangeDone => Sys2Proof.Machine.execClassChangeDone s
  | .budgetChange => Sys2Proof.Machine.execBudgetChange s
  | .dieTempChange => Sys2Proof.Machine.execDieTempChange s
  | .clockGate => Sys2Proof.Machine.execClockGate s
  | .powerGate => Sys2Proof.Machine.execPowerGate s
  | .coreWake => Sys2Proof.Machine.execCoreWake s
  | .calibrationEpoch => Sys2Proof.Machine.execCalibrationEpoch s
  | .periodicSheet => Sys2Proof.Machine.execPeriodicSheet s
  | .shReq => Sys2Proof.Machine.execShReq s
  | .activate => Sys2Proof.Machine.execActivate s
  | .resume => Sys2Proof.Machine.execResume s
  | .stopPartition => Sys2Proof.Machine.execStopPartition s
  | .quiesce => Sys2Proof.Machine.execQuiesce s
  | .destroy => Sys2Proof.Machine.execDestroy s
  | .pmQuotaWrite => Sys2Proof.Machine.execPmQuotaWrite s
  | .homemodeWrite => Sys2Proof.Machine.execHomemodeWrite s
  | .ccWaypartWrite => Sys2Proof.Machine.execCcWaypartWrite s
  | .pmWaysWrite => Sys2Proof.Machine.execPmWaysWrite s
  | .poolClWrite => Sys2Proof.Machine.execPoolClWrite s
  | .praDataRead => Sys2Proof.Machine.execPraDataRead s
  | .praDataWrite => Sys2Proof.Machine.execPraDataWrite s
  | .configRegisterWrite => Sys2Proof.Machine.execConfigRegisterWrite s
  | .descRead => Sys2Proof.Machine.execDescRead s
  | .quoteRecord => Sys2Proof.Machine.execQuoteRecord s
  | .fnhost => Sys2Proof.Machine.execFnhost s
  | .windowWrite => Sys2Proof.Machine.execWindowWrite s
  | .exportWrite => Sys2Proof.Machine.execExportWrite s
  | .handoff => Sys2Proof.Machine.execHandoff s
  | .imagePush => Sys2Proof.Machine.execImagePush s
  | .handoffTimeout => Sys2Proof.Machine.execHandoffTimeout s
  | .remoteAccessArrival => Sys2Proof.Machine.execRemoteAccessArrival s
  | .remoteTimeout => Sys2Proof.Machine.execRemoteTimeout s
  | .dieLinkDown => Sys2Proof.Machine.execDieLinkDown s
  | .fabricPortDown => Sys2Proof.Machine.execFabricPortDown s
  | .cxlLinkFail => Sys2Proof.Machine.execCxlLinkFail s
  | .powerGood => Sys2Proof.Machine.execPowerGood s
  | .coldPowerLoss => Sys2Proof.Machine.execColdPowerLoss s
  | .warmReset => Sys2Proof.Machine.execWarmReset s
  | .functionReset => Sys2Proof.Machine.execFunctionReset s
  | .headstockWatchdog => Sys2Proof.Machine.execHeadstockWatchdog s
  | .chadyPortResume => Sys2Proof.Machine.execChadyPortResume s
  | .chadyPortWrite => Sys2Proof.Machine.execChadyPortWrite s
  | .fabricDrainMarker => Sys2Proof.Machine.execFabricDrainMarker s
  | .handoffArrival => Sys2Proof.Machine.execHandoffArrival s
  | .handoffRetireReport => Sys2Proof.Machine.execHandoffRetireReport s

end Sys2Proof.Machine
end

