-- ==== Sys2Proof/Machine/Upset.lean ====
section
/-! DEFINITION. Errors that arise in the device's storage (R81, R82, R177, R276, R281, R317). When one arises is not the device's choice:
the agenda names it (notes/assumptions/37.md). A single-bit one is corrected and counted, of registers and of stored words and lines of a
first-level cache as they are read, of other state at once. What an uncorrectable one does is said here for each kind of storage. -/
namespace Sys2Proof.Machine

/-- Where an error in a word of a register stands among a split's errors: registers with SECDED alone, and a mask by its slices (R81). -/
def flawPlace (key lane : Nat) : Option Nat :=
  if 128 ≤ lane then none
  else if key < 8202 then some (128 * key + lane)
  else if 8208 ≤ key ∧ key < 8272 then some (128 * key)
  else if 8272 ≤ key ∧ key ≤ 8288 then some (128 * key + lane / 32 * 32)
  else if (8289 ≤ key ∧ key ≤ 8291) ∨ (8296 ≤ key ∧ key < 8312) then some (128 * key)
  else none

/-- An error in a word of a register, which its next reader finds (R81, R82). It takes the place of one that was in the word (DESIGN CHOICE,
notes/assumptions/37.md). -/
def State.upsetReg (s : State) (blk wid sid key lane : Nat) (hard : Bool) : State :=
  match flawPlace key lane with
  | none => s
  | some p => s.mapSplitAt blk wid sid fun sp => { sp with flaw := spSet 0 sp.flaw p (if hard then 2 else 1) }

/-- Whether a word of storage is there. -/
def State.hasWord (s : State) : Word8 → Bool
  | .mem w => s.isMem (8 * w)
  | .cscr w => 8 * w < 8 * 2 ^ 30 && 8 * w % 2 ^ 24 < s.scrw (8 * w / 2 ^ 30) (8 * w % 2 ^ 30 / 2 ^ 24) * 2 ^ 20
  | .scr blk w => (s.block? blk).isSome && w < 98304
  | .tile blk key => (s.block? blk).any fun b => key < 12288 * s.tilesOf b
  | .l1 core line => s.l1.any fun l => l.core = core && l.line = line

/-- What an uncorrectable error does to a word of storage: it is poisoned, but a line of a first-level cache is discarded, so that the next
access misses (R177, R276, R281). -/
def State.spoilWord (s : State) : Word8 → State
  | .mem w => { s with memPoison := spSet false s.memPoison w true }
  | .cscr w => { s with cscrPoison := spSet false s.cscrPoison w true }
  | .scr blk w => s.mapBlock blk fun b => { b with scrPoison := spSet false b.scrPoison w true }
  | .tile blk key => s.mapBlock blk fun b => { b with tilePoison := spSet false b.tilePoison key true }
  | .l1 core line => { s with l1 := s.l1.filter fun l => !(l.core = core && l.line = line) }

/-- An error in a word of memory, of cluster scratch, of a scratchpad or of a tile, or in a line of a first-level cache. -/
def State.upsetWord (s : State) (w : Word8) (hard : Bool) : State :=
  if !s.hasWord w then s
  else if hard then ({ s with soft := s.soft.filter (· ≠ w) } : State).spoilWord w
  else if s.soft.contains w then s
  else { s with soft := s.soft ++ [w] }

/-- An error in a word of a line that a slice holds: a clean line is fetched again, and a word of a dirty one is poisoned (R276). -/
def State.upsetSlice (s : State) (line word : Nat) (hard : Bool) : State :=
  match s.lines.find? (·.line = line) with
  | none => s
  | some x =>
    if !hard then s.countCE ((s.wayHolder x.slice x.way).getD 0) 1
    else if x.dirty then s.spoilWord (.mem (16 * line + word % 16))
    else { s with lines := s.lines.filter (·.line ≠ line) }

/-- An error in the tag or the state of a line that a slice holds: the line leaves, and a dirty one is written back poisoned (R276). -/
def State.upsetTag (s : State) (line : Nat) (hard : Bool) : State :=
  match s.lines.find? (·.line = line) with
  | none => s
  | some x =>
    if !hard then s.countCE ((s.wayHolder x.slice x.way).getD 0) 1
    else
      let s := if x.dirty then s.poisonAt .mem (128 * line) 128 else s
      { s with lines := s.lines.filter (·.line ≠ line) }

/-- The grid of a block aborts for an error that no read corrects, recorded with the wave affected; a method's batch does (R154, R177,
R316). -/
def State.eccAbort (s : State) (b : Block) (wid : Nat) : State :=
  match b.method with
  | some m => s.batchAbort b m Fc.ecc 0
  | none => s.gridAbort b Fc.ecc 0 wid 0

/-- An error in a wave's split table, fork stacks, counters, barrier slots or control state (R177). -/
def State.upsetControl (s : State) (blk wid : Nat) (hard : Bool) : State :=
  match s.block? blk with
  | none => s
  | some b =>
    if !(b.phase = .resident && b.waves.any (·.wid = wid)) then s
    else if hard then s.eccAbort b wid
    else s.countCE b.fn 1

/-- An error in the control state of a darkroom slot's image, which its restore finds (R276). -/
def State.upsetImage (s : State) (slot : Nat) (hard : Bool) : State :=
  match spGet 0 s.darkroom slot with
  | 0 => s
  | v + 1 =>
    if !hard then s.countCE (v / 8) 1
    else if s.badImages.contains slot then s
    else { s with badImages := s.badImages ++ [slot] }

/-- Transfers between the cores of a gang: corrected by a retry, or 16 retries have failed (R276). -/
def State.upsetGang (s : State) (blk : Nat) (hard : Bool) : State :=
  match s.block? blk with
  | none => s
  | some b =>
    if b.phase ≠ .resident ∨ s.gangSize b < 2 then s
    else if hard then s.eccAbort b 0
    else s.countCE b.fn 1

/-- The blocks of a list without those of a grid that an earlier one is of. -/
def onePerGrid : List Block → List Block
  | [] => []
  | b :: l => b :: (onePerGrid l).filter (·.grid ≠ b.grid)

/-- An error in a cluster's arbiter, CC_LIMIT, CC_WAYPART or CL_CLASS: a corrected one is counted for the function whose register it is, or
for F0; after an uncorrectable one the cluster binds no more work, its resident grids abort, and F0's registers log it (R276). -/
def State.upsetCluster (s : State) (cl : Nat) (fn : Option Nat) (hard : Bool) : State :=
  if 48 ≤ cl ∨ 8 ≤ fn.getD 0 then s
  else if !hard then s.countCE (fn.getD 0) 1
  else
    let here := onePerGrid (s.blocks.filter fun b => b.core / 8 = cl && b.method.isNone && b.phase = .resident)
    let s := s.setCluster cl { s.clusterOf cl with failed := true }
    (here.foldl (fun s b => s.eccAbort b 0) s).logErr 0 { code := 0x71, info := BitVec.ofNat 64 cl } true

/-- An error in a Chuck's entry: an uncorrectable one answers that request with status 0x30 (R317). -/
def State.upsetChuck (s : State) (slice i : Nat) (hard : Bool) : State :=
  let c := s.chuck slice
  match c.admitted[i]? with
  | none => s
  | some r =>
    if hard then ((s.setChuck slice { c with admitted := c.admitted.eraseIdx i }).answerAll slice Fc.ecc [r]).countUE r.fn 1
    else s.countCE r.fn 1

/-- An error as its storage takes it. -/
def State.upsetBy (s : State) (u : Upset) (hard : Bool) : State :=
  match u with
  | .reg blk wid sid key lane => s.upsetReg blk wid sid key lane hard
  | .word w => s.upsetWord w hard
  | .l1 core line => s.upsetWord (.l1 core line) hard
  | .slice line word => s.upsetSlice line word hard
  | .tag line => s.upsetTag line hard
  | .control blk wid => s.upsetControl blk wid hard
  | .image slot => s.upsetImage slot hard
  | .gangPath blk => s.upsetGang blk hard
  | .cluster cl fn => s.upsetCluster cl fn hard
  | .chuck slice i => s.upsetChuck slice i hard

/-- An error arises; one that would come between an instruction's check of what it reads and its read arises later
(notes/assumptions/93.md). -/
def State.upset (s : State) (u : Upset) (hard : Bool) : State :=
  let s := s.unfocus
  let t := s.upsetBy u hard
  if s.spoils t then s else t

end Sys2Proof.Machine
end

