-- ==== Sys2Proof/Machine/Boundary.lean ====
section
/-! DEFINITION. One move of the device: what a split does at its instruction boundary (R33, R136, R151, R152, R160–R164, R443), and which
agent moves where the agenda names none (R162, R163, R442). -/
namespace Sys2Proof.Machine

/-! ## Parameters (R443) -/

/-- The bytes of a parameter field, read at the home, and whether one is poisoned; or why its address has none. What a window holds is a
free value. -/
def State.readParam (s : State) (b : Block) (p : Par) : State × Except (Nat × AddrErr) (Nat × Bool) :=
  let va := b.param.toNat + p.off
  (parts va p.size).foldl (fun acc q =>
    match acc with
    | (s, .error e) => (s, .error e)
    | (s, .ok (v, bad)) => match s.place b.core b.fn b.child q.1 needR with
      | (s, .error e) => (s, .error (q.1, e))
      | (s, .ok (sp, a)) =>
        let (s, free) := if sp = .remote then (s.bookFlit b.fn b.child).takeFree else (s, 0)
        let (s, error) := if sp = .remote then s.takeFree else (s, 0)
        let s := if sp = .mem then s.touch b.fn b.child a q.2 false else s
        let r := if sp = .remote then (leBytes q.2 free.toNat, bit error.toNat 0 || s.cutOff) else s.fetchAt sp a q.2
        let s := if sp = .remote then s else s.scrub b.fn sp a q.2
        (s, .ok (v + ofLe r.1 * 2 ^ (8 * (q.1 - va)), bad || r.2))) (s, .ok (0, false))

/-- A field's scalars set. -/
def Split.takeParam (p : Par) (v : Nat) (bad : Bool) (sp : Split) : Split :=
  let one := fun (sp : Split) (n x : Nat) => (sp.set (.scal n) 0 (BitVec.ofNat 64 x)).setPoison (.scal n) 0 bad
  let sp := one sp p.scal (v % 2 ^ 32)
  if p.size = 8 then one sp (p.scal + 1) (v / 2 ^ 32) else sp

/-- A change made to every split of a block. -/
def Block.mapSplits (b : Block) (f : Split → Split) : Block :=
  { b with waves := b.waves.map fun w => { w with splits := w.splits.map f } }

/-- The fields that are left loaded into every wave of the block of the split that issues. -/
def State.loadFields (s : State) (c : Cur) : List Par → State
  | [] =>
    let s := s.bookCore c.blk.fn c.blk.child c.blk.core [(.param, (s.kernelOf c.blk).params.length)]
    { s with cur := some { c with blk := { c.blk with loaded := true } } }
  | p :: rest =>
    match s.readParam c.blk p with
    | (s, .error (va, e)) =>
      let end_ := fun (s : State) (code : Nat) => ({ s with cur := some c } : State).gridAbort c.blk code c.split.pc c.wave.wid
        (BitVec.ofNat 64 (memInfo 0 false false 0 va))
      match e with
      | .xlate x => s.xlateFault c 0 va 0 x (memInfo 0 false false 0 va) fun s => end_ s Fc.xlate
      | _ => end_ s Fc.access
    | (s, .ok (v, bad)) =>
      let s := if bad then s.logErr c.blk.fn (s.errOf c.blk 0x71 0 c.wave.wid 0 (c.blk.param + BitVec.ofNat 64 p.off)) true else s
      let f := Split.takeParam p v bad
      let wave := { c.wave with splits := c.wave.splits.map f }
      s.loadFields { c with blk := c.blk.mapSplits f, wave, split := f c.split } rest

/-- The load of a block's parameters, which its first wave asks for. -/
def State.loadParams (s : State) (c : Cur) : State :=
  if c.wave.wid = 0 then s.loadFields c (s.kernelOf c.blk).params else s

/-! ## What is due at a boundary (R152) -/

/-- A HANG or a report that is due. -/
def State.hangNow (s : State) (c : Cur) : Bool :=
  (s.hangReached c && c.split.atBoundary) || (c.wave.hangDue.isSome && !c.split.uni.inHandler && !c.wave.quotaDue && !c.wave.preemptDue && c.split.atBoundary)

/-- A THROTTLE that is due, or to be dropped as the block is armed no more. -/
def State.throttleNow (s : State) (c : Cur) : Bool := c.blk.throttle.isSome && (!c.blk.armed || s.throttleOpen c)

/-- The step that is due at the boundary of a split, before its instruction. -/
def State.dueNow (s : State) (c : Cur) : Option Instr :=
  if c.blk.spent then some .methodBudgetExpiry
  else if c.wave.quotaDue && s.pOpen c then some .quotaDelivery
  else if c.wave.preemptDue && s.pOpen c then some .preemptDelivery
  else if s.hangNow c then some .hangReport
  else if s.throttleNow c then some .throttleDelivery
  else none

/-! ## Issuing (R33, R136, R160, R163) -/

/-- Whether a split may issue, or try again, at all. -/
def Cur.mayIssue (c : Cur) : Bool := c.blk.issues && (c.split.run = .ready || c.split.run = .held) && c.wave.debug ≠ 1

/-- Whether an armed breakpoint stops the wave before an instruction (R151, R244). -/
def State.stopsAt (s : State) (c : Cur) (pc : Dword) : Bool :=
  s.hw.armedFns.contains c.blk.fn && s.hw.breakpoints.contains (c.blk.fn, pc) && c.wave.debug ≠ 2

/-- The bundle count of the issuing wave: a bundle counts as its first instruction issues (R163). A wave that the debug port let go on has
issued. -/
def Cur.counts (c : Cur) (pc : Dword) : Cur :=
  let again := c.split.started || c.split.issuedPc.any fun p => bundleOf p = bundleOf pc && p.toNat < pc.toNat
  { c with
    wave := { c.wave with bundles := if again then c.wave.bundles else c.wave.bundles + 1, debug := 0 }
    split := { c.split with issuedPc := some pc } }

/-- What an issue counts is not counted where the instruction is held. -/
def Cur.uncounted (c now : Cur) : Cur :=
  { now with
    wave := { now.wave with bundles := c.wave.bundles, debug := c.wave.debug }
    split := { now.split with issuedPc := c.split.issuedPc } }

/-- The split that issues at the instruction that its fetch has found (R34, R230). -/
def Cur.reaches (c : Cur) (k : Kernel) (dst : Nat → Option Nat) (pc : Dword) (cnt : Nat) (yieldBit last : Bool) : Cur :=
  let sp := c.split.reach k dst pc
  { c with split := { sp with pc, cnt, yieldBit, lastOfBundle := last } }

/-- Other waves of a quarter begin their bundle counts anew (R163). -/
def State.restart (s : State) (c : Cur) : State :=
  let f := fun (b : Block) (w : Wave) =>
    if b.core = c.blk.core ∧ w.quarter = c.wave.quarter ∧ ¬(b.id = c.blk.id ∧ w.wid = c.wave.wid) then { w with bundles := 0 } else w
  let g := fun (b : Block) => { b with waves := b.waves.map (f b) }
  { s with blocks := s.blocks.map g, cur := s.cur.map fun x => { x with blk := g x.blk } }

/-- Waves of a quarter other than one that have a ready split. -/
def State.otherWaves (s : State) (c : Cur) : List (Nat × Nat) :=
  (((s.readyIn c.blk.core c.wave.quarter).map fun w => (w.1, w.2.1)).filter (· ≠ (c.blk.id, c.wave.wid))).eraseDups

/-- The split that has issued gives its turn away where the bundle says so, and its wave where it has had its 64 bundles while another is
ready (R136, R163). -/
def State.turnOver (s : State) (pc : Dword) (yieldBit last : Bool) : State :=
  match s.cur with
  | none => s
  | some c =>
    let c := if yieldBit && (last || bundleOf c.split.pc ≠ bundleOf pc) then s.yielded c else c
    let others := s.otherWaves c
    { s with cur := some (if 64 ≤ c.wave.bundles && !others.isEmpty then { c with wave := { c.wave with behind := others } } else c) }

/-- Whether a held split would still be held if it tried again (R160, R173). -/
def State.staysHeld (s : State) (blk wid sid : Nat) : Bool :=
  let s := s.focus blk wid sid
  match s.cur with
  | none => true
  | some c => match s.fetch c.blk c.split.pc with
    | (_, .page _) => true
    | (s, .instr i pc cnt yieldBit last) =>
      match exec i { s with cur := some (c.reaches (s.kernelOf c.blk) s.symDst pc cnt yieldBit last) } with
      | .next t => t.cur.any fun x => x.who = c.who && x.split.run = .held
      | _ => false
    | _ => false

/-- The splits that are held. -/
def State.heldSplits (s : State) : List Who :=
  s.blocks.flatMap fun b => b.waves.flatMap fun w => (w.splits.filter (·.run = .held)).map fun sp => (b.id, w.wid, sp.sid)

/-- Splits of a list are ready. -/
def Wave.readied (l : List Who) (blk : Nat) (w : Wave) : Wave :=
  { w with splits := w.splits.map fun sp => if l.contains (blk, w.wid, sp.sid) then { sp with run := .ready } else sp }

/-- A held split is ready as soon as nothing holds it any more (R160). -/
def State.wake (s : State) : State :=
  let u := s.unfocus
  match u.heldSplits.filter fun x => !u.staysHeld x.1 x.2.1 x.2.2 with
  | [] => s
  | l =>
    let f := fun (b : Block) => { b with waves := b.waves.map (Wave.readied l b.id) }
    { s with
      blocks := s.blocks.map f
      cur := s.cur.map fun c =>
        { c with blk := f c.blk, wave := c.wave.readied l c.blk.id
                 split := if l.contains c.who then { c.split with run := .ready } else c.split } }

/-- An instruction of a pre-emption handler counted. -/
def PreRec.count (p : PreRec) : PreRec := { p with issued := p.issued + 1 }

/-- What follows an issue: nothing where the split is held; else turns pass, clocks run and held splits try again. An instruction that waits has
had its turn when it issued. -/
def State.issuedBy (s : State) (before : Nat) (c : Cur) (pc : Dword) (yieldBit last : Bool) : State :=
  if s.tick = before then { s with cur := s.cur.map c.uncounted }
  else if c.split.started then s.wake
  else
    let s := ((s.tookTurn c.who).restart c).turnOver pc yieldBit last
    let s := s.mapWave c.blk.id c.wave.wid fun w => { w with pre := w.pre.map PreRec.count }
    (if spGet 0 s.hw.gate c.blk.core = 0 then s else s.setGate c.blk.core 0).wake

/-- Outcomes followed by a change of the state. -/
def after (f : State → State) : Host.Outcome State Fault Refusal → Host.Outcome State Fault Refusal
  | .next s => .next (f s)
  | .fault e => .fault e
  | .refused r => .refused r

/-- A split and the device as its fetch leaves them. -/
def State.fetched (s : State) (c : Cur) : Fetched → Host.Outcome State Fault Refusal
  | .instr i pc cnt yieldBit last =>
    if s.stopsAt c pc then .next { s with cur := some { c with wave := { c.wave with debug := 1 } } }
    else
      let c' := (c.counts pc).reaches (s.kernelOf c.blk) s.symDst pc cnt yieldBit last
      after (fun t => t.issuedBy s.tick c pc yieldBit last) (exec i { s with cur := some c' })
  | .skip => .next { s with cur := some { c with split := { c.split with pc := bundleOf c.split.pc + 32 } } }
  | .fault code pc info => .next (s.deliver c code pc (BitVec.ofNat 64 info)).wake
  | .abort pc =>
    let s := { s with cur := some c }
    .next (match c.blk.method with
      | some m => s.batchAbort c.blk m Fc.ecc pc
      | none => s.gridAbort c.blk Fc.ecc pc c.wave.wid 0)
  | .xlate va x =>
    let info := memInfo 0 false false 0 va
    .next (s.xlateFault c 0 va 2 x info fun s => s.deliver c Fc.xlate c.split.pc (BitVec.ofNat 64 info))
  | .page _ => .next { s with cur := some { c with split := { c.split with run := .held } } }

/-- A step of another agent, with its data. -/
def State.happens (s : State) (i : Instr) (arg : EvArg) : Host.Outcome State Fault Refusal :=
  after State.wake (exec i { s.unfocus with arg })

/-- The split that issues, named in a step's data. -/
def Cur.arg (c : Cur) : EvArg := { blk := c.blk.id, wid := c.wave.wid, sid := c.split.sid, core := c.blk.core }

/-- The boundary of the split that issues: a step that is due, the parameters' load, or the instruction at its PC. -/
def State.boundary (s : State) (c : Cur) : Host.Outcome State Fault Refusal :=
  match s.dueNow c with
  | some i => s.happens i c.arg
  | none =>
    if !c.mayIssue then .next s
    else if !c.blk.loaded then .next (s.loadParams c)
    else
      let r := s.fetch c.blk c.split.pc
      r.1.fetched c r.2

/-- The move of one split. -/
def State.issueMove (s : State) (blk wid sid : Nat) : Host.Outcome State Fault Refusal :=
  let s := s.focus blk wid sid
  match s.cur with
  | none => .next s
  | some c => s.boundary c

/-! ## Which agent moves where the agenda names none -/

/-- A split that may be chosen, with what the choice looks at. -/
structure Candidate where
  who : Who
  age : Nat
  lastIssue : Nat

/-- Whether a wave may yet issue: a split of it is ready, or held (R163). -/
def State.waveGoes (s : State) (x : Nat × Nat) : Bool :=
  s.blocks.any fun b => b.id = x.1 && b.issues &&
    b.waves.any fun w => w.wid = x.2 && w.debug ≠ 1 && w.splits.any fun sp => sp.run = .ready || sp.run = .held

/-- Whether a split may yet issue. -/
def State.splitGoes (s : State) (x : Who) : Bool :=
  s.blocks.any fun b => b.id = x.1 && b.issues &&
    b.waves.any fun w => w.wid = x.2.1 && w.debug ≠ 1 && w.splits.any fun sp => sp.sid = x.2.2 && (sp.run = .ready || sp.run = .held)

/-- Whether a wave is passed over: one that was ready as it had its 64 bundles has not issued since (R163). Where that would leave nothing to
move, only one that is ready counts (`strict` false; notes/assumptions/20.md). -/
def State.passedOver (s : State) (strict : Bool) (ready : List Who) (w : Wave) : Bool :=
  w.behind.any fun x => if strict then s.waveGoes x else ready.any fun r => (r.1, r.2.1) = x

/-- Whether a split has given its turn away: one that was ready then has not issued since, and another of the quarter is ready (R136). -/
def State.behindOthers (s : State) (strict : Bool) (ready : List Who) (who : Who) (sp : Split) : Bool :=
  (ready.any (· ≠ who)) && sp.behind.any fun x => if strict then s.splitGoes x else ready.contains x

/-- Splits of a quarter that may be chosen: ready, of blocks whose parameters are loaded or that are to load them, not paused for a rebind
(R247), not passed over, and behind no other (R136, R163). -/
def State.candidates (s : State) (strict : Bool) (core quarter : Nat) : List Candidate :=
  let ready := s.readyIn core quarter
  (s.blocks.filter fun b => b.core = core && b.issues).flatMap fun b =>
    (b.waves.filter fun w => w.quarter = quarter && (b.loaded || w.wid = 0) && !s.passedOver strict ready w).flatMap fun w =>
      (w.readySplits.filter fun sp =>
          !s.behindOthers strict ready (b.id, w.wid, sp.sid) sp && !(s.rebindDue b w && s.pausable b sp)).map fun sp =>
        ⟨(b.id, w.wid, sp.sid), w.age, sp.lastIssue⟩

/-- Whether one candidate comes before another: the older wave, and within a wave the split whose last issue lies further back (R162). -/
def Candidate.before (a b : Candidate) : Bool := a.age < b.age || (a.age = b.age && a.lastIssue < b.lastIssue)

/-- The first of some candidates. -/
def bestOf : List Candidate → Option Candidate
  | [] => none
  | a :: l => match bestOf l with
    | none => some a
    | some b => if b.before a then some b else some a

/-- The choices of all quarters that hold a block, the one whose last issue lies furthest back first. -/
def State.pick (s : State) (strict : Bool) : Option Who :=
  let cores := (s.blocks.map (·.core)).eraseDups
  let l := cores.flatMap fun c => (List.range 4).filterMap fun q => bestOf (s.candidates strict c q)
  (l.foldl (fun best a => match best with
    | none => some a
    | some b => if a.lastIssue < b.lastIssue then some a else some b) none).map (·.who)

/-- The step by which an operation in flight goes on. -/
def Op.nextStep (o : Op) : Instr × EvArg :=
  let a : EvArg := { op := o.id, lanes := BitVec.allOnes 128, blk := o.blk, wid := o.wid, sid := o.sid, core := o.core, fn := o.fn, child := o.child }
  if o.staged ∧ o.port = 0 then (.storePerformed, a)
  else match o.kind with
  | .load _ _ => (.loadComplete, a)
  | .store => (.storePerformed, a)
  | .cwb _ => (.storePerformed, a)
  | .atom _ _ _ _ => (.atomicPerformed, { a with lane := ((o.undone.head?).map (·.lane)).getD 0 })
  | .accrd _ _ => (.accrdComplete, a)
  | .accwr _ => (.accrdComplete, a)
  | .mma _ _ _ _ => (if o.stage < 3 then .latheOpStart else .latheOpComplete, a)
  | .accz _ => (if o.stage < 3 then .latheOpStart else .latheOpComplete, a)
  | .accld _ _ _ _ _ _ => (if o.stage < 3 then .latheOpStart else .latheOpComplete, a)
  | .accst _ _ _ _ _ _ _ => (if o.stage < 3 then .latheOpStart else .latheOpComplete, a)
  | .job c => (if o.stage < 3 then .jobStart else .jobComplete, { a with units := c.rows * (c.rb + 2) })
  | .comb _ _ _ _ _ _ _ => (if o.unsent then .combPacketAdmit else .combComplete, a)
  | .launch _ _ => (.recordAdmit, { a with tag := true })
  | _ => (.combComplete, a)

/-- What is due at the boundary of a split that does not issue by itself: one that is held, sleeps or waits (R152, R381). -/
def State.dues (s : State) : List (Instr × EvArg) :=
  s.blocks.flatMap fun b => b.waves.flatMap fun w => (w.splits.filter fun sp => sp.run ≠ .ready).filterMap fun sp =>
    let t := s.focus b.id w.wid sp.sid
    t.cur.bind fun c => (t.dueNow c).map fun i => (i, c.arg)

/-- Whether a split waits at an instruction that Headstock is to complete. -/
def State.awaitsHeadstock (s : State) : Bool := s.blocks.any fun b => b.waves.any fun w => w.splits.any (s.bounded b ·)

/-- Changes of a home mode and of a partition of ways that have begun and wait no more, where no one is left to try the write again. -/
def State.leftWrites (s : State) : List (Instr × EvArg) :=
  if s.awaitsHeadstock then []
  else
    ((s.flipping.filter fun e => !s.granuleBusy e.1 (e.2 / 2)).map fun e =>
      (Instr.homemodeWrite, { value := BitVec.ofNat 64 (e.1 + 2 ^ 63 * (e.2 % 2)) : EvArg })) ++
    (s.shrinking.filter fun e => !s.scratchBusy (e.1 / 64) (e.1 % 64) (s.scrw (e.1 / 64) (e.1 % 64))).map fun e =>
      (Instr.ccWaypartWrite, { fn := e.1 / 64, cluster := e.1 % 64, value := BitVec.ofNat 64 (s.scrw (e.1 / 64) (e.1 % 64)) : EvArg })

/-- Writes of privileged registers that wait for accesses admitted before them: those of the hosts are tried again (R266, R280). -/
def State.waitingWrites (s : State) : List (Instr × EvArg) :=
  (s.hostWaits.map fun e =>
    ((if e.1 = 0x860 then Instr.homemodeWrite else if e.1 = 0x830 then Instr.pmWaysWrite else Instr.ccWaypartWrite),
      { fn := e.2.1, cluster := e.2.2.1, value := e.2.2.2 : EvArg })) ++ s.leftWrites

/-- Pools whose turn goes to a member with work, as no one is resident or the member that is has none (R364). -/
def State.idlePools (s : State) : List (Instr × EvArg) :=
  ((List.range 8).filter fun p =>
    (s.nextMember p).isSome && !(((s.poolMembers p)[spGet 0 s.poolTurn p / 2]?).any fun m => (s.residentMember p).isSome && s.hasWork m)).map
    fun p => (Instr.poolSliceEnd, { pool := p : EvArg })

/-- Steps of units that have work: arbiters, Chucks, operations in flight, drains, blocks and grids that end, pages, waits, records and pools,
and handlers that have issued more instructions than their budget has aclk. -/
def State.pending (s : State) : List (Instr × EvArg) :=
  let grants := (s.clusters.filter fun e => !e.2.queue.isEmpty).map fun e => (Instr.currentGrant, { cluster := e.1 : EvArg })
  let bursts := s.clusters.flatMap fun e => e.2.held.filterMap fun h => match h.1 with
    | .burst core q => some (Instr.burstEnd, { core, quarter := q : EvArg })
    | _ => none
  let packets := s.chucks.flatMap fun e => e.2.ingress.map fun p => (Instr.combPacketAdmit, { cluster := e.1, op := p.id : EvArg })
  let batches := (s.chucks.filter fun e => !e.2.admitted.isEmpty).map fun e => (Instr.batchStart, { cluster := e.1 : EvArg })
  let drains := (s.drains.filter fun d => !d.done).flatMap fun d =>
    (d.targets.map fun t => (Instr.fabricDrainAck, { fn := d.fn, child := d.child, dev := t : EvArg })) ++
    [(Instr.drainComplete, { fn := d.fn, child := d.child : EvArg })]
  let blocks := s.blocks.flatMap fun b =>
    let a : EvArg := { blk := b.id, core := b.core, blocks := (s.gangOf b).map (·.core) }
    [(Instr.blockRetire, a), (Instr.gangRetire, a), (Instr.blockSave, a), (Instr.blockRestore, a)] ++
    b.waves.flatMap fun w => (Instr.rebind, { a with wid := w.wid }) :: w.splits.flatMap fun sp =>
      let x := { a with wid := w.wid, sid := sp.sid }
      match sp.run with
      | .sleeping _ => [(Instr.sleepExpiry, x)]
      | .held => [(Instr.codePageVerify, x)]
      | _ => []
  let grids := (s.grids.filter (·.status.isNone)).flatMap fun g =>
    let a : EvArg := { grid := g.handle }
    (if !g.ready && s.waitsMet g then [(Instr.waitRetest, a)] else []) ++ [(Instr.turnAdvance, a), (Instr.gridRetire, a)]
  let slots := s.binds.map fun d => (Instr.blockDispatch, { cluster := d.cluster, slot := d.slot : EvArg })
  let cores := (s.blocks.map (·.core)).eraseDups.map fun c => (Instr.forcedGrowth, { core := c : EvArg })
  let quiesce := s.quiescing.map fun p => if p.2 = 7 then (Instr.functionReset, { fn := p.1 : EvArg })
    else (Instr.quiesce, { fn := p.1, child := p.2 : EvArg })
  let records := ((List.range 8).flatMap fun f => (List.range 64).map fun q => (f, q)).filter (fun p => s.queueDue p.1 p.2) |>.map fun p =>
    (Instr.recordAdmit, { fn := p.1, q := p.2 : EvArg })
  let late := s.blocks.flatMap fun b => (b.waves.filter fun w => w.pre.any fun p => p.done.isNone && p.budget < p.issued).map fun w =>
    (Instr.handlerBudgetOverrun, { blk := b.id, wid := w.wid : EvArg })
  let markers := (s.markers.filter s.markerDue).map fun m =>
    (Instr.fabricDrainMarker, { dev := m.dev, fn := m.fn, child := m.child, tag := m.tag : EvArg })
  s.dues ++ grants ++ packets ++ batches ++ s.ops.map Op.nextStep ++ s.waitingWrites ++ drains ++ markers ++ blocks ++ grids ++ slots ++
  quiesce ++ records ++ s.idlePools ++ bursts ++ cores ++ late

/-- The first of some steps that changes the device. -/
def State.firstOf (s : State) : List (Instr × EvArg) → Option (Host.Outcome State Fault Refusal)
  | [] => none
  | (i, a) :: rest =>
    match exec i { s with arg := a } with
    | .next t => if { t.unfocus with arg := s.arg } = s then s.firstOf rest else some (.next t.wake)
    | r => some r

/-- Whether pending steps go before splits that are ready: at every eighth issue, so that neither waits for ever. -/
def State.eventsFirst (s : State) : Bool := s.tick % 8 = 7

/-- The issue of a split that the quarters choose. -/
def State.issuePick (s : State) (strict : Bool) : Option (Host.Outcome State Fault Refusal) :=
  (s.pick strict).map fun w => s.issueMove w.1 w.2.1 w.2.2

/-- The issue of a split where one is chosen, else a pending step, else the issue of one that is passed over for waves that wait for it, else
nothing. -/
def State.issueFirst (s : State) : Host.Outcome State Fault Refusal :=
  match s.issuePick true with
  | some r => r
  | none => match s.firstOf s.pending with
    | some r => r
    | none => (s.issuePick false).getD (.next s)

/-- The move of an agent where the agenda names none (notes/assumptions/20.md). -/
def State.choose (s : State) : Host.Outcome State Fault Refusal :=
  let s := s.unfocus
  if s.eventsFirst then
    match s.firstOf s.pending with
    | some r => r
    | none => s.issueFirst
  else s.issueFirst

/-- The opcode at a PC of a block, as a fetch would find it; 0 where there is none. -/
def State.opcodeAt (s : State) (b : Block) (pc : Dword) : Nat :=
  match (s.fetch b pc).2 with
  | .instr i _ _ _ _ => (opcodeOf (((encode i).getD []).headD 0)).toNat
  | _ => 0

/-- The entry of a handler with a move that cannot be made: a page that is not mapped is system-handled, and otherwise the grid aborts with
reason 5; the step has no other effect (R240, R241). -/
def State.entryStop (before s : State) : Option State :=
  match s.cur with
  | none => none
  | some c =>
    let t := ({ before with agenda := s.agenda } : State).focus c.blk.id c.wave.wid c.split.sid
    t.cur.bind fun x =>
      if x.who = c.who ∧ ((c.split.uni.inHandler ∧ ¬ x.split.uni.inHandler) ∨ (c.wave.pre.isSome ∧ x.wave.pre.isNone)) then
        t.slotStop x 0 (t.opcodeAt x.blk x.split.pc) (t.edgeSlots x c.split.pc)
      else none

/-- What follows a move of the device: slots hold the words that lie in them (R238, R239). -/
def State.followed (before s : State) : State := (before.entryStop s).getD (before.spills s)

/-- One move of the device: the first entry of the agenda, or a choice. -/
def State.move (s : State) : Host.Outcome State Fault Refusal :=
  after s.followed (match s.agenda with
  | .ev i arg :: rest => ({ s with agenda := rest } : State).happens i arg
  | .issue blk wid sid :: rest => ({ s with agenda := rest } : State).issueMove blk wid sid
  | .upset u hard :: rest => .next (({ s with agenda := rest } : State).upset u hard).wake
  | [] => s.choose)

/-! ## An instruction placed where the next step fetches it -/

/-- The bundle that holds one instruction at its first word: a join point, with a stall count of 15 for it. -/
def bundleWith (ws : List Word) : List Word := 0x1000000F#32 :: ws

/-- A kernel of one page of code, with every name a negative can hold. -/
def probeKernel : Kernel :=
  { addr := 0x10000, codeSize := 4096, demand := 256, minshare := 2, nscal := 64, nbar := 64, nbuf := 16, nsym := 256
    lives := [⟨0, 256, 0, 4096⟩], bufs := List.replicate 16 ⟨1024, 16, 0⟩, barSlots := 16 }

/-- The grid, block, wave and split that run it. -/
def probeGrid (h : Nat) : Grid :=
  { handle := h, fn := 0, child := 0, kernel := probeKernel, rcd := { tiles := 8 }, ready := true, verified := [(0, true)]
    dispatched := [(0, true)] }

/-- The wave's one split, at the kernel's first instruction. -/
def probeSplit : Split := { sid := 0, owned := 0xFFFFFFFF, exec := 0xFFFFFFFF, pc := 0x10040 }

/-- A block with one wave of 32 lanes. -/
def probeBlock (id h : Nat) : Block :=
  { id, grid := h, index := 0, baseShare := 256, waves := [{ wid := 0, width := 32, share := 256, wanted := 256, splits := [probeSplit] }] }

/-- Root of F0's page tables, and its table of the first 512 GiB; physical start of the first GiB of virtual addresses. -/
def probeRoot : Nat := 0x1000
def probeTable : Nat := 0x2000
def probeBase : Nat := 0x40000000

/-- A kernel loaded whose first instruction has these words, on core 0 for F0, and its wave chosen to issue next: memory holds the code
and page tables that map it, and no translation of F0 is cached. -/
def State.loadProbe (s : State) (ws : List Word) : State :=
  let s := s.unfocus
  let code := (bundleWith ws).flatMap bytesOfWord
  let mem := Memory.write s.mem probeRoot (leBytes 8 (probeTable + 1))
  let mem := Memory.write mem probeTable (leBytes 8 (probeBase + 31))
  let mem := Memory.write mem (probeBase + 0x10040) code
  let clear := fun (m : Sp Bool) => m.filter fun e =>
    !(e.1 = probeRoot / 8 || e.1 = probeTable / 8 || ((probeBase + 0x10040) / 8 ≤ e.1 && e.1 < (probeBase + 0x10060) / 8))
  ({ s with
    mem, memPoison := clear s.memPoison, tlb := s.tlb.filter (·.fn ≠ 0)
    grids := s.grids ++ [probeGrid s.nextGrid], nextGrid := s.nextGrid + 1
    blocks := s.blocks ++ [probeBlock s.nextBlk s.nextGrid], nextBlk := s.nextBlk + 1
    hw := { s.hw with breakpoints := s.hw.breakpoints.filter (·.1 ≠ 0) }
    agenda := [.issue s.nextBlk 0 0] } : State).setPr 0x829 0 0 0 (BitVec.ofNat 64 probeRoot)

end Sys2Proof.Machine
end

