-- ==== Sys2Proof/Machine/Step.lean ====
section
/-! DEFINITION. The step of the machine, and an instruction placed where it fetches the next one. -/
namespace Sys2Proof.Machine

/-- One step: the first move of the agenda, or where it names none the choice of R162 and R442. -/
def step (s : State) : Host.Outcome State Fault Refusal := s.move

/-- The state with an instruction where the next step fetches: the instruction whose bits are w, bit 0 the least significant of its first
word, with zeros above. A program is loaded from outside the machine, and this stands for that load (notes/assumptions/19.md). -/
def State.withFetchWord (s : State) (nbits w : Nat) : State := s.loadProbe (tableWords (tableBits nbits w))

end Sys2Proof.Machine
end

