-- ==== Sys2Proof/Safety.lean ====
section
/-! DEFINITION. What a safe run is, and the words in which the statements speak of one instruction: the state it issues from, the
registers it leaves behind, and what no instruction of its shape touches. -/
namespace Sys2Proof

/-- A step from a state neither faults nor refuses. -/
def goesOn (s : Machine.State) : Prop := ∃ t, Machine.step s = .next t

/-- A predicate on states that every step keeps. -/
def Kept (inv : Machine.State → Prop) : Prop := ∀ s t, inv s → Machine.step s = .next t → inv t

/-- A run of n steps from a state stays within a predicate. -/
def Safe (inv : Machine.State → Prop) : Nat → Machine.State → Prop
  | 0, s => inv s
  | n + 1, s => inv s ∧ ∃ t, Machine.step s = .next t ∧ Safe inv n t

namespace Machine

/-! ## An instruction whose checks have passed -/

/-- The operand fields of a form, as an opcode's specification reads them. -/
def rawOf (f : Form) (spec : Nat → Spec) : Raw := Raw.of (spec 0).b.isSome f

/-- An opcode's specification at the modifier of a form. -/
def specOf (f : Form) (spec : Nat → Spec) : Spec := spec (rawOf f spec).m

/-- Passes in which the wave of a split issues an instruction (R59). -/
def passesOf (c : Cur) (f : Form) (spec : Nat → Spec) : Nat := (specOf f spec).passes (rawOf f spec) c.wave.width

/-- The split `c` may issue an instruction: the opcode is not masked and the wave may issue it (R54), the form and the operands are in
order, no operand is understalled or out of its array (R152), and no spill slot is out of reach (R241). `x` is what its operands name. -/
structure Passes (s : State) (c : Cur) (op : Nat) (f : Form) (spec : Nat → Spec) (x : Ctx) : Prop where
  chosen : s.cur = some c
  allowed : s.opcodeFault c op (rawOf f spec).len = none
  formed : (specOf f spec).defect (s.limitsOf c) (rawOf f spec) = none
  readable : (specOf f spec).context (s.limitsOf c) (s.awaited c.split) c.wave.width op (rawOf f spec) c.split = .ok x
  inReach : s.spillStop c (passesOf c f spec) op x = none

/-- Every check of R54, R152 and R241 lets the instruction of the split that issues take effect, and its operands stand ready (R239): `c` is
that split with its spilled sources filled and its registers read, no word that it reads is poisoned or has an uncorrectable error
(R82), and a vector instruction's burst is granted (R175). `x` is what its operands name. -/
structure Issues (s : State) (c : Cur) (op : Nat) (f : Form) (spec : Nat → Spec) (x : Ctx) : Prop where
  begun : ∃ c0, Passes s c0 op f spec x
  chosen : (s.prepare x).cur = some c
  clean : x.ecc c.split = none
  granted : (x.once || (s.prepare x).burstFree c) = true

/-- A decidable form of `Issues`, for concrete states. -/
def issuesB (s : State) (c : Cur) (op : Nat) (f : Form) (spec : Nat → Spec) (x : Ctx) : Bool :=
  (s.cur.any fun c0 => (s.opcodeFault c0 op (rawOf f spec).len).isNone &&
    ((specOf f spec).defect (s.limitsOf c0) (rawOf f spec)).isNone &&
    (match (specOf f spec).context (s.limitsOf c0) (s.awaited c0.split) c0.wave.width op (rawOf f spec) c0.split with
      | .ok y => decide (y = x)
      | .error _ => false) &&
    (s.spillStop c0 (passesOf c0 f spec) op x).isNone) &&
  decide ((s.prepare x).cur = some c) && (x.ecc c.split).isNone && (x.once || (s.prepare x).burstFree c)

/-- The state in which an instruction takes its effect: its operands stand ready (R239), it is counted in HANGCNT (R77), and a vector
instruction holds its quarter's burst (R175). -/
def State.ready (s : State) (c : Cur) (x : Ctx) : State :=
  if x.once then { s.prepare x with cur := some c.counted } else ({ s.prepare x with cur := some c.counted } : State).burst c

/-- The split that issues, with another split in its place. -/
def State.inSplit (s : State) (c : Cur) (sp : Split) : State := { s with cur := some { c.counted with split := sp } }

/-- The end of an instruction: one issue event per pass and its own events are booked as one (R371), the counted distances advance by
its stall count (R56), and control goes to a PC. -/
def State.ended (s : State) (c : Cur) (f : Form) (spec : Nat → Spec) (ev : List (Ev × Nat)) (pc : Dword) : State :=
  (s.bookIssue c (passesOf c f spec) ev).finish pc

/-- The PC after an instruction (R36). -/
def Cur.next (c : Cur) (f : Form) : Dword := nextPc c.split.pc (formWords f)

/-- The end of an instruction that changes nothing but its split's registers. -/
def State.after (s : State) (c : Cur) (f : Form) (spec : Nat → Spec) (x : Ctx) (sp : Split) (ev : List (Ev × Nat)) : State :=
  ((s.ready c x).inSplit c sp).ended c f spec ev (c.next f)

/-- The end of an instruction that has itself dealt with its split, from the state its effect left: `tick` is the count of steps before. -/
def State.dealt (s : State) (tick : Nat) (c : Cur) (f : Form) (spec : Nat → Spec) (ev : List (Ev × Nat)) : State :=
  { s.bookIssue c (passesOf c f spec) ev with tick := max s.tick (tick + 1) }

/-- An instruction that has issued and now waits, from the state its effect left. -/
def State.waiting (s : State) (c : Cur) (f : Form) (spec : Nat → Spec) (ev : List (Ev × Nat)) : State :=
  (s.bookIssue c (passesOf c f spec) ev).waits c

/-! ## Shapes of statements -/

/-- A statement about both rows of an opcode that has a base and a long one. -/
def Both (short : Short → Instr) (long : Long → Instr) (p : Instr → Form → Prop) : Prop :=
  (∀ f, p (short f) (.base f)) ∧ ∀ f, p (long f) (.long f)

/-- A statement about the one row of an opcode. -/
def Sole (i : Form → Instr) (p : Instr → Form → Prop) : Prop := ∀ f, p (i f) f

/-- Where an instruction's checks pass, it completes: the split's registers become `r`, and `ev` is charged. -/
def Leaves (op : Nat) (spec : Nat → Spec) (ev : Ctx → List (Ev × Nat)) (r : Cur → Ctx → Split) (i : Instr) (f : Form) : Prop :=
  ∀ s c x, Issues s c op f spec x → exec i s = .next (s.after c f spec x (r c x) (ev x))

/-- An instruction that writes one value to D at each of its sites, at its latency: the active lanes, or once for the wave. -/
def Computes (op : Nat) (spec : Nat → Spec) (ev : Ev) (v : Ctx → Split → Nat → Nat) (i : Instr) (f : Form) : Prop :=
  Leaves op spec (·.charge ev)
    (fun c x => c.split.result x.d x.dWide (x.sites.map fun n => (n, v x c.split n)) x.lat) i f

/-- An instruction that writes one bit to the mask D in each active lane. -/
def Tests (op : Nat) (spec : Nat → Spec) (ev : Ev) (v : Ctx → Split → Nat → Bool) (i : Instr) (f : Form) : Prop :=
  Leaves op spec (·.charge ev)
    (fun c x => c.split.result x.d false (x.lanes.map fun n => (n, b2n (v x c.split n))) x.lat) i f

/-- The generators after an instruction's draws: n at each site where it rounds stochastically. -/
def Split.afterDraws (sp : Split) (x : Ctx) (rs : Bool) (n : Nat) : Split := if rs then sp.drawn x x.sites n else sp

/-- Draw k of a site of an instruction; 0 where it draws nothing. -/
def Split.drawOf (sp : Split) (x : Ctx) (rs : Bool) (i k : Nat) : Nat := if rs then sp.drawAt (x.drawLane sp i) k else 0

/-- An instruction that rounds: one value at each site from the sources and `n` draws. -/
def Rounds (op : Nat) (spec : Nat → Spec) (ev : Ev) (rs : Ctx → Bool) (n : Nat)
    (v : Ctx → Split → Nat → (Nat → Nat) → Nat) (i : Instr) (f : Form) : Prop :=
  Leaves op spec (·.charge ev)
    (fun c x => (c.split.afterDraws x (rs x) n).result x.d x.dWide
      (x.sites.map fun m => (m, v x c.split m (c.split.drawOf x (rs x) m))) x.lat) i f

/-- Where an instruction's checks pass and `cond` holds in the state it takes effect in, it completes: its effect leaves the state
`t`, `ev` is charged, and the wave goes on at the next instruction. -/
def Completes (op : Nat) (spec : Nat → Spec) (cond : State → Cur → Ctx → Prop) (t : State → Cur → Ctx → State)
    (ev : State → Cur → Ctx → List (Ev × Nat)) (i : Instr) (f : Form) : Prop :=
  ∀ s c x, Issues s c op f spec x → cond (s.ready c x) c.counted x →
    exec i s = .next ((t (s.ready c x) c.counted x).ended c f spec (ev (s.ready c x) c.counted x) (c.next f))

/-- As `Completes`, and control goes to a target, to which every move of a spilled word can be made (R240). -/
def Transfers (op : Nat) (spec : Nat → Spec) (cond : State → Cur → Ctx → Prop) (t : State → Cur → Ctx → State)
    (target : Cur → Ctx → Dword) (i : Instr) (f : Form) : Prop :=
  ∀ s c x, Issues s c op f spec x → cond (s.ready c x) c.counted x →
    (s.prepare x).edgeStop c (passesOf c f spec) op (target c.counted x) = none →
    exec i s = .next ((t (s.ready c x) c.counted x).ended c f spec [(.ctl, 1)] (target c.counted x))

/-- Where an instruction's checks pass and `cond` holds, it faults with a code and TRAP_INFO, and has no effect of its own. -/
def Faults (op : Nat) (spec : Nat → Spec) (cond : State → Cur → Ctx → Prop) (code : Nat) (info : State → Cur → Ctx → Nat)
    (i : Instr) (f : Form) : Prop :=
  ∀ s c x, Issues s c op f spec x → cond (s.ready c x) c.counted x →
    exec i s = .next ((s.prepare x).faulted c (passesOf c f spec) code (info (s.ready c x) c.counted x))

/-! ## Steps of other agents -/

/-- A step of another agent: where it is due, it leaves the state `t`. The split that was to issue is back in its wave. -/
def Happens (i : Instr) (due : State → Prop) (t : State → State) : Prop :=
  ∀ s, due s.unfocus → exec i s = .next (t s.unfocus)

/-- A step at the boundary of the split that its data name: where it is due, it leaves the state `t`. -/
def HappensAt (i : Instr) (due : State → Cur → Prop) (t : State → Cur → State) : Prop :=
  ∀ s c, (s.focus s.arg.blk s.arg.wid s.arg.sid).cur = some c → due (s.focus s.arg.blk s.arg.wid s.arg.sid) c →
    exec i s = .next (t (s.focus s.arg.blk s.arg.wid s.arg.sid) c)

/-- A step of the operation that its data name: where it is due, it leaves the state `t`. -/
def HappensTo (i : Instr) (due : State → Op → Prop) (t : State → Op → State) : Prop :=
  ∀ s o, s.unfocus.op? s.arg.op = some o → due s.unfocus o → exec i s = .next (t s.unfocus o)

/-- A step of the grid that its data name. -/
def HappensIn (i : Instr) (due : State → Grid → Prop) (t : State → Grid → State) : Prop :=
  ∀ s g, s.unfocus.grid? s.arg.grid = some g → due s.unfocus g → exec i s = .next (t s.unfocus g)

/-- A step of the block that its data name. -/
def HappensOn (i : Instr) (due : State → Block → Prop) (t : State → Block → State) : Prop :=
  ∀ s b, s.unfocus.block? s.arg.blk = some b → due s.unfocus b → exec i s = .next (t s.unfocus b)

/-! ## Addresses that an instruction reaches -/

/-- The lanes' addresses pass R183 for accesses of n bytes by a block: aligned, in range, and translated to the places `l`, which leaves
the state `t`. -/
structure Reached (s : State) (b : Block) (n : Nat) (align locks : Bool) (need : BitVec 3) (addrs : List (Nat × Nat)) (t : State)
    (l : List (Nat × Nat × Space × Nat)) : Prop where
  aligned : align = true → ∀ p ∈ addrs, p.2 % n = 0
  ranged : ∀ p ∈ addrs, s.rangeFault b p.2 n = none
  placed : s.placeAll b need locks addrs = (t, .ok l)

/-- The lanes' offsets pass R183 and R192 for accesses of n bytes to a buffer: aligned, within it, and for a read not poisoned. -/
structure InBuffer (s : State) (c : Cur) (blk buf n : Nat) (wr : Bool) (rels : List (Nat × Nat)) : Prop where
  aligned : ∀ p ∈ rels, p.2 % n = 0
  ranged : ∀ p ∈ rels, p.2 + n ≤ (((s.kernelOf c.blk).bufs[buf]?).map (·.size)).getD 0
  clean : wr = false → ∀ p ∈ rels, s.scrBad c (.scr blk buf) p.2 n = false

/-- The items of an access of n bytes in each lane, with what it stores and compares. -/
def itemsOf (n : Nat) (data expected : Nat → Dword) (l : List (Nat × Nat × Space × Nat)) : List Item :=
  l.map fun p => { lane := p.1, space := p.2.2.1, addr := p.2.2.2, bytes := n, va := BitVec.ofNat 64 p.2.1, data := data p.1
                   expected := expected p.1 }

/-- The items of an access of n bytes to a buffer in each lane. -/
def scrItems (blk buf n : Nat) (data expected : Nat → Dword) (rels : List (Nat × Nat)) : List Item :=
  rels.map fun p => { lane := p.1, space := .scr blk buf, addr := p.2, bytes := n, data := data p.1, expected := expected p.1 }

/-! ## What a step leaves alone -/

/-- What no instruction but a memory operation's performance touches: memory, cluster scratch, and their poison. -/
def State.sameMemory (s t : State) : Prop :=
  t.mem = s.mem ∧ t.memPoison = s.memPoison ∧ t.cscr = s.cscr ∧ t.cscrPoison = s.cscrPoison

/-- Every register of a split but those listed reads in every lane as another split's does. -/
def Split.sameBut (l : List RegId) (sp sp' : Split) : Prop :=
  ∀ r, r ∉ l → ∀ i, i < 128 → sp'.read r i = sp.read r i

/-- Canonical memories: global memory and cluster scratch, as a state holds them. -/
def State.memOk (s : State) : Prop := Memory.wf s.mem = true ∧ Memory.wf s.cscr = true

end Machine

end Sys2Proof
end

