-- ==== Sys2Proof/Certificates/Slice0/Obligations.lean ====
section
/-! DEFINITION. The statements for the provers: that every instruction and every event completes with its effect, and what the machine's
rules say of all of them. -/

open Sys2Proof Sys2Proof.Machine

/-! ## Integer and bit instructions -/

/-- IADD, ISUB, IMUL, IMULH, IMAD, IMIN, IMAX, IABS and INEG complete: each active lane's result is the exact one of the values that the type gives the
operands, wrapped to the type or, under `.sat`, clamped to its range (R110, R85, R107). -/
def Obligations.IntegerArithmeticCompletes : Prop :=
  Both .iadd .iaddLong (Computes 0x001 (specInt2 allInt 1) .int fun x sp i =>
    x.ty.result x.sat (x.ty.val (x.vA sp i) + x.ty.val (x.vB sp i))) ∧
  Both .isub .isubLong (Computes 0x002 (specInt2 allInt 1) .int fun x sp i =>
    x.ty.result x.sat (x.ty.val (x.vA sp i) - x.ty.val (x.vB sp i))) ∧
  Both .imul .imulLong (Computes 0x003 (specInt2 allInt 0) .intmul fun x sp i =>
    x.ty.out (x.ty.val (x.vA sp i) * x.ty.val (x.vB sp i))) ∧
  Both .imulh .imulhLong (Computes 0x004 (specInt2 allInt 0) .intmul fun x sp i =>
    x.ty.out (x.ty.val (x.vA sp i) * x.ty.val (x.vB sp i) / 2 ^ x.ty.n)) ∧
  Sole .imad (Computes 0x005 specMad .intmul fun x sp i =>
    x.ty.out (x.ty.val (x.vA sp i) * x.ty.val (x.vB sp i) + x.ty.val (x.vC sp i))) ∧
  Both .imin .iminLong (Computes 0x006 (specInt2 allInt 0) .int fun x sp i =>
    x.ty.out (min (x.ty.val (x.vA sp i)) (x.ty.val (x.vB sp i)))) ∧
  Both .imax .imaxLong (Computes 0x007 (specInt2 allInt 0) .int fun x sp i =>
    x.ty.out (max (x.ty.val (x.vA sp i)) (x.ty.val (x.vB sp i)))) ∧
  Sole .iabs (Computes 0x008 (specInt1 [1, 2, 3, 4] 1) .int fun x sp i => x.ty.result x.sat |x.ty.val (x.vA sp i)|) ∧
  Both .ineg .inegLong (Computes 0x009 specIneg .int fun x sp i => x.ty.result x.sat (-x.ty.val (x.vA sp i)))

/-- The 32-bit additions, subtractions, products and negations without `.sat` are those of 32-bit words: they wrap modulo 2^32 (R85). Under `.sat` a sum
or a difference lies in the type's range, and is the exact one where that does (R110). BFI puts the low bits of a into a field of b and leaves the
other bits of b, in every type of n bits; a signed result of fewer than 32 bits is sign-extended (R111, R107). -/
def Obligations.IntegerResults : Prop :=
  (
  ∀ a b : Word, ∀ t, (t = intTy 3 ∨ t = intTy 7 ∨ t = intTy 0) →
    BitVec.ofNat 32 (addRes t false a.toNat b.toNat) = a + b ∧ BitVec.ofNat 32 (subRes t false a.toNat b.toNat) = a - b ∧
    BitVec.ofNat 32 (mulRes t false a.toNat b.toNat) = a * b ∧ BitVec.ofNat 32 (negRes t false a.toNat) = -a) ∧
  (
  ∀ (t : IntTy) (a b : Nat), t ∈ [intTy 1, intTy 2, intTy 3, intTy 4, intTy 5, intTy 6, intTy 7, intTy 8] →
    t.val (addRes t true a b) = max t.lo (min t.hi (t.val a + t.val b)) ∧
    t.val (subRes t true a b) = max t.lo (min t.hi (t.val a - t.val b))) ∧
  (
  ∀ (t : IntTy) (a b c j : Nat), t ∈ [intTy 1, intTy 2, intTy 3, intTy 4, intTy 5, intTy 6, intTy 7, intTy 8, intTy 0] →
    let pos := c % 256
    let len := c / 256 % 256
    (j < t.n → (bfiRes t a b c).testBit j = if pos ≤ j ∧ j < pos + len then a.testBit (j - pos) else b.testBit j) ∧
    (t.n ≤ j → (bfiRes t a b c).testBit j = (t.signed && decide (j < 32) && (bfiRes t a b c).testBit (t.n - 1))))

/-- AND, OR, XOR, ANDN, NOT, the shifts and rotation, BFX, BFI, POPC, CLZ, BREV, PRMT and LEA complete with the values of R110 and R111. -/
def Obligations.BitInstructionsComplete : Prop :=
  Both .andBits .andBitsLong (Computes 0x00B (specInt2 allInt 0) .int fun x sp i =>
    x.ty.out (x.ty.bits (x.vA sp i) &&& x.ty.bits (x.vB sp i) : Nat)) ∧
  Both .orBits .orBitsLong (Computes 0x00C (specInt2 allInt 0) .int fun x sp i =>
    x.ty.out (x.ty.bits (x.vA sp i) ||| x.ty.bits (x.vB sp i) : Nat)) ∧
  Both .xorBits .xorBitsLong (Computes 0x00D (specInt2 allInt 0) .int fun x sp i =>
    x.ty.out (x.ty.bits (x.vA sp i) ^^^ x.ty.bits (x.vB sp i) : Nat)) ∧
  Both .andn .andnLong (Computes 0x00E (specInt2 allInt 0) .int fun x sp i =>
    x.ty.out (x.ty.bits (x.vA sp i) &&& (2 ^ x.ty.n - 1 - x.ty.bits (x.vB sp i)) : Nat)) ∧
  Both .notBits .notBitsLong (Computes 0x00F (specInt1 allInt 0) .int fun x sp i =>
    x.ty.out (2 ^ x.ty.n - 1 - x.ty.bits (x.vA sp i) : Nat)) ∧
  Both .shl .shlLong (Computes 0x010 specShift .int fun x sp i =>
    x.ty.out (if x.vB sp i < x.ty.n then (x.ty.bits (x.vA sp i) <<< x.vB sp i : Nat) else 0)) ∧
  Both .shr .shrLong (Computes 0x011 specShift .int fun x sp i =>
    x.ty.out (if x.vB sp i < x.ty.n then (x.ty.bits (x.vA sp i) >>> x.vB sp i : Nat) else 0)) ∧
  Both .sar .sarLong (Computes 0x012 specShift .int fun x sp i =>
    x.ty.out (sx x.ty.n (x.vA sp i) / 2 ^ min (x.vB sp i) (x.ty.n - 1))) ∧
  Both .rotl .rotlLong (Computes 0x013 specShift .int fun x sp i =>
    x.ty.out ((x.ty.bits (x.vA sp i) <<< (x.vB sp i % x.ty.n) ||| x.ty.bits (x.vA sp i) >>> (x.ty.n - x.vB sp i % x.ty.n) : Nat))) ∧
  Sole .bfx (Computes 0x014 specBfx .int fun x sp i =>
    let pos := min (x.vB sp i % 256) x.ty.n
    let len := min (x.vC sp i % 256) x.ty.n
    if len = 0 then 0
    else x.ty.out (if x.ty.signed then sx len (wrap len (x.ty.val (x.vA sp i) / 2 ^ pos)) else wrap len (x.ty.val (x.vA sp i) / 2 ^ pos))) ∧
  Sole .bfi (Computes 0x015 specBfi .int fun x sp i => bfiRes x.ty (x.vA sp i) (x.vB sp i) (x.vC sp i)) ∧
  Both .popc .popcLong (Computes 0x016 (specInt1 allInt 0) .int fun x sp i => x.ty.out (popcount x.ty.n (x.vA sp i))) ∧
  Both .clz .clzLong (Computes 0x017 (specInt1 allInt 0) .int fun x sp i =>
    x.ty.out (if x.ty.bits (x.vA sp i) = 0 then x.ty.n else (x.ty.n - 1 - Nat.log2 (x.ty.bits (x.vA sp i)) : Nat))) ∧
  Both .brev .brevLong (Computes 0x018 (specInt1 allInt 0) .int fun x sp i => x.ty.out (bitrev x.ty.n (x.vA sp i))) ∧
  Sole .prmt (Computes 0x019 specPrmt .int fun x sp i => prmtRes x.ty (x.vA sp i) (x.vB sp i) (x.vC sp i)) ∧
  Sole .lea (Computes 0x01A specLea .int fun x sp i => wrap 64 (x.vA sp i + x.ty.val (x.vB sp i) * 2 ^ (x.vC sp i % 64)))

/-- IADDC, ICMP, SEL, FCMP and FCLASS complete: sum and carry, or difference and borrow; comparisons of values; the operand that a mask selects; the bit
of b that a's class selects (R112, R115, R116). -/
def Obligations.CompareSelectCarryComplete : Prop :=
  Sole .iaddc (Leaves 0x00A specIaddc (·.charge .int) fun c x =>
    let k := c.split.readMask x.c.maskNum
    let a := fun (i : Nat) => (x.vA c.split i % 2 ^ 32 : Nat)
    let b := fun (i : Nat) => (x.vB c.split i % 2 ^ 32 : Nat)
    let r := fun (i : Nat) => if x.sat
      then (wrap 32 ((a i : Int) - (b i : Int) - (b2n (k.getLsbD i) : Int)), decide (a i < b i + b2n (k.getLsbD i)))
      else ((a i + b i + b2n (k.getLsbD i)) % 2 ^ 32, decide (2 ^ 32 ≤ a i + b i + b2n (k.getLsbD i)))
    (c.split.result x.d false (x.sites.map fun i => (i, (r i).1)) x.lat).result x.c false (x.sites.map fun i => (i, b2n (r i).2)) x.lat) ∧
  Sole .icmp (Tests 0x01B specIcmp .int fun x sp i => cmpInt (Mod.cmp x.m) (x.ty.val (x.vA sp i)) (x.ty.val (x.vB sp i))) ∧
  Sole .sel (Computes 0x01C specSel .int fun x sp i => if (sp.readMask x.c.maskNum).getLsbD i then x.vA sp i else x.vB sp i) ∧
  Sole .fcmp (Tests 0x026 specFcmp .fp fun x sp i => cmpFloat (Mod.cmp x.m) (sp.fval x x.a f32 i) (sp.fval x x.b f32 i)) ∧
  Sole .fclass (Tests 0x030 specFclass .fp fun x sp i => bit (x.vB sp i) (classOf32 (sp.fraw x x.a i)))

/-- FCMP's comparisons: with a NaN only `.ne` and `.uno` hold; −0 equals +0; and the codes 0 to 7 are equal, unequal, less, at most, greater, at least,
ordered and unordered, by the values of finite operands and with each infinity beyond them (R115, R50). A conversion of a floating-point value to an integer type, whatever the 16-bit draw: NaN gives 0, an infinity the
type's bound, and every result lies in the type's range, so that an unsigned type takes 0 for every result below zero (R102). -/
def Obligations.FloatLaws : Prop :=
  (
  (∀ v : FV, ∀ cmp, cmp ≤ 7 → cmpFloat cmp .nan v = (cmp = 1 || cmp = 7) ∧ cmpFloat cmp v .nan = (cmp = 1 || cmp = 7)) ∧
  (∀ e e' n n', cmpFloat 0 (.fin n 0 e) (.fin n' 0 e') = true) ∧
  (∀ n n' m m' e e',
    let v := (if n then -(m : ℚ) else m) * 2 ^ (e : ℤ)
    let v' := (if n' then -(m' : ℚ) else m') * 2 ^ (e' : ℤ)
    (cmpFloat 0 (.fin n m e) (.fin n' m' e') = true ↔ v = v') ∧ (cmpFloat 2 (.fin n m e) (.fin n' m' e') = true ↔ v < v') ∧
    (cmpFloat 4 (.fin n m e) (.fin n' m' e') = true ↔ v' < v) ∧
    cmpFloat 2 (.inf true) (.fin n m e) = true ∧ cmpFloat 4 (.inf false) (.fin n m e) = true ∧
    cmpFloat 4 (.fin n m e) (.inf true) = true ∧ cmpFloat 2 (.fin n m e) (.inf false) = true) ∧
  (∀ n n', (cmpFloat 0 (.inf n) (.inf n') = true ↔ n = n') ∧ (cmpFloat 2 (.inf n) (.inf n') = true ↔ n = true ∧ n' = false)) ∧
  (∀ a b : FV, a ≠ .nan → b ≠ .nan →
    cmpFloat 6 a b = true ∧ cmpFloat 7 a b = false ∧ cmpFloat 1 a b = !cmpFloat 0 a b ∧
    cmpFloat 3 a b = (cmpFloat 2 a b || cmpFloat 0 a b) ∧ cmpFloat 5 a b = (cmpFloat 4 a b || cmpFloat 0 a b) ∧
    (cmpFloat 2 a b && cmpFloat 4 a b) = false)) ∧
  (
  ∀ (t : IntTy) (rnd d : Nat), d < 2 ^ 16 → t ∈ [intTy 1, intTy 2, intTy 3, intTy 4, intTy 5, intTy 6, intTy 7, intTy 8] →
    FV.nan.toInt t.n t.signed rnd d = 0 ∧ (FV.inf false).toInt t.n t.signed rnd d = t.hi ∧ (FV.inf true).toInt t.n t.signed rnd d = t.lo ∧
    (∀ v : FV, t.lo ≤ v.toInt t.n t.signed rnd d ∧ v.toInt t.n t.signed rnd d ≤ t.hi) ∧
    (∀ k : Int, t.lo ≤ k → k ≤ t.hi → (FV.ofInt k).toInt t.n t.signed rnd d = k))

/-! ## Floating point, packed and conversions -/

/-- FADD, FSUB, FMUL, FFMA, FMIN, FMAX, FRND and FSCALE complete: the exact result of the operands' values, a product never rounded by itself, rounded
once by RND (R113, R103). FRCP, FRSQ, FSQRT, FEXP2, FLOG2, FTANH, FSIGM and FDIV complete (R113, R114). The values of FEXP2, FLOG2, FTANH and FSIGM
within the stated error are the model's choice (notes/assumptions/8.md). -/
def Obligations.FloatInstructionsComplete : Prop :=
  (
  Both .fadd .faddLong (Rounds 0x020 (specF2 5 6) .fp (Mod.rnd ·.m = 5) 1 fun x sp i d =>
    (addFV x.rd (sp.fval x x.a f32 i) (sp.fval x x.b f32 i)).toFX.to32 x.mode (Mod.rnd x.m) (d 0)) ∧
  Both .fsub .fsubLong (Rounds 0x021 (specF2 5 6) .fp (Mod.rnd ·.m = 5) 1 fun x sp i d =>
    (addFV x.rd (sp.fval x x.a f32 i) (sp.fval x x.b f32 i).neg).toFX.to32 x.mode (Mod.rnd x.m) (d 0)) ∧
  Both .fmul .fmulLong (Rounds 0x022 (specF2 5 6) .fp (Mod.rnd ·.m = 5) 1 fun x sp i d =>
    (mulFV (sp.fval x x.a f32 i) (sp.fval x x.b f32 i)).toFX.to32 x.mode (Mod.rnd x.m) (d 0)) ∧
  Sole .ffma (Rounds 0x023 specFfma .fp (Mod.rnd ·.m = 5) 1 fun x sp i d =>
    (fmaFV x.rd (sp.fval x x.a f32 i) (sp.fval x x.b f32 i) (sp.fval x x.c f32 i)).toFX.to32 x.mode (Mod.rnd x.m) (d 0)) ∧
  Both .fmin .fminLong (Rounds 0x024 (specF2 0 6) .fp (Mod.rnd ·.m = 5) 1 fun x sp i d =>
    (minMaxFV false (sp.fval x x.a f32 i) (sp.fval x x.b f32 i)).toFX.to32 x.mode (Mod.rnd x.m) (d 0)) ∧
  Both .fmax .fmaxLong (Rounds 0x025 (specF2 0 6) .fp (Mod.rnd ·.m = 5) 1 fun x sp i d =>
    (minMaxFV true (sp.fval x x.a f32 i) (sp.fval x x.b f32 i)).toFX.to32 x.mode (Mod.rnd x.m) (d 0)) ∧
  Both .frnd .frndLong (Rounds 0x02E (specF1 5 6) .fp (Mod.rnd ·.m = 5) 1 fun x sp i d =>
    (frndFV (Mod.rnd x.m) (d 0) (sp.fval x x.a f32 i)).toFX.to32 x.mode 1 0) ∧
  Both .fscale .fscaleLong (Rounds 0x02F specFscale .fp (Mod.rnd ·.m = 5) 1 fun x sp i d =>
    (scaleFV (sp.fval x x.a f32 i) (sx 32 (x.vB sp i))).toFX.to32 x.mode (Mod.rnd x.m) (d 0))) ∧
  (
  Both .frcp .frcpLong (Rounds 0x027 (specF1 0 12) .fpfn (Mod.rnd ·.m = 5) 1 fun x sp i d =>
    (divFV (.fin false 1 0) (sp.fval x x.a f32 i)).to32 x.mode (Mod.rnd x.m) (d 0)) ∧
  Both .frsq .frsqLong (Rounds 0x028 (specF1 0 12) .fpfn (Mod.rnd ·.m = 5) 1 fun x sp i d =>
    (rsqrtFV (sp.fval x x.a f32 i)).to32 x.mode (Mod.rnd x.m) (d 0)) ∧
  Both .fsqrt .fsqrtLong (Rounds 0x029 (specF1 5 12) .fpfn (Mod.rnd ·.m = 5) 1 fun x sp i d =>
    (sqrtFV (sp.fval x x.a f32 i)).to32 x.mode (Mod.rnd x.m) (d 0)) ∧
  Both .fexp2 .fexp2Long (Rounds 0x02A (specF1 0 12) .fpfn (Mod.rnd ·.m = 5) 1 fun x sp i d =>
    (exp2FV (sp.fval x x.a f32 i)).to32 x.mode (Mod.rnd x.m) (d 0)) ∧
  Both .flog2 .flog2Long (Rounds 0x02B (specF1 0 12) .fpfn (Mod.rnd ·.m = 5) 1 fun x sp i d =>
    (log2FV (sp.fval x x.a f32 i)).to32 x.mode (Mod.rnd x.m) (d 0)) ∧
  Both .ftanh .ftanhLong (Rounds 0x02C (specF1 0 12) .fpfn (Mod.rnd ·.m = 5) 1 fun x sp i d =>
    (tanhFV (sp.fval x x.a f32 i)).to32 x.mode (Mod.rnd x.m) (d 0)) ∧
  Both .fsigm .fsigmLong (Rounds 0x02D (specF1 0 12) .fpfn (Mod.rnd ·.m = 5) 1 fun x sp i d =>
    (sigmFV (sp.fval x x.a f32 i)).to32 x.mode (Mod.rnd x.m) (d 0)) ∧
  Both .fdiv .fdivLong (Rounds 0x031 (specF2 5 12) .fpfn (Mod.rnd ·.m = 5) 1 fun x sp i d =>
    (divFV (sp.fval x x.a f32 i) (sp.fval x x.b f32 i)).to32 x.mode (Mod.rnd x.m) (d 0)))

/-- PADD, PMUL, PFMA, PMAX, PMIN and PDOT2 complete: both 16-bit elements of each operand, each rounded once, or their products and c summed exactly and
rounded once into FP32 (R117). CVT, MXQ, MXD, PACK and UNPK complete with the values of R118 to R121. A conversion between integers draws nothing
(notes/assumptions/28.md). -/
def Obligations.PackedAndConversionsComplete : Prop :=
  (
  let each := fun (f : Bool → FV → FV → FV → FV) (x : Ctx) (sp : Split) (i : Nat) (d : Nat → Nat) =>
    let e := fun k => x.pkTy.write x.mode (Mod.rnd x.m) (d k)
      (f x.rd (sp.elem x x.a x.pkTy k i) (sp.elem x x.b x.pkTy k i) (sp.elem x x.c x.pkTy k i))
    e 0 + e 1 * 2 ^ 16
  Both .padd .paddLong (Rounds 0x040 (specPk 5) .pk16 (Mod.rnd ·.m = 5) 2 (each fun rd a b _ => addFV rd a b)) ∧
  Both .pmul .pmulLong (Rounds 0x041 (specPk 5) .pk16 (Mod.rnd ·.m = 5) 2 (each fun _ a b _ => mulFV a b)) ∧
  Sole .pfma (Rounds 0x042 specPk3 .pk16 (Mod.rnd ·.m = 5) 2 (each fun rd a b c => fmaFV rd a b c)) ∧
  Both .pmax .pmaxLong (Rounds 0x043 (specPk 0) .pk16 (Mod.rnd ·.m = 5) 2 (each fun _ a b _ => minMaxFV true a b)) ∧
  Both .pmin .pminLong (Rounds 0x044 (specPk 0) .pk16 (Mod.rnd ·.m = 5) 2 (each fun _ a b _ => minMaxFV false a b)) ∧
  Sole .pdot2 (Rounds 0x045 specPk3 .pk16 (Mod.rnd ·.m = 5) 1 fun x sp i d =>
    f32.write x.mode (Mod.rnd x.m) (d 0) (sumFV x.rd [sp.fval x x.c f32 i,
      mulFV (sp.elem x x.a x.pkTy 0 i) (sp.elem x x.b x.pkTy 0 i), mulFV (sp.elem x x.a x.pkTy 1 i) (sp.elem x x.b x.pkTy 1 i)]))) ∧
  (
  Sole .cvt (Rounds 0x050 specCvt .cvt (fun x => Mod.xrnd x.m = 5 && !(Mod.dtype x.m ≤ 8 && Mod.stype x.m ≤ 8)) 1 fun x sp i d =>
    match ftyOf (Mod.dtype x.m), ftyOf (Mod.stype x.m) with
    | some t, some u => t.write x.mode (Mod.xrnd x.m) (d 0) (sp.fval x x.a u i)
    | some t, none => t.write x.mode (Mod.xrnd x.m) (d 0) (FV.ofInt ((intTy (Mod.stype x.m)).val (x.vA sp i)))
    | none, some u => (intTy (Mod.dtype x.m)).out
        ((sp.fval x x.a u i).toInt (intTy (Mod.dtype x.m)).n (intTy (Mod.dtype x.m)).signed (Mod.xrnd x.m) (d 0))
    | none, none => (intTy (Mod.dtype x.m)).result (Mod.xsub x.m = 1) ((intTy (Mod.stype x.m)).val (x.vA sp i))) ∧
  Sole .mxq (Leaves 0x051 specMxq (·.charge .mx) fun c x =>
    let drawing := x.lanes.filter fun i => mxRounds (x.mxVals c.split (i / 32))
    let groups := (List.range (x.w / 32)).filter fun g => (List.range 32).any fun t => x.act.getLsbD (32 * g + t)
    (if Mod.xrnd x.m = 5 then c.split.drawn x drawing 1 else c.split).result x.d false (groups.flatMap (x.mxGroup c.split)) x.lat) ∧
  Sole .mxd (Rounds 0x052 specMxd .cvt (Mod.xrnd ·.m = 5) 1 fun x sp i d =>
    let t := ftyOr32 (Mod.stype x.m)
    (ftyOr32 (Mod.dtype x.m)).write x.mode (Mod.xrnd x.m) (d 0) (mxValue (t.decode (t.daz x.mode) (x.vA sp i))
      (if Mod.xsub x.m = 1 then x.vB sp i % 256 else x.vA sp i / 256 % 256))) ∧
  Sole .pack (Computes 0x053 specPack .cvt fun x sp i => packRes (Mod.dtype x.m) (x.vA sp i) (x.vB sp i) (x.vC sp i)) ∧
  Sole .unpk (Computes 0x054 specUnpk .cvt fun x sp i =>
    x.vA sp i / 2 ^ (slotBits (Mod.dtype x.m) * (x.vB sp i % slotCount (slotBits (Mod.dtype x.m)))) % 2 ^ slotBits (Mod.dtype x.m)))

/-! ## Cross-lane and mask instructions, moves and special registers -/

/-- SHFL, BCAST, VOTE, WRED, WSCAN and MATCH complete: they act on the active lanes L alone; a scalar D is written once, and not where L is empty
(R122–R124, R104). -/
def Obligations.CrossLaneCompletes : Prop :=
  let one := fun (v : Ctx → Split → Nat → Nat) (c : Cur) (x : Ctx) =>
    c.split.result x.d x.dWide (match x.d with
      | .scal _ => (x.lanes.take 1).map fun i => (0, v x c.split i)
      | _ => x.lanes.map fun i => (i, v x c.split i)) x.lat
  Both .shfl .shflLong (Leaves 0x060 specShfl (·.charge .xlane) (one fun x sp i =>
    let b := x.vB sp i
    let j := match Mod.sub x.m with | 0 => b | 1 => wrap 32 ((i : Int) - b) | 2 => (i + b) % 2 ^ 32 | _ => i ^^^ b
    x.vA sp (if j ∈ x.lanes then j else i))) ∧
  Both .bcast .bcastLong (Leaves 0x061 specBcast (·.charge .xlane) (one fun x sp _ =>
    if x.vB sp 0 ∈ x.lanes then x.vA sp (x.vB sp 0) else 0)) ∧
  Both .vote .voteLong (Leaves 0x062 specVote (·.charge .xlane) (one fun x sp i =>
    match Mod.sub x.m with
    | 0 => b2n (x.lanes.all fun j => x.voteVal sp j ≠ 0)
    | 1 => b2n (x.lanes.any fun j => x.voteVal sp j ≠ 0)
    | 3 => b2n (x.voteVal sp i ≠ 0)
    | _ => b2n (x.lanes.all fun j => x.voteVal sp j = x.voteVal sp (x.lanes.headD 0)))) ∧
  Both .wred .wredLong (Leaves 0x063 specWred (·.charge .xlane) (one fun x sp _ => x.folded (treeSum x.fold 7 (x.lanes.map (x.leaf sp))))) ∧
  Both .wscan .wscanLong (Leaves 0x064 specWscan (·.charge .xlane) fun c x =>
    c.split.result x.d x.dWide (x.lanes.zip ((scanSum x.fold none (x.lanes.map (x.leaf c.split))).map x.folded)) x.lat) ∧
  Both .matchLanes .matchLanesLong (Leaves 0x065 specMatch (·.charge .xlane) (one fun x sp i =>
    let same := x.lanes.filter fun j => x.vA sp j = x.vA sp i
    if Mod.sub x.m = 1 then same.length else same.headD 0))

/-- The folds of R104 where the operation is associative: TreeSum of up to 128 values is their fold from the left, and ScanSum's n-th value is the fold of
the first n. -/
def Obligations.FoldsAgree : Prop :=
  ∀ f : Nat → Nat → Nat, (∀ a b c, f (f a b) c = f a (f b c)) → ∀ (a : Nat) (l : List Nat), l.length < 128 →
    treeSum f 7 (a :: l) = l.foldl f a ∧
    ∀ n, n ≤ l.length → (scanSum f none (a :: l))[n]? = some ((l.take n).foldl f a)

/-- KAND, KOR, KXOR, KNOT, KPOP, KFFS and KMOV complete: all W bits, once per wave or split (R125). -/
def Obligations.MaskInstructionsComplete : Prop :=
  let src := fun (sp : Split) (o : Opnd) (neg : Bool) => if neg then ~~~sp.readMask o.maskNum else sp.readMask o.maskNum
  let bits := fun (m : Mask) (c : Cur) (x : Ctx) =>
    c.split.result x.d false ((List.range x.w).map fun i => (i, b2n (m.getLsbD i))) x.lat
  Sole .kand (Leaves 0x070 specMask2 (·.charge .mask) fun c x => bits (src c.split x.a (bit x.m 1) &&& src c.split x.b (bit x.m 0)) c x) ∧
  Sole .kor (Leaves 0x071 specMask2 (·.charge .mask) fun c x => bits (src c.split x.a (bit x.m 1) ||| src c.split x.b (bit x.m 0)) c x) ∧
  Sole .kxor (Leaves 0x072 specMask2 (·.charge .mask) fun c x => bits (src c.split x.a (bit x.m 1) ^^^ src c.split x.b (bit x.m 0)) c x) ∧
  Sole .knot (Leaves 0x073 specKnot (·.charge .mask) fun c x => bits (~~~c.split.readMask x.a.maskNum) c x) ∧
  Sole .kpop (Computes 0x074 specKpop .mask fun x sp _ => (lanesBelow x.w (sp.readMask x.a.maskNum)).length) ∧
  Sole .kffs (Computes 0x075 specKpop .mask fun x sp _ => ((lanesBelow x.w (sp.readMask x.a.maskNum)).head?).getD 0xFFFFFFFF) ∧
  Sole .kmov fun i f => ∀ s c x, Issues s c 0x076 f (specKmov c.wave.width) x →
    exec i s = .next (s.after c f (specKmov c.wave.width) x
      (if x.m = 0 then bits (c.split.readMask x.a.maskNum) c x
        else if x.m = 1 then bits (match x.a with
          | .scal n => BitVec.ofNat 128 (c.split.scalars n (x.w / 32))
          | .small v => BitVec.ofNat 128 v
          | .lit => x.lit.setWidth 128
          | _ => 0) c x
        else x.kmovTo c.split) (x.charge .mask))

/-- A write of `exec` sets no bit of a lane that the split does not own, whatever the values written and whenever they land; the other mask registers take
any bits (R126). -/
def Obligations.ExecHoldsOwnedLanes : Prop :=
  (∀ (sp : Split) (vals : List (Nat × Dword)) (lat n : Nat),
    ((sp.put (.mask 16) vals lat).advance n).readMask 16 &&& ~~~sp.owned = 0) ∧
  (∀ (sp : Split) (vals : List (Nat × Dword)) (k i : Nat) (v : Dword), k < 16 → i < 128 → vals = [(i, v)] →
    ((sp.put (.mask k) vals 0).readMask k).getLsbD i = decide (v ≠ 0))

/-- MOV and MOVL complete (R127). -/
def Obligations.MovesComplete : Prop :=
  Both .mov .movLong (Computes 0x080 specMov .int fun x sp i => x.vA sp i) ∧
  Both .movl .movlLong (Leaves 0x081 specMovl (·.charge .int) fun c x =>
    c.split.result x.d x.dWide (if x.vB c.split 0 ∈ x.lanes then [(x.vB c.split 0, x.vA c.split 0)] else []) x.lat)

/-- RDSR completes with the value of the register named: in a grid's wave, those of R71; TRAP_EXEC goes to a mask; CLK is a free value, the model's choice
(notes/assumptions/11.md); that HANGCNT counts the RDSR that reads it is the model's reading (notes/assumptions/85.md). WRSR completes: MODE takes the eleven bits of R72, STATUS clears the bits written as 1, RSEED seeds the generators of the
lanes the split owns, and TRAP_PC takes its value, each readable at its latency; XSET and XADD give the old index register and replace it, modulo 2^16
(R72, R74, R99, R128, R129). -/
def Obligations.SpecialRegistersComplete : Prop :=
  (
  Sole .rdsr fun i f => ∀ s c x, let spec := specRdsr (Raw.of false f).a.sregNum
    Issues s c 0x082 f spec x →
    (∀ g n v, s.gridOf c.blk = some g → c.blk.method = none → x.a = .sreg n →
      (n, v) ∈ [(0x100, c.wave.wid), (0x101, c.blk.nwaves), (0x102, c.wave.width), (0x103, c.blk.bidx), (0x104, c.blk.bidy),
        (0x105, c.blk.bidz), (0x106, g.rcd.gdimx), (0x107, g.rcd.gdimy), (0x108, g.rcd.gdimz),
        (0x109, c.blk.index % max g.kernel.gang 1), (0x10A, g.kernel.gang), (0x10B, g.depth), (0x10C, c.blk.param.toNat),
        (0x10E, (c.split.read .mode 0).toNat), (0x10F, (c.split.read .status 0).toNat), (0x110, (c.split.read .rseed 128).toNat),
        (0x112, c.wave.share), (0x113, c.counted.wave.hangcnt), (0x114, (c.split.read .trapPc 0).toNat),
        (0x117, c.split.uni.trapCode.toNat), (0x118, c.split.uni.trapInfo.toNat)] →
      exec i s = .next (s.after c f spec x (c.split.result x.d x.dWide [(0, v)] x.lat) [(.sreg, 1)])) ∧
    (x.a = .sreg 0x116 → exec i s = .next (s.after c f spec x
      (c.split.result x.d false ((List.range x.w).map fun j => (j, b2n (c.split.uni.trapExec.getLsbD j))) x.lat) (x.charge .sreg))) ∧
    (x.a = .sreg 0x111 → exec i s = .next ((({ s.ready c x with fresh := (s.ready c x).fresh + 1 } : State).inSplit c
      (c.split.result x.d x.dWide [(0, (Config.freeValue (s.ready c x).fresh).toNat)] x.lat)).ended c f spec [(.sreg, 1)] (c.next f)))) ∧
  (
  (Sole .wrsr fun i f => ∀ s c x, let spec := specWrsr (Raw.of false f).d.sregNum
    Issues s c 0x083 f spec x → ∀ v, v = x.vA c.split 0 →
    (x.d = .sreg 0x10E → exec i s = .next (s.after c f spec x (c.split.put .mode
      [(0, BitVec.ofNat 64 ((c.split.read .mode 0).toNat / 2 ^ 11 * 2 ^ 11 + v % 2 ^ 11))] x.lat) [(.sreg, 1)])) ∧
    (x.d = .sreg 0x10F → exec i s = .next (s.after c f spec x (c.split.put .status [(0, BitVec.ofNat 64 (v % 8))] x.lat) [(.sreg, 1)])) ∧
    (∀ gx gy, gx = ((s.gridOf c.blk).map (·.rcd.gdimx)).getD 1 → gy = ((s.gridOf c.blk).map (·.rcd.gdimy)).getD 1 →
      x.d = .sreg 0x110 → exec i s = .next (s.after c f spec x (c.split.put .rseed ((lanesOf c.split.owned).map (fun j =>
        (j, (seedState c.blk.bidx c.blk.bidy c.blk.bidz gx gy c.wave.wid (BitVec.ofNat 32 v) j).setWidth 64)) ++
        [(128, (BitVec.ofNat 32 v).setWidth 64)]) x.lat) [(.sreg, 1)])) ∧
    (x.d = .sreg 0x114 → exec i s = .next (s.after c f spec x (c.split.put .trapPc [(0, BitVec.ofNat 64 v)] x.lat) [(.sreg, 1)]))) ∧
  let xi := fun (op : Nat) (g : Nat → Nat → Nat) (i : Instr) (f : Form) => ∀ s c x, Issues s c op f specXset x →
    exec i s = .next (s.after c f specXset x
      ((c.split.put .xi [(0, BitVec.ofNat 64 (g (c.split.read .xi 0).toNat (x.vA c.split 0) % 2 ^ 16))] x.lat).result x.d false
        [(0, (c.split.read .xi 0).toNat)] x.lat) [(.sreg, 1)])
  Both .xset .xsetLong (xi 0x084 fun _ a => a) ∧ Both .xadd .xaddLong (xi 0x085 fun old a => old + a))

/-- A lane's stochastic-rounding generator is seeded with a nonzero state, and a draw keeps it nonzero: the generator never sticks at zero (R99, R100). -/
def Obligations.GeneratorsNeverZero : Prop :=
  (∀ bidx bidy bidz gx gy wid v i, seedState bidx bidy bidz gx gy wid v i ≠ 0) ∧
  (∀ x : Word, x ≠ 0 → nextDraw x ≠ 0) ∧ (∀ (n : Nat) (x : Word), x ≠ 0 → drawAfter n x ≠ 0)

/-! ## Control -/

/-- NOP, YIELD and SLEEP complete: NOP changes nothing but the PC and the counts, and is charged no event but issue, the model's reading
(notes/assumptions/12.md); YIELD, and SLEEP of zero, give the turn to the other ready splits of the
quarter; SLEEP of n holds its split for n aclk (R136). -/
def Obligations.IdleInstructionsComplete : Prop :=
  Both .nop .nopLong (Leaves 0x000 specNop (fun _ => []) fun c _ => c.split) ∧
  Both .yield .yieldLong (Completes 0x097 specPlain (fun _ _ _ => True) (fun s c _ => { s with cur := some (s.yielded c) })
    fun _ _ _ => [(.ctl, 1)]) ∧
  Both .sleep .sleepLong (fun i f =>
    Completes 0x09B specSleep (fun _ c x => x.vA c.split 0 % 2 ^ 24 = 0) (fun s c _ => { s with cur := some (s.yielded c) })
      (fun _ _ _ => [(.ctl, 1)]) i f ∧
    ∀ s c x n, Issues s c 0x09B f specSleep x → n = x.vA c.split 0 % 2 ^ 24 → n ≠ 0 →
      exec i s = .next (({ s.ready c x with cur := some (let c' := (c.counted.issued s.tick).at (c.next f);
        { c' with split := { c'.split with run := .sleeping n } }) } : State).dealt s.tick c f specSleep [(.ctl, 1)]))

/-- BRA, BRC, CALL and RET complete: control goes to a valid target, a literal counted from the bundle and a pair taken as the PC; CALL writes the PC of
the following bundle to its pair; a BRC whose condition fails goes on at the next instruction (R130, R134, R135). -/
def Obligations.TransfersComplete : Prop :=
  let ok := fun (o : Ctx → Opnd) (s : State) (c : Cur) (x : Ctx) => (s.kernelOf c.blk).targetOk (targetOf c.split x (o x)) = true
  let here := fun (s : State) (c : Cur) (_ : Ctx) => { s with cur := some c }
  Both .bra .braLong (Transfers 0x090 specBra (ok (·.a)) here fun c x => targetOf c.split x x.a) ∧
  Both .ret .retLong (Transfers 0x093 specRet (ok (·.a)) here fun c x => targetOf c.split x x.a) ∧
  Both .call .callLong (Transfers 0x092 specCall (ok (·.a)) (fun s c x =>
    { s with cur := some { c with split := c.split.result x.d true [(0, (bundleOf c.split.pc + 32).toNat)] x.lat } }) fun c x => targetOf c.split x x.a) ∧
  Sole .brc (fun i f =>
    Transfers 0x091 specBrc (fun s c x => brcTaken c.split x = true ∧ ok (·.c) s c x) here (fun c x => targetOf c.split x x.c) i f ∧
    Completes 0x091 specBrc (fun _ c x => brcTaken c.split x = false) (fun s _ _ => s) (fun _ _ _ => [(.ctl, 1)]) i f) ∧
  (∀ sp x n, targetOf sp x .lit = bundleOf sp.pc + x.lit ∧
    targetOf sp x (.scal n) = sp.read (.scal n) 0 ||| (sp.read (.scal (n + 1)) 0 <<< 32))

/-- A target is valid only when its bits 4:0 are zero and it lies within the kernel's code; BRA, CALL, RET, a taken BRC and a SPLIT whose taken side has
lanes raise BRANCH_ALIGN at themselves on any other, with the target in TRAP_INFO and no other effect (R131). -/
def Obligations.InvalidTargetsFault : Prop :=
  (∀ (k : Kernel) (t : Dword), k.addr.toNat + 64 + k.codeSize ≤ 2 ^ 64 → (k.targetOk t = true ↔
    t &&& 31#64 = 0 ∧ k.addr.toNat + 64 ≤ t.toNat ∧ t.toNat < k.addr.toNat + 64 + k.codeSize)) ∧
  let bad := fun (o : Ctx → Opnd) (s : State) (c : Cur) (x : Ctx) => (s.kernelOf c.blk).targetOk (targetOf c.split x (o x)) = false
  let info := fun (o : Ctx → Opnd) (_ : State) (c : Cur) (x : Ctx) => (targetOf c.split x (o x)).toNat
  Both .bra .braLong (Faults 0x090 specBra (bad (·.a)) 0x05 (info (·.a))) ∧
  Both .ret .retLong (Faults 0x093 specRet (bad (·.a)) 0x05 (info (·.a))) ∧
  Both .call .callLong (Faults 0x092 specCall (bad (·.a)) 0x05 (info (·.a))) ∧
  Sole .brc (Faults 0x091 specBrc (fun s c x => brcTaken c.split x = true ∧ bad (·.c) s c x) 0x05 (info (·.c))) ∧
  Sole .split (Faults 0x094 specSplit (fun s c x => x.act &&& c.split.readMask x.a.maskNum ≠ 0 ∧ bad (·.b) s c x) 0x05 (info (·.b)))

/-- SPLIT completes: with lanes on one side alone it opens a single record and control goes to that side; with lanes on both, the taken side T gets the
lanes of `exec` whose bit is set and the other side F the rest, as two live splits where a table entry and a buffer slot are free, and otherwise one
after the other (R139). -/
def Obligations.SplitCompletes : Prop :=
  let t := fun (c : Cur) (x : Ctx) => x.act &&& c.split.readMask x.a.maskNum
  let f := fun (c : Cur) (x : Ctx) => x.act &&& ~~~c.split.readMask x.a.maskNum
  let may := fun (s : State) (c : Cur) (x : Ctx) =>
    (t c x ≠ 0 → (s.kernelOf c.blk).targetOk (targetOf c.split x x.b) = true) ∧ c.split.forks.length ≠ 16
  let single := fun (s : State) (c : Cur) (x : Ctx) => { s with cur := some { c with
    wave := { c.wave with nextFork := c.wave.nextFork + 1 },
    split := { c.split with forks := { fid := c.wave.nextFork, kind := .single, origin := c.split.owned, takenLanes := t c x, outer := [] } ::
      c.split.forks } } }
  Sole .split fun i fm =>
    Transfers 0x094 specSplit (fun s c x => may s c x ∧ t c x ≠ 0 ∧ f c x = 0) single (fun c x => targetOf c.split x x.b) i fm ∧
    Completes 0x094 specSplit (fun s c x => may s c x ∧ t c x = 0) single (fun _ _ _ => [(.ctl, 1)]) i fm ∧
    ∀ s c x, Issues s c 0x094 fm specSplit x → may (s.ready c x) c.counted x → t c x ≠ 0 → f c x ≠ 0 →
      (s.prepare x).edgeStop c (passesOf c fm specSplit) 0x094 (targetOf c.split x x.b) = none →
      ∃ r : State, exec i s = .next (r.dealt s.tick c fm specSplit [(.ctl, 1), (.fork, 1)]) ∧
        ∃ c' : Cur, r.cur = some c' ∧
          if (s.ready c x).roomForSplit c.counted then
            c'.split.exec = f c x ∧ c'.split.owned = c.split.owned &&& ~~~t c x ∧ c'.split.pc = c.next fm ∧
            ∃ y ∈ c'.wave.splits, y.sid = c.wave.nextSid ∧ y.exec = t c x ∧ y.owned = t c x ∧ y.pc = targetOf c.split x x.b
          else
            c'.split.exec = t c x ∧ c'.split.owned = t c x ∧ c'.split.pc = targetOf c.split x x.b ∧
            ∃ (r : Fork) (rest : List Fork) (o : Side), c'.split.forks = r :: rest ∧ r.kind = .serial o ∧ o.exec = f c x ∧
              o.owned = c.split.owned &&& ~~~t c x ∧ o.pc = c.next fm

/-- JOIN completes in each of its cases: with no record it goes on; a single record closes; the first side of a serial record lets the other run; the
second merges with it; a split of a real record parks until its sibling has come, and the later of the two merges with it, or goes on alone where the
sibling's side has ended (R140). -/
def Obligations.JoinCompletes : Prop :=
  Both .join .joinLong fun i f => ∀ s c x, Issues s c 0x095 f specPlain x →
    let r := s.ready c x
    let c' := (c.counted.issued s.tick).at (c.next f)
    let k := r.kernelOf c.counted.blk
    (c.split.forks = [] → exec i s = .next (r.ended c f specPlain [(.ctl, 1)] (c.next f))) ∧
    ∀ h rest, c.split.forks = h :: rest →
      (h.kind = .single → exec i s = .next ((r.inSplit c { c.split with forks := rest }).ended c f specPlain [(.ctl, 1)] (c.next f))) ∧
      (∀ other, h.kind = .serial other → exec i s = .next
        (let next := other.on c'.split ({ h with kind := .serialSecond (some (c'.split.aside c'.split.pc)) } :: rest);
          ({ r with cur := some { c' with split := next } } : State).dealt s.tick c f specPlain [(.ctl, 1)])) ∧
      (∀ first, h.kind = .serialSecond first → exec i s = .next
        (let m := r.merge k h (first.map fun a => a.on c'.split c'.split.forks) (some c'.split);
          ({ m.1 with cur := some { c' with split := m.2.getD c'.split } } : State).dealt s.tick c f specPlain [(.ctl, 1), (.fork, 1)])) ∧
      (∀ taken, h.kind = .real taken →
        (∀ o, parkedAt c'.wave.splits h.fid (!taken) = some o → exec i s = .next
          (let m := if taken then r.merge k h (some c'.split) (some o) else r.merge k h (some o) (some c'.split);
            ({ m.1 with cur := some { c' with
              wave := { c'.wave with splits := c'.wave.splits.filter (·.sid ≠ o.sid) }, split := m.2.getD c'.split } } : State).dealt
              s.tick c f specPlain [(.ctl, 1), (.fork, 1)])) ∧
        (parkedAt c'.wave.splits h.fid (!taken) = none →
          (c'.wave.splits.any (fun o => o.onSide h.fid (!taken)) = true → exec i s = .next
            (({ r with cur := some { c' with split := { c'.split with run := .parked } } } : State).dealt s.tick c f specPlain [(.ctl, 1)])) ∧
          (c'.wave.splits.any (fun o => o.onSide h.fid (!taken)) = false → exec i s = .next
            (({ r with cur := some { c' with split := mergeOne h c'.split } } : State).dealt s.tick c f specPlain [(.ctl, 1), (.fork, 1)]))))

/-- The merge of two surviving sides: the split owns the lanes of both and runs in those that either held in `exec`; bit i of every mask, and lane i of
every symbolic register, of o0–o7, l0 and l1 and of the generators, come from the side that owned lane i; a scalar, `xi`, MODE, RSEED, a descriptor,
TRAP_PC, the trap record or the in-handler flag written by the other side alone takes that side's value, and otherwise that of the side that held the
lowest lane; the sticky bits of STATUS of both stand, and JOINCONFLICT is set besides exactly where a register outside the masks, STATUS and the trap
record was written by both (R63, R66, R100, R141). -/
def Obligations.MergeTakesEachSide : Prop :=
  ∀ (r : Fork) (dsts : Nat → List RegId) (w o : Split) (lw lo : Mask), w.owned &&& o.owned = 0 → lw &&& lo = 0 →
    spWf 0 w.vreg = true → spWf 0 o.vreg = true → spWf 0 w.ofile = true → spWf 0 o.ofile = true → spWf 0 w.gen = true → spWf 0 o.gen = true →
    spWf 0 w.uni.scal = true → spWf {} w.uni.td = true →
    let m := mergeTwo r dsts w o lw lo
    let other := fun (x : RegId) => x ∈ o.written ∧ x ∉ w.written
    m.owned = w.owned ||| o.owned ∧ m.exec = (w.exec &&& w.owned) ||| (o.exec &&& o.owned) ∧
    (∀ n, n < 16 → spGet 0 m.uni.k n &&& lw = spGet 0 w.uni.k n &&& lw ∧ spGet 0 m.uni.k n &&& lo = spGet 0 o.uni.k n &&& lo) ∧
    (∀ n i, i < 128 → (w.owned.getLsbD i = true → spGet 0 m.vreg (128 * n + i) = spGet 0 w.vreg (128 * n + i)) ∧
      (o.owned.getLsbD i = true → spGet 0 m.vreg (128 * n + i) = spGet 0 o.vreg (128 * n + i)) ∧
      (w.owned.getLsbD i = true → spGet 0 m.ofile (128 * n + i) = spGet 0 w.ofile (128 * n + i)) ∧
      (o.owned.getLsbD i = true → spGet 0 m.ofile (128 * n + i) = spGet 0 o.ofile (128 * n + i))) ∧
    (∀ i, i < 128 → (w.owned.getLsbD i = true → spGet 0 m.gen i = spGet 0 w.gen i) ∧
      (o.owned.getLsbD i = true → spGet 0 m.gen i = spGet 0 o.gen i)) ∧
    (∀ n, (other (.scal n) → spGet 0 m.uni.scal n = spGet 0 o.uni.scal n) ∧
      (¬ other (.scal n) → spGet 0 m.uni.scal n = spGet 0 w.uni.scal n)) ∧
    (other .xi → m.uni.xi = o.uni.xi) ∧ (¬ other .xi → m.uni.xi = w.uni.xi) ∧
    (other .mode → m.uni.mode = o.uni.mode) ∧ (¬ other .mode → m.uni.mode = w.uni.mode) ∧
    (other .rseed → m.uni.rseed = o.uni.rseed) ∧ (¬ other .rseed → m.uni.rseed = w.uni.rseed) ∧
    (∀ n, (other (.td n) → spGet {} m.uni.td n = spGet {} o.uni.td n) ∧ (¬ other (.td n) → spGet {} m.uni.td n = spGet {} w.uni.td n)) ∧
    (other .trapPc → m.uni.trapPc = o.uni.trapPc) ∧ (¬ other .trapPc → m.uni.trapPc = w.uni.trapPc) ∧
    (other .trapRec → (m.uni.trapExec, m.uni.trapCode, m.uni.trapInfo) = (o.uni.trapExec, o.uni.trapCode, o.uni.trapInfo)) ∧
    (¬ other .trapRec → (m.uni.trapExec, m.uni.trapCode, m.uni.trapInfo) = (w.uni.trapExec, w.uni.trapCode, w.uni.trapInfo)) ∧
    (other .inHandler → m.uni.inHandler = o.uni.inHandler) ∧ (¬ other .inHandler → m.uni.inHandler = w.uni.inHandler) ∧
    m.uni.status &&& ~~~1#32 = (w.uni.status ||| o.uni.status) &&& ~~~1#32 ∧
    (w.uni.status &&& 1#32 = 0 → o.uni.status &&& 1#32 = 0 →
      (m.uni.status &&& 1#32 ≠ 0 ↔ ∃ x, x ∈ w.written ∧ x ∈ o.written ∧ x.quiet = false))

/-- EXIT completes: the lanes selected are withdrawn from the wave, the split and `exec`, HANGCNT becomes zero, and a split left without lanes ends, at
which its sibling's JOIN may merge and charge `fork` (R142, R79, R132). That LEN 10 with MSEL 0 withdraws every lane is the model's choice
(notes/assumptions/100.md); that every EXIT makes HANGCNT zero and that the EXIT which ends a side is charged that `fork` are its readings
(notes/assumptions/33.md, notes/assumptions/30.md). -/
def Obligations.ExitCompletes : Prop :=
  let gone := fun (c : Cur) (x : Ctx) => if Mod.msel x.m = 0 then c.split.owned else x.act
  let wave := fun (c : Cur) (x : Ctx) =>
    { c.wave with withdrawn := c.wave.withdrawn ||| gone c x, hangcnt := 0 }
  let split := fun (c : Cur) (x : Ctx) =>
    { c.split with owned := c.split.owned &&& ~~~gone c x, exec := c.split.exec &&& ~~~gone c x }
  Both .exit .exitLong fun i f =>
    Completes 0x096 specExit (fun _ c x => c.split.owned &&& ~~~gone c x ≠ 0)
      (fun s c x => { s with cur := some { c with wave := wave c x, split := split c x } }) (fun _ _ _ => [(.ctl, 1)]) i f ∧
    ∀ s c x, Issues s c 0x096 f specExit x → c.split.owned &&& ~~~gone c x = 0 →
      exec i s = .next (((s.ready c x).endSplit
        ((({ c.counted with wave := wave c.counted x, split := split c x } : Cur).issued s.tick).at (c.next f))
        c.split.forks).dealt s.tick c f specExit
          ((.ctl, 1) :: if endMerges c.wave.splits c.split.forks then [(.fork, 1)] else []))

/-- TRAP raises SWTRAP, and BKPT raises BKPT, with the 64-bit a in TRAP_INFO and the next instruction in TRAP_PC; where the debug port has breakpoints
armed for the function, BKPT stops the wave for it, and no handler runs (R151). TRET completes in a handler whose TRAP_PC names an instruction of the
kernel: the in-handler flag clears, results set aside at its entry come back, and issue goes on at TRAP_PC; outside a handler it raises ACCESS (R150).
That ACCESS comes first is the model's order (notes/assumptions/14.md), and how results are set aside its reading (notes/assumptions/91.md). -/
def Obligations.TrapsAndReturn : Prop :=
  (
  let raises := fun (op code : Nat) (i : Instr) (f : Form) => ∀ s c x, Issues s c op f specTrap x →
    (op = 0x09A → c.blk.fn ∉ s.hw.armedFns) → ∀ u, u = (s.ready c x).ended c f specTrap [(.ctl, 1)] (c.next f) →
    ∃ c', u.cur = some c' ∧ exec i s = .next (u.deliver c' code (c.next f) (BitVec.ofNat 64 (x.vA c.split 0)))
  Both .trap .trapLong (raises 0x098 0x51) ∧ Both .bkpt .bkptLong (raises 0x09A 0x50) ∧
  Both .bkpt .bkptLong (Completes 0x09A specTrap (fun s c _ => c.blk.fn ∈ s.hw.armedFns)
    (fun s c _ => { s with cur := some { c with wave := { c.wave with debug := 1 } } }) fun _ _ _ => [(.ctl, 1)])) ∧
  (
  let fine := fun (s : State) (c : Cur) (_ : Ctx) =>
    let pc := c.split.read .trapPc 0
    c.split.uni.inHandler = true ∧ pc.toNat % 4 = 0 ∧
    pc.toNat / 4 % 8 ≠ 1 ∧ s.midInstr c.blk pc = false ∧ (s.kernelOf c.blk).inCode pc = true
  Both .tret .tretLong fun i f =>
    Transfers 0x099 specTret fine (fun s c _ => { s with cur := some { c with split := c.split.leave (c.split.read .trapPc 0) } })
      (fun c _ => c.split.read .trapPc 0) i f ∧
    Faults 0x099 specTret (fun _ c _ => c.split.uni.inHandler = false)
      0x11 (fun _ _ _ => 2 ^ 63 + 0x099 * 256 + 4) i f)

/-- An opcode from 0x180 on raises ILLEGAL_OP, and in a method's or a saving wave a reserved one FEATURE_ABSENT; any other wave's block is stopped at a
reserved opcode, its effects standing (R53, R439, R156). One issue event is charged, the model's choice (notes/assumptions/15.md). -/
def Obligations.UnassignedOpcodesComplete : Prop :=
  let info := fun (op : BitVec 9) (f : Form) => formLen f * 512 + op.toNat
  (∀ op f s c, s.cur = some c → exec (.illegalOpcode op f) s = .next (s.faulted c 1 0x01 (info op f))) ∧
  (∀ op f s c, s.cur = some c → c.blk.method.isSome ∨ c.wave.pre.isSome →
    exec (.reservedOpcode op f) s = .next (s.faulted c 1 0x02 (info op f))) ∧
  (∀ op f s c, s.cur = some c → c.blk.method = none → c.wave.pre = none →
    exec (.reservedOpcode op f) s = .next
      (let u := ({ s with cur := some c.counted } : State).bookFor c.blk [(.issue, 1)];
        ({ u with tick := u.tick + 1 } : State).blockStop (c.counted.issued u.tick) c.split.pc (BitVec.ofNat 64 (info op f))))

/-! ## Memory -/

/-- LD, ST, ATOM, ATOMR and CAS complete: a load, a store or an atomic of every active lane (of one lane, where an LD's D, or an ST's D and B, are
uniform) is in flight on its path, with each lane's translated address and data; with no active lane nothing happens. A store updates the first-level
line it hits, an atomic invalidates it, and a deterministic block ahead of its turn stages the store or the ATOM (R187–R190, R400).
When a store with a release updates the line is the model's reading (notes/assumptions/16.md), and what an entry of staging is its choice
(notes/assumptions/114.md). -/
def Obligations.GlobalAccessesComplete : Prop :=
  let none0 := fun (_ : Nat) => (0 : Dword)
  let bytes := fun (x : Ctx) => mtBytes (Mod.mtype x.m)
  let empty := fun (op : Nat) (spec : Nat → Spec) =>
    Completes op spec (fun _ _ x => x.lanes = []) (fun s _ _ => s) fun _ _ _ => []
  let lanes := fun (uniform : Bool) (x : Ctx) => if uniform then x.lanes.take 1 else x.lanes
  let atomic := fun (op : Nat) (spec : Nat → Spec) (aop : Nat → Nat) (returns : Bool) (i : Instr) (f : Form) =>
    empty op spec i f ∧ ∀ s c x t l, Issues s c op f spec x → x.lanes ≠ [] →
      Reached (s.ready c x) c.counted.blk (bytes x) true true needRW (x.addrs c.split x.lanes) t l → t.pathFull c.counted 2 = false →
      let items := itemsOf (bytes x) (fun n => BitVec.ofNat 64 (x.vC c.split n)) (fun n => BitVec.ofNat 64 (x.vD c.split n)) l
      let ahead := t.ahead c.counted.blk
      (ahead = true → returns = false ∧ t.stageFull c.counted.blk (entryLines items) = false) →
      exec i s = .next (((if ahead then t else t.l1Atoms c.counted.blk.core items).addOp (memOp x 2 (.atom (aop x.m) (Mod.mtype x.m)
        (if returns then dstOf x.d x.dWide else none) (BitVec.ofNat 32 x.mode)) items 2 ahead)).ended c f spec
        [(.atom (8 * bytes x), items.length)] (c.next f))
  Both .ld .ldLong (fun i f => empty 0x0A0 specLd i f ∧ ∀ s c x t l, Issues s c 0x0A0 f specLd x → lanes x.d.isScal x ≠ [] →
    Reached (s.ready c x) c.counted.blk (bytes x) true false needR (x.addrs c.split (lanes x.d.isScal x)) t l →
    t.pathFull c.counted 0 = false →
    exec i s = .next ((t.addOp (memOp x 0 (.load (Mod.mtype x.m) (dstOf x.d x.dWide)) (itemsOf (bytes x) none0 none0 l)
      (effPol c.counted.blk x.m true) false)).ended c f specLd [(.load (8 * bytes x), l.length)] (c.next f))) ∧
  Both .st .stLong (fun i f => empty 0x0A1 specSt i f ∧ ∀ s c x t l, Issues s c 0x0A1 f specSt x →
    lanes (x.d.uniform && x.b.uniform) x ≠ [] →
    Reached (s.ready c x) c.counted.blk (bytes x) true true needW (x.addrs c.split (lanes (x.d.uniform && x.b.uniform) x)) t l →
    t.pathFull c.counted 1 = false →
    let items := itemsOf (bytes x) (fun n => BitVec.ofNat 64 (x.vD c.split n % 2 ^ (8 * bytes x))) none0 l
    let staged := t.ahead c.counted.blk
    let pol := if staged then effPol c.counted.blk x.m false else t.storePol c.counted x.m
    (staged = true → t.stageFull c.counted.blk (entryLines items) = false) →
    exec i s = .next (((if staged then t else t.l1Stores c.counted.blk.core pol items).addOp (memOp x 1 .store items pol staged)).ended
      c f specSt [(.store (8 * bytes x), items.length)] (c.next f))) ∧
  Sole .atom (atomic 0x0A2 specAtom Mod.sub false) ∧ Sole .atomr (atomic 0x0A3 specAtomr Mod.sub true) ∧
  Sole .cas (atomic 0x0A4 specCas (fun _ => 7) true)

/-- An LD, ST, ATOM, ATOMR or CAS whose address is not a multiple of its type's size in some lane raises ALIGN for the lowest such lane; one aligned in
every lane whose bytes some lane has outside every space raises that lane's range fault (R183, R184). -/
def Obligations.AddressFaults : Prop :=
  let bytes := fun (x : Ctx) => mtBytes (Mod.mtype x.m)
  let both := fun (op : Nat) (spec : Nat → Spec) (wr : Bool) (lanes : Ctx → List Nat) (i : Instr) (f : Form) =>
    ∀ s c x, Issues s c op f spec x →
      (∀ lane va, (x.addrs c.split (lanes x)).find? (fun p => p.2 % bytes x ≠ 0) = some (lane, va) →
        exec i s = .next ((s.prepare x).faulted c (passesOf c f spec) 0x10 (memInfo lane wr false 0 va))) ∧
      ((∀ p ∈ x.addrs c.split (lanes x), p.2 % bytes x = 0) → ∀ lane va code,
        (x.addrs c.split (lanes x)).findSome? (fun p => ((s.ready c x).rangeFault c.counted.blk p.2 (bytes x)).map fun code => (p, code)) =
          some ((lane, va), code) →
        exec i s = .next ((s.prepare x).faulted c (passesOf c f spec) code (memInfo lane wr false 0 va)))
  let some1 := fun (uniform : Ctx → Bool) (x : Ctx) => if uniform x then x.lanes.take 1 else x.lanes
  Both .ld .ldLong (both 0x0A0 specLd false (some1 (·.d.isScal))) ∧
  Both .st .stLong (both 0x0A1 specSt true (some1 fun x => x.d.uniform && x.b.uniform)) ∧
  Sole .atom (both 0x0A2 specAtom true (·.lanes)) ∧ Sole .atomr (both 0x0A3 specAtomr true (·.lanes)) ∧
  Sole .cas (both 0x0A4 specCas true (·.lanes))

/-- PREF, CWB and FENCE complete: PREF whatever its addresses are, with no fault, but where the home mode of a granule it would reach is being
changed; CWB with a write-back of every line named in flight; a FENCE once the
accesses it waits for are performed, when an acquire at `.gang` or wider invalidates the first-level cache, and FENCE.job once the wave's jobs and
Lathe operations issued before it are complete (R191, R196, R269). WAITC, BARA, BARW, BARS and DRAIN complete: WAITC once the wave's counter of the
path is at most the count, as a progress event; an arrival once what it releases is performed; a wait once the phase it waits on has completed, with
the acquire; DRAIN once its drain is done. Until then a wait and a DRAIN have issued and hold their split (R199–R201, R297).
Which writes a FENCE and a DRAIN name is the model's reading (notes/assumptions/115.md), and what an entry of staging is its choice
(notes/assumptions/114.md). -/
def Obligations.CacheFenceAndBarriersComplete : Prop :=
  (
  Both .pref .prefLong (fun i f => ∀ s c x, Issues s c 0x0A5 f specPref x →
    (∀ p ∈ (s.ready c x).prefLines c.counted x, p.2 = true → (s.ready c x).flips (128 * p.1) = false) → ∃ t ev,
    exec i s = .next (t.ended c f specPref ev (c.next f)) ∧ s.sameMemory t ∧ t.ops = s.ops ∧ ∃ d, t.cur = some d ∧ d.split = c.split) ∧
  Both .cwb .cwbLong (fun i f =>
    Completes 0x0A6 specCwb (fun _ _ x => x.lanes = []) (fun s _ _ => s) (fun _ _ _ => []) i f ∧
    ∀ s c x t l, Issues s c 0x0A6 f specCwb x → x.lanes ≠ [] →
      Reached (s.ready c x) c.counted.blk 1 false true needR (x.addrs c.split x.lanes) t l → t.pathFull c.counted 1 = false →
      (t.ahead c.counted.blk = true → t.stageFull c.counted.blk (entryLines (lineItems l)) = false) →
      exec i s = .next (((t.addOp { memOp x 1 (.cwb (Mod.sub x.m = 1)) (lineItems l) 2 (t.ahead c.counted.blk) with
        complete := (lineItems l).isEmpty }).retire).ended c f specCwb [] (c.next f))) ∧
  Both .fence .fenceLong (fun i f =>
    let ord := fun (x : Ctx) => if Mod.ord x.m = 0 then 4 else Mod.ord x.m
    let scope := fun (x : Ctx) => if Mod.scope x.m = 0 then 5 else Mod.scope x.m
    Completes 0x0A7 specFence (fun s c x => Mod.sub x.m ≠ 1 ∧ s.fenceDone c (ord x) (scope x) = true)
      (fun s c x =>
        let s := s.loupeFence c.blk c.wave.wid (acqOrd (ord x)) (relOrd (ord x))
        if acqOrd (ord x) then s.acquire c.blk.core (scope x) else s) (fun _ _ x => x.sync) i f ∧
    Completes 0x0A7 specFence (fun s c x => Mod.sub x.m = 1 ∧
        ∀ o ∈ s.ops, o.blk = c.blk.id → o.wid = c.wave.wid → o.kind.isHeavy = true →
          o.id < ((c.wave.jobFences.find? (·.1 = c.split.sid)).map (·.2)).getD s.nextOp → o.complete = true)
      (fun s c _ =>
        let w := { c.wave with jobFences := c.wave.jobFences.filter (·.1 ≠ c.split.sid) };
        ({ s with cur := some { c with wave := w } } : State).loupeCover c.blk c.wave.wid fun _ => true) (fun _ _ x => x.sync) i f)) ∧
  (
  let sync := fun (_ : State) (_ : Cur) (x : Ctx) => x.sync
  let key := fun (s : State) (c : Cur) (x : Ctx) => waitKey (s.gangScope c.blk (syncScope x.m)) x.a.symNum
  let gang := fun (s : State) (c : Cur) (x : Ctx) => s.gangScope c.blk (syncScope x.m)
  let past := fun (s : State) (c : Cur) (x : Ctx) => (spGet 0 c.split.waitPhase (key s c x) = 3 ∨ spGet 0 c.split.waitPhase (key s c x) = 6)
  let waited := fun (s : State) (c : Cur) (x : Ctx) =>
    let c' := { c.progress with split := { c.split with waitPhase := spSet 0 c.split.waitPhase (key s c x) 0 } };
    (({ s with cur := some c' } : State).loupeWait c'.blk c'.wave.wid (s.gangKey c'.blk (gang s c x)) x.a.symNum).acquire c.blk.core
      (if gang s c x then 3 else 2)
  let free := fun (s : State) (c : Cur) (x : Ctx) => s.released c.blk c.wave.wid (· = c.split.sid) (s.before c) (if gang s c x then 3 else 2)
  let arrives := fun (s : State) (c : Cur) (x : Ctx) => s.arrive c (gang s c x) x.a.symNum (x.vB c.split 0 % 2 ^ 32)
  Both .waitc .waitcLong (Completes 0x0C0 specWaitc (fun s c x => s.count c.blk.id c.wave.wid (Mod.sub x.m) ≤ x.vA c.split 0 % 2 ^ 32)
    (fun s c x => ({ s with cur := some c.progress } : State).loupeCover c.blk c.wave.wid fun p => decide (p = Mod.sub x.m)) sync) ∧
  Both .bara .baraLong (Completes 0x0C1 (specBar true) (fun s c x => free s c x = true)
    (fun s c x => { arrives s c x with cur := (arrives s c x).cur.map Cur.progress }) sync) ∧
  Both .barw .barwLong (fun i f => Completes 0x0C2 (specBar false) past waited sync i f ∧
    ∀ s c x, Issues s c 0x0C2 f (specBar false) x → ¬ past (s.ready c x) c.counted x →
      ∃ v, v ≠ 0 ∧ exec i s = .next (((s.ready c x).inSplit c { c.split with
        waitPhase := spSet 0 c.split.waitPhase (key (s.ready c x) c.counted x) v }).waiting c f (specBar false) x.sync)) ∧
  Both .bars .barsLong (fun i f => Completes 0x0C3 (specBar true) (fun s c x => c.split.arrived = true ∧ past s c x) waited sync i f ∧
    Completes 0x0C3 (specBar true) (fun s c x => c.split.arrived = false ∧ free s c x = true ∧
        ∃ c', (arrives s c x).cur = some c' ∧ past (arrives s c x) c' x)
      (fun s c x => match (arrives s c x).cur with
        | some c' => waited (arrives s c x) { c' with split := { c'.split with arrived := true } } x
        | none => s) sync i f) ∧
  Both .drain .drainLong (fun i f =>
    let scope := fun (x : Ctx) => if syncScope x.m = 0 then 5 else syncScope x.m
    let who := fun (c : Cur) => (c.blk.id, c.wave.wid, c.split.sid)
    (∀ s c x d, Issues s c 0x0C4 f specDrain x → c.split.started = true →
      (s.ready c x).drainFor c.counted.blk.fn c.counted.blk.child (who c.counted) = some d → d.done = true →
      (s.ready c x).fenceDone { c.counted with split := { c.split with
        since := if c.split.since = 0 ∧ (s.ready c x).observed c.counted = true then (s.ready c x).nextOp + 1 else c.split.since } } 4
        (scope x) = true →
      exec i s = .next (((((s.ready c x).leaveDrain d (who c.counted)).loupeFence c.counted.blk c.counted.wave.wid true true).acquire
        c.counted.blk.core (scope x)).ended c f specDrain [(.sync, 1)] (c.next f))) ∧
    (∀ s c x, Issues s c 0x0C4 f specDrain x → c.split.started = false →
      (∀ o ∈ s.ops, o.blk = c.blk.id → o.wid = c.wave.wid → c.split.sid ∈ o.sids → o.staged = false →
        ∀ d k id rep reqs answers, o.kind ≠ .comb d k id rep reqs false answers) →
      ∃ t b, ((s.ready c x).dropServed (· = who c.counted)).askDrain c.counted.blk.fn c.counted.blk.child (scope x)
          (dieOfCore c.blk.core) (who c.counted) = (t, b) ∧
        exec i s = .next ((t.mapSplit fun sp => { sp with since := 0 }).waiting c f specDrain [(.sync, 1)]))))

/-- LDS, STS, ATOMS, LDRS and STRS complete: the access of every active lane to the block's scratchpad, or to the member's that SUB names, is in flight on
`rsp` (R192, R258–R260). -/
def Obligations.ScratchpadAccessesComplete : Prop :=
  let none0 := fun (_ : Nat) => (0 : Dword)
  let bytes := fun (x : Ctx) => mtBytes (Mod.mtype x.m)
  let empty := fun (op : Nat) (spec : Nat → Spec) =>
    Completes op spec (fun _ _ x => x.lanes = []) (fun s _ _ => s) fun _ _ _ => []
  let rels := fun (const : Bool) (lanes : List Nat) (c : Cur) (x : Ctx) =>
    lanes.map fun n => (n, x.vB c.split n % 2 ^ 32 + if const then x.vC c.split n % 2 ^ 32 else 0)
  let free := fun (s : State) (c : Cur) => s.pathFull c 3 = false
  let load := fun (op : Nat) (spec : Nat → Spec) (scope : Nat) (ev : Nat → Ev) (who : State → Cur → Ctx → Nat)
      (ok : State → Cur → Ctx → Prop) (i : Instr) (f : Form) =>
    let lanes := fun (x : Ctx) => if x.d.isScal then x.lanes.take 1 else x.lanes
    empty op spec i f ∧ Completes op spec (fun s c x => x.lanes ≠ [] ∧ ok s c x ∧ free s c ∧
        InBuffer s c (who s c x) x.a.symNum (bytes x) false (rels true (lanes x) c x))
      (fun s c x => s.addOp (scrOp x (.load (Mod.mtype x.m) (dstOf x.d x.dWide))
        (scrItems (who s c x) x.a.symNum (bytes x) none0 none0 (rels true (lanes x) c x)) scope))
      (fun _ _ x => [(ev (8 * bytes x), x.lanes.length)]) i f
  let store := fun (op : Nat) (spec : Nat → Spec) (scope : Nat) (ev : Nat → Ev) (who : State → Cur → Ctx → Nat)
      (ok : State → Cur → Ctx → Prop) (i : Instr) (f : Form) =>
    let lanes := fun (x : Ctx) => if x.d.uniform && x.b.uniform then x.lanes.take 1 else x.lanes
    empty op spec i f ∧ Completes op spec (fun s c x => x.lanes ≠ [] ∧ ok s c x ∧ free s c ∧
        InBuffer s c (who s c x) x.a.symNum (bytes x) true (rels true (lanes x) c x))
      (fun s c x => s.addOp (scrOp x .store (scrItems (who s c x) x.a.symNum (bytes x)
        (fun n => BitVec.ofNat 64 (x.vD c.split n % 2 ^ (8 * bytes x))) none0 (rels true (lanes x) c x)) scope))
      (fun _ _ x => [(ev (8 * bytes x), x.lanes.length)]) i f
  let own := fun (_ : State) (c : Cur) (_ : Ctx) => c.blk.id
  let member := fun (s : State) (c : Cur) (x : Ctx) => ((s.memberOf c.blk (Mod.sub x.m)).getD c.blk).id
  let inGang := fun (s : State) (c : Cur) (x : Ctx) => Mod.sub x.m < s.gangSize c.blk
  Sole .lds (load 0x0B0 specLds 2 .sload own fun _ _ _ => True) ∧ Sole .ldrs (load 0x0B3 specLdrs 3 .rload member inGang) ∧
  Sole .sts (store 0x0B1 specSts 2 .sstore own fun _ _ _ => True) ∧ Sole .strs (store 0x0B4 specStrs 3 .rstore member inGang) ∧
  Sole .atoms (fun i f => empty 0x0B2 specAtoms i f ∧ Completes 0x0B2 specAtoms (fun s c x => x.lanes ≠ [] ∧ free s c ∧
      InBuffer s c c.blk.id x.a.symNum (bytes x) true (rels false x.lanes c x))
    (fun s c x => s.addOp (scrOp x (.atom (Mod.sub x.m) (Mod.mtype x.m) (dstOf x.d x.dWide) (BitVec.ofNat 32 x.mode))
      (scrItems c.blk.id x.a.symNum (bytes x) (fun n => BitVec.ofNat 64 (x.vC c.split n)) (fun n => BitVec.ofNat 64 (x.vD c.split n))
        (rels false x.lanes c x)) 2))
    (fun _ _ x => [(.satom (8 * bytes x), x.lanes.length)]) i f) ∧
  (Sole .ldrs (Faults 0x0B3 specLdrs (fun s c x => x.lanes ≠ [] ∧ ¬ inGang s c x) 0x14 fun _ _ x => Mod.sub x.m)) ∧
  (Sole .strs (Faults 0x0B4 specStrs (fun s c x => x.lanes ≠ [] ∧ ¬ inGang s c x) 0x14 fun _ _ x => Mod.sub x.m))

/-! ## Synchronisation -/

/-! ## The Lathe, jobs and combining -/

/-- TDSET, TDGET, MMA, ACCZ, ACCRD, ACCWR, ACCLD and ACCST complete: TDSET writes the descriptor that its checks pass; TDGET reads a word of one; the
others put their operation in flight on `mma`, with the descriptors, MODE, data and addresses of their issue; an ACCST before its block's turn once
there is room in staging for its rows (R207–R215, R401). That `accline` counts the lines of each row is the model's choice
(notes/assumptions/102.md), as is what an entry of staging is (notes/assumptions/114.md). -/
def Obligations.LatheInstructionsComplete : Prop :=
  let none_ := fun (op : Nat) (spec : Nat → Spec) =>
    Completes op spec (fun _ _ x => x.lanes = []) (fun s _ _ => s) fun _ _ _ => []
  let free := fun (s : State) (c : Cur) => s.pathFull c 5 = false
  let inTile := fun (c : Cur) (x : Ctx) => ∀ p ∈ x.elems c.split, p.2.1 < 96 ∧ p.2.2 < 128
  let matrix := fun (wr : Bool) (op : Nat) (kind : Ctx → Nat → Dword → Nat → List (Nat × Nat × Nat) → OpKind) (i : Instr) (f : Form) =>
    ∀ s c x t pages, Issues s c op f (specAccMem wr) x →
      let e := accBytes (Mod.type x.m)
      let a := x.vA c.split 0
      let b := x.vB c.split 0 % 2 ^ 32
      let len := 95 * b + 128 * e
      let tile := [tileRange x.d.unitNum]
      let hull := [globalRange a len]
      a % e = 0 → b % e = 0 → (s.ready c x).rangeScan c.counted.blk (pagesOf a (a + len)) a (a + len) = none →
      (s.ready c x).translateRange c.counted.blk (if wr then needW else needR) wr (pagesOf a (a + len)) a (a + len) = (t, .ok pages) →
      let st := t.staging c.counted.blk (if wr then (List.range 96).map fun r => (a + r * b, 128 * e) else []) pages
        { heavyOp 5 (kind x x.d.unitNum (BitVec.ofNat 64 a) b pages) (if wr then tile else hull)
          (if wr then hull else tile) with pol := max 2 (Mod.pol x.m) }
      t.pathFull c.counted 5 = false → (t.ahead c.counted.blk = true → t.stageFull c.counted.blk st.2 = false) →
      exec i s = .next ((t.receive st.1).ended c f (specAccMem wr) [(.accline, rowLines a 96 b (128 * e))] (c.next f))
  Sole .tdset (Completes 0x0D0 specTdset (fun s c x =>
      let kb := if x.c = .zero then 1 else x.vC c.split 0 % 2 ^ 32
      let rows := if tdRole x.m then 128 else 96
      let bufs := (s.kernelOf c.blk).bufs
      1 ≤ kb ∧ kb ≤ 8 ∧ ((∃ n, x.b = .sym n) ↔ 12 ≤ tdFmt x.m) ∧ 128 ≤ ((bufs[x.a.symNum]?).map (·.align)).getD 0 ∧
      rows * kb * blockBytes (tdFmt x.m) ≤ ((bufs[x.a.symNum]?).map (·.size)).getD 0 ∧
      (12 ≤ tdFmt x.m → rows * kb ≤ ((bufs[x.b.symNum]?).map (·.size)).getD 0) ∧ free s c)
    (fun s c x =>
      let v := descValue (tdRole x.m) (tdFmt x.m) (if x.c = .zero then 1 else x.vC c.split 0 % 2 ^ 32) x.a.symNum
        (if 12 ≤ tdFmt x.m then x.b.symNum else 0xFFFF);
      (({ s with cur := some { c with split := c.split.land (.td x.d.unitNum) [(0, BitVec.ofNat 64 v)] } } : State).addOp
        { heavyOp 5 .instant [] [] with complete := true }).retire) fun _ _ _ => [(.td, 1)]) ∧
  Sole .tdget (Leaves 0x0D1 specTdget (fun _ => [(.td, 1)]) fun c x => c.split.result x.d false
    [(0, (if Mod.own x.m = 1 then (c.split.desc x.a.unitNum).w1 else (c.split.desc x.a.unitNum).w0).toNat)] x.lat) ∧
  Sole .mma (fun i f => ∀ s c x rate, Issues s c 0x0D2 f specMma x →
    let da := c.split.desc x.a.unitNum
    let db := c.split.desc x.b.unitNum
    kstepOf da.fmt db.fmt = some rate → da.valid = true → db.valid = true → da.role = false → db.role = true → da.kb = db.kb →
    free (s.ready c x) c.counted →
    exec i s = .next (((s.ready c x).receive (heavyOp 5 (.mma x.d.unitNum da db (BitVec.ofNat 32 x.mode)) (tileRange x.d.unitNum ::
      ((s.ready c x).descRanges c.counted.blk.id da ++ (s.ready c x).descRanges c.counted.blk.id db)) [tileRange x.d.unitNum])).ended c f
      specMma [(if rate = 4 then .kstep4 else if rate = 8 then .kstep8 else .kstep16, 32 * da.kb)] (c.next f))) ∧
  Sole .accz (Completes 0x0D3 specAccz (fun s c _ => free s c)
    (fun s _ x => s.receive (heavyOp 5 (.accz x.d.unitNum) [] [tileRange x.d.unitNum])) fun _ _ _ => [(.acctile, 1)]) ∧
  Sole .accrd (fun i f => none_ 0x0D4 specAccrd i f ∧ Completes 0x0D4 specAccrd (fun s c x => x.lanes ≠ [] ∧ inTile c x ∧ free s c ∧
      ∀ p ∈ x.elems c.split, spGet false c.blk.tilePoison (elemKey x.a.unitNum p.2.1 p.2.2) = false)
    (fun s c x => s.addOp (accOp (.accrd x.a.unitNum (dstOf x.d false)) x.a.unitNum (x.elems c.split) fun _ => 0))
    (fun _ _ x => [(.accrw, x.lanes.length)]) i f) ∧
  Sole .accwr (fun i f => none_ 0x0D5 specAccwr i f ∧ Completes 0x0D5 specAccwr (fun s c x => x.lanes ≠ [] ∧ inTile c x ∧ free s c)
    (fun s c x => s.addOp (accOp (.accwr x.d.unitNum) x.d.unitNum (x.elems c.split) fun n => BitVec.ofNat 64 (x.vA c.split n)))
    (fun _ _ x => [(.accrw, x.lanes.length)]) i f) ∧
  Sole .accld (matrix false 0x0D6 fun x t g p pages => .accld t (Mod.type x.m) g p (BitVec.ofNat 32 x.mode) pages) ∧
  Sole .accst (matrix true 0x0D7 fun x t g p pages => .accst t (Mod.type x.m) (Mod.rnd x.m) g p (BitVec.ofNat 32 x.mode) pages)

/-- JOB and JOBQ complete: a card, or every card of a list, that passes the checks of R221 and R222 is received by the block's scheduler with its
translations, and charged by its lines and words; before its block's turn, once there is room in staging for what it writes (R219, R220, R401). What
an entry of staging is is the model's choice (notes/assumptions/114.md). -/
def Obligations.JobInstructionsComplete : Prop :=
  let passes := fun (s : State) (c : Cur) (cards : List Card) =>
    (∀ p ∈ cards.zipIdx, p.1.gangDefect (s.gangSize c.blk) p.2 = none ∧ p.1.alignDefect p.2 = none ∧ s.cardRange c.blk p.1 p.2 = none)
  Sole .job (fun i f => ∀ s c x t cards, Issues s c 0x0E0 f specJob x →
    let k := (s.ready c x).kernelOf c.counted.blk
    let sb := x.b.scalNum
    let size := cardSize [BitVec.ofNat 32 (x.vB c.split 0)]
    let ws := (List.range size).map fun n => (c.split.read (.scal (sb + n)) 0).setWidth 32
    let card := cardOf ws x.a.symNum (x.vC c.split 0 % 2 ^ 32) x.mode
    headDefect [BitVec.ofNat 32 (x.vB c.split 0)] = none → sb + size - 1 ≤ 63 → sb + size - 1 < k.nscal →
    (s.ready c x).scalExc c.counted x.mode ((List.range (size - 1)).map (sb + 1 + ·)) = none →
    cardDefect k.nbuf (Mod.own x.m) 0 false true ws = none → passes (s.ready c x) c.counted [card] →
    (s.ready c x).cardsPages c.counted.blk 0 [card] = (t, .ok cards) → t.pathFull c.counted 4 = false →
    let ops := cards.map (t.cardOp c.counted.blk 4)
    (t.ahead c.counted.blk = true → t.stageFull c.counted.blk (ops.flatMap (·.2)) = false) →
    exec i s = .next (((ops.foldl (fun s o => s.receive o.1) t).readRegs x.act
      ((List.range (size - 1)).map fun n => .scal (sb + 1 + n))).ended c f specJob
      (cards.flatMap (t.cardEvents c.counted.blk)) (c.next f))) ∧
  Sole .jobq (fun i f => ∀ s c x t cards, Issues s c 0x0E1 f specJobq x →
    let k := (s.ready c x).kernelOf c.counted.blk
    let buf := x.a.symNum
    let j := x.vC c.split 0 % 2 ^ 32
    let n := x.vB c.split 0 % 2 ^ 32
    let slots := (List.range n).map fun m => (s.ready c x).slotWords c.counted.blk.id buf j m
    let named := slots.map fun p => cardOf p.1 (refBuf (cw p.1 6)) (refOff (cw p.1 6)) x.mode
    n ≤ 64 → j % 64 = 0 → (n ≠ 0 → j + 64 * n ≤ ((k.bufs[buf]?).map (·.size)).getD 0) → (s.ready c x).scrPending c.counted = false →
    (∀ p ∈ slots, p.2 = false) → (∀ p ∈ slots.zipIdx, cardDefect k.nbuf 0 p.2 true true p.1.1 = none) →
    passes (s.ready c x) c.counted named → (s.ready c x).cardsPages c.counted.blk 0 named = (t, .ok cards) →
    t.pathFull c.counted 4 = false →
    let ops := cards.map (t.cardOp c.counted.blk 7)
    (t.ahead c.counted.blk = true → t.stageFull c.counted.blk (ops.flatMap (·.2)) = false) →
    exec i s = .next ((((t.addOp { heavyOp 4 (.jobList (cards.zipIdx.map fun p => t.nextOp + 1 + p.2)) [] [] with
      complete := cards.isEmpty }).receiveAll (ops.map (·.1))).retire).ended c f specJobq
      (cards.flatMap (t.cardEvents c.counted.blk)) (c.next f)))

/-- OBJREG, OBJFREE and COMB complete: a registration's status or new id is on its way to D, a scalar, and `zero` there is OPERAND_CLASS; an object freed
takes no further request; a COMB's packet, of one request per active lane, is sent or staged (R302–R305, R41). What an entry of staging is is the model's choice
(notes/assumptions/114.md). -/
def Obligations.CombiningInstructionsComplete : Prop :=
  let free := fun (s : State) (c : Cur) => s.pathFull c 6 = false
  Sole .objreg (Completes 0x0E8 specObjreg (fun s c x => free s c ∧ ∃ n, x.d = .scal n)
    (fun s c x =>
      let r := s.register c (x.vA c.split 0) (x.vB c.split 0) (x.vC c.split 0 % 2 ^ 32);
      match x.d with
      | .scal n => r.1.addOp (cmbOp (.objreg { reg := .scal n, wide := false, uniform := true } (BitVec.ofNat 64 r.2)))
      | _ => r.1) fun _ _ _ => [(.objreg, 1)]) ∧
  Sole .objreg (fun i f => ∀ s c, s.cur = some c → s.opcodeFault c 0x0E8 (rawOf f specObjreg).len = none → (rawOf f specObjreg).d = .zero →
    ∃ info, exec i s = .next (s.faulted c (passesOf c f specObjreg) 0x06 info)) ∧
  Both .objfree .objfreeLong (fun i f =>
    Faults 0x0E9 specObjfree (fun s c x => s.objOf c.blk.fn (x.vA c.split 0 % 2 ^ 32) = none) 0x22 (fun _ c x => x.vA c.split 0 % 2 ^ 32) i f ∧
    ∀ s c x o, Issues s c 0x0E9 f specObjfree x → (s.ready c x).objOf c.counted.blk.fn (x.vA c.split 0 % 2 ^ 32) = some o →
      free (s.ready c x) c.counted →
      let freed := mapIf (fun (p : Obj) => p.fn = o.fn ∧ p.slot = o.slot) (fun p => { p with freeing := true }) (s.ready c x).objs
      exec i s = .next ((({ s.ready c x with objs := freed } : State).addOp
        (cmbOp (.objfree c.counted.blk.fn (x.vA c.split 0 % 2 ^ 32)))).ended c f specObjfree [(.objreg, 1)] (c.next f))) ∧
  Sole .comb (fun i f =>
    Completes 0x0EA specComb (fun _ _ x => x.lanes = []) (fun s _ _ => s) (fun _ _ _ => []) i f ∧
    ∀ s c x, Issues s c 0x0EA f specComb x → x.lanes ≠ [] →
      let r := s.ready c x
      let b := c.counted.blk
      let scope := if Mod.scope x.m = 0 then 5 else Mod.scope x.m
      let oid := x.vB c.split 0 % 2 ^ 32
      let items := x.lanes.map fun n => ({ lane := n, space := .mem, addr := ((r.objOf b.fn oid).map (·.pa)).getD 0, bytes := 0 } : Item)
      let reqs := x.lanes.map fun n =>
        ({ op := r.nextOp, lane := n, arg := x.combArg c.split n, fn := b.fn, child := b.child, slot := oid % 4096 } : CombReq)
      (r.ahead b = false → relOrd (Mod.ord x.m) = true → r.released b c.wave.wid (· = c.split.sid) (r.before c.counted) scope = true) →
      (r.ahead b = false → r.heldBack c.counted = false ∧ r.combQueued (r.sources b.core b.id) r.nextOp = false) →
      free r c.counted → (r.ahead b = true → r.stageFull b (entryLines items) = false) →
      let sent := r.addOp { cmbOp (.comb (dstOf x.d x.dWide) x.a.maskNum oid (Mod.mtype x.m = 8) reqs false []) with
        items, ord := Mod.ord x.m, scope, staged := r.ahead b, entries := if r.ahead b then (entryLines items).length else 0 }
      exec i s = .next ((if r.ahead b then sent else sent.sendComb r.nextOp).ended c f specComb [(.cmbreq, x.lanes.length)] (c.next f)))

/-- CBATCH, CARG, CREPLY and CEND complete in a method wave: the batch's count, mask, base or size to D; a word of each active lane's argument on its way
to D; the active lanes' replies taken; and once no access of the method is in flight, every request answered and the batch ended (R314, R315). -/
def Obligations.MethodInstructionsComplete : Prop :=
  let free := fun (s : State) (c : Cur) => s.pathFull c 6 = false
  Both .cbatch .cbatchLong (fun i f => ∀ s c x m o, Issues s c 0x0EB f specCbatch x → (s.ready c x).batchOf c.counted = some (m, o) →
    free (s.ready c x) c.counted →
    exec i s = .next (((s.ready c x).inSplit c (match x.d, Mod.sub x.m with
      | .scal d, 0 => c.split.land (.scal d) [(0, BitVec.ofNat 64 m.reqs.length)]
      | .mask d, 1 => c.split.land (.mask d) ((List.range x.w).map fun n => (n, if n < m.reqs.length then 1 else 0))
      | .scal d, 2 => (c.split.land (.scal d) [(0, o.base &&& 0xFFFFFFFF#64)]).land (.scal (d + 1)) [(0, o.base >>> 32)]
      | .scal d, _ => c.split.land (.scal d) [(0, BitVec.ofNat 64 o.size)]
      | _, _ => c.split)).cmbDone.ended c f specCbatch [] (c.next f))) ∧
  Both .carg .cargLong (fun i f => ∀ s c x m o, Issues s c 0x0EC f specCarg x → (s.ready c x).batchOf c.counted = some (m, o) →
    (x.lanes = [] → exec i s = .next ((s.ready c x).ended c f specCarg [] (c.next f))) ∧
    (x.lanes ≠ [] → free (s.ready c x) c.counted →
      exec i s = .next (((s.ready c x).addOp { cmbOp (.carg (dstOf x.d x.dWide)) with
        items := x.lanes.map fun n => ({ lane := n, space := .tile, addr := 0, bytes := 0
                                         data := BitVec.ofNat 64 (((m.reqs[n]?).map (argOf o)).getD 0 / 2 ^ (32 * Mod.sub x.m) %
                                           2 ^ (if Mod.mtype x.m = 8 then 64 else 32)) } : Item) }).ended c f specCarg [] (c.next f)))) ∧
  Both .creply .creplyLong (fun i f => ∀ s c x m o, Issues s c 0x0ED f specCreply x → (s.ready c x).batchOf c.counted = some (m, o) →
    (x.lanes = [] → exec i s = .next ((s.ready c x).ended c f specCreply [] (c.next f))) ∧
    (x.lanes ≠ [] → free (s.ready c x) c.counted →
      let l := x.lanes.map fun n =>
        (n, BitVec.ofNat 64 (x.vA c.split n % 2 ^ (if Mod.mtype x.m = 8 then 64 else 32) % 2 ^ (8 * o.repb)))
      let b := { c.counted.blk with method := some { m with replies := if o.repb = 0 then m.replies else spSets 0 m.replies l } }
      exec i s = .next ((({ s.ready c x with cur := some { c.counted with blk := b } } : State).cmbDone).ended c f specCreply []
        (c.next f)))) ∧
  Both .cend .cendLong (fun i f => ∀ s c x, Issues s c 0x0EE f specCend x → c.blk.method.isSome = true →
    (∀ o ∈ s.ops, o.blk ≠ c.blk.id) →
    ∀ r m, r = ({ s.ready c x with cur := some c.counted } : State).bookFor c.counted.blk [(.issue, 1)] → r.cur.bind (·.blk.method) = some m →
      exec i s = .next (
        let u := r.meter m.fn m.slice [(.cmbreply, m.reqs.length)];
        let t := m.reqs.zipIdx.foldl (fun s q => s.answer q.1 true (spGet 0 m.replies q.2)) r;
        (t.endBatch c.counted.blk m (m.energy + u)).dealt s.tick c f specCend []))

/-! ## Shares, child grids, energy and the THROTTLE trap -/

/-- RSHARE, RQUERY, LAUNCH, CHWAIT, EREAD and TARM complete: a share granted at once where it is the wave's own, or a smaller one at which every other
split may pause, or once the wave runs at it; the fact named; the child grid's record on its way to admission; the wait in flight, complete at once
where nothing is outstanding; one snapshot of the counters after EREAD's own booking; the trap armed or disarmed (R250, R252, R348–R350, R376, R389).
Until its share is granted an RSHARE has issued and holds its split. LAUNCH's D is a scalar, and `zero` there is OPERAND_CLASS (R41). That a print is
made as a share is lowered is the model's choice (notes/assumptions/105.md), as is what an entry of staging is (notes/assumptions/114.md). -/
def Obligations.SharesAndLaunchComplete : Prop :=
  let sreg := fun (_ : State) (_ : Cur) (_ : Ctx) => [(Ev.sreg, 1)]
  let asked := fun (s : State) (c : Cur) (x : Ctx) => s.shareAsked c (x.vA c.split 0 % 2 ^ 32)
  let marked := fun (c : Cur) (t : Nat) (sp : Split) =>
    if t ≠ c.wave.wanted ∧ sp.asked ≠ 0 then { sp with asked := superseded } else sp
  let shared := fun (s : State) (c : Cur) (x : Ctx) =>
    let t := asked s c x
    let w := { c.wave with wanted := t, splits := c.wave.splits.map (marked c t) }
    let shrinks := t < c.wave.share && c.wave.splits.all (s.pausable c.blk)
    let c' : Cur := { c with wave := if shrinks then w.rebound t else w, split := { c.split with asked := t + 1 } };
    (if shrinks then s.printFor c.blk t else s, c')
  let granted := fun (s : State) (c : Cur) (x : Ctx) =>
    ({ s with cur := some { c with split := { c.split.landScal x.d c.wave.share with asked := 0 } } } : State)
  let running := fun (c : Cur) => c.split.asked = superseded ∨ c.wave.share = c.wave.wanted
  Both .rshare .rshareLong (fun i f =>
    Completes 0x0F0 specRshare (fun _ c _ => c.split.started = true ∧ running c) granted sreg i f ∧
    Completes 0x0F0 specRshare (fun s c x => c.split.started = false ∧ (shared s c x).2.wave.share = asked s c x)
      (fun s c x => granted (shared s c x).1 (shared s c x).2 x) sreg i f ∧
    (∀ s c x, Issues s c 0x0F0 f specRshare x → c.split.started = false →
      (shared (s.ready c x) c.counted x).2.wave.share ≠ asked (s.ready c x) c.counted x →
      exec i s = .next (({ (shared (s.ready c x) c.counted x).1 with cur := some (shared (s.ready c x) c.counted x).2 } : State).waiting
        c f specRshare [(.sreg, 1)]))) ∧
  Both .rquery .rqueryLong (Completes 0x0F1 specRquery (fun _ _ _ => True)
    (fun s c x => { s with cur := some { c with split := c.split.landScal x.d (s.shareQuery c (Mod.own x.m)) } }) sreg) ∧
  Both .launch .launchLong (fun i f => ∀ s c x t l d, Issues s c 0x0F2 f specLaunch x → c.wave.wid = 0 →
    (((s.ready c x).gridOf c.counted.blk).map (·.depth)).getD 1 ≠ 10 → dstOf x.d false = some d →
    Reached (s.ready c x) c.counted.blk 128 true false needR [(0, x.vA c.split 0)] t l →
    let items := (l.filter fun p => p.2.2.1 = .mem).map fun p =>
      ({ lane := 0, space := .mem, addr := p.2.2.2, bytes := 128, va := BitVec.ofNat 64 p.2.1 } : Item)
    let ahead := t.ahead c.counted.blk
    items ≠ [] → t.pathFull c.counted 4 = false →
    (ahead = false → t.released c.counted.blk c.wave.wid (· = c.split.sid) (t.before c.counted) 5 = true) →
    (ahead = true → t.stageFull c.counted.blk (entryLines items) = false) →
    exec i s = .next ((t.addOp { jobPathOp (.launch d 0) with
      items, ord := 3, scope := 5, staged := ahead, entries := if ahead then (entryLines items).length else 0 }).ended c f specLaunch
      [(.launch, 1)] (c.next f))) ∧
  Both .launch .launchLong (fun i f => ∀ s c, s.cur = some c → s.opcodeFault c 0x0F2 (rawOf f specLaunch).len = none →
    (rawOf f specLaunch).d = .zero → ∃ info, exec i s = .next (s.faulted c (passesOf c f specLaunch) 0x06 info)) ∧
  Both .chwait .chwaitLong (Completes 0x0F3 specChwait (fun s c _ => s.pathFull c 4 = false)
    (fun s c x => (s.addOp { jobPathOp (.chwait (dstOf x.d false) (x.vA c.split 0 % 2 ^ 32)) with
      ord := 2, scope := 5, moved := c.blk.launches }).sweepChwait) fun _ _ _ => [(.sync, 1)]) ∧
  Both .eread .ereadLong (fun i f => ∀ s c x n, Issues s c 0x0F4 f specEread x → x.d = .scal n →
    let r := (s.ready c x).bookIssue c 1 [(.eread, 1)]
    let u := r.ereadUnits c.blk.fn c.blk.child (Mod.own x.m)
    let words := [u / 2 ^ 32, u / 2 ^ 64, u, (r.pr 0x864 0 0 0).toNat]
    exec i s = .next ((r.mapSplit fun sp => words.zipIdx.foldl (fun sp p => sp.landScal (.scal (n + p.2)) p.1) sp).finish (c.next f))) ∧
  Both .tarm .tarmLong (Completes 0x0F5 specTarm (fun _ _ _ => True)
    (fun s c x =>
      let on := Mod.own x.m = 1
      let b := { c.blk with armed := on, throttle := if on then c.blk.throttle else none }
      { s with cur := some { c with blk := b, split := c.split.landScal x.d (b2n (s.throttled (c.blk.core / 8))) } }) sreg)

/-! ## Privileged instructions -/

/-- RDPR, WRPR, PRDONE, CTXSV, TLBINV and SHEET complete: D holds the register the selector names, as its caller reads it; a write the rules accept has
taken effect or holds its split until it does, and one they refuse is logged and raises ACCESS with reason 8; the split parks at the resume PC, or
asks for the full image; what is named is out of the TLB once nothing in flight uses it; the signed sheet stands at A (R289, R366–R368, R377, R384). -/
def Obligations.PrivilegedInstructionsComplete : Prop :=
  let park := fun (s : State) (c : Cur) (x : Ctx) (done : Dword × Bool × Bool × Bool) =>
    let w := { c.counted.wave with pre := c.counted.wave.pre.map fun p => { p with done := some done } }
    ({ s.ready c x with cur := some { c.counted with
      wave := w, split := { (c.counted.issued (s.ready c x).tick).split with run := .prParked } } } : State)
  Sole .rdpr (fun i f =>
    let spec := specRdpr (Raw.of true f).a.sregNum
    (∀ s c x t, Issues s c 0x100 f spec x → prTarget c.counted.caller x.a.sregNum (x.vB c.split 0 % 2 ^ 32) false = .ok t →
      let v := (s.ready c x).readPr c.counted.caller x.a.sregNum t
      let low := c.split.landScal x.d v
      let sp := match x.d with
        | .scal d => if x.dWide then low.landScal (.scal (d + 1)) (v / 2 ^ 32) else low
        | _ => low
      exec i s = .next (s.after c f spec x sp [(.sreg, 1)])) ∧
    (∀ s c x r, Issues s c 0x100 f spec x → prTarget c.counted.caller x.a.sregNum (x.vB c.split 0 % 2 ^ 32) false = .error r →
      exec i s = .next ((s.prepare x).faulted c (passesOf c f spec) 0x11 (accessInfo 0x100 r)))) ∧
  Sole .wrpr (fun i f =>
    let spec := specWrpr (Raw.of true f).d.sregNum
    ∀ s c x t, Issues s c 0x101 f spec x → prTarget c.counted.caller x.d.sregNum (x.vB c.split 0 % 2 ^ 32) true = .ok t →
      let w := (s.ready c x).writePr x.d.sregNum t (x.vA c.split 0 % (if x.aWide then 2 ^ 64 else 2 ^ 32))
      (∀ r, w = .done r → exec i s = .next (r.ended c f spec [(.sreg, 1)] (c.next f))) ∧
      (∀ r, w = .wait r → exec i s = .next (r.waiting c f spec [(.sreg, 1)])) ∧
      (w = .refused → exec i s = .next (((s.ready c x).logRefused x.d.sregNum).faulted c (passesOf c f spec) 0x11 (accessInfo 0x101 8)))) ∧
  Both .prdone .prdoneLong (fun i f => ∀ s c x, Issues s c 0x102 f specPrdone x →
    (x.a = .zero → exec i s = .next ((park s c x ((c.wave.pre.map (·.pc)).getD c.split.pc, bit (Mod.own x.m) 0, bit (Mod.own x.m) 1,
      false)).dealt s.tick c f specPrdone [(.ctl, 1)])) ∧
    (x.a ≠ .zero → (s.kernelOf c.blk).targetOk (BitVec.ofNat 64 (x.vA c.split 0)) = true →
      exec i s = .next ((park s c x (BitVec.ofNat 64 (x.vA c.split 0), bit (Mod.own x.m) 0, bit (Mod.own x.m) 1,
        false)).dealt s.tick c f specPrdone [(.ctl, 1)]))) ∧
  Both .ctxsv .ctxsvLong (fun i f => ∀ s c x, Issues s c 0x103 f specCtxsv x →
    exec i s = .next ((park s c x ((c.wave.pre.map (·.pc)).getD c.split.pc, false, false, true)).dealt s.tick c f specCtxsv [(.ctl, 1)])) ∧
  Both .tlbinv .tlbinvLong (fun i f => ∀ s c x, Issues s c 0x104 f specTlbinv x →
    let n := x.vB c.split 0 % 2 ^ 32
    let named := if Mod.own x.m = 2 then TlbTarget.mk (n % 8) (fld n 5 3) none
      else TlbTarget.mk c.blk.fn c.blk.child (if Mod.own x.m = 0 then some (x.vA c.split 0) else none)
    let r := s.ready c x
    (Mod.own x.m = 2 → c.wave.level = 2 ∧ n < 64 ∧ fld n 5 3 ≤ 4) →
    ((∀ o ∈ r.ops, r.usesNamed named o = false) →
      exec i s = .next (({ r with tlb := r.tlb.filter fun e => !named.names e } : State).ended c f specTlbinv [(.tlbinv, 1)] (c.next f))) ∧
    ((∃ o ∈ r.ops, r.usesNamed named o = true) → exec i s = .next (r.waiting c f specTlbinv [(.tlbinv, 1)]))) ∧
  Both .sheet .sheetLong (fun i f => ∀ s c x fn child a, Issues s c 0x105 f specSheet x →
    let r := s.ready c x
    let va := x.vA c.split 0
    sheetTarget c.counted.caller (x.vB c.split 0 % 2 ^ 32) = .ok (fn, child) → va % 256 = 0 →
    r.devPlace c.blk.fn c.blk.child va needW = some (.mem, a) → r.locked a = false →
    r.released c.counted.blk c.wave.wid (· = c.split.sid) (r.before c.counted) 6 = true →
    let walked : State := { r.devWalk c.blk.fn c.blk.child va with cur := some c.counted }
    let signed := (walked.bookIssue c 1 [(.sheet, 1)]).closeSheet fn child 1
    exec i s = .next ((signed.1.storeAt c.blk.fn .mem a signed.2).finish (c.next f)))

/-! ## Steps of the other agents: cores, caches, walkers, engines -/

/-- HANG_REPORT, SLEEP_EXPIRY, BURST_END and CURRENT_GRANT: a wave at the limit is reported at its next boundary, with HANG where nothing holds it back; a
sleeping split is ready; the burst's reservation and request are gone; the head of a queue that the budget covers holds its reservation, and an
operation granted may start (R80, R136, R175, R273). DRAIN_COMPLETE, FABRIC_DRAIN_ACK and FABRIC_DRAIN_MARKER: a partition's drain is done once what
was in flight at its start is complete and every target has acknowledged, and the next one starts; a target that has answered everything acknowledges;
another device's marker is acknowledged once every packet of that device from before it has its answers, all else being performed as it arrives (R296,
R297, R436). That it waits for those of every partition is the model's reading (notes/assumptions/119.md). -/
def Obligations.CoreAndDrainEventsHappen : Prop :=
  (
  HappensAt .hangReport (fun s c => s.hangReached c = true ∧ c.split.atBoundary = true) (fun s c => (s.hangReported c).takeHang) ∧
  HappensAt .hangReport (fun s c => ¬ (s.hangReached c = true ∧ c.split.atBoundary = true)) (fun s _ => s.takeHang) ∧
  Happens .sleepExpiry (fun _ => True) (fun s => s.mapSplitAt s.arg.blk s.arg.wid s.arg.sid fun sp => match sp.run with
    | .sleeping _ => { sp with run := .ready }
    | _ => sp) ∧
  Happens .burstEnd (fun _ => True) (fun s =>
    let o := CurrentOwner.burst s.arg.core s.arg.quarter
    let k := s.clusterOf (s.arg.core / 8)
    s.setCluster (s.arg.core / 8) { k with held := k.held.filter (·.1 ≠ o), queue := k.queue.filter (·.1 ≠ o) }) ∧
  ∀ s o units rest, let r := s.unfocus
    let k := r.clusterOf s.arg.cluster
    k.queue = (o, units) :: rest → (k.reserved + units ≤ k.budget ∨ k.budget < units ∧ k.held = []) →
    let granted := r.setCluster s.arg.cluster { k with queue := rest, held := k.held ++ [(o, units)] }
    exec .currentGrant s = .next (match o with
      | .op id => granted.mapOp id fun p => { p with stage := 2 }
      | .burst _ _ => granted)) ∧
  (
  (∀ s d, s.unfocus.runningDrain s.arg.fn s.arg.child = some d → s.unfocus.drainQuiet d = true →
    let l := s.unfocus.drains.map fun e => if e = d then { d with done := true } else e
    exec .drainComplete s = .next (({ s.unfocus with drains := l.filter fun e => !(e.done && e.serves.isEmpty) } : State).nextDrain
      s.arg.fn s.arg.child)) ∧
  Happens .fabricDrainAck (fun _ => True) (fun s =>
    let f := fun (d : Drain) => if d.isFor s.arg.fn s.arg.child && d.running && s.targetQuiet d s.arg.dev
      then { d with targets := d.targets.filter (· ≠ s.arg.dev) } else d
    { s with drains := s.drains.map f }) ∧
  let found := fun (s : State) => s.markers.find? fun m => m.dev = s.arg.dev && m.fn = s.arg.fn && m.child = s.arg.child && m.tag = s.arg.tag
  let acked := fun (s : State) => s.send "DRAIN_ACK" s.arg.dev
    [BitVec.ofNat 8 s.arg.fn, BitVec.ofNat 8 s.arg.child, if s.arg.tag then 1 else 0]
  Happens .fabricDrainMarker (fun s => s.awake = true ∧ found s = none ∧ s.packetsOf s.arg.dev = []) acked ∧
  Happens .fabricDrainMarker (fun s => s.awake = true ∧ found s = none ∧ s.packetsOf s.arg.dev ≠ []) (fun s => { s with
    markers := s.markers ++ [⟨s.arg.dev, s.arg.fn, s.arg.child, s.arg.tag, s.packetsOf s.arg.dev⟩] }) ∧
  ∀ s m, s.unfocus.awake = true → found s.unfocus = some m →
    ((∀ n ∈ s.unfocus.packetsOf m.dev, n ∉ m.pkts) →
      exec .fabricDrainMarker s = .next (acked { s.unfocus with markers := s.unfocus.markers.filter (· ≠ m) })) ∧
    ((∃ n ∈ s.unfocus.packetsOf m.dev, n ∈ m.pkts) → exec .fabricDrainMarker s = .next s.unfocus))

/-- LOAD_COMPLETE, STORE_PERFORMED and ATOMIC_PERFORMED: the lanes of a load that may be performed have read their values, in order; the groups of a store
or CWB are performed in the order of their highest lanes; an atomic's group is applied to its word at once, lanes in ascending order, and its old
values are on their way to D (R187, R190, R193); one that is staged reaches its block's staging port behind what stands there (R400). That the core's
line is invalidated again at the performance, and which lines are charged, are the model's (notes/assumptions/94.md, notes/assumptions/95.md).
TRANSLATION_WALK, XF_RESP_REPLAY and XF_RESP_DELIVER: a walk is charged, and one that ends in a valid leaf is cached by the core that asked and those
of its die that share it; the driver's replay makes the held split ready to try again; its delivery raises XLATE in it; an answer to a token that is not held is
ignored and logged (R284, R288). -/
def Obligations.AccessesAndTranslationPerformed : Prop :=
  (
  (∀ s o ty d, s.unfocus.op? s.arg.op = some o → o.kind = .load ty d →
    let r := s.unfocus
    let l := o.undone.filter fun i => s.arg.lanes.getLsbD i.lane && r.loadReady o i
    l ≠ [] → exec .loadComplete s = .next ((l.foldl (fun t i => t.performLoad o l i s.arg.tag) (r.loupeLanes o l (r.l1Serves o))).didLanes
      s.arg.op (l.map (·.lane)))) ∧
  HappensTo .storePerformed (fun s o => o.staged = true ∧ o.port = 0 ∧
      ∀ p ∈ s.ops, p.blk = o.blk → p.wid = o.wid → p.id < o.id → p.staged = true → p.port ≠ 0)
    (fun s o => s.mapOp o.id fun p => { p with port := s.nextPort o.blk }) ∧
  HappensTo .storePerformed (fun _ o => o.staged = false ∧ (o.kind = .store ∨ ∃ inv, o.kind = .cwb inv))
    (fun s o => State.performGroups s.arg.op s.arg.lanes s.arg.tag s [] (storeGroups o.undone)) ∧
  ∀ s o aop ty d mode i, s.unfocus.op? s.arg.op = some o → o.kind = .atom aop ty d mode →
    o.undone.find? (fun j => j.lane = s.arg.lane) = some i → i.space = .mem →
    let r := s.unfocus
    let group := o.undone.filter fun j => j.space = i.space && j.addr = i.addr
    let earlier := (o.undone.filter fun j => j.lane < s.arg.lane && !(j.space = i.space && j.addr = i.addr)).map fun j => (j, [j.lane])
    (∀ j ∈ group, s.arg.lane ≤ j.lane) → r.groupReady o earlier i = true →
    let u := (((r.loupeLanes o group fun _ => false).bookMoved o (fun _ => false) i).bookAtom o i).scrub o.fn .mem i.addr i.bytes
    (∀ j ∈ group, j.bad = false) → ∀ bs, u.fetchAt .mem i.addr i.bytes = (bs, false) →
    let t := (u.touch o.fn o.child i.addr i.bytes false).l1Drop o.core (i.addr / 128)
    let w := applyLanes aop ty mode.toNat group (ofLe bs)
    exec .atomicPerformed s = .next (((t.storeAt o.fn .mem i.addr (leBytes i.bytes w.1) (t.opRec o 0)).deliverOld o d w.2 false).didLanes
      s.arg.op (group.map (·.lane)))) ∧
  (
  (∀ s l, s.unfocus.walk s.arg.fn s.arg.child s.arg.va.toNat = .ok l →
    exec .translationWalk s = .next ((s.arg.core :: s.arg.cores.filter fun k => dieOfCore k = dieOfCore s.arg.core).foldl
      (fun t k => t.cache k s.arg.fn s.arg.child l) (s.unfocus.walked s.arg.fn s.arg.child s.arg.va.toNat))) ∧
  (∀ s h, s.unfocus.xhold? s.arg.fn s.arg.token = some h →
    let freed : State := { s.unfocus with xholds := s.unfocus.xholds.filter (· ≠ h) }
    exec .xfRespReplay s = .next (freed.mapSplitAt h.blk h.wid h.sid fun sp =>
      if sp.run = .xlate s.arg.token then { sp with run := .ready } else sp) ∧
    ∀ c, h.job = 0 → (freed.focus h.blk h.wid h.sid).cur = some c → c.blk.loaded = true → bit h.info.toNat 63 = false →
      let ready := { c with split := { c.split with run := .ready } }
      exec .xfRespDeliver s = .next (if h.passes = 0 then (freed.focus h.blk h.wid h.sid).deliver ready 0x12 h.pc h.info
        else (freed.focus h.blk h.wid h.sid).faulted ready h.passes 0x12 h.info.toNat)) ∧
  ∀ s, s.unfocus.xhold? s.arg.fn s.arg.token = none →
    exec .xfRespReplay s = .next (s.unfocus.unknownToken s.arg.fn s.arg.token) ∧
    exec .xfRespDeliver s = .next (s.unfocus.unknownToken s.arg.fn s.arg.token))

/-- LATHE_OP_START, LATHE_OP_COMPLETE, ACCRD_COMPLETE, JOB_START and JOB_COMPLETE: an operation whose turn it is asks for current, or starts once it is
granted; work is done on the one under way, which completes when nothing is left; each lane of an ACCRD or ACCWR reads or writes its element, of two
lanes that write one element the higher last (R206, R212, R215, R218, R226). COMB_PACKET_ADMIT, BATCH_START, METHOD_BUDGET_EXPIRY and COMB_COMPLETE:
a packet that no earlier one of its source stands before is admitted whole at a Chuck with room for all of it; an idle executor takes up to 64 requests of one object; a batch
that has issued 4,096 instructions aborts with METHOD; a COMB whose lanes all have their answers completes, as do a CARG, an OBJREG, and an OBJFREE
whose object has no request left (R302, R305, R307, R309, R315). -/
def Obligations.LatheJobAndCombiningEventsHappen : Prop :=
  (
  let starts := fun (s : State) (o : Op) => if o.stage = 0 then s.ask o else if o.stage = 2 then s.mapOp o.id fun p => { p with stage := 3 } else s
  HappensTo .latheOpStart (fun s o => o.kind.isLathe = true ∧ s.latheFree o = true ∧ o.complete = false ∧ o.released ≠ none ∧
    s.jobFenced o = false) starts ∧
  HappensTo .jobStart (fun s o => o.kind.isCard = true ∧ o.complete = false ∧ o.released ≠ none ∧ s.jobFenced o = false) starts ∧
  (∀ s o p, s.unfocus.op? s.arg.op = some o → o.kind.isLathe = true → o.stage = 3 → o.complete = false →
    (s.unfocus.latheWork o s.arg.steps).op? o.id = some p →
    exec .latheOpComplete s = .next (if (s.unfocus.latheWork o s.arg.steps).latheDone p
      then ((s.unfocus.latheWork o s.arg.steps).lathePlaces p).completeHeavy p
      else (s.unfocus.latheWork o s.arg.steps).markWorked p p.latheWorked)) ∧
  (HappensTo .accrdComplete (fun _ o => o.complete = false ∧ ((∃ n d, o.kind = .accrd n d) ∨ ∃ n, o.kind = .accwr n)) (fun s o =>
    let l := o.undone.filter fun i => s.arg.lanes.getLsbD i.lane &&
      !(o.undone.any fun j => j.addr = i.addr && j.lane < i.lane && !s.arg.lanes.getLsbD j.lane)
    (l.foldl (fun t i => t.accItem o i) s).didLanes o.id (l.map (·.lane)))) ∧
  ∀ s o p card, s.unfocus.op? s.arg.op = some o → o.kind = .job card → o.stage = 3 → o.complete = false →
    let t := State.jobSteps (if s.arg.units = 0 then card.units else s.arg.units) s.unfocus o.id card
    t.op? o.id = some p →
    exec .jobComplete s = .next (if card.units ≤ p.moved ∧ t.ownStaged p = false then (t.cardPlaces p card).completeHeavy p
      else t.markWorked p (card.units ≤ p.moved))) ∧
  (
  (∀ s p obj, let r := s.unfocus
    let k := r.chuck s.arg.cluster
    k.ingress.find? (·.id = s.arg.op) = some p →
    (∀ q ∈ k.ingress.takeWhile (·.id ≠ p.id), q.fn = p.fn → ∀ x ∈ q.srcs, x ∉ p.srcs) →
    (r.chuckHeld k).length + p.reqs.length ≤ 256 → ((r.chuckHeld k).filter (·.fn = p.fn)).length + p.reqs.length ≤ 128 →
    r.objOf p.fn p.oid = some obj → obj.poisoned = false → obj.freeing = false →
    let u := (r.setChuck s.arg.cluster { k with ingress := k.ingress.filter (·.id ≠ p.id) }).loupePacket p
    exec .combPacketAdmit s = .next (u.setChuck s.arg.cluster
      { u.chuck s.arg.cluster with admitted := (u.chuck s.arg.cluster).admitted ++ p.reqs })) ∧
  (∀ s fn q o, let r := s.unfocus
    let k := r.chuck s.arg.cluster
    k.running = none → ((List.range 8).map fun i => (k.lastFn + 1 + i) % 8).find? (fun f => k.admitted.any (·.fn = f)) = some fn →
    k.admitted.find? (·.fn = fn) = some q → r.obj? fn q.slot = some o →
    let reqs := (k.admitted.filter fun p => p.fn = fn && p.slot = q.slot).take 64
    ∃ t, exec .batchStart s = .next t ∧ (t.chuck s.arg.cluster).running = some r.nextBlk ∧ (t.chuck s.arg.cluster).lastFn = fn ∧
      (t.chuck s.arg.cluster).admitted = k.admitted.filter (fun p => !reqs.contains p) ∧
      ∃ b, t.blocks = r.blocks ++ [b] ∧ b.id = r.nextBlk ∧ b.fn = fn ∧ (b.method.map (·.reqs)) = some reqs ∧
        b.waves.map (·.splits.map (·.pc)) = [[o.kernel.entry]]) ∧
  (∀ s c m, (s.focus s.arg.blk 0 s.arg.sid).cur = some c → c.blk.method = some m → 4096 ≤ m.issued →
    exec .methodBudgetExpiry s = .next ((s.focus s.arg.blk 0 s.arg.sid).batchAbort c.blk m 0x23 c.split.pc)) ∧
  HappensTo .combComplete (fun _ o => o.complete = false ∧ o.staged = false ∧ ∃ d k id rep reqs sent answers,
      o.kind = .comb d k id rep reqs sent answers ∧ answers.length = reqs.length) State.finishComb ∧
  HappensTo .combComplete (fun s o => o.complete = false ∧ o.staged = false ∧ ∃ fn id obj,
      o.kind = .objfree fn id ∧ s.objOf fn id = some obj ∧ s.objectBusy obj = false)
    (fun s o => match o.kind with
      | .objfree fn id => match s.objOf fn id with
        | some obj => (s.freeObject obj).complete o.id
        | none => s
      | _ => s) ∧
  (∀ s o d, s.unfocus.op? s.arg.op = some o → o.kind = .carg d → o.complete = false → o.staged = false →
    exec .combComplete s = .next ((o.items.foldl (fun t i => match d with | some d => t.deliverTo o d i.lane i.data false | none => t)
      s.unfocus).complete o.id)) ∧
  ∀ s o d v, s.unfocus.op? s.arg.op = some o → o.kind = .objreg d v → o.complete = false → o.staged = false →
    exec .combComplete s = .next ((s.unfocus.deliverTo o d 0 v false).complete o.id))

/-! ## Steps of Tailstock, the dispatch logic and the Enlarger -/

/-- Q_TAIL_DOORBELL, RECORD_ADMIT, WAIT_RETEST, PRIORITY_AGING and LAUNCH_AGGREGATE: Q_TAIL takes the value stored, or Q_ERR its bit; the record at
Q_HEAD, or that of a LAUNCH, is admitted; a grid's waits are tested; a ready grid without a dispatched block rises by one priority, to at most 3; two
launches with one key merge (R338, R339, R343, R344, R349, R351). -/
def Obligations.QueueEventsHappen : Prop :=
  Happens .qTailDoorbell (fun s => s.awake = true) (fun s =>
    let v := s.arg.value.toNat % 2 ^ 32
    let k := s.qSize s.arg.fn s.arg.q
    if k = 0 then s.qError s.arg.fn s.arg.q 0
    else if 2 ^ k ≤ v then s.qError s.arg.fn s.arg.q 1
    else s.setCfg s.arg.fn (0x1000 + 32 * s.arg.q + 0x14) (BitVec.ofNat 64 v)) ∧
  Happens .recordAdmit (fun s => s.arg.tag = false ∧ s.queueDue s.arg.fn s.arg.q = true) (fun s => s.takeRecord s.arg.fn s.arg.q) ∧
  (∀ s o d n, s.unfocus.op? s.arg.op = some o → s.arg.tag = true → o.kind = .launch d n → s.unfocus.launchDue o = true →
    exec .recordAdmit s = .next (s.unfocus.readLaunch o d).sweepChwait) ∧
  Happens .waitRetest (fun _ => True) (fun s => s.retest s.arg.grid) ∧
  Happens .priorityAging (fun _ => True) (fun s => s.mapGrid s.arg.grid fun g =>
    if g.ready ∧ g.dispatched.isEmpty ∧ g.status.isNone then { g with prio := min 3 (g.prio + 1) } else g) ∧
  ∀ s a b, s.unfocus.grid? s.arg.grid = some a → s.unfocus.grid? s.arg.other = some b → a.handle < b.handle →
    a.fresh = true → b.fresh = true → a.mergeable = true → b.mergeable = true → a.mergeKey = b.mergeKey →
    (s.unfocus.mergedWith a.handle).length + 1 < 64 → s.unfocus.mergedWith b.handle = [] →
    exec .launchAggregate s = .next (s.unfocus.mapGrid b.handle fun g => { g with lead := some a.handle })

/-- BIND_RECORD_INSTALL, BIND_SHARE_REWRITE, BIND_WITHDRAW and BLOCK_DISPATCH: a record that passes Headstock's checks is installed, any other logged
and without effect; one of the shipped policy is of the grid that it chooses; a rewritten share becomes what the slot's waves want; a withdrawn slot
dispatches no more; the next block, or gang, of a slot, of a deterministic grid in increasing index, is placed on cores that can grant what it needs
(R344, R346, R347, R405). That the print which a record names is asked for or made, used, and at a rewrite named anew, is the model's choice
(notes/assumptions/105.md). -/
def Obligations.BindEventsHappen : Prop :=
  let chosen := fun (s : State) => s.arg.tag = true → s.policyGrid = some s.arg.bind.grid
  Happens .bindRecordInstall (fun s => chosen s ∧ (s.printAsked s.arg.bind).bindOk s.arg.cluster s.arg.slot s.arg.bind = true) (fun s =>
    let t := s.printAsked s.arg.bind
    { t with binds := t.binds ++ [{ cluster := s.arg.cluster, slot := s.arg.slot, words := s.arg.bind }], lastBound := s.arg.bind.fn }) ∧
  Happens .bindRecordInstall (fun s => chosen s ∧ (s.printAsked s.arg.bind).bindOk s.arg.cluster s.arg.slot s.arg.bind = false)
    (fun s => s.discard s.arg.bind) ∧
  Happens .bindRecordInstall (fun s => ¬ chosen s) (fun s => s) ∧
  Happens .bindShareRewrite (fun s => s.bind? s.arg.cluster s.arg.slot = none) (fun s => s.discard s.arg.bind) ∧
  (∀ s d g, s.unfocus.bind? s.arg.cluster s.arg.slot = some d → d.withdrawn = false →
    { s.arg.bind with share := d.words.share, print := d.words.print } = d.words → s.unfocus.grid? s.arg.bind.grid = some g →
    g.kernel.shareOk s.arg.bind.share = true →
    let p := s.unfocus.printAsked s.arg.bind
    s.arg.bind.print = d.words.print ∨ p.printHeld s.arg.bind.fn g.kernel s.arg.bind.share s.arg.bind.print = true →
    let t := p.mapWaves d.holds fun x => { x with wanted := s.arg.bind.share }
    let binds := p.binds.map fun e => if e = d then { d with words := s.arg.bind } else e
    let blocks := t.blocks.map fun b => if d.holds b then { b with baseShare := s.arg.bind.share } else b
    exec .bindShareRewrite s = .next { t with binds, blocks }) ∧
  Happens .bindWithdraw (fun _ => True) (fun s =>
    let binds := s.binds.map fun d => if d.cluster = s.arg.cluster && d.slot = s.arg.slot then { d with withdrawn := true } else d
    ({ s with binds } : State).sweepBinds) ∧
  ∀ s d g i, s.unfocus.bind? s.arg.cluster s.arg.slot = some d → s.unfocus.grid? d.words.grid = some g → nextBlockOf g d = some i →
    let r := s.unfocus
    let cores := (coreList d.words d.cluster).filterMap fun c =>
      if r.coreOpen g.fn g.child c then (r.grant c ⟨g.kernel, g.rcd.waves, g.rcd.tiles, d.words.share⟩).map fun q => (c, q) else none
    d.withdrawn = false → r.dispatches g = true → r.classOk d.cluster d.words.cls = true → (r.clusterOf d.cluster).changing = none →
    g.kernel.gang ≤ cores.length → r.loupeRoom g g.kernel.gang = true →
    (g.kernel.det = true → ∀ j, j < i → spGet false g.dispatched j = true ∨ spGet false g.withdrawnBlocks j = true) →
    exec .blockDispatch s = .next ((cores.take g.kernel.gang).zipIdx.foldl
      (fun t p => t.placeBlock g (i + p.2) p.1.1 p.1.2 d.words.share d.place) (r.usePrint g.fn g.child g.kernel d.words.share g.rcd.waves))

/-- CODE_PAGE_VERIFY, REBIND, FORCED_GROWTH and TURN_ADVANCE: a page whose hash matches is verified and locked, and one that does not ends the grid with
CODE_INTEGRITY; a wave whose wanted share fits moves to it once its splits have paused; on a blocked core the first waiting wave grows; once the block
at the turn has finished, the next one's staged entries are released (R247, R251, R357, R358, R402). BLOCK_RETIRE, GANG_RETIRE and GRID_RETIRE: a
block whose waves have ended and whose counters are zero retires; a gang once that holds of every member and no job is aimed at one; a grid whose
blocks are over asks for its drain, and once that is done ends with those merged with it (R257, R345, R351). That a print is made, or used, as a wave
moves to a share is the model's choice (notes/assumptions/105.md). -/
def Obligations.EnlargerAndRetirementEventsHappen : Prop :=
  (
  (∀ s c i g, let r := s.focus s.arg.blk s.arg.wid s.arg.sid
    r.cur = some c → (r.fetch c.blk c.split.pc).2 = .page i → r.gridOf c.blk = some g →
    let page := g.kernel.addr.toNat / 65536 + (i - g.kernel.hashIdx)
    let t := r.verifyPages g.fn g.child g.rcd g.kernel [i - g.kernel.hashIdx]
    r.pagePoisoned g.fn g.child page = false →
    exec .codePageVerify s = .next (bif decide (i < g.rcd.npages) && (t.hashMatches g.fn g.child g.rcd.hashtab.toNat i page).getD false
      then (t.mapGrid g.handle fun g => { g with verified := spSet false g.verified i true }).lockPage g.fn g.child page g.handle
      else t.gridAbort c.blk 0x20 c.split.pc c.wave.wid (BitVec.ofNat 64 i))) ∧
  (∀ s b w, s.unfocus.block? s.arg.blk = some b → b.waves.find? (·.wid = s.arg.wid) = some w → b.phase = .resident → b.method = none →
    w.wanted ≠ w.share → s.unfocus.shareFits b w = true → (∀ sp ∈ w.splits, s.unfocus.pausable b sp = true) →
    exec .rebind s = .next ((s.unfocus.printFor b w.wanted).mapWave b.id w.wid fun x => x.rebound w.wanted)) ∧
  (∀ s b w rest, s.unfocus.coreBlocked s.arg.core = true → s.unfocus.growers s.arg.core = (b, w) :: rest →
    let r := s.unfocus
    let order := (sortBy (fun (p : Block × Wave) => p.1.index * 32 + p.2.wid)
      ((r.quarterMates b.core w.quarter b.id w.wid).filter (·.1.phase = .resident))).reverse
    let goal := min w.wanted (r.capOf b w)
    let t := (lowerShares r (shareBytes goal w.width - r.freeFor b.core w.quarter b.id w.wid) order).printFor b goal
    exec .forcedGrowth s = .next (t.mapWave b.id w.wid fun x => { x.rebound goal with wanted := goal })) ∧
  HappensIn .turnAdvance (fun s g => g.kernel.det = true ∧ g.status = none ∧ g.turn < g.rcd.blocks ∧ s.finished g g.turn = true)
    (fun s g => (s.mapGrid g.handle fun p => { p with turn := p.turn + 1 }).releaseAll g.handle (g.turn + 1))) ∧
  (
  HappensOn .blockRetire (fun s b => b.method = none ∧ s.gangSize b = 1 ∧ s.blockOver b = true) State.retireBlock ∧
  HappensOn .gangRetire (fun s b => b.method = none ∧ 1 < s.gangSize b ∧ ∀ m ∈ s.gangOf b, s.blockOver m = true ∧ s.aimedAt m = false)
    (fun s b => (s.gangOf b).foldl State.retireBlock s) ∧
  HappensIn .gridRetire (fun s g => (∀ m ∈ g :: (s.mergedWith g.handle).filterMap s.grid?, s.gridOver m = true) ∧
      s.drainFor g.fn g.child (gridDrainer g.handle) = none)
    (fun s g => (s.askDrain g.fn g.child 5 0 (gridDrainer g.handle)).1) ∧
  ∀ s g d, s.unfocus.grid? s.arg.grid = some g →
    let l := g :: (s.unfocus.mergedWith g.handle).filterMap s.unfocus.grid?
    (∀ m ∈ l, s.unfocus.gridOver m = true) → s.unfocus.drainFor g.fn g.child (gridDrainer g.handle) = some d → d.done = true →
    exec .gridRetire s = .next ((l.foldl State.retireGrid (s.unfocus.leaveDrain d (gridDrainer g.handle))).sweepChwait))

/-! ## Steps of Headstock, the power controller and the hosts -/

/-- QUOTA_DELIVERY, PREEMPT_DELIVERY, THROTTLE_DELIVERY and HANDLER_BUDGET_OVERRUN: a P delivery at a boundary that is open to it, QUOTA first, enters the
pre-emption handler at the kernel's PREHANDLER with the resume PC recorded, or forces a save where the wave has another split or the kernel no such
handler; THROTTLE traps in the armed block's first split once no trap that goes before it is due; a wave that has not parked within its budget forces
a save (R152, R380, R381, R386, R389). -/
def Obligations.DeliveryEventsHappen : Prop :=
  HappensAt .quotaDelivery (fun s c => c.wave.quotaDue = true ∧ s.pOpen c = true)
    (fun s c => s.pDeliver { c with wave := { c.wave with quotaDue := false } }) ∧
  HappensAt .preemptDelivery (fun s c => c.wave.preemptDue = true ∧ c.wave.quotaDue = false ∧ s.pOpen c = true)
    (fun s c => s.pDeliver { c with wave := { c.wave with preemptDue := false } }) ∧
  (∀ (s : State) (c : Cur), c.wave.pre = none → c.wave.splits = [] → (s.kernelOf c.blk).prehandler ≠ 0 →
    ∃ c', (s.pDeliver c).cur = some c' ∧ c'.split.pc = (s.kernelOf c.blk).addr + BitVec.ofNat 64 (s.kernelOf c.blk).prehandler ∧
      ∃ p, c'.wave.pre = some p ∧ p.pc = c.split.boundary.pc ∧ p.exec = c.split.boundary.readMask 16 ∧ p.budget = s.preBudget c.blk ∧ p.done = none) ∧
  (∀ (s : State) (c : Cur), c.wave.pre = none → (c.wave.splits ≠ [] ∨ (s.kernelOf c.blk).prehandler = 0) →
    (s.pDeliver c).cur = some { c with blk := { c.blk with forced := true } }) ∧
  HappensAt .throttleDelivery (fun s c => (∃ v, c.blk.throttle = some v) ∧ c.blk.armed = true ∧ c.split.uni.inHandler = false ∧
      c.throttled = true ∧ c.blk.issues = true ∧ c.split.atBoundary = true ∧ c.wave.quotaDue = false ∧ c.wave.preemptDue = false ∧
      c.wave.hangDue = none ∧ s.hangReached c = false)
    (fun s c => s.takeTrap { c with blk := { c.blk with throttle := none, lastThrottle := c.blk.throttle } } 0x42 c.split.pc
      (if c.blk.throttle = some true then 1 else 0)) ∧
  HappensOn .handlerBudgetOverrun (fun s b => ∃ w ∈ b.waves, w.wid = s.arg.wid ∧ ∃ p, w.pre = some p ∧ p.done = none)
    (fun s b => s.mapBlock b.id fun b => { b with forced := true })

/-- BLOCK_SAVE, DARKROOM_SWAP, BLOCK_RESTORE and POOL_SLICE_END complete. A block that is to be saved is, with those of its partition on its core that are
to be as well: as one image, in the slot that takes it or else the save area, charged once. A saved block, or the members of a gang on distinct cores
of one cluster, come back where these can grant what they need, in a partition that is active and within its quotas; a deterministic grid's block at
the turn first. DARKROOM_SWAP saves the partitions that are due on a core, and restores what its slots held. At the end of a pool's slice its resident
member's blocks take PREEMPT, and the turn passes to the next member with work (R270, R364, R386–R388). That a partition's blocks on a core are one image,
charged once, and the slot it takes, are the model's reading (notes/assumptions/59.md); what it writes to the save area besides is its choice
(notes/assumptions/58.md), and when a pool's turn passes its reading (notes/assumptions/79.md). -/
def Obligations.SaveEventsHappen : Prop :=
  (∀ s b, s.unfocus.block? s.arg.blk = some b → s.unfocus.saveReady b = true →
    let u := s.unfocus
    let l := (u.coreBlocks b.core).filter fun x => x.fn = b.fn && x.child = b.child && u.saveReady x
    let r := if (u.poolOf (b.core / 8)).isSome = true ∨ (u.clusterOf (b.core / 8)).changing.isSome = true then u.passTime else u
    let slot := r.slotFor b.core b.fn b.child
    let t := l.foldl (fun t x => t.saveBlock (x.imageKind (r.forcedSave x)) slot (r.saves + 1) x) (r.forceGangs l)
    (∀ n, slot = some n → exec .blockSave s = .next ((({ t with
        saves := r.saves + 1, darkroom := spSet 0 t.darkroom n (8 * b.fn + b.child + 1) } : State).bookCore b.fn b.child b.core
          [(.darkroom, 886)]).settleStops b.fn)) ∧
    (slot = none → exec .blockSave s = .next (((({ t with saves := r.saves + 1 } : State).imageOut b.fn b.child).bookCore b.fn b.child
      b.core [(.darkroom, 886)]).settleStops b.fn))) ∧
  (∀ s b g q, s.unfocus.block? s.arg.blk = some b → s.unfocus.gridOf b = some g → s.unfocus.gangSize b = 1 → s.unfocus.gangOf b = [b] →
    b.isSaved = true → s.unfocus.aimedAt b = false → (g.kernel.det = true → b.index = g.turn) →
    s.unfocus.restoreFits g b s.arg.core = some q → s.unfocus.partState b.fn b.child = 1 → s.unfocus.over b.fn 0 = false →
    s.unfocus.over b.fn b.child = false → g.abort = none →
    exec .blockRestore s = .next ((s.unfocus.restoreBlock b s.arg.core q).bookCore b.fn b.child s.arg.core [(.darkroom, 886)])) ∧
  (∀ s b g qs, s.unfocus.block? s.arg.blk = some b → s.unfocus.gridOf b = some g → 1 < s.unfocus.gangSize b →
    let r := s.unfocus
    let l := r.gangOf b
    (∀ x ∈ l, x.isSaved = true ∧ r.aimedAt x = false) → l.length = s.arg.blocks.length → gangCores s.arg.blocks = true →
    (g.kernel.det = true → ∃ x ∈ l, x.index = g.turn) → (l.zip s.arg.blocks).map (fun p => r.restoreFits g p.1 p.2) = qs.map some →
    r.partState b.fn b.child = 1 → r.over b.fn 0 = false → r.over b.fn b.child = false → g.abort = none →
    exec .blockRestore s = .next (s.arg.blocks.foldl (fun t c => t.bookCore b.fn b.child c [(.darkroom, 886)])
      (((l.zip s.arg.blocks).zip qs).foldl (fun t p => t.restoreBlock p.1.1 p.1.2 p.2) r))) ∧
  (∀ s : State, let r := s.unfocus
    let saved := (r.partsOn s.arg.core).foldl (fun t p => t.saveCore s.arg.core p.1 p.2) r
    let back := fun (acc : State × List Nat) (id : Nat) => match acc.1.block? id with
      | some b => acc.1.restoreGang b (if acc.1.gangSize b = 1 then [s.arg.core] else (acc.1.gangOf b).map (·.core)) acc.2
      | none => acc
    exec .darkroomSwap s = .next (((r.inDarkroom s.arg.core).map (·.id)).foldl back (saved, [])).1) ∧
  (∀ s i m, let r := s.unfocus.passTime
    r.nextMember s.arg.pool = some i → r.residentMember s.arg.pool = some m →
    let t := r.preemptWhere fun b => b.fn = m.1 && b.child = m.2 && r.poolOf (b.core / 8) = some s.arg.pool
    exec .poolSliceEnd s = .next { t with poolTurn := spSet 0 t.poolTurn s.arg.pool (2 * i + 1) }) ∧
  (∀ s i, let r := s.unfocus.passTime
    r.nextMember s.arg.pool = some i → r.residentMember s.arg.pool = none →
    exec .poolSliceEnd s = .next { r with poolTurn := spSet 0 r.poolTurn s.arg.pool (2 * i + 1) }) ∧
  ∀ (s : State) p i, s.nextMember p = some i → ∃ m, (s.poolMembers p)[i]? = some m ∧ s.hasWork m = true

/-- CALIBRATION_EPOCH, PERIODIC_SHEET and SH_REQ complete: the static power of the time until then is booked; every rail on which something was booked takes the factor
of what it measured to what was booked, within 0.8–1.25, the rest goes to the house account, and CALEPOCH rises by one; every partition's sheet and
the house's is persisted; a host's sheet is written where its request names, and SH_STAT takes its sequence number (R372–R374, R379).
CLUSTER_REASSIGN, CLASS_CHANGE_DONE, BUDGET_CHANGE, DIE_TEMP_CHANGE, CLOCK_GATE, POWER_GATE and CORE_WAKE complete: CHANGING is set and the cluster's
blocks take PREEMPT; the class changes once no block is on the cluster; the budget, at most what the die's temperature allows, is set, and where
throttling begins or ends the armed blocks there have an event; a die's temperature sets its clusters' budgets, the inlet's those of all, and at 115 °C the device resets; a core
without ready splits is clock-gated, one without blocks power-gated, and a power-gated one woken (R272, R273, R275, R389, R416, R417). When static power
is booked, and for how long, is the model's reading (`passTime`, notes/assumptions/109.md), as is how events of throttling merge
(notes/assumptions/81.md). -/
def Obligations.AccountAndPowerEventsHappen : Prop :=
  (
  (∀ s : State, let r := s.unfocus.passTime
    ∃ t : State, exec .calibrationEpoch s = .next (t.setPr 0x864 0 0 0 (r.pr 0x864 0 0 0 + 1)) ∧ t.booked = [] ∧ t.counters = r.counters ∧
    t.house = r.house + ((List.range 16).map fun i => max (-((spGet 0 r.booked i : Nat) : Int))
      ((s.arg.rails[i]?).getD 0)).foldl (· + ·) 0 - ((spGet 0 r.booked nominalKey : Nat) : Int) ∧
    ((r.preg.map (·.1)).Pairwise (· < ·) → ∀ i, i < 16 → spGet 0 r.booked i ≠ 0 →
      let b := spGet 0 r.booked i
      t.pr 0x865 0 0 i = BitVec.ofNat 64 (min 5120 (max 3277 (((max (-(b : Int)) ((s.arg.rails[i]?).getD 0) + b).toNat * 8192 + b) / (2 * b)))))) ∧
  (∀ s : State, s.unfocus.awake = true →
    let l := ((List.range 8).flatMap fun f => (List.range 5).map fun c => (f, c)).filter fun (p : Nat × Nat) =>
      s.unfocus.partState p.1 p.2 ≠ 0
    exec .periodicSheet s = .next ((l ++ [(7, 7)]).foldl (fun (t : State) (p : Nat × Nat) => t.persistSheet p.1 p.2 0) s.unfocus)) ∧
  ∀ s f c a, s.unfocus.awake = true → s.arg.fn < 8 →
    let r := s.unfocus
    let va := (r.cfgReg s.arg.fn 0x2100).toNat
    let u := r.devWalk s.arg.fn 0 va
    u.sheetSel s.arg.fn = some (f, c) → va % 256 = 0 → u.devPlace s.arg.fn 0 va needW = some (.mem, a) → u.locked a = false →
    let t := u.closeSheet f c 1
    exec .shReq s = .next ((t.1.storeAt s.arg.fn .mem a t.2).setCfg s.arg.fn 0x2110
      (BitVec.ofNat 64 (65536 * ((spGet {} t.1.sheets (8 * f + c)).seq % 65536))))) ∧
  (
  (∀ s : State, let r := s.unfocus.passTime
    s.arg.cluster < 48 → s.arg.cls < 3 → (r.clusterOf s.arg.cluster).changing = none →
    let k := r.clusterOf s.arg.cluster
    exec .clusterReassign s = .next ((r.setCluster s.arg.cluster { k with changing := some s.arg.cls }).preemptWhere
      fun b => b.core / 8 = s.arg.cluster)) ∧
  (∀ s v, let r := s.unfocus.passTime
    (r.clusterOf s.arg.cluster).changing = some v → (∀ j, j < 8 → r.coreBlocks (8 * s.arg.cluster + j) = []) →
    exec .classChangeDone s = .next (r.setCluster s.arg.cluster
      { r.clusterOf s.arg.cluster with cls := v, changing := none })) ∧
  (∀ s : State, s.arg.cluster < 48 →
    let k := s.unfocus.clusterOf s.arg.cluster
    let v := min (min s.arg.budget (budgetAt (spGet 0 s.unfocus.hw.temp (s.arg.cluster / 12)) s.unfocus.hw.inlet)) 4096
    let t := s.unfocus.setCluster s.arg.cluster { k with budget := v }
    ((k.budget < 4096 ↔ v < 4096) → exec .budgetChange s = .next t) ∧
    (¬(k.budget < 4096 ↔ v < 4096) → exec .budgetChange s = .next { t with blocks := t.blocks.map fun b =>
      if b.core / 8 = s.arg.cluster ∧ b.method = none ∧ b.phase = .resident ∧ b.armed then b.throttleEvent (decide (v < 4096)) else b })) ∧
  (∀ s : State, s.arg.die < 4 →
    let r := s.unfocus
    let t : State := { r with hw := { r.hw with temp := spSet 0 r.hw.temp s.arg.die s.arg.temp16, inlet := s.arg.inlet16 } }
    let own := (640 < r.hw.inlet ↔ 640 < s.arg.inlet16)
    let set := fun (l : List Nat) => l.foldl (fun u cl => u.setBudget cl (budgetAt (spGet 0 u.hw.temp (cl / 12)) u.hw.inlet)) t
    let here := (List.range 48).filter fun cl => cl / 12 = s.arg.die
    (s.arg.temp16 < 1840 → own → exec .dieTempChange s = .next (set here)) ∧
    (s.arg.temp16 < 1840 → ¬own → exec .dieTempChange s = .next (set (List.range 48))) ∧
    (1840 ≤ s.arg.temp16 → own → (set here).awake = true → exec .dieTempChange s = .next ((set here).warmReset 2)) ∧
    (1840 ≤ s.arg.temp16 → ¬own → (set (List.range 48)).awake = true → exec .dieTempChange s = .next ((set (List.range 48)).warmReset 2))) ∧
  (∀ temp inlet : Int, (640 < inlet ∨ 1680 ≤ temp → budgetAt temp inlet = 1024) ∧
    (inlet ≤ 640 → temp < 1520 → budgetAt temp inlet = 4096) ∧
    (inlet ≤ 640 → 1520 ≤ temp → temp < 1680 → budgetAt temp inlet = 4096 - 256 * ((temp.toNat - 1520) / 16))) ∧
  (∀ s : State, s.unfocus.present s.arg.core = true → spGet 0 s.unfocus.hw.gate s.arg.core = 0 →
    (∀ q, q < 4 → s.unfocus.readyIn s.arg.core q = []) → exec .clockGate s = .next (s.unfocus.setGate s.arg.core 1)) ∧
  (∀ s : State, s.unfocus.present s.arg.core = true → s.unfocus.coreBlocks s.arg.core = [] →
    exec .powerGate s = .next (s.unfocus.setGate s.arg.core 2)) ∧
  ∀ s : State, spGet 0 s.unfocus.hw.gate s.arg.core = 2 → exec .coreWake s = .next (s.unfocus.setGate s.arg.core 0))

/-- ACTIVATE, RESUME, STOP, QUIESCE and DESTROY complete: of a partition other than F0's, ACTIVATE in the absent or quiesced state, where the
configuration passes its checks, opens its window and makes it active; RESUME of a stopped one within its quota; STOP of an active one signals PREEMPT
to its waves; QUIESCE of an active or stopped one ends its grids, and once these have retired and a drain at `.sys` is done persists its sheet;
DESTROY of a quiesced one ends it. One given in another state, or for F0's own, is refused, logged, and sets PRA_ERR (R365, R367). PM_QUOTA, HOMEMODE,
CC_WAYPART, PM_WAYS, POOL_CL, PRA_DATA and configuration-register accesses of the hosts complete: a quota is set and crossings undone; a granule's
home mode changes once no admitted access to it is outstanding; a scratch carve-out grows, its ways written back, or shrinks once nothing that it
surrenders is in use; a function's ways and a pool's clusters are set where they overlap no other's; PRA_DATA acts as RDPR and WRPR of what PRA_NUM
and PRA_SEL name; a function's host, or F0's, writes its configuration registers, and F0's alone the privileged ones. A write that must wait is kept, to be
tried again, and what the rules of a register do not accept is logged and sets PRA_ERR (R264–R266, R280, R359, R367, R369, R390, R393). That
a kept write gives way to a later one of its register is the model's choice (notes/assumptions/118.md). -/
def Obligations.CommandsAndHostWritesHappen : Prop :=
  (
  let given := fun (s : State) => s.awake = true ∧ s.arg.fn < 8 ∧ s.arg.child ≤ 4 ∧ (s.arg.fn = 0 → s.arg.child ≠ 0)
  let settled := fun (fn cmd : Nat) (t : State) => { t with
    hostWaits := t.hostWaits.filter fun x => !sameWrite x (0x82C, fn, 0, BitVec.ofNat 64 cmd) }
  let st := fun (s : State) => s.partState s.arg.fn s.arg.child
  Happens .activate (fun s => given s ∧ (st s = 0 ∨ st s = 4) ∧ s.configOk s.arg.fn s.arg.child = true)
    (fun s => settled s.arg.fn 1 (s.activate s.arg.fn s.arg.child)) ∧
  Happens .resume (fun s => given s ∧ st s = 3 ∧ s.aboveQuota s.arg.fn s.arg.child (s.counter s.arg.fn s.arg.child).toNat = false)
    (fun s => settled s.arg.fn 2 (s.setPartState s.arg.fn s.arg.child 1)) ∧
  Happens .stopPartition (fun s => given s ∧ st s = 1)
    (fun s => settled s.arg.fn 3 (((s.setPartState s.arg.fn s.arg.child 2).signalPreempt s.arg.fn s.arg.child).settleStops s.arg.fn)) ∧
  Happens .quiesce (fun s => given s ∧ (st s = 1 ∨ st s = 3) ∧ s.quiescing.contains (s.arg.fn, s.arg.child) = false)
    (fun s => settled s.arg.fn 4 (s.quiesce s.arg.fn s.arg.child)) ∧
  Happens .quiesce (fun s => s.quiescing.contains (s.arg.fn, s.arg.child) = true ∧ s.openGrids s.arg.fn s.arg.child = [] ∧
      s.drainFor s.arg.fn s.arg.child (quiesceDrainer s.arg.fn s.arg.child) = none)
    (fun s => (s.askDrain s.arg.fn s.arg.child 6 0 (quiesceDrainer s.arg.fn s.arg.child)).1) ∧
  (∀ s d, s.unfocus.quiescing.contains (s.arg.fn, s.arg.child) = true → s.unfocus.openGrids s.arg.fn s.arg.child = [] →
    s.unfocus.drainFor s.arg.fn s.arg.child (quiesceDrainer s.arg.fn s.arg.child) = some d → d.done = true →
    let t := (s.unfocus.leaveDrain d (quiesceDrainer s.arg.fn s.arg.child)).persistSheet s.arg.fn s.arg.child 2
    exec .quiesce s = .next { t.setPartState s.arg.fn s.arg.child 4 with
      quiescing := t.quiescing.filter (· ≠ (s.arg.fn, s.arg.child)) }) ∧
  Happens .destroy (fun s => given s ∧ st s = 4) (fun s => settled s.arg.fn 5 (s.destroy s.arg.fn s.arg.child)) ∧
  ∀ i n ok, (i, n, ok) ∈ [(Instr.activate, 1, [0, 4]), (.resume, 2, [3]), (.stopPartition, 3, [1]), (.quiesce, 4, [1, 3]), (.destroy, 5, [4])] →
    Happens i (fun s => s.awake = true ∧ s.arg.fn < 8 ∧ s.arg.child ≤ 4 ∧ (s.arg.fn = 0 ∧ s.arg.child = 0 ∨ st s ∉ ok) ∧
      (n = 4 → s.quiescing.contains (s.arg.fn, s.arg.child) = false)) (fun s => ((settled s.arg.fn n s).logRefused 0x82C).praError)) ∧
  (
  let given := fun (s : State) => s.awake = true ∧ s.arg.fn < 8
  let low := fun (s : State) => s.arg.value.toNat % 2 ^ 32
  let settled := fun (t : State) (n fn inst : Nat) (v : Dword) => { t with hostWaits := t.hostWaits.filter fun x => !sameWrite x (n, fn, inst, v) }
  Happens .pmQuotaWrite (fun s => given s ∧ s.arg.child = 0)
    (fun s => settled (s.writeQuota s.arg.fn s.arg.value) 0x825 s.arg.fn 0 s.arg.value) ∧
  Happens .pmQuotaWrite (fun s => given s ∧ 1 ≤ s.arg.child ∧ s.arg.child ≤ 4)
    (fun s => ((settled s 0x825 s.arg.fn 0 s.arg.value).logRefused 0x825).praError) ∧
  (∀ s : State, s.unfocus.awake = true →
    let r := s.unfocus
    let g := s.arg.value.toNat % 2 ^ 26
    fld s.arg.value.toNat 62 26 = 0 → g * 65536 < dramTop → spGet 0 r.flipping g = 0 → r.objectIn g = false →
    let busy := ∃ o ∈ r.ops, o.staged = false ∧ o.key < r.nextOp ∧ ∃ i ∈ o.undone, i.space = .mem ∧ i.addr / 65536 = g
    (¬ busy →
      let t := (r.writeBack .modeflip fun x => 128 * x.line / 65536 = g).l1ClearRange (g * 65536) 65536
      exec .homemodeWrite s = .next (settled { t with near := spSet false t.near g (bit s.arg.value.toNat 63), flipping := spSet 0 t.flipping g 0 }
        0x860 0 0 s.arg.value)) ∧
    (busy → exec .homemodeWrite s = .next { r with
      flipping := spSet 0 r.flipping g (2 * (r.nextOp + 1) + b2n (bit s.arg.value.toNat 63))
      hostWaits := keepWrite r.hostWaits (0x860, 0, 0, s.arg.value) })) ∧
  (∀ s : State, s.unfocus.awake = true → s.arg.fn < 8 → s.arg.cluster < 48 → spGet 0 s.unfocus.shrinking (64 * s.arg.fn + s.arg.cluster) = 0 →
    let r := s.unfocus
    let n := r.clampScrw s.arg.fn s.arg.cluster (low s)
    let done := fun (t : State) => settled t 0x841 s.arg.fn s.arg.cluster (BitVec.ofNat 64 (low s))
    let t := r.shrink s.arg.fn s.arg.cluster n
    (r.scrw s.arg.fn s.arg.cluster ≤ n → exec .ccWaypartWrite s = .next (done
      ((r.waysLeft (r.putScrw s.arg.fn s.arg.cluster n) s.arg.fn s.arg.cluster).putScrw s.arg.fn s.arg.cluster n))) ∧
    (n < r.scrw s.arg.fn s.arg.cluster → t.scratchBusy s.arg.fn s.arg.cluster n = false →
      exec .ccWaypartWrite s = .next (done (t.shrunk s.arg.fn s.arg.cluster))) ∧
    (n < r.scrw s.arg.fn s.arg.cluster → t.scratchBusy s.arg.fn s.arg.cluster n = true → exec .ccWaypartWrite s = .next { t with
      hostWaits := keepWrite t.hostWaits (0x841, s.arg.fn, s.arg.cluster, BitVec.ofNat 64 (low s)) })) ∧
  (∀ s : State, s.unfocus.awake = true → s.arg.fn < 8 → s.arg.cluster < 48 → low s < 2 ^ 21 → fld (low s) 20 16 ≤ 16 →
    let r := s.unfocus
    (∀ f, f < 8 → f ≠ s.arg.fn → (r.pr 0x840 f 0 s.arg.cluster).toNat % 2 ^ 16 &&& (low s % 2 ^ 16) = 0) →
    let set := fun (t : State) => (t.setPr 0x830 s.arg.fn 0 s.arg.cluster (BitVec.ofNat 64 (low s))).setPr 0x840 s.arg.fn 0 s.arg.cluster
      (BitVec.ofNat 64 (low s))
    (set r).clampScrw s.arg.fn s.arg.cluster (r.scrw s.arg.fn s.arg.cluster) = r.scrw s.arg.fn s.arg.cluster →
    spGet 0 r.shrinking (64 * s.arg.fn + s.arg.cluster) = 0 →
    let u := r.passTime
    exec .pmWaysWrite s = .next (settled (set (u.waysLeft (set u) s.arg.fn s.arg.cluster)) 0x830 s.arg.fn s.arg.cluster
      (BitVec.ofNat 64 (low s)))) ∧
  (∀ s : State, s.unfocus.awake = true → s.arg.pool < 8 → s.arg.value.toNat < 2 ^ 48 →
    let r := s.unfocus.passTime
    (∀ cl, cl < 48 → bit s.arg.value.toNat cl = true → r.f0ChildIn cl = false ∧ (∀ p, r.poolOf cl = some p → p = s.arg.pool) ∧
      ∀ f, 1 ≤ f → f < 8 → r.partState f 0 = 0 ∨ inSet (r.pr 0x820 f 0 0) cl = false) →
    exec .poolClWrite s = .next (settled ((r.setPr 0x850 0 0 s.arg.pool s.arg.value).leaveF0 s.arg.value.toNat) 0x850 0 s.arg.pool s.arg.value)) ∧
  (∀ s t, s.unfocus.awake = true → ((prInfo s.unfocus.praNum).map (·.canRead)).getD false = true →
    prTarget f0Caller s.unfocus.praNum s.unfocus.praSel false = .ok t →
    let r := s.unfocus
    exec .praDataRead s = .next { r with out := r.out ++ [⟨"PRA_DATA", r.hw.f0Host, leBytes 8 (r.readPr f0Caller r.praNum t)⟩] }) ∧
  (∀ s t, s.unfocus.awake = true → ((prInfo s.unfocus.praNum).map (·.canWrite)).getD false = true →
    prTarget f0Caller s.unfocus.praNum s.unfocus.praSel true = .ok t →
    let r := s.unfocus
    let wide := ((prInfo r.praNum).map (·.wide)).getD false
    let v := s.arg.value.toNat % (if wide then 2 ^ 64 else 2 ^ 32)
    let w := r.writePr r.praNum t v
    let done := fun (u : State) => settled u r.praNum t.fn t.inst (BitVec.ofNat 64 v)
    (∀ u, w = .done u → exec .praDataWrite s = .next (done u)) ∧
    (∀ u, w = .wait u → exec .praDataWrite s = .next { u with
      hostWaits := keepWrite u.hostWaits (r.praNum, t.fn, t.inst, BitVec.ofNat 64 v) }) ∧
    (w = .refused → exec .praDataWrite s = .next (((done r).logRefused r.praNum).praError)) ∧
    (r.praNum ∈ [0x827, 0x828, 0x829] → exec .praDataWrite s = .next (done (r.setPr r.praNum t.fn t.child t.inst s.arg.value)))) ∧
  Happens .praDataRead (fun s => s.awake = true ∧ ((prInfo s.praNum).map (·.canRead)).getD false = false) (fun s => s.setCfg 0 0x4018 1) ∧
  Happens .praDataWrite (fun s => s.awake = true ∧ ((prInfo s.praNum).map (·.canWrite)).getD false = false) (fun s => s.setCfg 0 0x4018 1) ∧
  Happens .configRegisterWrite (fun s => given s ∧ s.arg.tag = false ∧ (s.isF0 s.arg.adapter = true ∨ s.isHost s.arg.fn s.arg.adapter = true))
    (fun s => s.writeCfg s.arg.fn s.arg.offset s.arg.value.toNat) ∧
  ∀ s t u, s.unfocus.awake = true → s.arg.fn < 8 → s.arg.tag = true → s.unfocus.isF0 s.arg.adapter = true →
    ((prInfo s.arg.offset).map (·.canWrite)).getD false = true → prTarget f0Caller s.arg.offset (s.arg.value2.toNat % 2 ^ 32) true = .ok t →
    s.unfocus.writePr s.arg.offset t s.arg.value.toNat = .done u →
    exec .configRegisterWrite s = .next (settled u s.arg.offset t.fn t.inst s.arg.value))

/-! ## Steps of the package, the fabric and the debug port -/

/-- DESC_READ, QUOTE_RECORD, FNHOST, WINDOW_WRITE, EXPORT_WRITE and IMAGE_PUSH: a function's host is sent the description record, or the attestation
record with its certificate; F0's host binds an adapter to F1–F7; a window or an export entry is written once nothing admitted under its old
entry is outstanding; each is answered, and one that breaks a limit, or is not the adapter's to give, is refused and logged; a push of a valid image
and record on port 0 restarts a device in recovery with cause 4 (R422, R426, R427, R429–R431, R440).
HANDOFF, HANDOFF_TIMEOUT, HANDOFF_ARRIVAL and HANDOFF_RETIRE_REPORT: F0 hands a grid over, its unstarted blocks withdrawn; a grid whose wait for one
is over aborts with FEATURE_ABSENT; a record that fails its checks is refused and any other admitted for the blocks listed; the source's report is
taken once the listed blocks are over (R438, R439). -/
def Obligations.PackageAndHandoffEventsHappen : Prop :=
  (
  Happens .descRead (fun s => s.awake = true ∧ s.anyHost s.arg.adapter = true) (fun s => s.send "DESC" s.arg.adapter s.description) ∧
  Happens .quoteRecord (fun s => s.awake = true ∧ s.anyHost s.arg.adapter = true)
    (fun s => s.passTime.send "QUOTE" s.arg.adapter (s.passTime.quote s.arg.nonce ++ Config.certificate)) ∧
  Happens .fnhost (fun s => s.awake = true ∧ s.isF0 s.arg.adapter = true ∧ 1 ≤ s.arg.fn ∧ s.arg.fn ≤ 7 ∧ s.arg.value.toNat < 4096)
    (fun s => ({ s with hw := { s.hw with hosts := spSet 0 s.hw.hosts s.arg.fn (s.arg.value.toNat + 1) } } : State).send "FNHOST"
      s.arg.adapter []) ∧
  Happens .windowWrite (fun s => s.awake = true ∧ (s.isHost s.arg.fn s.arg.adapter = true ∨ s.isF0 s.arg.adapter = true) ∧ s.arg.fn < 8 ∧
      1 ≤ s.arg.entry ∧ s.arg.entry ≤ 127 ∧ s.windowBusy s.arg.fn s.arg.entry = false)
    (fun s => ({ s with windows := spSet 0 s.windows (128 * s.arg.fn + s.arg.entry) (s.arg.value &&& 0x8000000000007FFF#64) } : State).send
      "WINDOW" s.arg.adapter []) ∧
  Happens .exportWrite (fun s => s.awake = true ∧ (s.isHost s.arg.fn s.arg.adapter = true ∨ s.isF0 s.arg.adapter = true) ∧ s.arg.fn < 8 ∧
      s.arg.entry ≤ 63 ∧ s.arg.value.toNat % 2 ^ 19 ≤ 262144 ∧ s.exportBusy s.arg.fn s.arg.entry = false)
    (fun s =>
      let key := 128 * s.arg.fn + 2 * s.arg.entry
      ({ s with exports := spSet 0 (spSet 0 s.exports key (s.arg.value &&& 0xFFFFF0000007FFFF#64)) (key + 1)
                             (s.arg.value2 &&& 0x000FFFFFFFFF0000#64) } : State).send "EXPORT" s.arg.adapter []) ∧
  Happens .exportWrite (fun s => s.awake = true ∧ 262144 < s.arg.value.toNat % 2 ^ 19) (fun s => s.opRefused s.arg.adapter) ∧
  Happens .imagePush (fun s => s.hw.powered = true ∧ s.hw.running = false ∧ s.arg.port = 0 ∧ ((s.flashed s.arg.push).send "IMAGE" s.arg.adapter []).bootable = true)
    (fun s => ((s.flashed s.arg.push).send "IMAGE" s.arg.adapter []).bringUp 4) ∧
  ∀ s, s.unfocus.awake = true → s.unfocus.isF0 s.arg.adapter = false →
    ((1 ≤ s.arg.fn → s.unfocus.isHost s.arg.fn s.arg.adapter = false) →
      exec .windowWrite s = .next (s.unfocus.opRefused s.arg.adapter) ∧ exec .exportWrite s = .next (s.unfocus.opRefused s.arg.adapter)) ∧
    exec .fnhost s = .next (s.unfocus.opRefused s.arg.adapter)) ∧
  (
  HappensIn .handoff (fun s g => s.awake = true ∧ s.isF0 s.arg.adapter = true ∧ s.handoffBad g = false ∧ s.arg.tag = false)
    (fun s g => (s.handOver g s.arg.dev s.arg.other s.arg.q).send "HANDED_OFF" s.arg.adapter []) ∧
  HappensIn .handoffTimeout (fun _ g => g.status = none) State.featureAbort ∧
  (∀ s, s.unfocus.awake = true → s.arg.fn < 8 → s.arg.q < 64 → bit (s.unfocus.pr 0x82A s.arg.fn 0 0).toNat s.arg.q = true →
    let child := s.unfocus.routeOf s.arg.fn s.arg.q
    let level := b2n (bit (s.unfocus.pr 0x809 s.arg.fn 0 0).toNat s.arg.q)
    let t := s.unfocus.takeGrid { handle := 0, fn := s.arg.fn, child, queue := some s.arg.q, level, fromHandoff := some false } s.arg.bytes
      ((s.unfocus.cfgReg s.arg.fn (0x1000 + 32 * s.arg.q + 0xC)).toNat % 4)
    (s.unfocus.partState s.arg.fn child = 1 ∨ s.unfocus.partState s.arg.fn child = 3) →
    exec .handoffArrival s = .next (match (s.unfocus.checkLaunch s.arg.fn child s.arg.bytes).2 with
      | .error r => s.unfocus.send "HANDOFF_REFUSED" s.arg.dev (leBytes 4 r)
      | .ok _ => t.mapGrid s.unfocus.nextGrid fun g => { g with
          withdrawnBlocks := ((List.range g.rcd.blocks).filter fun i => !s.arg.blocks.contains i).foldl (fun m i => spSet false m i true) [] })) ∧
  HappensIn .handoffRetireReport (fun s g => g.fromHandoff = some false ∧ (∀ b ∈ s.allBlocks, b.grid = g.handle → b.method ≠ none) ∧
      (g.abort ≠ none ∨ g.retired.length + g.withdrawnBlocks.length = g.rcd.blocks))
    (fun s g => s.mapGrid g.handle fun p => { p with
      fromHandoff := some true
      abort := if p.abort = none ∧ (outcomeOf s.arg.bytes).status ≠ 0 then some (outcomeOf s.arg.bytes) else p.abort }))

/-- REMOTE_ACCESS_ARRIVAL, REMOTE_TIMEOUT, DIE_LINK_DOWN, FABRIC_PORT_DOWN and CXL_LINK_FAIL: a load, a store, an atomic's group or a CWB that an
export admits is performed at its home and answered, a COMB that one admits is queued there, and what none admits is refused and logged; what an
operation has in a window is answered with an error; a link, a port or an expander goes down, logged, and dies that lose contact reset the device
with cause 5 (R413, R430, R432, R433, R435–R437). What the arrival costs the exporting partition besides is the model's reading
(notes/assumptions/5.md). -/
def Obligations.FabricEventsHappen : Prop :=
  let due := fun (s : State) => s.awake = true ∧ s.arg.remote.tfn < 8
  let come := fun (s : State) => s.unfocus.bookFlit s.arg.remote.tfn 0
  (∀ s va a, due s.unfocus → (come s).exportedVa s.arg.remote = some va →
    let r := s.arg.remote
    let u := (come s).devWalk r.tfn 0 va
    u.exported r = some a →
    let read := (u.scrub r.tfn .mem a r.bytes).touch r.tfn 0 a r.bytes false
    let old := u.fetchAt .mem a r.bytes
    (r.kind = 0 → old.2 = false → exec .remoteAccessArrival s = .next (read.remoteAnswer r false [ofLe old.1])) ∧
    (r.kind = 0 → old.2 = true → exec .remoteAccessArrival s = .next ((read.logPoison r.tfn a).remoteAnswer r true [ofLe old.1])) ∧
    (r.kind = 1 → exec .remoteAccessArrival s = .next ((u.storeAt r.tfn .mem a (leBytes r.bytes r.data.toNat)).remoteAnswer r false [])) ∧
    (r.kind = 4 → exec .remoteAccessArrival s = .next ((u.remoteCwb r a).remoteAnswer r false [])) ∧
    let t := read.bookSlice r.tfn 0 (u.homeOf a) [(.homeatom, 1)]
    let lanes := ((r.data, r.expected) :: r.more).zipIdx.map fun p => (⟨p.2, .mem, 0, r.bytes, 0, p.1.1, p.1.2, false⟩ : Item)
    let w := applyLanes r.aop r.ty r.mode.toNat lanes (ofLe old.1)
    (r.kind = 2 → old.2 = false → exec .remoteAccessArrival s =
      .next ((t.storeAt r.tfn .mem a (leBytes r.bytes w.1)).remoteAnswer r false (w.2.map (·.2)))) ∧
    (r.kind = 2 → old.2 = true → exec .remoteAccessArrival s = .next ((t.logPoison r.tfn a).remoteAnswer r true []))) ∧
  (∀ s, due s.unfocus → s.arg.remote.kind ≠ 3 → (come s).exportedVa s.arg.remote = none →
    exec .remoteAccessArrival s = .next ((come s).remoteRefused s.arg.remote)) ∧
  (∀ s va, due s.unfocus → s.arg.remote.kind ≠ 3 → (come s).exportedVa s.arg.remote = some va →
    let u := (come s).devWalk s.arg.remote.tfn 0 va
    u.exported s.arg.remote = none → exec .remoteAccessArrival s = .next (u.remoteRefused s.arg.remote)) ∧
  (∀ s o, due s.unfocus → s.arg.remote.kind = 3 →
    let r := s.arg.remote
    let u : State := { come s with nextOp := s.unfocus.nextOp + 1 }
    u.sourceOk r.tfn 0 r.dev r.srcFn = true → bit (u.exportWord r.tfn 0 0) 60 = true → u.objOf r.tfn (r.offset % 2 ^ 24) = some o →
    let k := u.chuck (u.homeOf o.pa)
    let num := remoteBase + s.unfocus.nextOp
    exec .remoteAccessArrival s = .next (u.setChuck (u.homeOf o.pa) { k with
      ingress := k.ingress ++ [⟨num, r.tfn, r.offset % 2 ^ 24, remoteReqs s.arg (r.offset % 2 ^ 24 % 4096) num, [remoteBase + r.dev]⟩] })) ∧
  HappensTo .remoteTimeout (fun _ o => o.kind = .store)
    (fun s o => s.performStores o.id (maskOf ((o.undone.filter (·.space = .remote)).map (·.lane))) true) ∧
  HappensTo .remoteTimeout (fun _ o => ∃ ty d, o.kind = .load ty d)
    (fun s o => s.performLoads o.id (maskOf ((o.undone.filter (·.space = .remote)).map (·.lane))) true) ∧
  Happens .dieLinkDown (fun s => s.arg.port < 6 ∧ s.hw.linksDown.contains s.arg.port = false ∧ s.awake = true) (fun s =>
    let t := s.logErr 0 { code := 0x71, info := BitVec.ofNat 64 s.arg.port }
    let t : State := { t with hw := { t.hw with linksDown := t.hw.linksDown ++ [s.arg.port] } }
    if (reached t.hw.linksDown 3 [0]).length = 4 then t else t.warmReset 5) ∧
  Happens .fabricPortDown (fun s => s.arg.port < 8 ∧ s.hw.portsDown.contains s.arg.port = false) (fun s =>
    { s.logErr 0 { code := 0x71, info := BitVec.ofNat 64 s.arg.port } with
      hw := { s.hw with portsDown := s.hw.portsDown ++ [s.arg.port] } }) ∧
  Happens .cxlLinkFail (fun s => s.hw.cxlDown.contains s.arg.port = false ∧ ∃ e ∈ s.hw.cxl, e.1 = s.arg.port) (fun s =>
    { s.logErr 0 { code := 0x71, info := BitVec.ofNat 64 s.arg.port } with
      hw := { s.hw with cxlDown := s.hw.cxlDown ++ [s.arg.port] } })

/-- POWER_GOOD, COLD_POWER_LOSS, WARM_RESET, HEADSTOCK_WATCHDOG, FUNCTION_RESET, CHADY_PORT_RESUME and CHADY_PORT_WRITE complete: bring-up with cause 0,
running where the flash is bootable and else in recovery; a cold power loss keeps the persisted sheets, from which the counters resume, and loses
memory and every block; a warm reset with cause 1, or 3 of the watchdog, which keeps memory and counters and ends every block; a function reset
that its host or F0 asks for begins, and ends once all that it ends is over; a stopped wave goes on; a live symbolic register is written in every lane named,
or read, one that is not live is refused, the binding view is shown, a breakpoint set, and breakpoints are armed (R151, R243, R244, R379, R418, R421,
R426). How the port's answers are laid out is the model's choice (notes/assumptions/83.md), as is that memory without power reads as zero
(notes/assumptions/2.md, notes/assumptions/66.md). -/
def Obligations.ResetAndDebugEventsHappen : Prop :=
  (∀ s : State, s.unfocus.hw.powered = false → exec .powerGood s = .next (s.unfocus.bringUp 0)) ∧
  (∀ (s : State) n, (s.bringUp n).hw.cause = n ∧ (s.bringUp n).hw.powered = true ∧ (s.bringUp n).hw.running = s.bootable) ∧
  (∀ s : State, s.unfocus.hw.powered = true → ∃ t, exec .coldPowerLoss s = .next t ∧ t.mem = [] ∧ t.blocks = [] ∧ t.grids = [] ∧ t.ops = [] ∧
    t.persisted = s.unfocus.persisted ∧ t.hw.powered = false ∧ t.hw.running = false ∧
    ∀ f c, f < 8 → c < 5 → spGet 0 t.counters (8 * f + c) = (spGet {} s.unfocus.persisted (8 * f + c)).cend) ∧
  (∀ s : State, s.unfocus.awake = true → exec .warmReset s = .next (s.unfocus.warmReset 1) ∧
    exec .headstockWatchdog s = .next (s.unfocus.warmReset 3)) ∧
  (∀ (s : State) n, (s.warmReset n).mem = s.mem ∧ (s.warmReset n).counters = s.counters ∧ (s.warmReset n).blocks = [] ∧
    (s.warmReset n).grids = [] ∧ (s.warmReset n).ops = [] ∧ (s.warmReset n).hw.cause = n) ∧
  (∀ s : State, s.unfocus.awake = true → s.arg.fn < 8 → (s.unfocus.quiescing.contains (s.arg.fn, 7) || s.unfocus.mayReset s.arg.fn) = true →
    let t := if s.unfocus.quiescing.contains (s.arg.fn, 7) then s.unfocus else s.unfocus.beginReset s.arg.fn
    (t.resetQuiet s.arg.fn = false → exec .functionReset s = .next t) ∧
    (t.resetQuiet s.arg.fn = true → exec .functionReset s = .next (t.endReset s.arg.fn))) ∧
  (∀ s : State, exec .chadyPortResume s =
    .next (s.unfocus.mapWave s.arg.blk s.arg.wid fun w => if w.debug = 1 then { w with debug := 2 } else w)) ∧
  (∀ s blk wid sid n lanes v c, s.arg.portAct = .writeSym blk wid sid n lanes v → (s.unfocus.focus blk wid sid).cur = some c →
    let r := s.unfocus.focus blk wid sid
    let live := fun (i : Nat) => ∃ sp ∈ c.portParts, sp.owned.getLsbD i = true ∧ r.symLive c.blk sp n = true
    let into := fun (sp : Split) => sp.everywhere fun x => x.portWrite (r.kernelOf c.blk) r.symDst n lanes v
    (r.symLive c.blk c.split n = true → (∀ i, i < 128 → lanes.getLsbD i = true → live i) → exec .chadyPortWrite s =
      .next { r with cur := some { c with split := into c.split, wave := { c.wave with splits := c.wave.splits.map into } } }) ∧
    (r.symLive c.blk c.split n = false ∨ (∃ i, i < 128 ∧ lanes.getLsbD i = true ∧ ¬ live i) →
      exec .chadyPortWrite s = .next (r.portRefused c n))) ∧
  (∀ (sp : Split) k dst n lanes v i, i < 128 → spWf 0 sp.vreg = true → (∀ p ∈ sp.pend, p.reg ≠ .sym n) →
    sp.owned.getLsbD i = true → lanes.getLsbD i = true →
    spGet 0 (sp.portWrite k dst n lanes v).vreg (128 * n + i) = v) ∧
  (∀ s blk wid sid name elem lanes v b n, s.arg.portAct = .writeName blk wid sid name elem lanes v → s.unfocus.block? blk = some b →
    s.unfocus.symNamed b name elem = some n → exec .chadyPortWrite s = .next (s.unfocus.portWrites blk wid sid n lanes v)) ∧
  (∀ s blk wid sid n c, s.arg.portAct = .readSym blk wid sid n → (s.unfocus.focus blk wid sid).cur = some c →
    let r := s.unfocus.focus blk wid sid
    exec .chadyPortWrite s = .next (r.send "CHADY" 0 (r.portWords c n))) ∧
  (∀ s blk wid sid name elem c n, s.arg.portAct = .readName blk wid sid name elem → (s.unfocus.focus blk wid sid).cur = some c →
    let r := s.unfocus.focus blk wid sid
    r.symNamed c.blk name elem = some n → exec .chadyPortWrite s = .next (r.send "CHADY" 0 (r.portWords c n))) ∧
  (∀ s blk wid sid c, s.arg.portAct = .bindingView blk wid sid → (s.unfocus.focus blk wid sid).cur = some c →
    let r := s.unfocus.focus blk wid sid
    exec .chadyPortWrite s = .next (r.send "CHADY" 0 (r.portView c))) ∧
  (∀ s fn pc, s.arg.portAct = .setBreakpoint fn pc → s.unfocus.hw.breakpoints.contains (fn, pc) = false →
    let r := s.unfocus
    exec .chadyPortWrite s = .next { r with hw := { r.hw with breakpoints := r.hw.breakpoints ++ [(fn, pc)] } }) ∧
  ∀ s fn on, s.arg.portAct = .arm fn on →
    let r := s.unfocus
    let rest := r.hw.armedFns.filter (· ≠ fn)
    exec .chadyPortWrite s = .next { r with hw := { r.hw with armedFns := if on then rest ++ [fn] else rest } }

/-! ## Of every instruction and every step -/

/-- The words of every well-formed instruction decode to it and leave what follows them, as words and as the bytes memory holds; and whatever list of
words decodes is the words of one well-formed instruction followed by the rest (R32, R38, R39, R42). -/
def Obligations.DecodeInvertsEncode : Prop :=
  (∀ i ws rest, i.wf = true → encode i = some ws → decodeWords (ws ++ rest) = .ok (i, rest)) ∧
  (∀ i ws bs, i.wf = true → encode i = some ws → decode (ws.flatMap bytesOfWord ++ bs) = .ok (i, bs)) ∧
  ∀ ws i rest, decodeWords ws = .ok (i, rest) → i.wf = true ∧ ∃ own, encode i = some own ∧ ws = own ++ rest

/-- Every step keeps global memory and cluster scratch in canonical form: addresses rise and no entry holds what an unlisted address reads as. The form,
and the zero that an unlisted address reads as, are the model's (notes/assumptions/2.md). -/
def Obligations.StepKeepsMemoryCanonical : Prop :=
  Kept State.memOk

/-- After reset global memory and cluster scratch have their canonical form, which is the model's (notes/assumptions/2.md). -/
def Obligations.ResetMemoryCanonical : Prop :=
  State.memOk State.reset

/-- What reset leaves (R264, R368, R418, R421, R446): the privileged registers at the reset values of R368, of every function, child and instance, and the
others of that table at zero; F0's partition active and every other absent; F0 the only function that holds ways; no queue enabled, no grid, block or
operation; every granule spread; no window, no export; counters at zero. -/
def Obligations.ResetState : Prop :=
  let s := State.reset
  (∀ fn child inst, s.pr 0x808 fn child inst = 0x1A ∧ s.pr 0x825 fn child inst = BitVec.allOnes 64 ∧ s.pr 0x826 fn child inst = 16384 ∧
    s.pr 0x865 fn child inst = 0x1000) ∧
  (∀ reg ∈ [0x809, 0x80A, 0x80B, 0x80C, 0x80D, 0x810, 0x811, 0x812, 0x813, 0x814, 0x815, 0x816, 0x817, 0x820, 0x821, 0x822, 0x823, 0x824, 0x827, 0x828,
      0x829, 0x82A, 0x82F, 0x830, 0x841, 0x850, 0x851, 0x861, 0x864], ∀ fn child inst, s.pr reg fn child inst = 0) ∧
  s.partState 0 0 = 1 ∧ (∀ fn child, fn < 8 → child < 5 → fn ≠ 0 ∨ child ≠ 0 → s.partState fn child = 0) ∧
  (∀ fn child inst, s.pr 0x840 fn child inst = if fn = 0 then 0xFFFF else 0) ∧
  (∀ fn off, s.cfgReg fn off = 0) ∧ (∀ fn child, spGet 0 s.counters (8 * fn + child) = 0) ∧
  (∀ fn w, s.window fn w = 0) ∧ (∀ fn e k, s.exportWord fn e k = 0) ∧ (∀ g, spGet false s.near g = false) ∧
  s.grids = [] ∧ s.blocks = [] ∧ s.ops = [] ∧ s.objs = [] ∧ s.cur = none ∧ s.awake = true

/-- A step runs the instruction that the bytes at the PC decode to: the fetch of a bundle that translates, is verified, unpoisoned and without defect
gives the first instruction from its word on that issues, as decoded; and a split at an open boundary with nothing due executes it with its bundle
counted and its registers brought to its path. Step moves the split or the agent that the agenda or the choice of R162 names, and after it slots in
local memory take the values that have come to lie in them, unless a handler was entered that cannot reach a slot (R33–R36, R136, R162, R163, R239–R241); the agenda is the model's (notes/assumptions/20.md), as
is when a slot takes its value (notes/assumptions/86.md). -/
def Obligations.StepRunsTheDecodedInstruction : Prop :=
  (∀ (s : State) (b : Block) (pc : Dword) (s' : State) (sp : Space) (a : Nat) (bs : List Byte) (v : Nat) (i : Instr) (rest : List Word),
    let k := s.kernelOf b
    let ws := wordsOfBytes bs
    let u := if sp = .mem then (s'.scrub b.fn sp a 32).touch b.fn b.child a 32 false else s'.scrub b.fn sp a 32
    k.inCode (bundleOf pc) = true → s.codePlace b (bundleOf pc) = (s', .ok (sp, a)) → s'.pageReady b pc = true →
    u.fetchAt sp a 32 = (bs, false) → bundleDefect ws = none → firstIssued ws (wordOf pc) (starts ws) = some v →
    decodeWords (ws.drop v) = .ok (i, rest) →
    s.fetch b pc = (u, .instr i (pcOfWord (bundleOf pc) v) (countAt ws v) (yieldBitOf ws) (firstIssued ws (v + 1) (starts ws)).isNone)) ∧
  (∀ (s : State) (blk wid sid : Nat) (c : Cur) (t : State) (i : Instr) (pc : Dword) (cnt : Nat) (y last : Bool),
    let r := s.focus blk wid sid
    r.cur = some c → r.dueNow c = none → c.mayIssue = true → c.blk.loaded = true →
    r.fetch c.blk c.split.pc = (t, .instr i pc cnt y last) → t.stopsAt c pc = false →
    s.issueMove blk wid sid = Machine.after (fun u => u.issuedBy t.tick c pc y last)
      (exec i { t with cur := some ((c.counts pc).reaches (t.kernelOf c.blk) t.symDst pc cnt y last) })) ∧
  (∀ (s : State) blk wid sid rest, s.agenda = .issue blk wid sid :: rest →
    step s = Machine.after s.followed (({ s with agenda := rest } : State).issueMove blk wid sid)) ∧
  (∀ (s : State) i a rest, s.agenda = .ev i a :: rest →
    step s = Machine.after s.followed (Machine.after State.wake (exec i { ({ s with agenda := rest } : State).unfocus with arg := a }))) ∧
  (∀ (s : State) u hard rest, s.agenda = .upset u hard :: rest →
    step s = .next (s.followed (({ s with agenda := rest } : State).upset u hard).wake)) ∧
  (∀ (s : State) w, s.agenda = [] → s.unfocus.eventsFirst = false → s.unfocus.pick true = some w →
    step s = Machine.after s.followed (s.unfocus.issueMove w.1 w.2.1 w.2.2)) ∧
  ∀ s t : State, s.entryStop t = none → s.followed t = s.spills t

/-- Words written out from the encodings of R38, R39, R42 and the opcode map of R52 decode to the instructions they stand for. -/
def Obligations.SpecWordsDecode : Prop :=
  decodeWords [0x0A041804#32] = .ok (.iadd ⟨0x03, 0x01, 0x05⟩, []) ∧
  decodeWords [0x00000000#32] = .ok (.nop ⟨0, 0, 0⟩, []) ∧
  decodeWords [0xFF050805#32, 0x89ABCDEF#32, 0x01234567#32, 7#32] =
    .ok (.iaddLong (.lit ⟨0x21, 0x41, 0x7F⟩ 0x0123456789ABCDEF#64), [7#32]) ∧
  decodeWords [0x0001808F#32, 0x20030004#32, 0x00050006#32, 1#32, 0#32] =
    .ok (.ffma (.long (.extLit ⟨0x30, 0x2003, 0x0004, 0x0005, 0x0006⟩ 1#64)), []) ∧
  decodeWords [0x00000258#32] = .ok (.exit ⟨0, 0, 0⟩, []) ∧
  decodeWords [0x00000600#32] = .ok (.illegalOpcode 0x180 (.base ⟨0, 0, 0⟩), []) ∧
  decodeWords [0x00000074#32] = .ok (.reservedOpcode 0x01D (.base ⟨0, 0, 0⟩), []) ∧
  decodeWords [0x00000001#32, 0#32] = .error .truncated

/-- A result reaches its readers exactly when the counted distance covers its latency: a reader before that reads the register as it stood, and falls
short by the rest; from then on every listed lane reads the result and no reader falls short. In l0 and l1 the latency is less by 2, never below 1
(R56, R70). -/
def Obligations.ResultsLandAtTheirLatency : Prop :=
  ∀ (sp : Split) (r : RegId) (vals : List (Nat × Dword)) (lat n i : Nat) (v : Dword),
    (∃ m, r = .sym m ∨ r = .orf m ∨ r = .scal m) → (∀ m, r = .scal m → vals = [(0, v)] ∧ i = 0) →
    spWf 0 sp.vreg = true → spWf 0 sp.ofile = true → spWf 0 sp.uni.scal = true →
    (∀ p ∈ sp.pend, p.reg ≠ r ∧ ∀ q ∈ p.vals, q.1 < 128) → (vals.map (·.1)).Nodup → (∀ q ∈ vals, q.1 < 128 ∧ q.2.toNat < 2 ^ 32) →
    (i, v) ∈ vals →
    let d := if (r = .orf 8 ∨ r = .orf 9) ∧ lat ≠ 0 then max 1 (lat - 2) else lat
    let after := (sp.put r vals lat).advance n
    (n < d → after.read r i = sp.read r i ∧ after.short r = d - n) ∧ (d ≤ n → after.read r i = v ∧ after.short r = 0)

/-- An instruction's result changes no other register: whatever its destination, width, latency and the distance that passes, a register that is not of
the destination and has no result on its way reads in every lane as before, as does every mask (R56, R60). -/
def Obligations.OtherRegistersKeep : Prop :=
  ∀ (sp : Split) (o : Opnd) (wide : Bool) (vals : List (Nat × Nat)) (lat n : Nat) (r : RegId) (i : Nat),
    r ∉ o.regs wide → (∀ p ∈ sp.pend, p.reg ≠ r) → i < 128 → (∀ q ∈ vals, q.1 < 128) → (∀ p ∈ sp.pend, ∀ q ∈ p.vals, q.1 < 128) →
    let after := (sp.result o wide vals lat).advance n
    after.read r i = sp.read r i ∧ (∀ m, r = .mask m → after.readMask m = sp.readMask m) ∧ after.owned = sp.owned ∧ after.forks = sp.forks

/-- No instruction that needs no privilege writes global memory or cluster scratch as it issues, whatever its operands and whatever fault it takes, but
for the record of a translation fault in its function's ring (R187, R190, R287): a store reaches memory by its performance. -/
def Obligations.IssueKeepsMemory : Prop :=
  ∀ (i : Instr) (op : BitVec 9) (f : Form) (s : State) (c : Cur) (t : State),
    opcodeForm i = some (op, f) → op.toNat < 0x100 ∨ 0x106 ≤ op.toNat → s.cur = some c → exec i s = .next t →
    let fn := c.blk.fn
    let ring := (s.cfgReg fn 0xE00).toNat / 4096 * 4096 + 32 * ((s.cfgReg fn 0xE0C).toNat % s.xfCount fn)
    t.cscr = s.cscr ∧ t.cscrPoison = s.cscrPoison ∧ (s.xfCount fn = 0 → t.mem = s.mem) ∧
    ∀ a, a < ring ∨ ring + 32 ≤ a → Memory.byte t.mem a = Memory.byte s.mem a

/-- A store puts the bytes of its data at its address, lowest first, and leaves every other byte; performing a load writes no byte of global memory or
cluster scratch, and performing a store, a write-back or an atomic none outside its lanes' accesses (R85, R187, R190, R269). -/
def Obligations.StoresWriteTheirBytesOnly : Prop :=
  (∀ (s : State) fn a bs who, s.isLost a = false → Memory.wf s.mem = true → ∀ b,
    Memory.byte (s.storeAt fn .mem a bs who).mem b = if a ≤ b ∧ b < a + bs.length then nth 0 bs (b - a) else Memory.byte s.mem b) ∧
  (∀ s t, exec .loadComplete s = .next t → t.mem = s.mem ∧ t.cscr = s.cscr) ∧
  ∀ s t o i, i ∈ [Instr.storePerformed, Instr.atomicPerformed] → s.unfocus.op? s.arg.op = some o → exec i s = .next t →
    (∀ a, (∀ j ∈ o.items, j.space = .mem → a < j.addr ∨ j.addr + j.bytes ≤ a) → Memory.byte t.mem a = Memory.byte s.mem a) ∧
    ∀ a, (∀ j ∈ o.items, ∀ f, j.space = .cscr f → a < j.addr ∨ j.addr + j.bytes ≤ a) → Memory.byte t.cscr a = Memory.byte s.cscr a

/-- Memory reads back what was written: a write keeps the canonical form, gives its bytes at its addresses and leaves every other byte; and memories of
canonical form that read alike are equal. The form is the model's (notes/assumptions/2.md). -/
def Obligations.MemoryReadsBack : Prop :=
  (∀ (m : Memory) a bs, Memory.wf m = true → Memory.wf (Memory.write m a bs) = true ∧ Memory.read (Memory.write m a bs) a bs.length = bs ∧
    ∀ b, b < a ∨ a + bs.length ≤ b → Memory.byte (Memory.write m a bs) b = Memory.byte m b) ∧
  ∀ m n : Memory, Memory.wf m = true → Memory.wf n = true → (∀ a, Memory.byte m a = Memory.byte n a) → m = n

/-- TakeTrap: a THROTTLE or HANG in a kernel without a handler is dropped; any other code without one, or in a handler, aborts the grid; and otherwise
TRAP_PC, TRAP_EXEC, TRAP_CODE and TRAP_INFO take the PC, `exec`, the code and its information, the in-handler flag is set and the PC is the header's
address plus the handler's offset, with one trap event charged. Entry changes nothing else: `exec`, masks, scalars, `xi`, MODE, STATUS, RSEED,
descriptors, every lane's registers and generator, the split's lanes and forks and operations in flight stay; what held the split at its instruction
is over, and pending results keep their distances: they are set aside until the handler returns (R149; how is the model's,
notes/assumptions/91.md). -/
def Obligations.TakingAnException : Prop :=
  ∀ (s : State) (c : Cur) (code : Nat) (pc info : Dword),
    let k := s.kernelOf c.blk
    let t := s.takeTrap c code pc info
    (k.handler = 0 → code = 0x42 ∨ code = 0x60 → t = { s with cur := some c }) ∧
    (k.handler = 0 → code ≠ 0x42 → code ≠ 0x60 → t = ({ s with cur := some c } : State).gridAbort c.blk code pc c.wave.wid info) ∧
    (k.handler ≠ 0 → c.split.uni.inHandler = true → t = ({ s with cur := some c } : State).gridAbort c.blk code pc c.wave.wid info) ∧
    (k.handler ≠ 0 → c.split.uni.inHandler = false → t.ops = s.ops ∧
      ∃ l, (∀ r, r ∈ l ↔ r ∈ c.split.written ∨ r ∈ [RegId.trapPc, .trapRec, .inHandler]) ∧
        let uni := { c.split.uni with
          trapPc := pc, trapExec := c.split.readMask 16, trapCode := BitVec.ofNat 32 code, trapInfo := info, inHandler := true }
        let split := { c.split with
          uni, pc := k.addr + BitVec.ofNat 64 k.handler, run := .ready, started := false, arrived := false, since := 0, written := l
          held := c.split.pend :: c.split.held, pend := c.split.pend.map fun p => { p with ghost := true } }
        let wave := { c.wave with bundles := 0, jobFences := c.wave.jobFences.filter (·.1 ≠ c.split.sid) }
        t = ({ s with cur := some { c with wave, split } } : State).bookFor c.blk [(.trap, 1)])

/-- Decoding faults come before everything an instruction does, in order: MASKED_FEATURE where its opcode is masked from the function, which NOP, EXIT,
TRET and PRDONE never are; ACCESS with reason 1 for a method's instruction in a kernel of another role; and ACCESS with reason 2 for a privileged one
in a wave without privilege (R53, R54, R361). -/
def Obligations.DecodingFaultsComeFirst : Prop :=
  (∀ i op f s c code info, i.wf = true → opcodeForm i = some (op, f) → opcodeAssigned op.toNat = true → s.cur = some c →
    s.opcodeFault c op.toNat (formLen f) = some (code, info) → ∃ n, exec i s = .next (s.faulted c n code info)) ∧
  ∀ (s : State) (c : Cur) (op len : Nat), op < 512 →
    (s.opMasked c.blk.fn op = true → s.opcodeFault c op len = some (0x03, len * 512 + op)) ∧
    (op ∈ [0x000, 0x096, 0x099, 0x102] → s.opMasked c.blk.fn op = false) ∧
    (s.opMasked c.blk.fn op = false → 0x0EB ≤ op → op ≤ 0x0EE → (s.kernelOf c.blk).role ≠ 1 →
      s.opcodeFault c op len = some (0x11, 2 ^ 63 + op * 256 + 1)) ∧
    (s.opMasked c.blk.fn op = false → 0x100 ≤ op → op ≤ 0x105 → c.blk.method = none → c.wave.pre = none → c.wave.level = 0 →
      s.opcodeFault c op len = some (0x11, 2 ^ 63 + op * 256 + 2)) ∧
    (s.opMasked c.blk.fn op = false → op < 0x0EB ∨ 0x0EE < op → op < 0x100 → c.blk.method = none → s.opcodeFault c op len = none)

/-- A booking raises its partition's counter, and the level-1 partition's that includes it, by its units, up to the largest of 96 bits; no other counter
changes, no booking lowers any, and a warm reset keeps them all (R375). -/
def Obligations.CountersOnlyRise : Prop :=
  (∀ (s : State) (fn child units : Nat), spWf 0 s.counters = true → child < 8 →
    let t := s.bookUnits fn child units
    let up := fun key => min ((spGet 0 s.counters key).toNat + units) (2 ^ 96 - 1)
    (spGet 0 t.counters (8 * fn + child)).toNat = up (8 * fn + child) ∧ (spGet 0 t.counters (8 * fn)).toNat = up (8 * fn) ∧
    (∀ key, key ≠ 8 * fn + child → key ≠ 8 * fn → spGet 0 t.counters key = spGet 0 s.counters key) ∧
    ∀ key, spGet 0 s.counters key ≤ spGet 0 t.counters key) ∧
  ∀ s : State, s.warmDomain.counters = s.counters
end

