-- ==== Sys2Proof/Laws/Calm.lean ====
section
/-! SUPPORT. What bookings, translations, logged errors and the reads of caches leave alone, said once: everything but accounts, logs,
caches and the marks of a quota's crossing. An instruction's operands are made ready so (R239). -/
namespace Sys2Proof.Machine

/-- A state with the accounts, the logs, the caches, the blocks and the split that issues of another. -/
def State.accountsOf (s t : State) : State :=
  { s with
    cur := t.cur, blocks := t.blocks, preg := t.preg, counters := t.counters, sheets := t.sheets, booked := t.booked, fresh := t.fresh
    crossings := t.crossings, tlb := t.tlb, errRec := t.errRec, errUE := t.errUE, errCE := t.errCE, soft := t.soft, lines := t.lines
    l1 := t.l1 }

/-- One state differs from another at most in the accounts, the logs, the caches, and the blocks' marks; a split that issues is one of
a wave of the same width. -/
def State.Calm (s t : State) : Prop := t = s.accountsOf t ∧ t.cur.map (·.wave.width) = s.cur.map (·.wave.width)

namespace State.Calm

theorem refl (s : State) : s.Calm s := ⟨rfl, rfl⟩

theorem trans {s t u : State} (h : s.Calm t) (k : t.Calm u) : s.Calm u :=
  ⟨k.1.trans ((congrArg (fun v : State => v.accountsOf u) h.1).trans rfl), k.2.trans h.2⟩

theorem foldl {α : Type} {f : State → α → State} (hf : ∀ (s : State) a, s.Calm (f s a)) (l : List α) (s : State) : s.Calm (l.foldl f s) := by
  induction l generalizing s with
  | nil => exact refl s
  | cons a l ih => exact (hf s a).trans (ih _)

/-- Memory and what lies in it, the operations in flight, the grids, the clusters and the objects are the same. -/
theorem mem {s t : State} (h : s.Calm t) : t.mem = s.mem := (congrArg State.mem h.1).trans rfl
theorem memPoison {s t : State} (h : s.Calm t) : t.memPoison = s.memPoison := (congrArg State.memPoison h.1).trans rfl
theorem cscr {s t : State} (h : s.Calm t) : t.cscr = s.cscr := (congrArg State.cscr h.1).trans rfl
theorem cscrPoison {s t : State} (h : s.Calm t) : t.cscrPoison = s.cscrPoison := (congrArg State.cscrPoison h.1).trans rfl
theorem ops {s t : State} (h : s.Calm t) : t.ops = s.ops := (congrArg State.ops h.1).trans rfl
theorem nextOp {s t : State} (h : s.Calm t) : t.nextOp = s.nextOp := (congrArg State.nextOp h.1).trans rfl
theorem grids {s t : State} (h : s.Calm t) : t.grids = s.grids := (congrArg State.grids h.1).trans rfl
theorem clusters {s t : State} (h : s.Calm t) : t.clusters = s.clusters := (congrArg State.clusters h.1).trans rfl
theorem objs {s t : State} (h : s.Calm t) : t.objs = s.objs := (congrArg State.objs h.1).trans rfl
theorem cfg {s t : State} (h : s.Calm t) : t.cfg = s.cfg := (congrArg State.cfg h.1).trans rfl
theorem hw {s t : State} (h : s.Calm t) : t.hw = s.hw := (congrArg State.hw h.1).trans rfl
theorem agenda {s t : State} (h : s.Calm t) : t.agenda = s.agenda := (congrArg State.agenda h.1).trans rfl
theorem arg {s t : State} (h : s.Calm t) : t.arg = s.arg := (congrArg State.arg h.1).trans rfl
theorem tick {s t : State} (h : s.Calm t) : t.tick = s.tick := (congrArg State.tick h.1).trans rfl
theorem width {s t : State} (h : s.Calm t) : t.cur.map (·.wave.width) = s.cur.map (·.wave.width) := h.2

/-! ## Accounts -/

theorem setPr (s : State) (n fn child inst : Nat) (v : Dword) : s.Calm (s.setPr n fn child inst v) :=
  ⟨rfl, rfl⟩

theorem stopping (s : State) (fn child : Nat) : s.Calm (s.stopping fn child) := by
  unfold State.stopping; split
  · exact setPr ..
  · exact refl s

theorem mapWaves (s : State) (p : Block → Bool) (f : Wave → Wave) (hf : ∀ w, (f w).width = w.width) : s.Calm (s.mapWaves p f) := by
  refine ⟨rfl, ?_⟩
  cases h : s.cur with
  | none => simp [State.mapWaves, h]
  | some c =>
    simp only [State.mapWaves, h, Option.map_some]
    split <;> simp [hf]

theorem settleStop (s : State) (fn child : Nat) : s.Calm (s.settleStop fn child) := by
  have h : ∀ (t : State) l, t.Calm { t with crossings := l } := fun t l => ⟨rfl, rfl⟩
  unfold State.settleStop; split
  · dsimp only; split
    · exact (setPr ..).trans (h ..)
    · exact setPr ..
  · exact refl s

theorem settleStops (s : State) (fn : Nat) : s.Calm (s.settleStops fn) := foldl (fun s k => settleStop s fn k) _ _

theorem cross (s : State) (fn child : Nat) : s.Calm (s.cross fn child) := by
  have h : ∀ (t : State) l, t.Calm { t with crossings := l } := fun t l => ⟨rfl, rfl⟩
  have k : ∀ l : List Nat, s.Calm (l.foldl (fun s k => s.stopping fn k) (s.setOver fn child true)) := fun l =>
    (setPr s ..).trans (foldl (fun s k => stopping s fn k) _ _)
  unfold State.cross
  dsimp only
  generalize (if child = 0 then [0, 1, 2, 3, 4] else [child]) = l
  refine trans ?_ (settleStops ..)
  refine trans ?_ (mapWaves _ _ _ fun _ => rfl)
  split
  · exact (k l).trans (h ..)
  · exact k l

theorem bump (s : State) (fn child units : Nat) : s.Calm (s.bump fn child units) := by
  unfold State.bump
  dsimp only
  have h : ∀ l, s.Calm { s with counters := l } := fun l => ⟨rfl, rfl⟩
  have n : ∀ t : State, t.Calm (t.noteCrossed fn child) := fun t => ⟨rfl, rfl⟩
  split
  · exact h _
  · split
    · exact (h _).trans (n _)
    · exact ((h _).trans (cross ..)).trans (n _)

theorem bookUnits (s : State) (fn child units : Nat) : s.Calm (s.bookUnits fn child units) := by
  unfold State.bookUnits; split
  · exact bump ..
  · exact (bump ..).trans (bump ..)

theorem book (s : State) (fn child rail cls : Nat) (evs : List (Ev × Nat)) : s.Calm (s.book fn child rail cls evs) := by
  unfold State.book; dsimp only; split
  · exact refl s
  · exact (bookUnits ..).trans (⟨rfl, rfl⟩)

theorem bookCore (s : State) (fn child core : Nat) (evs : List (Ev × Nat)) : s.Calm (s.bookCore fn child core evs) := book ..

/-! ## Logs -/

theorem logErr (s : State) (fn : Nat) (r : ErrRec) (ue : Bool) : s.Calm (s.logErr fn r ue) := ⟨rfl, rfl⟩
theorem countCE (s : State) (fn n : Nat) : s.Calm (s.countCE fn n) := ⟨rfl, rfl⟩

/-! ## Caches and the words they hold -/

theorem scrubWords (s : State) (fn : Nat) (l : List Word8) : s.Calm (s.scrubWords fn l) := by
  unfold State.scrubWords; split
  · exact refl s
  · dsimp only; split
    · exact refl s
    · have h : ∀ l, s.Calm { s with soft := l } := fun l => ⟨rfl, rfl⟩
      exact (h _).trans (countCE ..)

theorem scrub (s : State) (fn : Nat) (sp : Space) (a n : Nat) : s.Calm (s.scrub fn sp a n) := by
  unfold State.scrub; split
  · exact refl s
  · exact scrubWords ..

theorem bookLine (s : State) (fn child l : Nat) : s.Calm (s.bookLine fn child l) := by
  unfold State.bookLine; split <;> exact book ..

theorem touchLine (s : State) (fn child l : Nat) (write : Bool) : s.Calm (s.touchLine fn child l write) := by
  have k : ∀ (t : State) (x : List SliceLine), t.Calm { t with lines := x } := fun t x => ⟨rfl, rfl⟩
  unfold State.touchLine
  dsimp only
  split
  · split <;> exact k ..
  · split
    · exact bookLine ..
    · refine ((bookLine s fn child l).trans ?_).trans (k ..)
      split
      · split
        · exact bookLine ..
        · exact refl _
      · exact refl _

theorem touch (s : State) (fn child a n : Nat) (write : Bool) : s.Calm (s.touch fn child a n write) :=
  foldl (fun s l => touchLine s fn child l write) _ _

/-! ## Translations (R282–R285) -/

theorem walked (s : State) (fn child va : Nat) : s.Calm (s.walked fn child va) := by
  have h : ∀ l : List Nat, s.Calm (l.foldl (fun s a => (s.scrub fn .mem a 8).touch fn child a 8 false)
      (s.book fn child 14 0 [(.walk, (s.walkAll fn child va).1.length)])) := fun l =>
    (book ..).trans (foldl (fun t a => (scrub t ..).trans (touch ..)) _ _)
  unfold State.walked; dsimp only
  split
  · exact h _
  · split
    · exact (h _).trans (logErr ..)
    · exact h _

theorem cacheAt (s : State) (at_ fn child : Nat) (l : Leaf) : s.Calm (s.cacheAt at_ fn child l) := ⟨rfl, rfl⟩

theorem cache (s : State) (core fn child : Nat) (l : Leaf) : s.Calm (s.cache core fn child l) := (cacheAt ..).trans (cacheAt ..)

theorem takeFree (s : State) : s.Calm s.takeFree.1 := ⟨rfl, rfl⟩

theorem serves (s : State) (fn child va : Nat) (l : Option Leaf) : s.Calm (s.serves fn child va l).1 := by
  unfold State.serves
  split
  · exact refl s
  · split
    · exact refl s
    · exact takeFree s

theorem leafOf (s : State) (core fn child va : Nat) : s.Calm (s.leafOf core fn child va).1 := by
  unfold State.leafOf
  have h := serves s fn child va (s.cachedAt core fn child va)
  split
  · rename_i e; rw [e] at h; exact h.trans (cacheAt ..)
  · rename_i t e
    rw [e] at h
    have k := serves t fn child va (t.cachedAt (clusterTlb core) fn child va)
    split
    · rename_i e'; rw [e'] at k; exact (h.trans k).trans (cache ..)
    · rename_i e'; rw [e'] at k
      split
      · exact ((h.trans k).trans (walked ..)).trans (cache ..)
      · exact (h.trans k).trans (walked ..)

theorem place (s : State) (core fn child va : Nat) (need : BitVec 3) : s.Calm (s.place core fn child va need).1 := by
  have h := leafOf s core fn child va
  unfold State.place
  split
  · exact refl s
  · exact refl s
  · exact refl s
  · split
    · rename_i he; rw [he] at h; exact h
    · rename_i he; rw [he] at h
      split <;> exact h

/-! ## First-level caches -/

theorem l1Use (s : State) (l : L1Line) : s.Calm (s.l1Use l) := ⟨rfl, rfl⟩

theorem pairFold {α β : Type} {f : State × β → α → State × β} (hf : ∀ (x : State × β) a, x.1.Calm (f x a).1) (l : List α) (x : State × β) :
    x.1.Calm (l.foldl f x).1 := by
  induction l generalizing x with
  | nil => exact refl _
  | cons a l ih => exact (hf x a).trans (ih _)

theorem renew (s : State) (w : Word8) : s.Calm (s.renew w) := by
  unfold State.renew; split
  · exact refl s
  · exact ⟨rfl, rfl⟩

theorem l1Bytes (s : State) (fn child core pa n : Nat) : s.Calm (s.l1Bytes fn child core pa n).1 := by
  unfold State.l1Bytes
  refine pairFold (fun x a => ?_) _ (s, [], [])
  dsimp only
  split
  · exact (scrubWords ..).trans (l1Use ..)
  · exact ((((scrub ..).trans (touchLine ..)).trans (bookCore ..)).trans (renew ..)).trans (l1Use ..)

theorem rewrite (s : State) (fn : Nat) (sp : Space) (a n : Nat) : s.Calm (s.rewrite fn sp a n) := by
  have h : ∀ l, s.Calm { s with soft := l } := fun l => ⟨rfl, rfl⟩
  unfold State.rewrite; split
  · exact refl s
  · exact (h _).trans (scrub ..)

theorem l1Store (s : State) (core a : Nat) (bs : List Byte) (bad : Bool) : s.Calm (s.l1Store core a bs bad) := by
  unfold State.l1Store; split
  · exact refl s
  · exact l1Use ..

theorem bookFor (s : State) (b : Block) (evs : List (Ev × Nat)) : s.Calm (s.bookFor b evs) := by
  unfold State.bookFor; split
  · refine ⟨rfl, ?_⟩
    cases h : s.cur with
    | none => simp [State.mapBlock, h]
    | some c => simp only [State.mapBlock, h, Option.map_some]; split <;> rfl
  · exact bookCore ..

/-! ## Slots read (R239) -/

theorem readRow (s : State) (b : Block) (a : SpillArea) (wid n : Nat) : s.Calm (s.readRow b a wid n).1 := by
  unfold State.readRow
  dsimp only
  split
  · split
    · exact refl s
    · exact scrubWords ..
  · split
    · exact refl s
    · refine pairFold (fun x p => ?_) _ (s, some ([], []))
      obtain ⟨t, o⟩ := x
      have h := place t b.core b.fn b.child p.1 needR
      dsimp only
      generalize t.place b.core b.fn b.child p.1 needR = r at h ⊢
      obtain ⟨u, e⟩ := r
      cases o with
      | none => exact h
      | some _ => cases e with
        | error _ => exact h
        | ok k =>
          obtain ⟨sp, key⟩ := k
          cases sp <;> first | exact h.trans (l1Bytes ..) | exact h.trans (scrub ..)

theorem fill (s : State) (b : Block) (a : SpillArea) (wid : Nat) (ps : SlotParts) (l : List (Nat × Nat)) (sp : Split) :
    s.Calm (s.fill b a wid ps l sp).1 := by
  unfold State.fill
  refine pairFold (fun x e => ?_) _ (s, sp)
  obtain ⟨t, u⟩ := x
  have h := readRow t b a wid e.2
  dsimp only
  generalize t.readRow b a wid e.2 = r at h ⊢
  obtain ⟨v, o⟩ := r
  cases o <;> exact h

theorem drawIn (s : State) (b : Block) (a : SpillArea) (restored : Bool) (old w : Wave) (sp : Split) :
    s.Calm (s.drawIn b a restored old w sp).1 := by
  unfold State.drawIn; dsimp only; split
  · exact refl s
  · have h : s.Calm (if restored = true then s else s.bookFor b
        [(.rebind, ((sp.parts.flatMap fun x => (old.moved a.kernel w.share x).map (·.1)).eraseDups).length)]) := by
      split
      · exact refl s
      · exact bookFor ..
    refine (h.trans (fill ..)).trans (pairFold (fun x f => ?_) _ _)
    split
    · exact refl _
    · exact fill ..

/-- The split that issues changed. -/
theorem mapCur (s : State) (f : Cur → Cur) (hf : ∀ c, (f c).wave = c.wave) : s.Calm { s with cur := s.cur.map f } :=
  ⟨rfl, by simp [Function.comp_def, hf]⟩

/-! ## An instruction's operands (R81, R82, R239) -/

theorem readRegs (s : State) (act : Mask) (regs : List RegId) : s.Calm (s.readRegs act regs) := by
  unfold State.readRegs
  split
  · exact refl s
  · rename_i c hc
    split
    · exact refl s
    · dsimp only
      have h : ∀ d : Cur, d.wave.width = c.wave.width → s.Calm { s with cur := some d } :=
        fun d hd => ⟨rfl, by simp [hc, hd]⟩
      refine trans ?_ (foldl (fun s _ => logErr ..) _ _)
      split
      · exact h _ rfl
      · exact (h _ rfl).trans (countCE ..)

theorem prepare (s : State) (x : Ctx) : s.Calm (s.prepare x) := by
  unfold State.prepare
  split
  · exact refl s
  · rename_i c hc
    dsimp only
    refine trans ?_ (readRegs ..)
    refine trans ?_ (mapCur _ (fun y => { y with split := _, slots := _ }) fun _ => rfl)
    generalize (if (s.unitSlots c x).isEmpty = true then [] else _) = l
    cases l.isEmpty
    · exact fill ..
    · exact refl s

end State.Calm

end Sys2Proof.Machine
end

