-- ==== Sys2Proof/Laws/Issue.lean ====
section
/-! SUPPORT. What the issue of an instruction does once its checks pass, said once for all meanings: the outcome follows from the
instruction's body alone. -/
namespace Sys2Proof.Machine

@[simp] theorem Cur.counted_split (c : Cur) : c.counted.split = c.split := by
  unfold Cur.counted; split <;> rfl

@[simp] theorem Cur.counted_wid (c : Cur) : c.counted.wave.wid = c.wave.wid := by
  unfold Cur.counted; split <;> rfl

@[simp] theorem Cur.counted_level (c : Cur) : c.counted.wave.level = c.wave.level := by
  unfold Cur.counted; split <;> rfl

@[simp] theorem Cur.counted_width (c : Cur) : c.counted.wave.width = c.wave.width := by
  unfold Cur.counted; split <;> rfl

@[simp] theorem Cur.counted_share (c : Cur) : c.counted.wave.share = c.wave.share := by
  unfold Cur.counted; split <;> rfl

@[simp] theorem Cur.counted_wanted (c : Cur) : c.counted.wave.wanted = c.wave.wanted := by
  unfold Cur.counted; split <;> rfl

@[simp] theorem Cur.counted_splits (c : Cur) : c.counted.wave.splits = c.wave.splits := by
  unfold Cur.counted; split <;> rfl

@[simp] theorem Cur.counted_pre (c : Cur) : c.counted.wave.pre = c.wave.pre := by
  unfold Cur.counted; split <;> rfl

@[simp] theorem Cur.counted_nextFork (c : Cur) : c.counted.wave.nextFork = c.wave.nextFork := by
  unfold Cur.counted; split <;> rfl

@[simp] theorem Cur.counted_nextSid (c : Cur) : c.counted.wave.nextSid = c.wave.nextSid := by
  unfold Cur.counted; split <;> rfl

@[simp] theorem Cur.counted_fn (c : Cur) : c.counted.blk.fn = c.blk.fn := by
  unfold Cur.counted; split <;> rfl

@[simp] theorem Cur.counted_child (c : Cur) : c.counted.blk.child = c.blk.child := by
  unfold Cur.counted; split <;> rfl

@[simp] theorem Cur.counted_core (c : Cur) : c.counted.blk.core = c.blk.core := by
  unfold Cur.counted; split <;> rfl

@[simp] theorem Cur.counted_id (c : Cur) : c.counted.blk.id = c.blk.id := by
  unfold Cur.counted; split <;> rfl

@[simp] theorem Cur.counted_grid (c : Cur) : c.counted.blk.grid = c.blk.grid := by
  unfold Cur.counted; split <;> rfl

@[simp] theorem Cur.counted_index (c : Cur) : c.counted.blk.index = c.blk.index := by
  unfold Cur.counted; split <;> rfl

/-- A split that has issued and waits is counted no second time. -/
theorem Cur.counted_started {c : Cur} (h : c.split.started = true) : c.counted = c := by
  simp [Cur.counted, h]

/-- The split that issues is one of a wave of the same width once its operands stand ready. -/
theorem State.prepare_width {s : State} {c0 c : Cur} {x : Ctx} (h0 : s.cur = some c0) (h : (s.prepare x).cur = some c) :
    c.wave.width = c0.wave.width := by
  have k := (State.Calm.prepare s x).width
  rw [h0, h] at k
  simpa using k

/-- Where a result sends control to, so that its moves are checked first (R240). -/
def Res.target : Res → Option Dword
  | .jump _ _ t => some t
  | .forked _ _ t => some t
  | _ => none

/-- What an instruction does whose checks have passed, and whose transfer needs no move that cannot be made, is what its body's result
says. -/
theorem issueOp_of_issues {s : State} {c : Cur} {op : Nat} {f : Form} {spec : Nat → Spec} {x : Ctx}
    (h : Issues s c op f spec x) (body : State → Cur → Ctx → Res)
    (hj : ∀ t, (body (s.ready c x) c.counted x).target = some t → (s.prepare x).edgeStop c (passesOf c f spec) op t = none) :
    s.issueOp op f spec body =
      .next ((s.prepare x).conclude c (passesOf c f spec) (formWords f) (body (s.ready c x) c.counted x)) := by
  obtain ⟨⟨c0, h1, h2, h3, h4, h5⟩, h6, h7, h8⟩ := h
  have hp : passesOf c0 f spec = passesOf c f spec := by simp only [passesOf, State.prepare_width h1 h6]
  simp only [rawOf, specOf] at h2 h3 h4
  rw [hp] at h5
  rw [show passesOf c0 f spec = (spec (Raw.of (spec 0).b.isSome f).m).passes (Raw.of (spec 0).b.isSome f) c0.wave.width from rfl] at hp
  have hg : (!x.once && !(s.prepare x).burstFree c) = false := by
    cases hx : x.once <;> simp_all
  simp only [State.issueOp, h1, State.issueBy, h2, h3, h4, hp, h5, h6, State.runs, h7, hg, Bool.false_eq_true, if_false]
  rw [show (if x.once = true then ({ s.prepare x with cur := some c.counted } : State)
    else ({ s.prepare x with cur := some c.counted } : State).burst c) = s.ready c x from rfl]
  revert hj
  generalize body (s.ready c x) c.counted x = r
  intro hj
  cases r <;> simp_all [Res.target]

/-- The outcome of an instruction from its body's result. -/
theorem exec_of_body {s : State} {c : Cur} {op : Nat} {f : Form} {spec : Nat → Spec} {x : Ctx} {i : Instr}
    {body : State → Cur → Ctx → Res} {r : Res} (he : ∀ s, exec i s = s.issueOp op f spec body) (h : Issues s c op f spec x)
    (hb : body (s.ready c x) c.counted x = r)
    (hj : ∀ t, r.target = some t → (s.prepare x).edgeStop c (passesOf c f spec) op t = none) :
    exec i s = .next ((s.prepare x).conclude c (passesOf c f spec) (formWords f) r) := by
  rw [he, issueOp_of_issues h _ (by rw [hb]; exact hj), hb]

/-- The outcome of an instruction whose body transfers control nowhere. -/
theorem exec_of_body' {s : State} {c : Cur} {op : Nat} {f : Form} {spec : Nat → Spec} {x : Ctx} {i : Instr}
    {body : State → Cur → Ctx → Res} {r : Res} (he : ∀ s, exec i s = s.issueOp op f spec body) (h : Issues s c op f spec x)
    (hb : body (s.ready c x) c.counted x = r) (hn : r.target = none) :
    exec i s = .next ((s.prepare x).conclude c (passesOf c f spec) (formWords f) r) :=
  exec_of_body he h hb fun t ht => by rw [hn] at ht; cases ht

/-! ## What comes of each result -/

@[simp] theorem State.conclude_done (s s' : State) (c : Cur) (p w : Nat) (ev : List (Ev × Nat)) :
    s.conclude c p w (.done s' ev) = (s'.bookIssue c p ev).finish (nextPc c.split.pc w) := rfl

@[simp] theorem State.conclude_jump (s s' : State) (c : Cur) (p w : Nat) (ev : List (Ev × Nat)) (t : Dword) :
    s.conclude c p w (.jump s' ev t) = (s'.bookIssue c p ev).finish t := rfl

@[simp] theorem State.conclude_gone (s s' : State) (c : Cur) (p w : Nat) (ev : List (Ev × Nat)) :
    s.conclude c p w (.gone s' ev) = { s'.bookIssue c p ev with tick := max s'.tick (s.tick + 1) } := rfl

@[simp] theorem State.conclude_booked (s s' : State) (c : Cur) (p w : Nat) :
    s.conclude c p w (.booked s') = s'.finish (nextPc c.split.pc w) := rfl

@[simp] theorem State.conclude_fault (s : State) (c : Cur) (p w code info : Nat) :
    s.conclude c p w (.fault code info) = s.faulted c p code info := rfl

@[simp] theorem State.conclude_faultIn (s s' : State) (c : Cur) (p w code info : Nat) :
    s.conclude c p w (.faultIn s' code info) = s'.faulted c p code info := rfl

@[simp] theorem State.conclude_hold (s : State) (c : Cur) (p w : Nat) : s.conclude c p w .hold = s.heldAt c := rfl

@[simp] theorem State.conclude_wait (s s' : State) (c : Cur) (f : Form) (spec : Nat → Spec) (w : Nat) (ev : List (Ev × Nat)) :
    s.conclude c (passesOf c f spec) w (.wait s' ev) = s'.waiting c f spec ev := rfl

/-- An instruction whose body changes nothing but its split's registers. -/
theorem leaves_of_body {op : Nat} {spec : Nat → Spec} {ev : Ctx → List (Ev × Nat)} {r : Cur → Ctx → Split} {f : Form} {i : Instr}
    {body : State → Cur → Ctx → Res} (he : ∀ s, exec i s = s.issueOp op f spec body)
    (hb : ∀ s c x, body s c x = doneWith s c (r c x) (ev x)) (hr : ∀ c x, r c.counted x = r c x) : Leaves op spec ev r i f := by
  intro s c x h
  rw [exec_of_body' he h (hb _ _ _) rfl]
  simp [doneWith, State.conclude, State.after, State.ended, State.inSplit, Cur.next, hr]

/-- An instruction that computes one value at each of its sites. -/
theorem computes_of_body {op : Nat} {spec : Nat → Spec} {ev : Ev} {v : Ctx → Split → Nat → Nat} {f : Form} {i : Instr}
    {body : State → Cur → Ctx → Res} (he : ∀ s, exec i s = s.issueOp op f spec body)
    (hb : ∀ s c x, body s c x = laneOp ev v s c x) : Computes op spec ev v i f :=
  leaves_of_body he hb fun c x => by simp

/-- An instruction that computes one bit in each active lane. -/
theorem tests_of_body {op : Nat} {spec : Nat → Spec} {ev : Ev} {v : Ctx → Split → Nat → Bool} {f : Form} {i : Instr}
    {body : State → Cur → Ctx → Res} (he : ∀ s, exec i s = s.issueOp op f spec body)
    (hb : ∀ s c x, body s c x = maskOp ev v s c x) : Tests op spec ev v i f :=
  leaves_of_body he hb fun c x => by simp

/-- An instruction that rounds. -/
theorem rounds_of_body {op : Nat} {spec : Nat → Spec} {ev : Ev} {rs : Ctx → Bool} {n : Nat}
    {v : Ctx → Split → Nat → (Nat → Nat) → Nat} {f : Form} {i : Instr}
    {body : State → Cur → Ctx → Res} (he : ∀ s, exec i s = s.issueOp op f spec body)
    (hb : ∀ s c x, body s c x = roundOp ev (rs x) n v s c x) : Rounds op spec ev rs n v i f := by
  exact leaves_of_body he (fun s c x => (hb s c x).trans rfl) fun c x => by simp

/-- An instruction whose body completes. -/
theorem completes_of_body {op : Nat} {spec : Nat → Spec} {cond : State → Cur → Ctx → Prop} {t : State → Cur → Ctx → State}
    {ev : State → Cur → Ctx → List (Ev × Nat)} {f : Form} {i : Instr} {body : State → Cur → Ctx → Res}
    (he : ∀ s, exec i s = s.issueOp op f spec body) (hb : ∀ s c x, cond s c x → body s c x = .done (t s c x) (ev s c x)) :
    Completes op spec cond t ev i f := by
  intro s c x h hc
  rw [exec_of_body' he h (hb _ _ _ hc) rfl]
  rfl

/-- An instruction whose body sends control to a target. -/
theorem transfers_of_body {op : Nat} {spec : Nat → Spec} {cond : State → Cur → Ctx → Prop} {t : State → Cur → Ctx → State}
    {target : Cur → Ctx → Dword} {f : Form} {i : Instr} {body : State → Cur → Ctx → Res}
    (he : ∀ s, exec i s = s.issueOp op f spec body) (hb : ∀ s c x, cond s c x → body s c x = .jump (t s c x) [(.ctl, 1)] (target c x)) :
    Transfers op spec cond t target i f := by
  intro s c x h hc hj
  rw [exec_of_body he h (hb _ _ _ hc) fun _ ht => by cases ht; exact hj]
  rfl

/-- An instruction whose body faults. -/
theorem faults_of_body {op : Nat} {spec : Nat → Spec} {cond : State → Cur → Ctx → Prop} {code : Nat} {info : State → Cur → Ctx → Nat}
    {f : Form} {i : Instr} {body : State → Cur → Ctx → Res} (he : ∀ s, exec i s = s.issueOp op f spec body)
    (hb : ∀ s c x, cond s c x → body s c x = .fault code (info s c x)) : Faults op spec cond code info i f := by
  intro s c x h hc
  rw [exec_of_body' he h (hb _ _ _ hc) rfl]
  rfl

/-! ## The state in which an instruction takes its effect -/

/-- A burst's reservation changes only the arbiters of the clusters. -/
theorem State.burst_eq (s : State) (c : Cur) : ∃ l, s.burst c = { s with clusters := l } := by
  unfold State.burst State.setCluster
  dsimp only
  split
  · exact ⟨_, rfl⟩
  · exact ⟨_, rfl⟩

/-- Of the state in which the operands stand ready, only the count of the wave and the arbiters have changed. -/
theorem State.ready_eq (s : State) (c : Cur) (x : Ctx) : ∃ l, s.ready c x = { s.prepare x with cur := some c.counted, clusters := l } := by
  unfold State.ready
  split
  · exact ⟨_, rfl⟩
  · obtain ⟨l, h⟩ := State.burst_eq { s.prepare x with cur := some c.counted } c
    exact ⟨l, h⟩

@[simp] theorem State.ready_cur (s : State) (c : Cur) (x : Ctx) : (s.ready c x).cur = some c.counted := by
  obtain ⟨l, h⟩ := s.ready_eq c x; rw [h]

@[simp] theorem State.ready_mem (s : State) (c : Cur) (x : Ctx) : (s.ready c x).mem = s.mem := by
  obtain ⟨l, h⟩ := s.ready_eq c x; rw [h]; exact (State.Calm.prepare s x).mem

@[simp] theorem State.ready_memPoison (s : State) (c : Cur) (x : Ctx) : (s.ready c x).memPoison = s.memPoison := by
  obtain ⟨l, h⟩ := s.ready_eq c x; rw [h]; exact (State.Calm.prepare s x).memPoison

@[simp] theorem State.ready_cscr (s : State) (c : Cur) (x : Ctx) : (s.ready c x).cscr = s.cscr := by
  obtain ⟨l, h⟩ := s.ready_eq c x; rw [h]; exact (State.Calm.prepare s x).cscr

@[simp] theorem State.ready_cscrPoison (s : State) (c : Cur) (x : Ctx) : (s.ready c x).cscrPoison = s.cscrPoison := by
  obtain ⟨l, h⟩ := s.ready_eq c x; rw [h]; exact (State.Calm.prepare s x).cscrPoison

@[simp] theorem State.ready_ops (s : State) (c : Cur) (x : Ctx) : (s.ready c x).ops = s.ops := by
  obtain ⟨l, h⟩ := s.ready_eq c x; rw [h]; exact (State.Calm.prepare s x).ops

@[simp] theorem State.ready_nextOp (s : State) (c : Cur) (x : Ctx) : (s.ready c x).nextOp = s.nextOp := by
  obtain ⟨l, h⟩ := s.ready_eq c x; rw [h]; exact (State.Calm.prepare s x).nextOp

@[simp] theorem State.ready_grids (s : State) (c : Cur) (x : Ctx) : (s.ready c x).grids = s.grids := by
  obtain ⟨l, h⟩ := s.ready_eq c x; rw [h]; exact (State.Calm.prepare s x).grids

@[simp] theorem State.ready_objs (s : State) (c : Cur) (x : Ctx) : (s.ready c x).objs = s.objs := by
  obtain ⟨l, h⟩ := s.ready_eq c x; rw [h]; exact (State.Calm.prepare s x).objs

@[simp] theorem State.ready_cfg (s : State) (c : Cur) (x : Ctx) : (s.ready c x).cfg = s.cfg := by
  obtain ⟨l, h⟩ := s.ready_eq c x; rw [h]; exact (State.Calm.prepare s x).cfg

@[simp] theorem State.ready_hw (s : State) (c : Cur) (x : Ctx) : (s.ready c x).hw = s.hw := by
  obtain ⟨l, h⟩ := s.ready_eq c x; rw [h]; exact (State.Calm.prepare s x).hw

@[simp] theorem State.ready_agenda (s : State) (c : Cur) (x : Ctx) : (s.ready c x).agenda = s.agenda := by
  obtain ⟨l, h⟩ := s.ready_eq c x; rw [h]; exact (State.Calm.prepare s x).agenda

@[simp] theorem State.ready_arg (s : State) (c : Cur) (x : Ctx) : (s.ready c x).arg = s.arg := by
  obtain ⟨l, h⟩ := s.ready_eq c x; rw [h]; exact (State.Calm.prepare s x).arg

@[simp] theorem State.ready_tick (s : State) (c : Cur) (x : Ctx) : (s.ready c x).tick = s.tick := by
  obtain ⟨l, h⟩ := s.ready_eq c x; rw [h]; exact (State.Calm.prepare s x).tick

/-- Nothing stands in a slot and no register has an error: the operands stand ready as they are. -/
theorem State.prepare_of_plain {s : State} {c : Cur} {x : Ctx} (h : s.cur = some c) (hs : s.unitSlots c x = []) (hf : c.flawless = true) :
    s.prepare x = { s with cur := some { c with slots := [] } } := by
  have hf' : Cur.flawless { c with slots := [] } = true := hf
  simp [State.prepare, h, hs, State.readRegs, hf']

end Sys2Proof.Machine
end

