-- ==== Sys2Proof/Laws/Access.lean ====
section
/-! SUPPORT. The address checks of the memory instructions, from what the statements say of them (R183, R192). -/
namespace Sys2Proof.Machine

/-- An access whose addresses are reached goes on with their places, in the state the translation left. -/
theorem withPlaces_of_reached {s t : State} {c : Cur} {n : Nat} {align wr locks : Bool} {need : BitVec 3} {addrs : List (Nat × Nat)}
    {l : List (Nat × Nat × Space × Nat)} (h : Reached s c.blk n align locks need addrs t l)
    (go : State → List (Nat × Nat × Space × Nat) → Res) : withPlaces s c n align wr locks need addrs go = go t l := by
  obtain ⟨h1, h2, h3⟩ := h
  have e1 : (if align then addrs.find? fun p => p.2 % n ≠ 0 else none) = none := by
    split
    · rename_i ha; simpa using h1 ha
    · rfl
  have e2 : (addrs.findSome? fun p => (s.rangeFault c.blk p.2 n).map fun code => (p, code)) = none := by
    simp only [List.findSome?_eq_none_iff, Option.map_eq_none_iff]
    exact h2
  simp only [withPlaces, e1, e2, h3]

/-- An access within a buffer goes on. -/
theorem withScratch_of_inBuffer {s : State} {c : Cur} {blk buf m n : Nat} {wr : Bool} {rels : List (Nat × Nat)}
    (h : InBuffer s c blk buf n wr rels) (go : Res) : withScratch s c blk buf m n wr rels go = go := by
  obtain ⟨h1, h2, h3⟩ := h
  have e1 : (rels.find? fun p => p.2 % n ≠ 0) = none := by simpa using h1
  have e2 : (rels.find? fun p => (((s.kernelOf c.blk).bufs[buf]?).map (·.size)).getD 0 < p.2 + n) = none := by
    simpa using h2
  have e3 : (if wr then none else rels.find? fun p => s.scrBad c (.scr blk buf) p.2 n) = none := by
    cases wr
    · simpa using h3 rfl
    · rfl
  simp only [withScratch, e1, e2, e3]

end Sys2Proof.Machine
end

