-- ==== Sys2Proof/Laws/Decode.lean ====
section
/-! SUPPORT. Forms and their words: each field of a packed word reads back, and a form decodes from its words (R32, R38, R39, R42). -/
namespace Sys2Proof

theorem lenOf_packShort (op : BitVec 9) (o : Short) (len : BitVec 2) : lenOf (packShort op o len) = len := by
  ext i hi
  simp only [lenOf, packShort, BitVec.getElem_extractLsb', BitVec.getLsbD_append]
  simp [hi]

theorem opcodeOf_packShort (op : BitVec 9) (o : Short) (len : BitVec 2) : opcodeOf (packShort op o len) = op := by
  ext i hi
  simp only [opcodeOf, packShort, BitVec.getElem_extractLsb', BitVec.getLsbD_append]
  simp [hi, show ¬ 2 + i < 2 by omega, show 2 + i - 2 = i by omega]

theorem shortOf_packShort (op : BitVec 9) (o : Short) (len : BitVec 2) : shortOf (packShort op o len) = o := by
  obtain ⟨d, a, b⟩ := o
  simp only [shortOf, packShort, Short.mk.injEq]
  refine ⟨?_, ?_, ?_⟩ <;> ext i hi <;> simp only [BitVec.getElem_extractLsb', BitVec.getLsbD_append]
  · simp [hi, show ¬ 11 + i < 2 by omega, show ¬ 11 + i - 2 < 9 by omega, show 11 + i - 2 - 9 = i by omega]
  · simp [hi, show ¬ 18 + i < 2 by omega, show ¬ 18 + i - 2 < 9 by omega, show ¬ 18 + i - 2 - 9 < 7 by omega, show 18 + i - 2 - 9 - 7 = i by omega]
  · simp [hi, show ¬ 25 + i < 2 by omega, show ¬ 25 + i - 2 < 9 by omega, show ¬ 25 + i - 2 - 9 < 7 by omega, show ¬ 25 + i - 2 - 9 - 7 < 7 by omega,
      show 25 + i - 2 - 9 - 7 - 7 = i by omega]

/-- The first word of an extended form. -/
theorem lenOf_packExt (m : BitVec 21) (op : BitVec 9) (len : BitVec 2) : lenOf (m ++ op ++ len) = len := by
  ext i hi
  simp only [lenOf, BitVec.getElem_extractLsb', BitVec.getLsbD_append]
  simp [hi]

theorem opcodeOf_packExt (m : BitVec 21) (op : BitVec 9) (len : BitVec 2) : opcodeOf (m ++ op ++ len) = op := by
  ext i hi
  simp only [opcodeOf, BitVec.getElem_extractLsb', BitVec.getLsbD_append]
  simp [hi, show ¬ 2 + i < 2 by omega, show 2 + i - 2 = i by omega]

/-- The two halves of a word made of two. -/
theorem halves_append (a b : BitVec 16) : (a ++ b : Word).extractLsb' 16 16 = a ∧ (a ++ b : Word).extractLsb' 0 16 = b := by
  constructor <;> ext i hi <;> simp only [BitVec.getElem_extractLsb', BitVec.getLsbD_append]
  · simp [hi, show ¬ 16 + i < 16 by omega]
  · simp [hi]

theorem extOf_packExt (e : Ext) (op : BitVec 9) (len : BitVec 2) : extOf (e.modif ++ op ++ len) (e.d ++ e.a) (e.b ++ e.c) = e := by
  obtain ⟨m, d, a, b, c⟩ := e
  simp only [extOf, (halves_append _ _).1, (halves_append _ _).2, Ext.mk.injEq, and_true]
  ext i hi
  simp only [BitVec.getElem_extractLsb', BitVec.getLsbD_append]
  simp [hi, show ¬ 11 + i < 2 by omega, show ¬ 11 + i - 2 < 9 by omega, show 11 + i - 2 - 9 = i by omega]

theorem literalOf_packLiteral (l : Dword) : literalOf (l.extractLsb' 0 32) (l.extractLsb' 32 32) = l := by
  apply BitVec.eq_of_getLsbD_eq
  intro i hi
  simp only [literalOf, BitVec.getLsbD_append, BitVec.getLsbD_extractLsb']
  by_cases h : i < 32
  · simp [h]
  · simp [h, show i - 32 < 32 by omega, show 32 + (i - 32) = i by omega]

/-- A form decodes from its words, and leaves what follows them. -/
theorem decodeForm_encodeForm (op : BitVec 9) (f : Form) (rest : List Word) : decodeForm (encodeForm op f ++ rest) = .ok (op, f, rest) := by
  match f with
  | .base o => simp [encodeForm, decodeForm, lenOf_packShort, opcodeOf_packShort, shortOf_packShort]
  | .long (.lit o l) =>
    simp [encodeForm, decodeForm, packLiteral, lenOf_packShort, opcodeOf_packShort, shortOf_packShort, literalOf_packLiteral]
  | .long (.ext e) => simp [encodeForm, decodeForm, packExt, lenOf_packExt, opcodeOf_packExt, extOf_packExt]
  | .long (.extLit e l) =>
    simp [encodeForm, decodeForm, packExt, packLiteral, lenOf_packExt, opcodeOf_packExt, extOf_packExt, literalOf_packLiteral]

/-- A word reads back from its four bytes. -/
theorem wordOfBytes_bytesOfWord (w : Word) (b0 b1 b2 b3 : Byte) (h : bytesOfWord w = [b0, b1, b2, b3]) : wordOfBytes b0 b1 b2 b3 = w := by
  simp only [bytesOfWord, List.cons.injEq, and_true] at h
  obtain ⟨rfl, rfl, rfl, rfl⟩ := h
  apply BitVec.eq_of_getLsbD_eq
  intro i hi
  simp only [wordOfBytes, BitVec.getLsbD_append, BitVec.getLsbD_extractLsb']
  by_cases h : i < 8
  · simp [h]
  by_cases h' : i < 16
  · simp [h, show i - 8 < 8 by omega, show 8 + (i - 8) = i by omega]
  by_cases h'' : i < 24
  · simp [h, show ¬ i - 8 < 8 by omega, show i - 8 - 8 < 8 by omega, show 16 + (i - 8 - 8) = i by omega]
  · simp [h, show ¬ i - 8 < 8 by omega, show ¬ i - 8 - 8 < 8 by omega, show i - 8 - 8 - 8 < 8 by omega, show 24 + (i - 8 - 8 - 8) = i by omega]

end Sys2Proof
end

