-- ==== Sys2Proof/Laws/State.lean ====
section
/-! SUPPORT. What each named update of the state leaves: one lemma for each field that it does not write. -/
namespace Sys2Proof.Machine

/-! ## mapGrid -/

@[simp] theorem State.mapGrid_agenda (s : State) (h : Nat) (f : Grid → Grid) : (s.mapGrid h f).agenda = s.agenda := rfl
@[simp] theorem State.mapGrid_arg (s : State) (h : Nat) (f : Grid → Grid) : (s.mapGrid h f).arg = s.arg := rfl
@[simp] theorem State.mapGrid_cur (s : State) (h : Nat) (f : Grid → Grid) : (s.mapGrid h f).cur = s.cur := rfl
@[simp] theorem State.mapGrid_blocks (s : State) (h : Nat) (f : Grid → Grid) : (s.mapGrid h f).blocks = s.blocks := rfl
@[simp] theorem State.mapGrid_ops (s : State) (h : Nat) (f : Grid → Grid) : (s.mapGrid h f).ops = s.ops := rfl
@[simp] theorem State.mapGrid_nextOp (s : State) (h : Nat) (f : Grid → Grid) : (s.mapGrid h f).nextOp = s.nextOp := rfl
@[simp] theorem State.mapGrid_nextBlk (s : State) (h : Nat) (f : Grid → Grid) : (s.mapGrid h f).nextBlk = s.nextBlk := rfl
@[simp] theorem State.mapGrid_nextGrid (s : State) (h : Nat) (f : Grid → Grid) : (s.mapGrid h f).nextGrid = s.nextGrid := rfl
@[simp] theorem State.mapGrid_mem (s : State) (h : Nat) (f : Grid → Grid) : (s.mapGrid h f).mem = s.mem := rfl
@[simp] theorem State.mapGrid_memPoison (s : State) (h : Nat) (f : Grid → Grid) : (s.mapGrid h f).memPoison = s.memPoison := rfl
@[simp] theorem State.mapGrid_cscr (s : State) (h : Nat) (f : Grid → Grid) : (s.mapGrid h f).cscr = s.cscr := rfl
@[simp] theorem State.mapGrid_cscrPoison (s : State) (h : Nat) (f : Grid → Grid) : (s.mapGrid h f).cscrPoison = s.cscrPoison := rfl
@[simp] theorem State.mapGrid_soft (s : State) (h : Nat) (f : Grid → Grid) : (s.mapGrid h f).soft = s.soft := rfl
@[simp] theorem State.mapGrid_lines (s : State) (h : Nat) (f : Grid → Grid) : (s.mapGrid h f).lines = s.lines := rfl
@[simp] theorem State.mapGrid_shrinking (s : State) (h : Nat) (f : Grid → Grid) : (s.mapGrid h f).shrinking = s.shrinking := rfl
@[simp] theorem State.mapGrid_hostWaits (s : State) (h : Nat) (f : Grid → Grid) : (s.mapGrid h f).hostWaits = s.hostWaits := rfl
@[simp] theorem State.mapGrid_flipping (s : State) (h : Nat) (f : Grid → Grid) : (s.mapGrid h f).flipping = s.flipping := rfl
@[simp] theorem State.mapGrid_near (s : State) (h : Nat) (f : Grid → Grid) : (s.mapGrid h f).near = s.near := rfl
@[simp] theorem State.mapGrid_l1 (s : State) (h : Nat) (f : Grid → Grid) : (s.mapGrid h f).l1 = s.l1 := rfl
@[simp] theorem State.mapGrid_tlb (s : State) (h : Nat) (f : Grid → Grid) : (s.mapGrid h f).tlb = s.tlb := rfl
@[simp] theorem State.mapGrid_cfg (s : State) (h : Nat) (f : Grid → Grid) : (s.mapGrid h f).cfg = s.cfg := rfl
@[simp] theorem State.mapGrid_preg (s : State) (h : Nat) (f : Grid → Grid) : (s.mapGrid h f).preg = s.preg := rfl
@[simp] theorem State.mapGrid_windows (s : State) (h : Nat) (f : Grid → Grid) : (s.mapGrid h f).windows = s.windows := rfl
@[simp] theorem State.mapGrid_errCE (s : State) (h : Nat) (f : Grid → Grid) : (s.mapGrid h f).errCE = s.errCE := rfl
@[simp] theorem State.mapGrid_errUE (s : State) (h : Nat) (f : Grid → Grid) : (s.mapGrid h f).errUE = s.errUE := rfl
@[simp] theorem State.mapGrid_errRec (s : State) (h : Nat) (f : Grid → Grid) : (s.mapGrid h f).errRec = s.errRec := rfl
@[simp] theorem State.mapGrid_exports (s : State) (h : Nat) (f : Grid → Grid) : (s.mapGrid h f).exports = s.exports := rfl
@[simp] theorem State.mapGrid_objs (s : State) (h : Nat) (f : Grid → Grid) : (s.mapGrid h f).objs = s.objs := rfl
@[simp] theorem State.mapGrid_objGen (s : State) (h : Nat) (f : Grid → Grid) : (s.mapGrid h f).objGen = s.objGen := rfl
@[simp] theorem State.mapGrid_chucks (s : State) (h : Nat) (f : Grid → Grid) : (s.mapGrid h f).chucks = s.chucks := rfl
@[simp] theorem State.mapGrid_clusters (s : State) (h : Nat) (f : Grid → Grid) : (s.mapGrid h f).clusters = s.clusters := rfl
@[simp] theorem State.mapGrid_binds (s : State) (h : Nat) (f : Grid → Grid) : (s.mapGrid h f).binds = s.binds := rfl
@[simp] theorem State.mapGrid_prints (s : State) (h : Nat) (f : Grid → Grid) : (s.mapGrid h f).prints = s.prints := rfl
@[simp] theorem State.mapGrid_lastBound (s : State) (h : Nat) (f : Grid → Grid) : (s.mapGrid h f).lastBound = s.lastBound := rfl
@[simp] theorem State.mapGrid_tags (s : State) (h : Nat) (f : Grid → Grid) : (s.mapGrid h f).tags = s.tags := rfl
@[simp] theorem State.mapGrid_drains (s : State) (h : Nat) (f : Grid → Grid) : (s.mapGrid h f).drains = s.drains := rfl
@[simp] theorem State.mapGrid_markers (s : State) (h : Nat) (f : Grid → Grid) : (s.mapGrid h f).markers = s.markers := rfl
@[simp] theorem State.mapGrid_xholds (s : State) (h : Nat) (f : Grid → Grid) : (s.mapGrid h f).xholds = s.xholds := rfl
@[simp] theorem State.mapGrid_nextToken (s : State) (h : Nat) (f : Grid → Grid) : (s.mapGrid h f).nextToken = s.nextToken := rfl
@[simp] theorem State.mapGrid_counters (s : State) (h : Nat) (f : Grid → Grid) : (s.mapGrid h f).counters = s.counters := rfl
@[simp] theorem State.mapGrid_house (s : State) (h : Nat) (f : Grid → Grid) : (s.mapGrid h f).house = s.house := rfl
@[simp] theorem State.mapGrid_quiescing (s : State) (h : Nat) (f : Grid → Grid) : (s.mapGrid h f).quiescing = s.quiescing := rfl
@[simp] theorem State.mapGrid_crossings (s : State) (h : Nat) (f : Grid → Grid) : (s.mapGrid h f).crossings = s.crossings := rfl
@[simp] theorem State.mapGrid_booked (s : State) (h : Nat) (f : Grid → Grid) : (s.mapGrid h f).booked = s.booked := rfl
@[simp] theorem State.mapGrid_sheets (s : State) (h : Nat) (f : Grid → Grid) : (s.mapGrid h f).sheets = s.sheets := rfl
@[simp] theorem State.mapGrid_persisted (s : State) (h : Nat) (f : Grid → Grid) : (s.mapGrid h f).persisted = s.persisted := rfl
@[simp] theorem State.mapGrid_darkroom (s : State) (h : Nat) (f : Grid → Grid) : (s.mapGrid h f).darkroom = s.darkroom := rfl
@[simp] theorem State.mapGrid_badImages (s : State) (h : Nat) (f : Grid → Grid) : (s.mapGrid h f).badImages = s.badImages := rfl
@[simp] theorem State.mapGrid_saves (s : State) (h : Nat) (f : Grid → Grid) : (s.mapGrid h f).saves = s.saves := rfl
@[simp] theorem State.mapGrid_locks (s : State) (h : Nat) (f : Grid → Grid) : (s.mapGrid h f).locks = s.locks := rfl
@[simp] theorem State.mapGrid_lastOn (s : State) (h : Nat) (f : Grid → Grid) : (s.mapGrid h f).lastOn = s.lastOn := rfl
@[simp] theorem State.mapGrid_poolTurn (s : State) (h : Nat) (f : Grid → Grid) : (s.mapGrid h f).poolTurn = s.poolTurn := rfl
@[simp] theorem State.mapGrid_hw (s : State) (h : Nat) (f : Grid → Grid) : (s.mapGrid h f).hw = s.hw := rfl
@[simp] theorem State.mapGrid_out (s : State) (h : Nat) (f : Grid → Grid) : (s.mapGrid h f).out = s.out := rfl
@[simp] theorem State.mapGrid_tick (s : State) (h : Nat) (f : Grid → Grid) : (s.mapGrid h f).tick = s.tick := rfl
@[simp] theorem State.mapGrid_fresh (s : State) (h : Nat) (f : Grid → Grid) : (s.mapGrid h f).fresh = s.fresh := rfl

/-! ## mapOp -/

@[simp] theorem State.mapOp_agenda (s : State) (id : Nat) (f : Op → Op) : (s.mapOp id f).agenda = s.agenda := rfl
@[simp] theorem State.mapOp_arg (s : State) (id : Nat) (f : Op → Op) : (s.mapOp id f).arg = s.arg := rfl
@[simp] theorem State.mapOp_cur (s : State) (id : Nat) (f : Op → Op) : (s.mapOp id f).cur = s.cur := rfl
@[simp] theorem State.mapOp_blocks (s : State) (id : Nat) (f : Op → Op) : (s.mapOp id f).blocks = s.blocks := rfl
@[simp] theorem State.mapOp_grids (s : State) (id : Nat) (f : Op → Op) : (s.mapOp id f).grids = s.grids := rfl
@[simp] theorem State.mapOp_nextOp (s : State) (id : Nat) (f : Op → Op) : (s.mapOp id f).nextOp = s.nextOp := rfl
@[simp] theorem State.mapOp_nextBlk (s : State) (id : Nat) (f : Op → Op) : (s.mapOp id f).nextBlk = s.nextBlk := rfl
@[simp] theorem State.mapOp_nextGrid (s : State) (id : Nat) (f : Op → Op) : (s.mapOp id f).nextGrid = s.nextGrid := rfl
@[simp] theorem State.mapOp_mem (s : State) (id : Nat) (f : Op → Op) : (s.mapOp id f).mem = s.mem := rfl
@[simp] theorem State.mapOp_memPoison (s : State) (id : Nat) (f : Op → Op) : (s.mapOp id f).memPoison = s.memPoison := rfl
@[simp] theorem State.mapOp_cscr (s : State) (id : Nat) (f : Op → Op) : (s.mapOp id f).cscr = s.cscr := rfl
@[simp] theorem State.mapOp_cscrPoison (s : State) (id : Nat) (f : Op → Op) : (s.mapOp id f).cscrPoison = s.cscrPoison := rfl
@[simp] theorem State.mapOp_soft (s : State) (id : Nat) (f : Op → Op) : (s.mapOp id f).soft = s.soft := rfl
@[simp] theorem State.mapOp_lines (s : State) (id : Nat) (f : Op → Op) : (s.mapOp id f).lines = s.lines := rfl
@[simp] theorem State.mapOp_shrinking (s : State) (id : Nat) (f : Op → Op) : (s.mapOp id f).shrinking = s.shrinking := rfl
@[simp] theorem State.mapOp_hostWaits (s : State) (id : Nat) (f : Op → Op) : (s.mapOp id f).hostWaits = s.hostWaits := rfl
@[simp] theorem State.mapOp_flipping (s : State) (id : Nat) (f : Op → Op) : (s.mapOp id f).flipping = s.flipping := rfl
@[simp] theorem State.mapOp_near (s : State) (id : Nat) (f : Op → Op) : (s.mapOp id f).near = s.near := rfl
@[simp] theorem State.mapOp_l1 (s : State) (id : Nat) (f : Op → Op) : (s.mapOp id f).l1 = s.l1 := rfl
@[simp] theorem State.mapOp_tlb (s : State) (id : Nat) (f : Op → Op) : (s.mapOp id f).tlb = s.tlb := rfl
@[simp] theorem State.mapOp_cfg (s : State) (id : Nat) (f : Op → Op) : (s.mapOp id f).cfg = s.cfg := rfl
@[simp] theorem State.mapOp_preg (s : State) (id : Nat) (f : Op → Op) : (s.mapOp id f).preg = s.preg := rfl
@[simp] theorem State.mapOp_windows (s : State) (id : Nat) (f : Op → Op) : (s.mapOp id f).windows = s.windows := rfl
@[simp] theorem State.mapOp_errCE (s : State) (id : Nat) (f : Op → Op) : (s.mapOp id f).errCE = s.errCE := rfl
@[simp] theorem State.mapOp_errUE (s : State) (id : Nat) (f : Op → Op) : (s.mapOp id f).errUE = s.errUE := rfl
@[simp] theorem State.mapOp_errRec (s : State) (id : Nat) (f : Op → Op) : (s.mapOp id f).errRec = s.errRec := rfl
@[simp] theorem State.mapOp_exports (s : State) (id : Nat) (f : Op → Op) : (s.mapOp id f).exports = s.exports := rfl
@[simp] theorem State.mapOp_objs (s : State) (id : Nat) (f : Op → Op) : (s.mapOp id f).objs = s.objs := rfl
@[simp] theorem State.mapOp_objGen (s : State) (id : Nat) (f : Op → Op) : (s.mapOp id f).objGen = s.objGen := rfl
@[simp] theorem State.mapOp_chucks (s : State) (id : Nat) (f : Op → Op) : (s.mapOp id f).chucks = s.chucks := rfl
@[simp] theorem State.mapOp_clusters (s : State) (id : Nat) (f : Op → Op) : (s.mapOp id f).clusters = s.clusters := rfl
@[simp] theorem State.mapOp_binds (s : State) (id : Nat) (f : Op → Op) : (s.mapOp id f).binds = s.binds := rfl
@[simp] theorem State.mapOp_prints (s : State) (id : Nat) (f : Op → Op) : (s.mapOp id f).prints = s.prints := rfl
@[simp] theorem State.mapOp_lastBound (s : State) (id : Nat) (f : Op → Op) : (s.mapOp id f).lastBound = s.lastBound := rfl
@[simp] theorem State.mapOp_tags (s : State) (id : Nat) (f : Op → Op) : (s.mapOp id f).tags = s.tags := rfl
@[simp] theorem State.mapOp_drains (s : State) (id : Nat) (f : Op → Op) : (s.mapOp id f).drains = s.drains := rfl
@[simp] theorem State.mapOp_markers (s : State) (id : Nat) (f : Op → Op) : (s.mapOp id f).markers = s.markers := rfl
@[simp] theorem State.mapOp_xholds (s : State) (id : Nat) (f : Op → Op) : (s.mapOp id f).xholds = s.xholds := rfl
@[simp] theorem State.mapOp_nextToken (s : State) (id : Nat) (f : Op → Op) : (s.mapOp id f).nextToken = s.nextToken := rfl
@[simp] theorem State.mapOp_counters (s : State) (id : Nat) (f : Op → Op) : (s.mapOp id f).counters = s.counters := rfl
@[simp] theorem State.mapOp_house (s : State) (id : Nat) (f : Op → Op) : (s.mapOp id f).house = s.house := rfl
@[simp] theorem State.mapOp_quiescing (s : State) (id : Nat) (f : Op → Op) : (s.mapOp id f).quiescing = s.quiescing := rfl
@[simp] theorem State.mapOp_crossings (s : State) (id : Nat) (f : Op → Op) : (s.mapOp id f).crossings = s.crossings := rfl
@[simp] theorem State.mapOp_booked (s : State) (id : Nat) (f : Op → Op) : (s.mapOp id f).booked = s.booked := rfl
@[simp] theorem State.mapOp_sheets (s : State) (id : Nat) (f : Op → Op) : (s.mapOp id f).sheets = s.sheets := rfl
@[simp] theorem State.mapOp_persisted (s : State) (id : Nat) (f : Op → Op) : (s.mapOp id f).persisted = s.persisted := rfl
@[simp] theorem State.mapOp_darkroom (s : State) (id : Nat) (f : Op → Op) : (s.mapOp id f).darkroom = s.darkroom := rfl
@[simp] theorem State.mapOp_badImages (s : State) (id : Nat) (f : Op → Op) : (s.mapOp id f).badImages = s.badImages := rfl
@[simp] theorem State.mapOp_saves (s : State) (id : Nat) (f : Op → Op) : (s.mapOp id f).saves = s.saves := rfl
@[simp] theorem State.mapOp_locks (s : State) (id : Nat) (f : Op → Op) : (s.mapOp id f).locks = s.locks := rfl
@[simp] theorem State.mapOp_lastOn (s : State) (id : Nat) (f : Op → Op) : (s.mapOp id f).lastOn = s.lastOn := rfl
@[simp] theorem State.mapOp_poolTurn (s : State) (id : Nat) (f : Op → Op) : (s.mapOp id f).poolTurn = s.poolTurn := rfl
@[simp] theorem State.mapOp_hw (s : State) (id : Nat) (f : Op → Op) : (s.mapOp id f).hw = s.hw := rfl
@[simp] theorem State.mapOp_out (s : State) (id : Nat) (f : Op → Op) : (s.mapOp id f).out = s.out := rfl
@[simp] theorem State.mapOp_tick (s : State) (id : Nat) (f : Op → Op) : (s.mapOp id f).tick = s.tick := rfl
@[simp] theorem State.mapOp_fresh (s : State) (id : Nat) (f : Op → Op) : (s.mapOp id f).fresh = s.fresh := rfl

/-! ## mapBlock -/

@[simp] theorem State.mapBlock_agenda (s : State) (id : Nat) (f : Block → Block) : (s.mapBlock id f).agenda = s.agenda := rfl
@[simp] theorem State.mapBlock_arg (s : State) (id : Nat) (f : Block → Block) : (s.mapBlock id f).arg = s.arg := rfl
@[simp] theorem State.mapBlock_grids (s : State) (id : Nat) (f : Block → Block) : (s.mapBlock id f).grids = s.grids := rfl
@[simp] theorem State.mapBlock_ops (s : State) (id : Nat) (f : Block → Block) : (s.mapBlock id f).ops = s.ops := rfl
@[simp] theorem State.mapBlock_nextOp (s : State) (id : Nat) (f : Block → Block) : (s.mapBlock id f).nextOp = s.nextOp := rfl
@[simp] theorem State.mapBlock_nextBlk (s : State) (id : Nat) (f : Block → Block) : (s.mapBlock id f).nextBlk = s.nextBlk := rfl
@[simp] theorem State.mapBlock_nextGrid (s : State) (id : Nat) (f : Block → Block) : (s.mapBlock id f).nextGrid = s.nextGrid := rfl
@[simp] theorem State.mapBlock_mem (s : State) (id : Nat) (f : Block → Block) : (s.mapBlock id f).mem = s.mem := rfl
@[simp] theorem State.mapBlock_memPoison (s : State) (id : Nat) (f : Block → Block) : (s.mapBlock id f).memPoison = s.memPoison := rfl
@[simp] theorem State.mapBlock_cscr (s : State) (id : Nat) (f : Block → Block) : (s.mapBlock id f).cscr = s.cscr := rfl
@[simp] theorem State.mapBlock_cscrPoison (s : State) (id : Nat) (f : Block → Block) : (s.mapBlock id f).cscrPoison = s.cscrPoison := rfl
@[simp] theorem State.mapBlock_soft (s : State) (id : Nat) (f : Block → Block) : (s.mapBlock id f).soft = s.soft := rfl
@[simp] theorem State.mapBlock_lines (s : State) (id : Nat) (f : Block → Block) : (s.mapBlock id f).lines = s.lines := rfl
@[simp] theorem State.mapBlock_shrinking (s : State) (id : Nat) (f : Block → Block) : (s.mapBlock id f).shrinking = s.shrinking := rfl
@[simp] theorem State.mapBlock_hostWaits (s : State) (id : Nat) (f : Block → Block) : (s.mapBlock id f).hostWaits = s.hostWaits := rfl
@[simp] theorem State.mapBlock_flipping (s : State) (id : Nat) (f : Block → Block) : (s.mapBlock id f).flipping = s.flipping := rfl
@[simp] theorem State.mapBlock_near (s : State) (id : Nat) (f : Block → Block) : (s.mapBlock id f).near = s.near := rfl
@[simp] theorem State.mapBlock_l1 (s : State) (id : Nat) (f : Block → Block) : (s.mapBlock id f).l1 = s.l1 := rfl
@[simp] theorem State.mapBlock_tlb (s : State) (id : Nat) (f : Block → Block) : (s.mapBlock id f).tlb = s.tlb := rfl
@[simp] theorem State.mapBlock_cfg (s : State) (id : Nat) (f : Block → Block) : (s.mapBlock id f).cfg = s.cfg := rfl
@[simp] theorem State.mapBlock_preg (s : State) (id : Nat) (f : Block → Block) : (s.mapBlock id f).preg = s.preg := rfl
@[simp] theorem State.mapBlock_windows (s : State) (id : Nat) (f : Block → Block) : (s.mapBlock id f).windows = s.windows := rfl
@[simp] theorem State.mapBlock_errCE (s : State) (id : Nat) (f : Block → Block) : (s.mapBlock id f).errCE = s.errCE := rfl
@[simp] theorem State.mapBlock_errUE (s : State) (id : Nat) (f : Block → Block) : (s.mapBlock id f).errUE = s.errUE := rfl
@[simp] theorem State.mapBlock_errRec (s : State) (id : Nat) (f : Block → Block) : (s.mapBlock id f).errRec = s.errRec := rfl
@[simp] theorem State.mapBlock_exports (s : State) (id : Nat) (f : Block → Block) : (s.mapBlock id f).exports = s.exports := rfl
@[simp] theorem State.mapBlock_objs (s : State) (id : Nat) (f : Block → Block) : (s.mapBlock id f).objs = s.objs := rfl
@[simp] theorem State.mapBlock_objGen (s : State) (id : Nat) (f : Block → Block) : (s.mapBlock id f).objGen = s.objGen := rfl
@[simp] theorem State.mapBlock_chucks (s : State) (id : Nat) (f : Block → Block) : (s.mapBlock id f).chucks = s.chucks := rfl
@[simp] theorem State.mapBlock_clusters (s : State) (id : Nat) (f : Block → Block) : (s.mapBlock id f).clusters = s.clusters := rfl
@[simp] theorem State.mapBlock_binds (s : State) (id : Nat) (f : Block → Block) : (s.mapBlock id f).binds = s.binds := rfl
@[simp] theorem State.mapBlock_prints (s : State) (id : Nat) (f : Block → Block) : (s.mapBlock id f).prints = s.prints := rfl
@[simp] theorem State.mapBlock_lastBound (s : State) (id : Nat) (f : Block → Block) : (s.mapBlock id f).lastBound = s.lastBound := rfl
@[simp] theorem State.mapBlock_tags (s : State) (id : Nat) (f : Block → Block) : (s.mapBlock id f).tags = s.tags := rfl
@[simp] theorem State.mapBlock_drains (s : State) (id : Nat) (f : Block → Block) : (s.mapBlock id f).drains = s.drains := rfl
@[simp] theorem State.mapBlock_markers (s : State) (id : Nat) (f : Block → Block) : (s.mapBlock id f).markers = s.markers := rfl
@[simp] theorem State.mapBlock_xholds (s : State) (id : Nat) (f : Block → Block) : (s.mapBlock id f).xholds = s.xholds := rfl
@[simp] theorem State.mapBlock_nextToken (s : State) (id : Nat) (f : Block → Block) : (s.mapBlock id f).nextToken = s.nextToken := rfl
@[simp] theorem State.mapBlock_counters (s : State) (id : Nat) (f : Block → Block) : (s.mapBlock id f).counters = s.counters := rfl
@[simp] theorem State.mapBlock_house (s : State) (id : Nat) (f : Block → Block) : (s.mapBlock id f).house = s.house := rfl
@[simp] theorem State.mapBlock_quiescing (s : State) (id : Nat) (f : Block → Block) : (s.mapBlock id f).quiescing = s.quiescing := rfl
@[simp] theorem State.mapBlock_crossings (s : State) (id : Nat) (f : Block → Block) : (s.mapBlock id f).crossings = s.crossings := rfl
@[simp] theorem State.mapBlock_booked (s : State) (id : Nat) (f : Block → Block) : (s.mapBlock id f).booked = s.booked := rfl
@[simp] theorem State.mapBlock_sheets (s : State) (id : Nat) (f : Block → Block) : (s.mapBlock id f).sheets = s.sheets := rfl
@[simp] theorem State.mapBlock_persisted (s : State) (id : Nat) (f : Block → Block) : (s.mapBlock id f).persisted = s.persisted := rfl
@[simp] theorem State.mapBlock_darkroom (s : State) (id : Nat) (f : Block → Block) : (s.mapBlock id f).darkroom = s.darkroom := rfl
@[simp] theorem State.mapBlock_badImages (s : State) (id : Nat) (f : Block → Block) : (s.mapBlock id f).badImages = s.badImages := rfl
@[simp] theorem State.mapBlock_saves (s : State) (id : Nat) (f : Block → Block) : (s.mapBlock id f).saves = s.saves := rfl
@[simp] theorem State.mapBlock_locks (s : State) (id : Nat) (f : Block → Block) : (s.mapBlock id f).locks = s.locks := rfl
@[simp] theorem State.mapBlock_lastOn (s : State) (id : Nat) (f : Block → Block) : (s.mapBlock id f).lastOn = s.lastOn := rfl
@[simp] theorem State.mapBlock_poolTurn (s : State) (id : Nat) (f : Block → Block) : (s.mapBlock id f).poolTurn = s.poolTurn := rfl
@[simp] theorem State.mapBlock_hw (s : State) (id : Nat) (f : Block → Block) : (s.mapBlock id f).hw = s.hw := rfl
@[simp] theorem State.mapBlock_out (s : State) (id : Nat) (f : Block → Block) : (s.mapBlock id f).out = s.out := rfl
@[simp] theorem State.mapBlock_tick (s : State) (id : Nat) (f : Block → Block) : (s.mapBlock id f).tick = s.tick := rfl
@[simp] theorem State.mapBlock_fresh (s : State) (id : Nat) (f : Block → Block) : (s.mapBlock id f).fresh = s.fresh := rfl

/-! ## mapWave -/

@[simp] theorem State.mapWave_agenda (s : State) (blk wid : Nat) (f : Wave → Wave) : (s.mapWave blk wid f).agenda = s.agenda := rfl
@[simp] theorem State.mapWave_arg (s : State) (blk wid : Nat) (f : Wave → Wave) : (s.mapWave blk wid f).arg = s.arg := rfl
@[simp] theorem State.mapWave_grids (s : State) (blk wid : Nat) (f : Wave → Wave) : (s.mapWave blk wid f).grids = s.grids := rfl
@[simp] theorem State.mapWave_ops (s : State) (blk wid : Nat) (f : Wave → Wave) : (s.mapWave blk wid f).ops = s.ops := rfl
@[simp] theorem State.mapWave_nextOp (s : State) (blk wid : Nat) (f : Wave → Wave) : (s.mapWave blk wid f).nextOp = s.nextOp := rfl
@[simp] theorem State.mapWave_nextBlk (s : State) (blk wid : Nat) (f : Wave → Wave) : (s.mapWave blk wid f).nextBlk = s.nextBlk := rfl
@[simp] theorem State.mapWave_nextGrid (s : State) (blk wid : Nat) (f : Wave → Wave) : (s.mapWave blk wid f).nextGrid = s.nextGrid := rfl
@[simp] theorem State.mapWave_mem (s : State) (blk wid : Nat) (f : Wave → Wave) : (s.mapWave blk wid f).mem = s.mem := rfl
@[simp] theorem State.mapWave_memPoison (s : State) (blk wid : Nat) (f : Wave → Wave) : (s.mapWave blk wid f).memPoison = s.memPoison := rfl
@[simp] theorem State.mapWave_cscr (s : State) (blk wid : Nat) (f : Wave → Wave) : (s.mapWave blk wid f).cscr = s.cscr := rfl
@[simp] theorem State.mapWave_cscrPoison (s : State) (blk wid : Nat) (f : Wave → Wave) : (s.mapWave blk wid f).cscrPoison = s.cscrPoison := rfl
@[simp] theorem State.mapWave_soft (s : State) (blk wid : Nat) (f : Wave → Wave) : (s.mapWave blk wid f).soft = s.soft := rfl
@[simp] theorem State.mapWave_lines (s : State) (blk wid : Nat) (f : Wave → Wave) : (s.mapWave blk wid f).lines = s.lines := rfl
@[simp] theorem State.mapWave_shrinking (s : State) (blk wid : Nat) (f : Wave → Wave) : (s.mapWave blk wid f).shrinking = s.shrinking := rfl
@[simp] theorem State.mapWave_hostWaits (s : State) (blk wid : Nat) (f : Wave → Wave) : (s.mapWave blk wid f).hostWaits = s.hostWaits := rfl
@[simp] theorem State.mapWave_flipping (s : State) (blk wid : Nat) (f : Wave → Wave) : (s.mapWave blk wid f).flipping = s.flipping := rfl
@[simp] theorem State.mapWave_near (s : State) (blk wid : Nat) (f : Wave → Wave) : (s.mapWave blk wid f).near = s.near := rfl
@[simp] theorem State.mapWave_l1 (s : State) (blk wid : Nat) (f : Wave → Wave) : (s.mapWave blk wid f).l1 = s.l1 := rfl
@[simp] theorem State.mapWave_tlb (s : State) (blk wid : Nat) (f : Wave → Wave) : (s.mapWave blk wid f).tlb = s.tlb := rfl
@[simp] theorem State.mapWave_cfg (s : State) (blk wid : Nat) (f : Wave → Wave) : (s.mapWave blk wid f).cfg = s.cfg := rfl
@[simp] theorem State.mapWave_preg (s : State) (blk wid : Nat) (f : Wave → Wave) : (s.mapWave blk wid f).preg = s.preg := rfl
@[simp] theorem State.mapWave_windows (s : State) (blk wid : Nat) (f : Wave → Wave) : (s.mapWave blk wid f).windows = s.windows := rfl
@[simp] theorem State.mapWave_errCE (s : State) (blk wid : Nat) (f : Wave → Wave) : (s.mapWave blk wid f).errCE = s.errCE := rfl
@[simp] theorem State.mapWave_errUE (s : State) (blk wid : Nat) (f : Wave → Wave) : (s.mapWave blk wid f).errUE = s.errUE := rfl
@[simp] theorem State.mapWave_errRec (s : State) (blk wid : Nat) (f : Wave → Wave) : (s.mapWave blk wid f).errRec = s.errRec := rfl
@[simp] theorem State.mapWave_exports (s : State) (blk wid : Nat) (f : Wave → Wave) : (s.mapWave blk wid f).exports = s.exports := rfl
@[simp] theorem State.mapWave_objs (s : State) (blk wid : Nat) (f : Wave → Wave) : (s.mapWave blk wid f).objs = s.objs := rfl
@[simp] theorem State.mapWave_objGen (s : State) (blk wid : Nat) (f : Wave → Wave) : (s.mapWave blk wid f).objGen = s.objGen := rfl
@[simp] theorem State.mapWave_chucks (s : State) (blk wid : Nat) (f : Wave → Wave) : (s.mapWave blk wid f).chucks = s.chucks := rfl
@[simp] theorem State.mapWave_clusters (s : State) (blk wid : Nat) (f : Wave → Wave) : (s.mapWave blk wid f).clusters = s.clusters := rfl
@[simp] theorem State.mapWave_binds (s : State) (blk wid : Nat) (f : Wave → Wave) : (s.mapWave blk wid f).binds = s.binds := rfl
@[simp] theorem State.mapWave_prints (s : State) (blk wid : Nat) (f : Wave → Wave) : (s.mapWave blk wid f).prints = s.prints := rfl
@[simp] theorem State.mapWave_lastBound (s : State) (blk wid : Nat) (f : Wave → Wave) : (s.mapWave blk wid f).lastBound = s.lastBound := rfl
@[simp] theorem State.mapWave_tags (s : State) (blk wid : Nat) (f : Wave → Wave) : (s.mapWave blk wid f).tags = s.tags := rfl
@[simp] theorem State.mapWave_drains (s : State) (blk wid : Nat) (f : Wave → Wave) : (s.mapWave blk wid f).drains = s.drains := rfl
@[simp] theorem State.mapWave_markers (s : State) (blk wid : Nat) (f : Wave → Wave) : (s.mapWave blk wid f).markers = s.markers := rfl
@[simp] theorem State.mapWave_xholds (s : State) (blk wid : Nat) (f : Wave → Wave) : (s.mapWave blk wid f).xholds = s.xholds := rfl
@[simp] theorem State.mapWave_nextToken (s : State) (blk wid : Nat) (f : Wave → Wave) : (s.mapWave blk wid f).nextToken = s.nextToken := rfl
@[simp] theorem State.mapWave_counters (s : State) (blk wid : Nat) (f : Wave → Wave) : (s.mapWave blk wid f).counters = s.counters := rfl
@[simp] theorem State.mapWave_house (s : State) (blk wid : Nat) (f : Wave → Wave) : (s.mapWave blk wid f).house = s.house := rfl
@[simp] theorem State.mapWave_quiescing (s : State) (blk wid : Nat) (f : Wave → Wave) : (s.mapWave blk wid f).quiescing = s.quiescing := rfl
@[simp] theorem State.mapWave_crossings (s : State) (blk wid : Nat) (f : Wave → Wave) : (s.mapWave blk wid f).crossings = s.crossings := rfl
@[simp] theorem State.mapWave_booked (s : State) (blk wid : Nat) (f : Wave → Wave) : (s.mapWave blk wid f).booked = s.booked := rfl
@[simp] theorem State.mapWave_sheets (s : State) (blk wid : Nat) (f : Wave → Wave) : (s.mapWave blk wid f).sheets = s.sheets := rfl
@[simp] theorem State.mapWave_persisted (s : State) (blk wid : Nat) (f : Wave → Wave) : (s.mapWave blk wid f).persisted = s.persisted := rfl
@[simp] theorem State.mapWave_darkroom (s : State) (blk wid : Nat) (f : Wave → Wave) : (s.mapWave blk wid f).darkroom = s.darkroom := rfl
@[simp] theorem State.mapWave_badImages (s : State) (blk wid : Nat) (f : Wave → Wave) : (s.mapWave blk wid f).badImages = s.badImages := rfl
@[simp] theorem State.mapWave_saves (s : State) (blk wid : Nat) (f : Wave → Wave) : (s.mapWave blk wid f).saves = s.saves := rfl
@[simp] theorem State.mapWave_locks (s : State) (blk wid : Nat) (f : Wave → Wave) : (s.mapWave blk wid f).locks = s.locks := rfl
@[simp] theorem State.mapWave_lastOn (s : State) (blk wid : Nat) (f : Wave → Wave) : (s.mapWave blk wid f).lastOn = s.lastOn := rfl
@[simp] theorem State.mapWave_poolTurn (s : State) (blk wid : Nat) (f : Wave → Wave) : (s.mapWave blk wid f).poolTurn = s.poolTurn := rfl
@[simp] theorem State.mapWave_hw (s : State) (blk wid : Nat) (f : Wave → Wave) : (s.mapWave blk wid f).hw = s.hw := rfl
@[simp] theorem State.mapWave_out (s : State) (blk wid : Nat) (f : Wave → Wave) : (s.mapWave blk wid f).out = s.out := rfl
@[simp] theorem State.mapWave_tick (s : State) (blk wid : Nat) (f : Wave → Wave) : (s.mapWave blk wid f).tick = s.tick := rfl
@[simp] theorem State.mapWave_fresh (s : State) (blk wid : Nat) (f : Wave → Wave) : (s.mapWave blk wid f).fresh = s.fresh := rfl

/-! ## mapSplit -/

@[simp] theorem State.mapSplit_agenda (s : State) (f : Split → Split) : (s.mapSplit f).agenda = s.agenda := rfl
@[simp] theorem State.mapSplit_arg (s : State) (f : Split → Split) : (s.mapSplit f).arg = s.arg := rfl
@[simp] theorem State.mapSplit_blocks (s : State) (f : Split → Split) : (s.mapSplit f).blocks = s.blocks := rfl
@[simp] theorem State.mapSplit_grids (s : State) (f : Split → Split) : (s.mapSplit f).grids = s.grids := rfl
@[simp] theorem State.mapSplit_ops (s : State) (f : Split → Split) : (s.mapSplit f).ops = s.ops := rfl
@[simp] theorem State.mapSplit_nextOp (s : State) (f : Split → Split) : (s.mapSplit f).nextOp = s.nextOp := rfl
@[simp] theorem State.mapSplit_nextBlk (s : State) (f : Split → Split) : (s.mapSplit f).nextBlk = s.nextBlk := rfl
@[simp] theorem State.mapSplit_nextGrid (s : State) (f : Split → Split) : (s.mapSplit f).nextGrid = s.nextGrid := rfl
@[simp] theorem State.mapSplit_mem (s : State) (f : Split → Split) : (s.mapSplit f).mem = s.mem := rfl
@[simp] theorem State.mapSplit_memPoison (s : State) (f : Split → Split) : (s.mapSplit f).memPoison = s.memPoison := rfl
@[simp] theorem State.mapSplit_cscr (s : State) (f : Split → Split) : (s.mapSplit f).cscr = s.cscr := rfl
@[simp] theorem State.mapSplit_cscrPoison (s : State) (f : Split → Split) : (s.mapSplit f).cscrPoison = s.cscrPoison := rfl
@[simp] theorem State.mapSplit_soft (s : State) (f : Split → Split) : (s.mapSplit f).soft = s.soft := rfl
@[simp] theorem State.mapSplit_lines (s : State) (f : Split → Split) : (s.mapSplit f).lines = s.lines := rfl
@[simp] theorem State.mapSplit_shrinking (s : State) (f : Split → Split) : (s.mapSplit f).shrinking = s.shrinking := rfl
@[simp] theorem State.mapSplit_hostWaits (s : State) (f : Split → Split) : (s.mapSplit f).hostWaits = s.hostWaits := rfl
@[simp] theorem State.mapSplit_flipping (s : State) (f : Split → Split) : (s.mapSplit f).flipping = s.flipping := rfl
@[simp] theorem State.mapSplit_near (s : State) (f : Split → Split) : (s.mapSplit f).near = s.near := rfl
@[simp] theorem State.mapSplit_l1 (s : State) (f : Split → Split) : (s.mapSplit f).l1 = s.l1 := rfl
@[simp] theorem State.mapSplit_tlb (s : State) (f : Split → Split) : (s.mapSplit f).tlb = s.tlb := rfl
@[simp] theorem State.mapSplit_cfg (s : State) (f : Split → Split) : (s.mapSplit f).cfg = s.cfg := rfl
@[simp] theorem State.mapSplit_preg (s : State) (f : Split → Split) : (s.mapSplit f).preg = s.preg := rfl
@[simp] theorem State.mapSplit_windows (s : State) (f : Split → Split) : (s.mapSplit f).windows = s.windows := rfl
@[simp] theorem State.mapSplit_errCE (s : State) (f : Split → Split) : (s.mapSplit f).errCE = s.errCE := rfl
@[simp] theorem State.mapSplit_errUE (s : State) (f : Split → Split) : (s.mapSplit f).errUE = s.errUE := rfl
@[simp] theorem State.mapSplit_errRec (s : State) (f : Split → Split) : (s.mapSplit f).errRec = s.errRec := rfl
@[simp] theorem State.mapSplit_exports (s : State) (f : Split → Split) : (s.mapSplit f).exports = s.exports := rfl
@[simp] theorem State.mapSplit_objs (s : State) (f : Split → Split) : (s.mapSplit f).objs = s.objs := rfl
@[simp] theorem State.mapSplit_objGen (s : State) (f : Split → Split) : (s.mapSplit f).objGen = s.objGen := rfl
@[simp] theorem State.mapSplit_chucks (s : State) (f : Split → Split) : (s.mapSplit f).chucks = s.chucks := rfl
@[simp] theorem State.mapSplit_clusters (s : State) (f : Split → Split) : (s.mapSplit f).clusters = s.clusters := rfl
@[simp] theorem State.mapSplit_binds (s : State) (f : Split → Split) : (s.mapSplit f).binds = s.binds := rfl
@[simp] theorem State.mapSplit_prints (s : State) (f : Split → Split) : (s.mapSplit f).prints = s.prints := rfl
@[simp] theorem State.mapSplit_lastBound (s : State) (f : Split → Split) : (s.mapSplit f).lastBound = s.lastBound := rfl
@[simp] theorem State.mapSplit_tags (s : State) (f : Split → Split) : (s.mapSplit f).tags = s.tags := rfl
@[simp] theorem State.mapSplit_drains (s : State) (f : Split → Split) : (s.mapSplit f).drains = s.drains := rfl
@[simp] theorem State.mapSplit_markers (s : State) (f : Split → Split) : (s.mapSplit f).markers = s.markers := rfl
@[simp] theorem State.mapSplit_xholds (s : State) (f : Split → Split) : (s.mapSplit f).xholds = s.xholds := rfl
@[simp] theorem State.mapSplit_nextToken (s : State) (f : Split → Split) : (s.mapSplit f).nextToken = s.nextToken := rfl
@[simp] theorem State.mapSplit_counters (s : State) (f : Split → Split) : (s.mapSplit f).counters = s.counters := rfl
@[simp] theorem State.mapSplit_house (s : State) (f : Split → Split) : (s.mapSplit f).house = s.house := rfl
@[simp] theorem State.mapSplit_quiescing (s : State) (f : Split → Split) : (s.mapSplit f).quiescing = s.quiescing := rfl
@[simp] theorem State.mapSplit_crossings (s : State) (f : Split → Split) : (s.mapSplit f).crossings = s.crossings := rfl
@[simp] theorem State.mapSplit_booked (s : State) (f : Split → Split) : (s.mapSplit f).booked = s.booked := rfl
@[simp] theorem State.mapSplit_sheets (s : State) (f : Split → Split) : (s.mapSplit f).sheets = s.sheets := rfl
@[simp] theorem State.mapSplit_persisted (s : State) (f : Split → Split) : (s.mapSplit f).persisted = s.persisted := rfl
@[simp] theorem State.mapSplit_darkroom (s : State) (f : Split → Split) : (s.mapSplit f).darkroom = s.darkroom := rfl
@[simp] theorem State.mapSplit_badImages (s : State) (f : Split → Split) : (s.mapSplit f).badImages = s.badImages := rfl
@[simp] theorem State.mapSplit_saves (s : State) (f : Split → Split) : (s.mapSplit f).saves = s.saves := rfl
@[simp] theorem State.mapSplit_locks (s : State) (f : Split → Split) : (s.mapSplit f).locks = s.locks := rfl
@[simp] theorem State.mapSplit_lastOn (s : State) (f : Split → Split) : (s.mapSplit f).lastOn = s.lastOn := rfl
@[simp] theorem State.mapSplit_poolTurn (s : State) (f : Split → Split) : (s.mapSplit f).poolTurn = s.poolTurn := rfl
@[simp] theorem State.mapSplit_hw (s : State) (f : Split → Split) : (s.mapSplit f).hw = s.hw := rfl
@[simp] theorem State.mapSplit_out (s : State) (f : Split → Split) : (s.mapSplit f).out = s.out := rfl
@[simp] theorem State.mapSplit_tick (s : State) (f : Split → Split) : (s.mapSplit f).tick = s.tick := rfl
@[simp] theorem State.mapSplit_fresh (s : State) (f : Split → Split) : (s.mapSplit f).fresh = s.fresh := rfl

/-! ## mapCurWave -/

@[simp] theorem State.mapCurWave_agenda (s : State) (f : Wave → Wave) : (s.mapCurWave f).agenda = s.agenda := rfl
@[simp] theorem State.mapCurWave_arg (s : State) (f : Wave → Wave) : (s.mapCurWave f).arg = s.arg := rfl
@[simp] theorem State.mapCurWave_blocks (s : State) (f : Wave → Wave) : (s.mapCurWave f).blocks = s.blocks := rfl
@[simp] theorem State.mapCurWave_grids (s : State) (f : Wave → Wave) : (s.mapCurWave f).grids = s.grids := rfl
@[simp] theorem State.mapCurWave_ops (s : State) (f : Wave → Wave) : (s.mapCurWave f).ops = s.ops := rfl
@[simp] theorem State.mapCurWave_nextOp (s : State) (f : Wave → Wave) : (s.mapCurWave f).nextOp = s.nextOp := rfl
@[simp] theorem State.mapCurWave_nextBlk (s : State) (f : Wave → Wave) : (s.mapCurWave f).nextBlk = s.nextBlk := rfl
@[simp] theorem State.mapCurWave_nextGrid (s : State) (f : Wave → Wave) : (s.mapCurWave f).nextGrid = s.nextGrid := rfl
@[simp] theorem State.mapCurWave_mem (s : State) (f : Wave → Wave) : (s.mapCurWave f).mem = s.mem := rfl
@[simp] theorem State.mapCurWave_memPoison (s : State) (f : Wave → Wave) : (s.mapCurWave f).memPoison = s.memPoison := rfl
@[simp] theorem State.mapCurWave_cscr (s : State) (f : Wave → Wave) : (s.mapCurWave f).cscr = s.cscr := rfl
@[simp] theorem State.mapCurWave_cscrPoison (s : State) (f : Wave → Wave) : (s.mapCurWave f).cscrPoison = s.cscrPoison := rfl
@[simp] theorem State.mapCurWave_soft (s : State) (f : Wave → Wave) : (s.mapCurWave f).soft = s.soft := rfl
@[simp] theorem State.mapCurWave_lines (s : State) (f : Wave → Wave) : (s.mapCurWave f).lines = s.lines := rfl
@[simp] theorem State.mapCurWave_shrinking (s : State) (f : Wave → Wave) : (s.mapCurWave f).shrinking = s.shrinking := rfl
@[simp] theorem State.mapCurWave_hostWaits (s : State) (f : Wave → Wave) : (s.mapCurWave f).hostWaits = s.hostWaits := rfl
@[simp] theorem State.mapCurWave_flipping (s : State) (f : Wave → Wave) : (s.mapCurWave f).flipping = s.flipping := rfl
@[simp] theorem State.mapCurWave_near (s : State) (f : Wave → Wave) : (s.mapCurWave f).near = s.near := rfl
@[simp] theorem State.mapCurWave_l1 (s : State) (f : Wave → Wave) : (s.mapCurWave f).l1 = s.l1 := rfl
@[simp] theorem State.mapCurWave_tlb (s : State) (f : Wave → Wave) : (s.mapCurWave f).tlb = s.tlb := rfl
@[simp] theorem State.mapCurWave_cfg (s : State) (f : Wave → Wave) : (s.mapCurWave f).cfg = s.cfg := rfl
@[simp] theorem State.mapCurWave_preg (s : State) (f : Wave → Wave) : (s.mapCurWave f).preg = s.preg := rfl
@[simp] theorem State.mapCurWave_windows (s : State) (f : Wave → Wave) : (s.mapCurWave f).windows = s.windows := rfl
@[simp] theorem State.mapCurWave_errCE (s : State) (f : Wave → Wave) : (s.mapCurWave f).errCE = s.errCE := rfl
@[simp] theorem State.mapCurWave_errUE (s : State) (f : Wave → Wave) : (s.mapCurWave f).errUE = s.errUE := rfl
@[simp] theorem State.mapCurWave_errRec (s : State) (f : Wave → Wave) : (s.mapCurWave f).errRec = s.errRec := rfl
@[simp] theorem State.mapCurWave_exports (s : State) (f : Wave → Wave) : (s.mapCurWave f).exports = s.exports := rfl
@[simp] theorem State.mapCurWave_objs (s : State) (f : Wave → Wave) : (s.mapCurWave f).objs = s.objs := rfl
@[simp] theorem State.mapCurWave_objGen (s : State) (f : Wave → Wave) : (s.mapCurWave f).objGen = s.objGen := rfl
@[simp] theorem State.mapCurWave_chucks (s : State) (f : Wave → Wave) : (s.mapCurWave f).chucks = s.chucks := rfl
@[simp] theorem State.mapCurWave_clusters (s : State) (f : Wave → Wave) : (s.mapCurWave f).clusters = s.clusters := rfl
@[simp] theorem State.mapCurWave_binds (s : State) (f : Wave → Wave) : (s.mapCurWave f).binds = s.binds := rfl
@[simp] theorem State.mapCurWave_prints (s : State) (f : Wave → Wave) : (s.mapCurWave f).prints = s.prints := rfl
@[simp] theorem State.mapCurWave_lastBound (s : State) (f : Wave → Wave) : (s.mapCurWave f).lastBound = s.lastBound := rfl
@[simp] theorem State.mapCurWave_tags (s : State) (f : Wave → Wave) : (s.mapCurWave f).tags = s.tags := rfl
@[simp] theorem State.mapCurWave_drains (s : State) (f : Wave → Wave) : (s.mapCurWave f).drains = s.drains := rfl
@[simp] theorem State.mapCurWave_markers (s : State) (f : Wave → Wave) : (s.mapCurWave f).markers = s.markers := rfl
@[simp] theorem State.mapCurWave_xholds (s : State) (f : Wave → Wave) : (s.mapCurWave f).xholds = s.xholds := rfl
@[simp] theorem State.mapCurWave_nextToken (s : State) (f : Wave → Wave) : (s.mapCurWave f).nextToken = s.nextToken := rfl
@[simp] theorem State.mapCurWave_counters (s : State) (f : Wave → Wave) : (s.mapCurWave f).counters = s.counters := rfl
@[simp] theorem State.mapCurWave_house (s : State) (f : Wave → Wave) : (s.mapCurWave f).house = s.house := rfl
@[simp] theorem State.mapCurWave_quiescing (s : State) (f : Wave → Wave) : (s.mapCurWave f).quiescing = s.quiescing := rfl
@[simp] theorem State.mapCurWave_crossings (s : State) (f : Wave → Wave) : (s.mapCurWave f).crossings = s.crossings := rfl
@[simp] theorem State.mapCurWave_booked (s : State) (f : Wave → Wave) : (s.mapCurWave f).booked = s.booked := rfl
@[simp] theorem State.mapCurWave_sheets (s : State) (f : Wave → Wave) : (s.mapCurWave f).sheets = s.sheets := rfl
@[simp] theorem State.mapCurWave_persisted (s : State) (f : Wave → Wave) : (s.mapCurWave f).persisted = s.persisted := rfl
@[simp] theorem State.mapCurWave_darkroom (s : State) (f : Wave → Wave) : (s.mapCurWave f).darkroom = s.darkroom := rfl
@[simp] theorem State.mapCurWave_badImages (s : State) (f : Wave → Wave) : (s.mapCurWave f).badImages = s.badImages := rfl
@[simp] theorem State.mapCurWave_saves (s : State) (f : Wave → Wave) : (s.mapCurWave f).saves = s.saves := rfl
@[simp] theorem State.mapCurWave_locks (s : State) (f : Wave → Wave) : (s.mapCurWave f).locks = s.locks := rfl
@[simp] theorem State.mapCurWave_lastOn (s : State) (f : Wave → Wave) : (s.mapCurWave f).lastOn = s.lastOn := rfl
@[simp] theorem State.mapCurWave_poolTurn (s : State) (f : Wave → Wave) : (s.mapCurWave f).poolTurn = s.poolTurn := rfl
@[simp] theorem State.mapCurWave_hw (s : State) (f : Wave → Wave) : (s.mapCurWave f).hw = s.hw := rfl
@[simp] theorem State.mapCurWave_out (s : State) (f : Wave → Wave) : (s.mapCurWave f).out = s.out := rfl
@[simp] theorem State.mapCurWave_tick (s : State) (f : Wave → Wave) : (s.mapCurWave f).tick = s.tick := rfl
@[simp] theorem State.mapCurWave_fresh (s : State) (f : Wave → Wave) : (s.mapCurWave f).fresh = s.fresh := rfl

/-! ## setPr -/

@[simp] theorem State.setPr_agenda (s : State) (reg fn child inst : Nat) (v : Dword) : (s.setPr reg fn child inst v).agenda = s.agenda := rfl
@[simp] theorem State.setPr_arg (s : State) (reg fn child inst : Nat) (v : Dword) : (s.setPr reg fn child inst v).arg = s.arg := rfl
@[simp] theorem State.setPr_cur (s : State) (reg fn child inst : Nat) (v : Dword) : (s.setPr reg fn child inst v).cur = s.cur := rfl
@[simp] theorem State.setPr_blocks (s : State) (reg fn child inst : Nat) (v : Dword) : (s.setPr reg fn child inst v).blocks = s.blocks := rfl
@[simp] theorem State.setPr_grids (s : State) (reg fn child inst : Nat) (v : Dword) : (s.setPr reg fn child inst v).grids = s.grids := rfl
@[simp] theorem State.setPr_ops (s : State) (reg fn child inst : Nat) (v : Dword) : (s.setPr reg fn child inst v).ops = s.ops := rfl
@[simp] theorem State.setPr_nextOp (s : State) (reg fn child inst : Nat) (v : Dword) : (s.setPr reg fn child inst v).nextOp = s.nextOp := rfl
@[simp] theorem State.setPr_nextBlk (s : State) (reg fn child inst : Nat) (v : Dword) : (s.setPr reg fn child inst v).nextBlk = s.nextBlk := rfl
@[simp] theorem State.setPr_nextGrid (s : State) (reg fn child inst : Nat) (v : Dword) : (s.setPr reg fn child inst v).nextGrid = s.nextGrid := rfl
@[simp] theorem State.setPr_mem (s : State) (reg fn child inst : Nat) (v : Dword) : (s.setPr reg fn child inst v).mem = s.mem := rfl
@[simp] theorem State.setPr_memPoison (s : State) (reg fn child inst : Nat) (v : Dword) : (s.setPr reg fn child inst v).memPoison = s.memPoison := rfl
@[simp] theorem State.setPr_cscr (s : State) (reg fn child inst : Nat) (v : Dword) : (s.setPr reg fn child inst v).cscr = s.cscr := rfl
@[simp] theorem State.setPr_cscrPoison (s : State) (reg fn child inst : Nat) (v : Dword) : (s.setPr reg fn child inst v).cscrPoison = s.cscrPoison := rfl
@[simp] theorem State.setPr_soft (s : State) (reg fn child inst : Nat) (v : Dword) : (s.setPr reg fn child inst v).soft = s.soft := rfl
@[simp] theorem State.setPr_lines (s : State) (reg fn child inst : Nat) (v : Dword) : (s.setPr reg fn child inst v).lines = s.lines := rfl
@[simp] theorem State.setPr_shrinking (s : State) (reg fn child inst : Nat) (v : Dword) : (s.setPr reg fn child inst v).shrinking = s.shrinking := rfl
@[simp] theorem State.setPr_hostWaits (s : State) (reg fn child inst : Nat) (v : Dword) : (s.setPr reg fn child inst v).hostWaits = s.hostWaits := rfl
@[simp] theorem State.setPr_flipping (s : State) (reg fn child inst : Nat) (v : Dword) : (s.setPr reg fn child inst v).flipping = s.flipping := rfl
@[simp] theorem State.setPr_near (s : State) (reg fn child inst : Nat) (v : Dword) : (s.setPr reg fn child inst v).near = s.near := rfl
@[simp] theorem State.setPr_l1 (s : State) (reg fn child inst : Nat) (v : Dword) : (s.setPr reg fn child inst v).l1 = s.l1 := rfl
@[simp] theorem State.setPr_tlb (s : State) (reg fn child inst : Nat) (v : Dword) : (s.setPr reg fn child inst v).tlb = s.tlb := rfl
@[simp] theorem State.setPr_cfg (s : State) (reg fn child inst : Nat) (v : Dword) : (s.setPr reg fn child inst v).cfg = s.cfg := rfl
@[simp] theorem State.setPr_windows (s : State) (reg fn child inst : Nat) (v : Dword) : (s.setPr reg fn child inst v).windows = s.windows := rfl
@[simp] theorem State.setPr_errCE (s : State) (reg fn child inst : Nat) (v : Dword) : (s.setPr reg fn child inst v).errCE = s.errCE := rfl
@[simp] theorem State.setPr_errUE (s : State) (reg fn child inst : Nat) (v : Dword) : (s.setPr reg fn child inst v).errUE = s.errUE := rfl
@[simp] theorem State.setPr_errRec (s : State) (reg fn child inst : Nat) (v : Dword) : (s.setPr reg fn child inst v).errRec = s.errRec := rfl
@[simp] theorem State.setPr_exports (s : State) (reg fn child inst : Nat) (v : Dword) : (s.setPr reg fn child inst v).exports = s.exports := rfl
@[simp] theorem State.setPr_objs (s : State) (reg fn child inst : Nat) (v : Dword) : (s.setPr reg fn child inst v).objs = s.objs := rfl
@[simp] theorem State.setPr_objGen (s : State) (reg fn child inst : Nat) (v : Dword) : (s.setPr reg fn child inst v).objGen = s.objGen := rfl
@[simp] theorem State.setPr_chucks (s : State) (reg fn child inst : Nat) (v : Dword) : (s.setPr reg fn child inst v).chucks = s.chucks := rfl
@[simp] theorem State.setPr_clusters (s : State) (reg fn child inst : Nat) (v : Dword) : (s.setPr reg fn child inst v).clusters = s.clusters := rfl
@[simp] theorem State.setPr_binds (s : State) (reg fn child inst : Nat) (v : Dword) : (s.setPr reg fn child inst v).binds = s.binds := rfl
@[simp] theorem State.setPr_prints (s : State) (reg fn child inst : Nat) (v : Dword) : (s.setPr reg fn child inst v).prints = s.prints := rfl
@[simp] theorem State.setPr_lastBound (s : State) (reg fn child inst : Nat) (v : Dword) : (s.setPr reg fn child inst v).lastBound = s.lastBound := rfl
@[simp] theorem State.setPr_tags (s : State) (reg fn child inst : Nat) (v : Dword) : (s.setPr reg fn child inst v).tags = s.tags := rfl
@[simp] theorem State.setPr_drains (s : State) (reg fn child inst : Nat) (v : Dword) : (s.setPr reg fn child inst v).drains = s.drains := rfl
@[simp] theorem State.setPr_markers (s : State) (reg fn child inst : Nat) (v : Dword) : (s.setPr reg fn child inst v).markers = s.markers := rfl
@[simp] theorem State.setPr_xholds (s : State) (reg fn child inst : Nat) (v : Dword) : (s.setPr reg fn child inst v).xholds = s.xholds := rfl
@[simp] theorem State.setPr_nextToken (s : State) (reg fn child inst : Nat) (v : Dword) : (s.setPr reg fn child inst v).nextToken = s.nextToken := rfl
@[simp] theorem State.setPr_counters (s : State) (reg fn child inst : Nat) (v : Dword) : (s.setPr reg fn child inst v).counters = s.counters := rfl
@[simp] theorem State.setPr_house (s : State) (reg fn child inst : Nat) (v : Dword) : (s.setPr reg fn child inst v).house = s.house := rfl
@[simp] theorem State.setPr_quiescing (s : State) (reg fn child inst : Nat) (v : Dword) : (s.setPr reg fn child inst v).quiescing = s.quiescing := rfl
@[simp] theorem State.setPr_crossings (s : State) (reg fn child inst : Nat) (v : Dword) : (s.setPr reg fn child inst v).crossings = s.crossings := rfl
@[simp] theorem State.setPr_booked (s : State) (reg fn child inst : Nat) (v : Dword) : (s.setPr reg fn child inst v).booked = s.booked := rfl
@[simp] theorem State.setPr_sheets (s : State) (reg fn child inst : Nat) (v : Dword) : (s.setPr reg fn child inst v).sheets = s.sheets := rfl
@[simp] theorem State.setPr_persisted (s : State) (reg fn child inst : Nat) (v : Dword) : (s.setPr reg fn child inst v).persisted = s.persisted := rfl
@[simp] theorem State.setPr_darkroom (s : State) (reg fn child inst : Nat) (v : Dword) : (s.setPr reg fn child inst v).darkroom = s.darkroom := rfl
@[simp] theorem State.setPr_badImages (s : State) (reg fn child inst : Nat) (v : Dword) : (s.setPr reg fn child inst v).badImages = s.badImages := rfl
@[simp] theorem State.setPr_saves (s : State) (reg fn child inst : Nat) (v : Dword) : (s.setPr reg fn child inst v).saves = s.saves := rfl
@[simp] theorem State.setPr_locks (s : State) (reg fn child inst : Nat) (v : Dword) : (s.setPr reg fn child inst v).locks = s.locks := rfl
@[simp] theorem State.setPr_lastOn (s : State) (reg fn child inst : Nat) (v : Dword) : (s.setPr reg fn child inst v).lastOn = s.lastOn := rfl
@[simp] theorem State.setPr_poolTurn (s : State) (reg fn child inst : Nat) (v : Dword) : (s.setPr reg fn child inst v).poolTurn = s.poolTurn := rfl
@[simp] theorem State.setPr_hw (s : State) (reg fn child inst : Nat) (v : Dword) : (s.setPr reg fn child inst v).hw = s.hw := rfl
@[simp] theorem State.setPr_out (s : State) (reg fn child inst : Nat) (v : Dword) : (s.setPr reg fn child inst v).out = s.out := rfl
@[simp] theorem State.setPr_tick (s : State) (reg fn child inst : Nat) (v : Dword) : (s.setPr reg fn child inst v).tick = s.tick := rfl
@[simp] theorem State.setPr_fresh (s : State) (reg fn child inst : Nat) (v : Dword) : (s.setPr reg fn child inst v).fresh = s.fresh := rfl

/-! ## setCfg -/

@[simp] theorem State.setCfg_agenda (s : State) (fn off : Nat) (v : Dword) : (s.setCfg fn off v).agenda = s.agenda := rfl
@[simp] theorem State.setCfg_arg (s : State) (fn off : Nat) (v : Dword) : (s.setCfg fn off v).arg = s.arg := rfl
@[simp] theorem State.setCfg_cur (s : State) (fn off : Nat) (v : Dword) : (s.setCfg fn off v).cur = s.cur := rfl
@[simp] theorem State.setCfg_blocks (s : State) (fn off : Nat) (v : Dword) : (s.setCfg fn off v).blocks = s.blocks := rfl
@[simp] theorem State.setCfg_grids (s : State) (fn off : Nat) (v : Dword) : (s.setCfg fn off v).grids = s.grids := rfl
@[simp] theorem State.setCfg_ops (s : State) (fn off : Nat) (v : Dword) : (s.setCfg fn off v).ops = s.ops := rfl
@[simp] theorem State.setCfg_nextOp (s : State) (fn off : Nat) (v : Dword) : (s.setCfg fn off v).nextOp = s.nextOp := rfl
@[simp] theorem State.setCfg_nextBlk (s : State) (fn off : Nat) (v : Dword) : (s.setCfg fn off v).nextBlk = s.nextBlk := rfl
@[simp] theorem State.setCfg_nextGrid (s : State) (fn off : Nat) (v : Dword) : (s.setCfg fn off v).nextGrid = s.nextGrid := rfl
@[simp] theorem State.setCfg_mem (s : State) (fn off : Nat) (v : Dword) : (s.setCfg fn off v).mem = s.mem := rfl
@[simp] theorem State.setCfg_memPoison (s : State) (fn off : Nat) (v : Dword) : (s.setCfg fn off v).memPoison = s.memPoison := rfl
@[simp] theorem State.setCfg_cscr (s : State) (fn off : Nat) (v : Dword) : (s.setCfg fn off v).cscr = s.cscr := rfl
@[simp] theorem State.setCfg_cscrPoison (s : State) (fn off : Nat) (v : Dword) : (s.setCfg fn off v).cscrPoison = s.cscrPoison := rfl
@[simp] theorem State.setCfg_soft (s : State) (fn off : Nat) (v : Dword) : (s.setCfg fn off v).soft = s.soft := rfl
@[simp] theorem State.setCfg_lines (s : State) (fn off : Nat) (v : Dword) : (s.setCfg fn off v).lines = s.lines := rfl
@[simp] theorem State.setCfg_shrinking (s : State) (fn off : Nat) (v : Dword) : (s.setCfg fn off v).shrinking = s.shrinking := rfl
@[simp] theorem State.setCfg_hostWaits (s : State) (fn off : Nat) (v : Dword) : (s.setCfg fn off v).hostWaits = s.hostWaits := rfl
@[simp] theorem State.setCfg_flipping (s : State) (fn off : Nat) (v : Dword) : (s.setCfg fn off v).flipping = s.flipping := rfl
@[simp] theorem State.setCfg_near (s : State) (fn off : Nat) (v : Dword) : (s.setCfg fn off v).near = s.near := rfl
@[simp] theorem State.setCfg_l1 (s : State) (fn off : Nat) (v : Dword) : (s.setCfg fn off v).l1 = s.l1 := rfl
@[simp] theorem State.setCfg_tlb (s : State) (fn off : Nat) (v : Dword) : (s.setCfg fn off v).tlb = s.tlb := rfl
@[simp] theorem State.setCfg_preg (s : State) (fn off : Nat) (v : Dword) : (s.setCfg fn off v).preg = s.preg := rfl
@[simp] theorem State.setCfg_windows (s : State) (fn off : Nat) (v : Dword) : (s.setCfg fn off v).windows = s.windows := rfl
@[simp] theorem State.setCfg_errCE (s : State) (fn off : Nat) (v : Dword) : (s.setCfg fn off v).errCE = s.errCE := rfl
@[simp] theorem State.setCfg_errUE (s : State) (fn off : Nat) (v : Dword) : (s.setCfg fn off v).errUE = s.errUE := rfl
@[simp] theorem State.setCfg_errRec (s : State) (fn off : Nat) (v : Dword) : (s.setCfg fn off v).errRec = s.errRec := rfl
@[simp] theorem State.setCfg_exports (s : State) (fn off : Nat) (v : Dword) : (s.setCfg fn off v).exports = s.exports := rfl
@[simp] theorem State.setCfg_objs (s : State) (fn off : Nat) (v : Dword) : (s.setCfg fn off v).objs = s.objs := rfl
@[simp] theorem State.setCfg_objGen (s : State) (fn off : Nat) (v : Dword) : (s.setCfg fn off v).objGen = s.objGen := rfl
@[simp] theorem State.setCfg_chucks (s : State) (fn off : Nat) (v : Dword) : (s.setCfg fn off v).chucks = s.chucks := rfl
@[simp] theorem State.setCfg_clusters (s : State) (fn off : Nat) (v : Dword) : (s.setCfg fn off v).clusters = s.clusters := rfl
@[simp] theorem State.setCfg_binds (s : State) (fn off : Nat) (v : Dword) : (s.setCfg fn off v).binds = s.binds := rfl
@[simp] theorem State.setCfg_prints (s : State) (fn off : Nat) (v : Dword) : (s.setCfg fn off v).prints = s.prints := rfl
@[simp] theorem State.setCfg_lastBound (s : State) (fn off : Nat) (v : Dword) : (s.setCfg fn off v).lastBound = s.lastBound := rfl
@[simp] theorem State.setCfg_tags (s : State) (fn off : Nat) (v : Dword) : (s.setCfg fn off v).tags = s.tags := rfl
@[simp] theorem State.setCfg_drains (s : State) (fn off : Nat) (v : Dword) : (s.setCfg fn off v).drains = s.drains := rfl
@[simp] theorem State.setCfg_markers (s : State) (fn off : Nat) (v : Dword) : (s.setCfg fn off v).markers = s.markers := rfl
@[simp] theorem State.setCfg_xholds (s : State) (fn off : Nat) (v : Dword) : (s.setCfg fn off v).xholds = s.xholds := rfl
@[simp] theorem State.setCfg_nextToken (s : State) (fn off : Nat) (v : Dword) : (s.setCfg fn off v).nextToken = s.nextToken := rfl
@[simp] theorem State.setCfg_counters (s : State) (fn off : Nat) (v : Dword) : (s.setCfg fn off v).counters = s.counters := rfl
@[simp] theorem State.setCfg_house (s : State) (fn off : Nat) (v : Dword) : (s.setCfg fn off v).house = s.house := rfl
@[simp] theorem State.setCfg_quiescing (s : State) (fn off : Nat) (v : Dword) : (s.setCfg fn off v).quiescing = s.quiescing := rfl
@[simp] theorem State.setCfg_crossings (s : State) (fn off : Nat) (v : Dword) : (s.setCfg fn off v).crossings = s.crossings := rfl
@[simp] theorem State.setCfg_booked (s : State) (fn off : Nat) (v : Dword) : (s.setCfg fn off v).booked = s.booked := rfl
@[simp] theorem State.setCfg_sheets (s : State) (fn off : Nat) (v : Dword) : (s.setCfg fn off v).sheets = s.sheets := rfl
@[simp] theorem State.setCfg_persisted (s : State) (fn off : Nat) (v : Dword) : (s.setCfg fn off v).persisted = s.persisted := rfl
@[simp] theorem State.setCfg_darkroom (s : State) (fn off : Nat) (v : Dword) : (s.setCfg fn off v).darkroom = s.darkroom := rfl
@[simp] theorem State.setCfg_badImages (s : State) (fn off : Nat) (v : Dword) : (s.setCfg fn off v).badImages = s.badImages := rfl
@[simp] theorem State.setCfg_saves (s : State) (fn off : Nat) (v : Dword) : (s.setCfg fn off v).saves = s.saves := rfl
@[simp] theorem State.setCfg_locks (s : State) (fn off : Nat) (v : Dword) : (s.setCfg fn off v).locks = s.locks := rfl
@[simp] theorem State.setCfg_lastOn (s : State) (fn off : Nat) (v : Dword) : (s.setCfg fn off v).lastOn = s.lastOn := rfl
@[simp] theorem State.setCfg_poolTurn (s : State) (fn off : Nat) (v : Dword) : (s.setCfg fn off v).poolTurn = s.poolTurn := rfl
@[simp] theorem State.setCfg_hw (s : State) (fn off : Nat) (v : Dword) : (s.setCfg fn off v).hw = s.hw := rfl
@[simp] theorem State.setCfg_out (s : State) (fn off : Nat) (v : Dword) : (s.setCfg fn off v).out = s.out := rfl
@[simp] theorem State.setCfg_tick (s : State) (fn off : Nat) (v : Dword) : (s.setCfg fn off v).tick = s.tick := rfl
@[simp] theorem State.setCfg_fresh (s : State) (fn off : Nat) (v : Dword) : (s.setCfg fn off v).fresh = s.fresh := rfl

/-! ## setCluster -/

@[simp] theorem State.setCluster_agenda (s : State) (cl : Nat) (k : Cluster) : (s.setCluster cl k).agenda = s.agenda := rfl
@[simp] theorem State.setCluster_arg (s : State) (cl : Nat) (k : Cluster) : (s.setCluster cl k).arg = s.arg := rfl
@[simp] theorem State.setCluster_cur (s : State) (cl : Nat) (k : Cluster) : (s.setCluster cl k).cur = s.cur := rfl
@[simp] theorem State.setCluster_blocks (s : State) (cl : Nat) (k : Cluster) : (s.setCluster cl k).blocks = s.blocks := rfl
@[simp] theorem State.setCluster_grids (s : State) (cl : Nat) (k : Cluster) : (s.setCluster cl k).grids = s.grids := rfl
@[simp] theorem State.setCluster_ops (s : State) (cl : Nat) (k : Cluster) : (s.setCluster cl k).ops = s.ops := rfl
@[simp] theorem State.setCluster_nextOp (s : State) (cl : Nat) (k : Cluster) : (s.setCluster cl k).nextOp = s.nextOp := rfl
@[simp] theorem State.setCluster_nextBlk (s : State) (cl : Nat) (k : Cluster) : (s.setCluster cl k).nextBlk = s.nextBlk := rfl
@[simp] theorem State.setCluster_nextGrid (s : State) (cl : Nat) (k : Cluster) : (s.setCluster cl k).nextGrid = s.nextGrid := rfl
@[simp] theorem State.setCluster_mem (s : State) (cl : Nat) (k : Cluster) : (s.setCluster cl k).mem = s.mem := rfl
@[simp] theorem State.setCluster_memPoison (s : State) (cl : Nat) (k : Cluster) : (s.setCluster cl k).memPoison = s.memPoison := rfl
@[simp] theorem State.setCluster_cscr (s : State) (cl : Nat) (k : Cluster) : (s.setCluster cl k).cscr = s.cscr := rfl
@[simp] theorem State.setCluster_cscrPoison (s : State) (cl : Nat) (k : Cluster) : (s.setCluster cl k).cscrPoison = s.cscrPoison := rfl
@[simp] theorem State.setCluster_soft (s : State) (cl : Nat) (k : Cluster) : (s.setCluster cl k).soft = s.soft := rfl
@[simp] theorem State.setCluster_lines (s : State) (cl : Nat) (k : Cluster) : (s.setCluster cl k).lines = s.lines := rfl
@[simp] theorem State.setCluster_shrinking (s : State) (cl : Nat) (k : Cluster) : (s.setCluster cl k).shrinking = s.shrinking := rfl
@[simp] theorem State.setCluster_hostWaits (s : State) (cl : Nat) (k : Cluster) : (s.setCluster cl k).hostWaits = s.hostWaits := rfl
@[simp] theorem State.setCluster_flipping (s : State) (cl : Nat) (k : Cluster) : (s.setCluster cl k).flipping = s.flipping := rfl
@[simp] theorem State.setCluster_near (s : State) (cl : Nat) (k : Cluster) : (s.setCluster cl k).near = s.near := rfl
@[simp] theorem State.setCluster_l1 (s : State) (cl : Nat) (k : Cluster) : (s.setCluster cl k).l1 = s.l1 := rfl
@[simp] theorem State.setCluster_tlb (s : State) (cl : Nat) (k : Cluster) : (s.setCluster cl k).tlb = s.tlb := rfl
@[simp] theorem State.setCluster_cfg (s : State) (cl : Nat) (k : Cluster) : (s.setCluster cl k).cfg = s.cfg := rfl
@[simp] theorem State.setCluster_preg (s : State) (cl : Nat) (k : Cluster) : (s.setCluster cl k).preg = s.preg := rfl
@[simp] theorem State.setCluster_windows (s : State) (cl : Nat) (k : Cluster) : (s.setCluster cl k).windows = s.windows := rfl
@[simp] theorem State.setCluster_errCE (s : State) (cl : Nat) (k : Cluster) : (s.setCluster cl k).errCE = s.errCE := rfl
@[simp] theorem State.setCluster_errUE (s : State) (cl : Nat) (k : Cluster) : (s.setCluster cl k).errUE = s.errUE := rfl
@[simp] theorem State.setCluster_errRec (s : State) (cl : Nat) (k : Cluster) : (s.setCluster cl k).errRec = s.errRec := rfl
@[simp] theorem State.setCluster_exports (s : State) (cl : Nat) (k : Cluster) : (s.setCluster cl k).exports = s.exports := rfl
@[simp] theorem State.setCluster_objs (s : State) (cl : Nat) (k : Cluster) : (s.setCluster cl k).objs = s.objs := rfl
@[simp] theorem State.setCluster_objGen (s : State) (cl : Nat) (k : Cluster) : (s.setCluster cl k).objGen = s.objGen := rfl
@[simp] theorem State.setCluster_chucks (s : State) (cl : Nat) (k : Cluster) : (s.setCluster cl k).chucks = s.chucks := rfl
@[simp] theorem State.setCluster_binds (s : State) (cl : Nat) (k : Cluster) : (s.setCluster cl k).binds = s.binds := rfl
@[simp] theorem State.setCluster_prints (s : State) (cl : Nat) (k : Cluster) : (s.setCluster cl k).prints = s.prints := rfl
@[simp] theorem State.setCluster_lastBound (s : State) (cl : Nat) (k : Cluster) : (s.setCluster cl k).lastBound = s.lastBound := rfl
@[simp] theorem State.setCluster_tags (s : State) (cl : Nat) (k : Cluster) : (s.setCluster cl k).tags = s.tags := rfl
@[simp] theorem State.setCluster_drains (s : State) (cl : Nat) (k : Cluster) : (s.setCluster cl k).drains = s.drains := rfl
@[simp] theorem State.setCluster_markers (s : State) (cl : Nat) (k : Cluster) : (s.setCluster cl k).markers = s.markers := rfl
@[simp] theorem State.setCluster_xholds (s : State) (cl : Nat) (k : Cluster) : (s.setCluster cl k).xholds = s.xholds := rfl
@[simp] theorem State.setCluster_nextToken (s : State) (cl : Nat) (k : Cluster) : (s.setCluster cl k).nextToken = s.nextToken := rfl
@[simp] theorem State.setCluster_counters (s : State) (cl : Nat) (k : Cluster) : (s.setCluster cl k).counters = s.counters := rfl
@[simp] theorem State.setCluster_house (s : State) (cl : Nat) (k : Cluster) : (s.setCluster cl k).house = s.house := rfl
@[simp] theorem State.setCluster_quiescing (s : State) (cl : Nat) (k : Cluster) : (s.setCluster cl k).quiescing = s.quiescing := rfl
@[simp] theorem State.setCluster_crossings (s : State) (cl : Nat) (k : Cluster) : (s.setCluster cl k).crossings = s.crossings := rfl
@[simp] theorem State.setCluster_booked (s : State) (cl : Nat) (k : Cluster) : (s.setCluster cl k).booked = s.booked := rfl
@[simp] theorem State.setCluster_sheets (s : State) (cl : Nat) (k : Cluster) : (s.setCluster cl k).sheets = s.sheets := rfl
@[simp] theorem State.setCluster_persisted (s : State) (cl : Nat) (k : Cluster) : (s.setCluster cl k).persisted = s.persisted := rfl
@[simp] theorem State.setCluster_darkroom (s : State) (cl : Nat) (k : Cluster) : (s.setCluster cl k).darkroom = s.darkroom := rfl
@[simp] theorem State.setCluster_badImages (s : State) (cl : Nat) (k : Cluster) : (s.setCluster cl k).badImages = s.badImages := rfl
@[simp] theorem State.setCluster_saves (s : State) (cl : Nat) (k : Cluster) : (s.setCluster cl k).saves = s.saves := rfl
@[simp] theorem State.setCluster_locks (s : State) (cl : Nat) (k : Cluster) : (s.setCluster cl k).locks = s.locks := rfl
@[simp] theorem State.setCluster_lastOn (s : State) (cl : Nat) (k : Cluster) : (s.setCluster cl k).lastOn = s.lastOn := rfl
@[simp] theorem State.setCluster_poolTurn (s : State) (cl : Nat) (k : Cluster) : (s.setCluster cl k).poolTurn = s.poolTurn := rfl
@[simp] theorem State.setCluster_hw (s : State) (cl : Nat) (k : Cluster) : (s.setCluster cl k).hw = s.hw := rfl
@[simp] theorem State.setCluster_out (s : State) (cl : Nat) (k : Cluster) : (s.setCluster cl k).out = s.out := rfl
@[simp] theorem State.setCluster_tick (s : State) (cl : Nat) (k : Cluster) : (s.setCluster cl k).tick = s.tick := rfl
@[simp] theorem State.setCluster_fresh (s : State) (cl : Nat) (k : Cluster) : (s.setCluster cl k).fresh = s.fresh := rfl

/-! ## setChuck -/

@[simp] theorem State.setChuck_agenda (s : State) (slice : Nat) (c : Chuck) : (s.setChuck slice c).agenda = s.agenda := rfl
@[simp] theorem State.setChuck_arg (s : State) (slice : Nat) (c : Chuck) : (s.setChuck slice c).arg = s.arg := rfl
@[simp] theorem State.setChuck_cur (s : State) (slice : Nat) (c : Chuck) : (s.setChuck slice c).cur = s.cur := rfl
@[simp] theorem State.setChuck_blocks (s : State) (slice : Nat) (c : Chuck) : (s.setChuck slice c).blocks = s.blocks := rfl
@[simp] theorem State.setChuck_grids (s : State) (slice : Nat) (c : Chuck) : (s.setChuck slice c).grids = s.grids := rfl
@[simp] theorem State.setChuck_ops (s : State) (slice : Nat) (c : Chuck) : (s.setChuck slice c).ops = s.ops := rfl
@[simp] theorem State.setChuck_nextOp (s : State) (slice : Nat) (c : Chuck) : (s.setChuck slice c).nextOp = s.nextOp := rfl
@[simp] theorem State.setChuck_nextBlk (s : State) (slice : Nat) (c : Chuck) : (s.setChuck slice c).nextBlk = s.nextBlk := rfl
@[simp] theorem State.setChuck_nextGrid (s : State) (slice : Nat) (c : Chuck) : (s.setChuck slice c).nextGrid = s.nextGrid := rfl
@[simp] theorem State.setChuck_mem (s : State) (slice : Nat) (c : Chuck) : (s.setChuck slice c).mem = s.mem := rfl
@[simp] theorem State.setChuck_memPoison (s : State) (slice : Nat) (c : Chuck) : (s.setChuck slice c).memPoison = s.memPoison := rfl
@[simp] theorem State.setChuck_cscr (s : State) (slice : Nat) (c : Chuck) : (s.setChuck slice c).cscr = s.cscr := rfl
@[simp] theorem State.setChuck_cscrPoison (s : State) (slice : Nat) (c : Chuck) : (s.setChuck slice c).cscrPoison = s.cscrPoison := rfl
@[simp] theorem State.setChuck_soft (s : State) (slice : Nat) (c : Chuck) : (s.setChuck slice c).soft = s.soft := rfl
@[simp] theorem State.setChuck_lines (s : State) (slice : Nat) (c : Chuck) : (s.setChuck slice c).lines = s.lines := rfl
@[simp] theorem State.setChuck_shrinking (s : State) (slice : Nat) (c : Chuck) : (s.setChuck slice c).shrinking = s.shrinking := rfl
@[simp] theorem State.setChuck_hostWaits (s : State) (slice : Nat) (c : Chuck) : (s.setChuck slice c).hostWaits = s.hostWaits := rfl
@[simp] theorem State.setChuck_flipping (s : State) (slice : Nat) (c : Chuck) : (s.setChuck slice c).flipping = s.flipping := rfl
@[simp] theorem State.setChuck_near (s : State) (slice : Nat) (c : Chuck) : (s.setChuck slice c).near = s.near := rfl
@[simp] theorem State.setChuck_l1 (s : State) (slice : Nat) (c : Chuck) : (s.setChuck slice c).l1 = s.l1 := rfl
@[simp] theorem State.setChuck_tlb (s : State) (slice : Nat) (c : Chuck) : (s.setChuck slice c).tlb = s.tlb := rfl
@[simp] theorem State.setChuck_cfg (s : State) (slice : Nat) (c : Chuck) : (s.setChuck slice c).cfg = s.cfg := rfl
@[simp] theorem State.setChuck_preg (s : State) (slice : Nat) (c : Chuck) : (s.setChuck slice c).preg = s.preg := rfl
@[simp] theorem State.setChuck_windows (s : State) (slice : Nat) (c : Chuck) : (s.setChuck slice c).windows = s.windows := rfl
@[simp] theorem State.setChuck_errCE (s : State) (slice : Nat) (c : Chuck) : (s.setChuck slice c).errCE = s.errCE := rfl
@[simp] theorem State.setChuck_errUE (s : State) (slice : Nat) (c : Chuck) : (s.setChuck slice c).errUE = s.errUE := rfl
@[simp] theorem State.setChuck_errRec (s : State) (slice : Nat) (c : Chuck) : (s.setChuck slice c).errRec = s.errRec := rfl
@[simp] theorem State.setChuck_exports (s : State) (slice : Nat) (c : Chuck) : (s.setChuck slice c).exports = s.exports := rfl
@[simp] theorem State.setChuck_objs (s : State) (slice : Nat) (c : Chuck) : (s.setChuck slice c).objs = s.objs := rfl
@[simp] theorem State.setChuck_objGen (s : State) (slice : Nat) (c : Chuck) : (s.setChuck slice c).objGen = s.objGen := rfl
@[simp] theorem State.setChuck_clusters (s : State) (slice : Nat) (c : Chuck) : (s.setChuck slice c).clusters = s.clusters := rfl
@[simp] theorem State.setChuck_binds (s : State) (slice : Nat) (c : Chuck) : (s.setChuck slice c).binds = s.binds := rfl
@[simp] theorem State.setChuck_prints (s : State) (slice : Nat) (c : Chuck) : (s.setChuck slice c).prints = s.prints := rfl
@[simp] theorem State.setChuck_lastBound (s : State) (slice : Nat) (c : Chuck) : (s.setChuck slice c).lastBound = s.lastBound := rfl
@[simp] theorem State.setChuck_tags (s : State) (slice : Nat) (c : Chuck) : (s.setChuck slice c).tags = s.tags := rfl
@[simp] theorem State.setChuck_drains (s : State) (slice : Nat) (c : Chuck) : (s.setChuck slice c).drains = s.drains := rfl
@[simp] theorem State.setChuck_markers (s : State) (slice : Nat) (c : Chuck) : (s.setChuck slice c).markers = s.markers := rfl
@[simp] theorem State.setChuck_xholds (s : State) (slice : Nat) (c : Chuck) : (s.setChuck slice c).xholds = s.xholds := rfl
@[simp] theorem State.setChuck_nextToken (s : State) (slice : Nat) (c : Chuck) : (s.setChuck slice c).nextToken = s.nextToken := rfl
@[simp] theorem State.setChuck_counters (s : State) (slice : Nat) (c : Chuck) : (s.setChuck slice c).counters = s.counters := rfl
@[simp] theorem State.setChuck_house (s : State) (slice : Nat) (c : Chuck) : (s.setChuck slice c).house = s.house := rfl
@[simp] theorem State.setChuck_quiescing (s : State) (slice : Nat) (c : Chuck) : (s.setChuck slice c).quiescing = s.quiescing := rfl
@[simp] theorem State.setChuck_crossings (s : State) (slice : Nat) (c : Chuck) : (s.setChuck slice c).crossings = s.crossings := rfl
@[simp] theorem State.setChuck_booked (s : State) (slice : Nat) (c : Chuck) : (s.setChuck slice c).booked = s.booked := rfl
@[simp] theorem State.setChuck_sheets (s : State) (slice : Nat) (c : Chuck) : (s.setChuck slice c).sheets = s.sheets := rfl
@[simp] theorem State.setChuck_persisted (s : State) (slice : Nat) (c : Chuck) : (s.setChuck slice c).persisted = s.persisted := rfl
@[simp] theorem State.setChuck_darkroom (s : State) (slice : Nat) (c : Chuck) : (s.setChuck slice c).darkroom = s.darkroom := rfl
@[simp] theorem State.setChuck_badImages (s : State) (slice : Nat) (c : Chuck) : (s.setChuck slice c).badImages = s.badImages := rfl
@[simp] theorem State.setChuck_saves (s : State) (slice : Nat) (c : Chuck) : (s.setChuck slice c).saves = s.saves := rfl
@[simp] theorem State.setChuck_locks (s : State) (slice : Nat) (c : Chuck) : (s.setChuck slice c).locks = s.locks := rfl
@[simp] theorem State.setChuck_lastOn (s : State) (slice : Nat) (c : Chuck) : (s.setChuck slice c).lastOn = s.lastOn := rfl
@[simp] theorem State.setChuck_poolTurn (s : State) (slice : Nat) (c : Chuck) : (s.setChuck slice c).poolTurn = s.poolTurn := rfl
@[simp] theorem State.setChuck_hw (s : State) (slice : Nat) (c : Chuck) : (s.setChuck slice c).hw = s.hw := rfl
@[simp] theorem State.setChuck_out (s : State) (slice : Nat) (c : Chuck) : (s.setChuck slice c).out = s.out := rfl
@[simp] theorem State.setChuck_tick (s : State) (slice : Nat) (c : Chuck) : (s.setChuck slice c).tick = s.tick := rfl
@[simp] theorem State.setChuck_fresh (s : State) (slice : Nat) (c : Chuck) : (s.setChuck slice c).fresh = s.fresh := rfl

/-! ## unfocus -/

@[simp] theorem State.unfocus_agenda (s : State) : (s.unfocus).agenda = s.agenda := by
  simp only [State.unfocus]; split <;> rfl
@[simp] theorem State.unfocus_arg (s : State) : (s.unfocus).arg = s.arg := by
  simp only [State.unfocus]; split <;> rfl
@[simp] theorem State.unfocus_grids (s : State) : (s.unfocus).grids = s.grids := by
  simp only [State.unfocus]; split <;> rfl
@[simp] theorem State.unfocus_ops (s : State) : (s.unfocus).ops = s.ops := by
  simp only [State.unfocus]; split <;> rfl
@[simp] theorem State.unfocus_nextOp (s : State) : (s.unfocus).nextOp = s.nextOp := by
  simp only [State.unfocus]; split <;> rfl
@[simp] theorem State.unfocus_nextBlk (s : State) : (s.unfocus).nextBlk = s.nextBlk := by
  simp only [State.unfocus]; split <;> rfl
@[simp] theorem State.unfocus_nextGrid (s : State) : (s.unfocus).nextGrid = s.nextGrid := by
  simp only [State.unfocus]; split <;> rfl
@[simp] theorem State.unfocus_mem (s : State) : (s.unfocus).mem = s.mem := by
  simp only [State.unfocus]; split <;> rfl
@[simp] theorem State.unfocus_memPoison (s : State) : (s.unfocus).memPoison = s.memPoison := by
  simp only [State.unfocus]; split <;> rfl
@[simp] theorem State.unfocus_cscr (s : State) : (s.unfocus).cscr = s.cscr := by
  simp only [State.unfocus]; split <;> rfl
@[simp] theorem State.unfocus_cscrPoison (s : State) : (s.unfocus).cscrPoison = s.cscrPoison := by
  simp only [State.unfocus]; split <;> rfl
@[simp] theorem State.unfocus_soft (s : State) : (s.unfocus).soft = s.soft := by
  simp only [State.unfocus]; split <;> rfl
@[simp] theorem State.unfocus_lines (s : State) : (s.unfocus).lines = s.lines := by
  simp only [State.unfocus]; split <;> rfl
@[simp] theorem State.unfocus_shrinking (s : State) : (s.unfocus).shrinking = s.shrinking := by
  simp only [State.unfocus]; split <;> rfl
@[simp] theorem State.unfocus_hostWaits (s : State) : (s.unfocus).hostWaits = s.hostWaits := by
  simp only [State.unfocus]; split <;> rfl
@[simp] theorem State.unfocus_flipping (s : State) : (s.unfocus).flipping = s.flipping := by
  simp only [State.unfocus]; split <;> rfl
@[simp] theorem State.unfocus_near (s : State) : (s.unfocus).near = s.near := by
  simp only [State.unfocus]; split <;> rfl
@[simp] theorem State.unfocus_l1 (s : State) : (s.unfocus).l1 = s.l1 := by
  simp only [State.unfocus]; split <;> rfl
@[simp] theorem State.unfocus_tlb (s : State) : (s.unfocus).tlb = s.tlb := by
  simp only [State.unfocus]; split <;> rfl
@[simp] theorem State.unfocus_cfg (s : State) : (s.unfocus).cfg = s.cfg := by
  simp only [State.unfocus]; split <;> rfl
@[simp] theorem State.unfocus_preg (s : State) : (s.unfocus).preg = s.preg := by
  simp only [State.unfocus]; split <;> rfl
@[simp] theorem State.unfocus_windows (s : State) : (s.unfocus).windows = s.windows := by
  simp only [State.unfocus]; split <;> rfl
@[simp] theorem State.unfocus_errCE (s : State) : (s.unfocus).errCE = s.errCE := by
  simp only [State.unfocus]; split <;> rfl
@[simp] theorem State.unfocus_errUE (s : State) : (s.unfocus).errUE = s.errUE := by
  simp only [State.unfocus]; split <;> rfl
@[simp] theorem State.unfocus_errRec (s : State) : (s.unfocus).errRec = s.errRec := by
  simp only [State.unfocus]; split <;> rfl
@[simp] theorem State.unfocus_exports (s : State) : (s.unfocus).exports = s.exports := by
  simp only [State.unfocus]; split <;> rfl
@[simp] theorem State.unfocus_objs (s : State) : (s.unfocus).objs = s.objs := by
  simp only [State.unfocus]; split <;> rfl
@[simp] theorem State.unfocus_objGen (s : State) : (s.unfocus).objGen = s.objGen := by
  simp only [State.unfocus]; split <;> rfl
@[simp] theorem State.unfocus_chucks (s : State) : (s.unfocus).chucks = s.chucks := by
  simp only [State.unfocus]; split <;> rfl
@[simp] theorem State.unfocus_clusters (s : State) : (s.unfocus).clusters = s.clusters := by
  simp only [State.unfocus]; split <;> rfl
@[simp] theorem State.unfocus_binds (s : State) : (s.unfocus).binds = s.binds := by
  simp only [State.unfocus]; split <;> rfl
@[simp] theorem State.unfocus_prints (s : State) : (s.unfocus).prints = s.prints := by
  simp only [State.unfocus]; split <;> rfl
@[simp] theorem State.unfocus_lastBound (s : State) : (s.unfocus).lastBound = s.lastBound := by
  simp only [State.unfocus]; split <;> rfl
@[simp] theorem State.unfocus_tags (s : State) : (s.unfocus).tags = s.tags := by
  simp only [State.unfocus]; split <;> rfl
@[simp] theorem State.unfocus_drains (s : State) : (s.unfocus).drains = s.drains := by
  simp only [State.unfocus]; split <;> rfl
@[simp] theorem State.unfocus_markers (s : State) : (s.unfocus).markers = s.markers := by
  simp only [State.unfocus]; split <;> rfl
@[simp] theorem State.unfocus_xholds (s : State) : (s.unfocus).xholds = s.xholds := by
  simp only [State.unfocus]; split <;> rfl
@[simp] theorem State.unfocus_nextToken (s : State) : (s.unfocus).nextToken = s.nextToken := by
  simp only [State.unfocus]; split <;> rfl
@[simp] theorem State.unfocus_counters (s : State) : (s.unfocus).counters = s.counters := by
  simp only [State.unfocus]; split <;> rfl
@[simp] theorem State.unfocus_house (s : State) : (s.unfocus).house = s.house := by
  simp only [State.unfocus]; split <;> rfl
@[simp] theorem State.unfocus_quiescing (s : State) : (s.unfocus).quiescing = s.quiescing := by
  simp only [State.unfocus]; split <;> rfl
@[simp] theorem State.unfocus_crossings (s : State) : (s.unfocus).crossings = s.crossings := by
  simp only [State.unfocus]; split <;> rfl
@[simp] theorem State.unfocus_booked (s : State) : (s.unfocus).booked = s.booked := by
  simp only [State.unfocus]; split <;> rfl
@[simp] theorem State.unfocus_sheets (s : State) : (s.unfocus).sheets = s.sheets := by
  simp only [State.unfocus]; split <;> rfl
@[simp] theorem State.unfocus_persisted (s : State) : (s.unfocus).persisted = s.persisted := by
  simp only [State.unfocus]; split <;> rfl
@[simp] theorem State.unfocus_darkroom (s : State) : (s.unfocus).darkroom = s.darkroom := by
  simp only [State.unfocus]; split <;> rfl
@[simp] theorem State.unfocus_badImages (s : State) : (s.unfocus).badImages = s.badImages := by
  simp only [State.unfocus]; split <;> rfl
@[simp] theorem State.unfocus_saves (s : State) : (s.unfocus).saves = s.saves := by
  simp only [State.unfocus]; split <;> rfl
@[simp] theorem State.unfocus_locks (s : State) : (s.unfocus).locks = s.locks := by
  simp only [State.unfocus]; split <;> rfl
@[simp] theorem State.unfocus_lastOn (s : State) : (s.unfocus).lastOn = s.lastOn := by
  simp only [State.unfocus]; split <;> rfl
@[simp] theorem State.unfocus_poolTurn (s : State) : (s.unfocus).poolTurn = s.poolTurn := by
  simp only [State.unfocus]; split <;> rfl
@[simp] theorem State.unfocus_hw (s : State) : (s.unfocus).hw = s.hw := by
  simp only [State.unfocus]; split <;> rfl
@[simp] theorem State.unfocus_out (s : State) : (s.unfocus).out = s.out := by
  simp only [State.unfocus]; split <;> rfl
@[simp] theorem State.unfocus_tick (s : State) : (s.unfocus).tick = s.tick := by
  simp only [State.unfocus]; split <;> rfl
@[simp] theorem State.unfocus_fresh (s : State) : (s.unfocus).fresh = s.fresh := by
  simp only [State.unfocus]; split <;> rfl

/-! ## withBlock -/

@[simp] theorem State.withBlock_agenda (s : State) (b : Block) : (s.withBlock b).agenda = s.agenda := rfl
@[simp] theorem State.withBlock_arg (s : State) (b : Block) : (s.withBlock b).arg = s.arg := rfl
@[simp] theorem State.withBlock_cur (s : State) (b : Block) : (s.withBlock b).cur = s.cur := rfl
@[simp] theorem State.withBlock_grids (s : State) (b : Block) : (s.withBlock b).grids = s.grids := rfl
@[simp] theorem State.withBlock_ops (s : State) (b : Block) : (s.withBlock b).ops = s.ops := rfl
@[simp] theorem State.withBlock_nextOp (s : State) (b : Block) : (s.withBlock b).nextOp = s.nextOp := rfl
@[simp] theorem State.withBlock_nextBlk (s : State) (b : Block) : (s.withBlock b).nextBlk = s.nextBlk := rfl
@[simp] theorem State.withBlock_nextGrid (s : State) (b : Block) : (s.withBlock b).nextGrid = s.nextGrid := rfl
@[simp] theorem State.withBlock_mem (s : State) (b : Block) : (s.withBlock b).mem = s.mem := rfl
@[simp] theorem State.withBlock_memPoison (s : State) (b : Block) : (s.withBlock b).memPoison = s.memPoison := rfl
@[simp] theorem State.withBlock_cscr (s : State) (b : Block) : (s.withBlock b).cscr = s.cscr := rfl
@[simp] theorem State.withBlock_cscrPoison (s : State) (b : Block) : (s.withBlock b).cscrPoison = s.cscrPoison := rfl
@[simp] theorem State.withBlock_soft (s : State) (b : Block) : (s.withBlock b).soft = s.soft := rfl
@[simp] theorem State.withBlock_lines (s : State) (b : Block) : (s.withBlock b).lines = s.lines := rfl
@[simp] theorem State.withBlock_shrinking (s : State) (b : Block) : (s.withBlock b).shrinking = s.shrinking := rfl
@[simp] theorem State.withBlock_hostWaits (s : State) (b : Block) : (s.withBlock b).hostWaits = s.hostWaits := rfl
@[simp] theorem State.withBlock_flipping (s : State) (b : Block) : (s.withBlock b).flipping = s.flipping := rfl
@[simp] theorem State.withBlock_near (s : State) (b : Block) : (s.withBlock b).near = s.near := rfl
@[simp] theorem State.withBlock_l1 (s : State) (b : Block) : (s.withBlock b).l1 = s.l1 := rfl
@[simp] theorem State.withBlock_tlb (s : State) (b : Block) : (s.withBlock b).tlb = s.tlb := rfl
@[simp] theorem State.withBlock_cfg (s : State) (b : Block) : (s.withBlock b).cfg = s.cfg := rfl
@[simp] theorem State.withBlock_preg (s : State) (b : Block) : (s.withBlock b).preg = s.preg := rfl
@[simp] theorem State.withBlock_windows (s : State) (b : Block) : (s.withBlock b).windows = s.windows := rfl
@[simp] theorem State.withBlock_errCE (s : State) (b : Block) : (s.withBlock b).errCE = s.errCE := rfl
@[simp] theorem State.withBlock_errUE (s : State) (b : Block) : (s.withBlock b).errUE = s.errUE := rfl
@[simp] theorem State.withBlock_errRec (s : State) (b : Block) : (s.withBlock b).errRec = s.errRec := rfl
@[simp] theorem State.withBlock_exports (s : State) (b : Block) : (s.withBlock b).exports = s.exports := rfl
@[simp] theorem State.withBlock_objs (s : State) (b : Block) : (s.withBlock b).objs = s.objs := rfl
@[simp] theorem State.withBlock_objGen (s : State) (b : Block) : (s.withBlock b).objGen = s.objGen := rfl
@[simp] theorem State.withBlock_chucks (s : State) (b : Block) : (s.withBlock b).chucks = s.chucks := rfl
@[simp] theorem State.withBlock_clusters (s : State) (b : Block) : (s.withBlock b).clusters = s.clusters := rfl
@[simp] theorem State.withBlock_binds (s : State) (b : Block) : (s.withBlock b).binds = s.binds := rfl
@[simp] theorem State.withBlock_prints (s : State) (b : Block) : (s.withBlock b).prints = s.prints := rfl
@[simp] theorem State.withBlock_lastBound (s : State) (b : Block) : (s.withBlock b).lastBound = s.lastBound := rfl
@[simp] theorem State.withBlock_tags (s : State) (b : Block) : (s.withBlock b).tags = s.tags := rfl
@[simp] theorem State.withBlock_drains (s : State) (b : Block) : (s.withBlock b).drains = s.drains := rfl
@[simp] theorem State.withBlock_markers (s : State) (b : Block) : (s.withBlock b).markers = s.markers := rfl
@[simp] theorem State.withBlock_xholds (s : State) (b : Block) : (s.withBlock b).xholds = s.xholds := rfl
@[simp] theorem State.withBlock_nextToken (s : State) (b : Block) : (s.withBlock b).nextToken = s.nextToken := rfl
@[simp] theorem State.withBlock_counters (s : State) (b : Block) : (s.withBlock b).counters = s.counters := rfl
@[simp] theorem State.withBlock_house (s : State) (b : Block) : (s.withBlock b).house = s.house := rfl
@[simp] theorem State.withBlock_quiescing (s : State) (b : Block) : (s.withBlock b).quiescing = s.quiescing := rfl
@[simp] theorem State.withBlock_crossings (s : State) (b : Block) : (s.withBlock b).crossings = s.crossings := rfl
@[simp] theorem State.withBlock_booked (s : State) (b : Block) : (s.withBlock b).booked = s.booked := rfl
@[simp] theorem State.withBlock_sheets (s : State) (b : Block) : (s.withBlock b).sheets = s.sheets := rfl
@[simp] theorem State.withBlock_persisted (s : State) (b : Block) : (s.withBlock b).persisted = s.persisted := rfl
@[simp] theorem State.withBlock_darkroom (s : State) (b : Block) : (s.withBlock b).darkroom = s.darkroom := rfl
@[simp] theorem State.withBlock_badImages (s : State) (b : Block) : (s.withBlock b).badImages = s.badImages := rfl
@[simp] theorem State.withBlock_saves (s : State) (b : Block) : (s.withBlock b).saves = s.saves := rfl
@[simp] theorem State.withBlock_locks (s : State) (b : Block) : (s.withBlock b).locks = s.locks := rfl
@[simp] theorem State.withBlock_lastOn (s : State) (b : Block) : (s.withBlock b).lastOn = s.lastOn := rfl
@[simp] theorem State.withBlock_poolTurn (s : State) (b : Block) : (s.withBlock b).poolTurn = s.poolTurn := rfl
@[simp] theorem State.withBlock_hw (s : State) (b : Block) : (s.withBlock b).hw = s.hw := rfl
@[simp] theorem State.withBlock_out (s : State) (b : Block) : (s.withBlock b).out = s.out := rfl
@[simp] theorem State.withBlock_tick (s : State) (b : Block) : (s.withBlock b).tick = s.tick := rfl
@[simp] theorem State.withBlock_fresh (s : State) (b : Block) : (s.withBlock b).fresh = s.fresh := rfl

end Sys2Proof.Machine
end

