-- ==== Sys2Proof/Laws/Memory.lean ====
section
/-! SUPPORT. Sparse maps and memory: what a key reads as after each operation, and that each keeps the canonical form. -/
namespace Sys2Proof.Machine

/-! ## Sparse maps -/

section
variable {α : Type} [DecidableEq α] {d x : α} {a b k n : Nat} {m : Sp α}

/-- A head and a tail that rise above a bound. -/
theorem spAbove_cons {v : α} : spAbove d b ((k, v) :: m) = true ↔ b ≤ k ∧ v ≠ d ∧ spAbove d (k + 1) m = true := by
  simp only [spAbove, Bool.and_eq_true, decide_eq_true_eq, and_assoc]

/-- A lower bound holds as well. -/
theorem spAbove_mono (h : n ≤ b) (hm : spAbove d b m = true) : spAbove d n m = true := by
  cases m with
  | nil => rfl
  | cons e m => exact spAbove_cons.2 ⟨h.trans (spAbove_cons.1 hm).1, (spAbove_cons.1 hm).2⟩

/-- A key below every listed one reads as the default. -/
theorem spGet_of_below (hm : spAbove d b m = true) (h : k < b) : spGet d m k = d := by
  induction m generalizing b with
  | nil => rfl
  | cons e m ih =>
    obtain ⟨h1, -, h3⟩ := spAbove_cons.1 hm
    rw [spGet, if_neg (by omega)]
    exact ih h3 (by omega)

/-- Setting a key keeps the form. -/
theorem spAbove_spSet (hb : b ≤ a) (hm : spAbove d b m = true) : spAbove d b (spSet d m a x) = true := by
  induction m generalizing b with
  | nil =>
    simp only [spSet]
    split
    · rfl
    · exact spAbove_cons.2 ⟨hb, ‹_›, rfl⟩
  | cons e m ih =>
    obtain ⟨k, v⟩ := e
    obtain ⟨h1, h2, h3⟩ := spAbove_cons.1 hm
    simp only [spSet]
    split_ifs with c1 c2 c3 c4
    · exact hm
    · exact spAbove_cons.2 ⟨hb, c2, spAbove_cons.2 ⟨c1, h2, h3⟩⟩
    · exact spAbove_mono (by omega) h3
    · exact spAbove_cons.2 ⟨hb, c4, by rw [c3]; exact h3⟩
    · exact spAbove_cons.2 ⟨h1, h2, ih (by omega) h3⟩

/-- What every key reads as once one is set. -/
theorem spGet_spSet_of_above (hm : spAbove d b m = true) : spGet d (spSet d m a x) k = if k = a then x else spGet d m k := by
  induction m generalizing b with
  | nil =>
    simp only [spSet]
    split_ifs with c1 c2 c2
    · rw [c1]; rfl
    · rfl
    · exact if_pos c2.symm
    · exact if_neg (Ne.symm c2)
  | cons e m ih =>
    obtain ⟨j, v⟩ := e
    obtain ⟨h1, h2, h3⟩ := spAbove_cons.1 hm
    simp only [spSet]
    split_ifs with c1 c2 c3 c3 c4 c5 c6 c6 c7
    · subst c2 c3; exact spGet_of_below (spAbove_cons.2 ⟨Nat.le_refl j, h2, h3⟩) c1
    · rfl
    · rw [spGet, if_pos c3.symm]
    · rw [spGet, if_neg (Ne.symm c3)]
    · subst c4 c5 c6; exact spGet_of_below h3 (Nat.lt_succ_self k)
    · rw [spGet, if_neg (by omega)]
    · rw [spGet, if_pos c6.symm]
    · rw [spGet, spGet, if_neg (Ne.symm c6), if_neg (by omega)]
    · rw [spGet, if_neg (by omega), ih h3, if_pos c7]
    · rw [spGet, spGet, ih h3, if_neg c7]

/-- Setting a key of a canonical map keeps its form. -/
theorem spWf_spSet (hm : spWf d m = true) : spWf d (spSet d m a x) = true := spAbove_spSet (Nat.zero_le a) hm

/-- What every key of a canonical map reads as once one is set. -/
theorem spGet_spSet (hm : spWf d m = true) : spGet d (spSet d m a x) k = if k = a then x else spGet d m k := spGet_spSet_of_above hm

/-- Setting several keys keeps the form. -/
theorem spWf_spSets (l : List (Nat × α)) (hm : spWf d m = true) : spWf d (spSets d m l) = true := by
  induction l generalizing m with
  | nil => exact hm
  | cons p l ih => exact ih (spWf_spSet hm)

/-- Writing consecutive keys keeps the form. -/
theorem spWf_spWrite (l : List α) (hm : spWf d m = true) : spWf d (spWrite d m a l) = true := by
  induction l generalizing m a with
  | nil => exact hm
  | cons y l ih => exact ih (spWf_spSet hm)

/-- Removing entries keeps the form. -/
theorem spAbove_filter (p : Nat × α → Bool) (hm : spAbove d b m = true) : spAbove d b (m.filter p) = true := by
  induction m generalizing b with
  | nil => rfl
  | cons e m ih =>
    obtain ⟨h1, h2, h3⟩ := spAbove_cons.1 hm
    rw [List.filter_cons]
    split
    · exact spAbove_cons.2 ⟨h1, h2, ih h3⟩
    · exact spAbove_mono (by omega) (ih h3)

/-- Removing entries of a canonical map keeps its form. -/
theorem spWf_filter (p : Nat × α → Bool) (hm : spWf d m = true) : spWf d (m.filter p) = true := spAbove_filter p hm

end

/-! ## Memory -/

/-- Empty memory has its form. -/
theorem Memory.wf_nil : Memory.wf [] = true := rfl

/-- After reset nothing is listed. -/
theorem State.reset_mem : State.reset.mem = [] ∧ State.reset.cscr = [] := ⟨rfl, rfl⟩

/-- A write of memory keeps its form. -/
theorem Memory.wf_write {m : Memory} {a : Nat} {bs : List Byte} (hm : Memory.wf m = true) : Memory.wf (Memory.write m a bs) = true :=
  spWf_spWrite bs hm

/-- A block changed leaves global memory and cluster scratch. -/
theorem State.memOk_mapBlock {s : State} {id : Nat} {f : Block → Block} (h : s.memOk) : (s.mapBlock id f).memOk := h

/-- An error logged leaves memory. -/
@[simp] theorem State.logErr_mem (s : State) (fn : Nat) (r : ErrRec) (ue : Bool) : (s.logErr fn r ue).mem = s.mem := rfl
@[simp] theorem State.logErr_cscr (s : State) (fn : Nat) (r : ErrRec) (ue : Bool) : (s.logErr fn r ue).cscr = s.cscr := rfl

/-- What leaves memory as it is keeps its form. -/
theorem State.Calm.memOk {s t : State} (h : s.Calm t) (k : s.memOk) : t.memOk := by
  unfold State.memOk; rw [h.mem, h.cscr]; exact k

/-- A store to any space keeps memory's form. -/
theorem State.memOk_storeAt {s : State} {fn a : Nat} {sp : Space} {bs : List Byte} {who : ErrRec} (h : s.memOk) :
    (s.storeAt fn sp a bs who).memOk := by
  have h := (State.Calm.rewrite s fn sp a bs.length).memOk h
  unfold State.storeAt
  dsimp only
  generalize s.rewrite fn sp a bs.length = t at h ⊢
  cases sp with
  | mem =>
    dsimp only
    split
    · exact h
    · have k : ∀ m, State.memOk { t with mem := Memory.write t.mem a bs, memPoison := m } := fun m => ⟨Memory.wf_write h.1, h.2⟩
      have k := (State.Calm.touch { t with mem := Memory.write t.mem a bs, memPoison := poisonStore t.memPoison a bs.length }
        fn (who.flags % 8) a bs.length true).memOk (k _)
      split
      · exact (State.Calm.logErr ..).memOk k
      · exact k
  | cscr f =>
    dsimp only
    split <;> exact ⟨h.1, Memory.wf_write h.2⟩
  | scr blk buf => exact h
  | remote => exact h
  | tile => exact h

/-- Poison set in any space leaves memory. -/
theorem State.memOk_poisonAt {s : State} {sp : Space} {a n : Nat} (h : s.memOk) : (s.poisonAt sp a n).memOk := by
  cases sp <;> exact h

/-- Cluster scratch given up keeps its form. -/
theorem State.memOk_scratchDrop {s : State} {fn cl mib : Nat} (h : s.memOk) : (s.scratchDrop fn cl mib).memOk :=
  ⟨h.1, spWf_filter _ h.2⟩

/-- The domain that a warm reset leaves keeps global memory as it is. -/
theorem State.warmDomain_mem (s : State) : s.warmDomain.mem = s.mem := rfl

/-- A walk of the package keeps memory's form. -/
theorem State.memOk_devWalk {s : State} {fn child va : Nat} (h : s.memOk) : (s.devWalk fn child va).memOk := by
  unfold State.devWalk
  split
  · exact (State.Calm.walked ..).memOk h
  · exact h

/-- What the package stores for a partition keeps memory's form. -/
theorem State.memOk_devStore {s : State} {fn child va : Nat} {bs : List Byte} (h : s.memOk) : (s.devStore fn child va bs).1.memOk := by
  have k := State.memOk_devWalk (fn := fn) (child := child) (va := va) h
  unfold State.devStore
  dsimp only
  split
  · exact k
  · split
    · exact k
    · exact State.memOk_storeAt k

/-- A fold of steps that keep memory's form keeps it. -/
theorem State.memOk_foldl {α : Type} {f : State → α → State} (hf : ∀ s a, s.memOk → (f s a).memOk) (l : List α) {s : State} (h : s.memOk) :
    (l.foldl f s).memOk := by
  induction l generalizing s with
  | nil => exact h
  | cons a l ih => exact ih (hf s a h)

/-- The split that issues taken out of its wave, or put back, leaves memory. -/
theorem State.memOk_unfocus {s : State} (h : s.memOk) : s.unfocus.memOk := by
  unfold State.unfocus; split <;> exact h

theorem State.memOk_focus {s : State} {blk wid sid : Nat} (h : s.memOk) : (s.focus blk wid sid).memOk := by
  have h := State.memOk_unfocus h
  unfold State.focus
  dsimp only
  split
  · exact h
  · split
    · exact h
    · split <;> exact h

/-- A word's poison set leaves memory. -/
theorem State.memOk_markWord {s : State} {core k : Nat} {sp : Space} {bad : Bool} (h : s.memOk) : (s.markWord core sp k bad).memOk := by
  cases sp <;> exact h

/-- A slot written keeps memory's form. -/
theorem State.memOk_writeRow {s : State} {b : Block} {a : SpillArea} {wid n at_ : Nat} {bs : List Byte} {bad : Bool} (h : s.memOk) :
    (s.writeRow b a wid n at_ bs bad).memOk := by
  unfold State.writeRow
  dsimp only
  split
  · exact h
  · split
    · exact h
    · have k := (State.Calm.place s b.core b.fn b.child (a.lmem + a.farAt wid n + at_) needW).memOk h
      split
      · rename_i t sp key he; rw [he] at k
        refine State.memOk_markWord (State.memOk_storeAt ?_)
        have k1 := State.memOk_markWord (core := b.core) (k := key) (sp := sp) (bad := false) k
        split
        · exact (State.Calm.l1Store ..).memOk k1
        · exact k1
      · rename_i he; rw [he] at k; exact k

/-- A slot brought up to date keeps memory's form. -/
theorem State.memOk_storeSlot {s : State} {b : Block} {a : SpillArea} {wid slot : Nat} {old new : SlotParts} {stored : Bool} (h : s.memOk) :
    (s.storeSlot b a wid old new stored slot).memOk := by
  unfold State.storeSlot
  refine State.memOk_foldl (fun s p h => ?_) _ h
  unfold State.storePair
  dsimp only
  split
  · exact h
  · exact State.memOk_writeRow h

/-- A wave brought up to date with its slots keeps memory's form. -/
theorem State.memOk_moveWave {s : State} {b : Block} {a : SpillArea} {restored : Bool} {stored : List Nat} {old : Option Wave} {w : Wave}
    (h : s.memOk) : (s.moveWave b a restored stored old w).memOk := by
  unfold State.moveWave
  split
  · exact h
  · dsimp only
    refine State.memOk_foldl (fun s n h => State.memOk_storeSlot h) _ ?_
    cases old with
    | none => exact h
    | some o =>
      exact (State.Calm.pairFold (f := fun (acc : State × List Split) sp =>
        let r := acc.1.drawIn b a restored o w sp; (r.1, acc.2 ++ [r.2])) (fun x sp => State.Calm.drawIn ..) w.splits (s, [])).memOk h

/-- Slots taking the words that lie in them keep memory's form. -/
theorem State.memOk_spills {s t : State} (h : t.memOk) : (State.spills s t).memOk := by
  have h' := State.memOk_unfocus h
  unfold State.spills
  dsimp only
  split
  · exact h
  · split
    · exact State.memOk_focus (State.memOk_foldl (fun t b k => State.memOk_foldl (fun t w k => State.memOk_moveWave k) _ k) _ h')
    · exact State.memOk_foldl (fun t b k => State.memOk_foldl (fun t w k => State.memOk_moveWave k) _ k) _ h'

/-- A map followed by another that lies above it. -/
theorem spAbove_append {α : Type} [DecidableEq α] {d : α} {b c : Nat} {m l : Sp α} (hb : b ≤ c) (hm : spAbove d b m = true)
    (hk : ∀ e ∈ m, e.1 < c) (hl : spAbove d c l = true) : spAbove d b (m ++ l) = true := by
  induction m generalizing b with
  | nil => exact spAbove_mono hb hl
  | cons e m ih =>
    obtain ⟨h1, h2, h3⟩ := spAbove_cons.1 hm
    have h4 : e.1 < c := hk e (List.mem_cons_self ..)
    exact spAbove_cons.2 ⟨h1, h2, ih h4 h3 fun x hx => hk x (List.mem_cons_of_mem _ hx)⟩

/-- The entries of a map from a key on. -/
theorem spAbove_from {α : Type} [DecidableEq α] {d : α} {b c : Nat} {m : Sp α} (hm : spAbove d b m = true) :
    spAbove d c (m.filter fun e => decide (c ≤ e.1)) = true := by
  induction m generalizing b with
  | nil => rfl
  | cons e m ih =>
    obtain ⟨h1, h2, h3⟩ := spAbove_cons.1 hm
    rw [List.filter_cons]
    split
    · rename_i hc
      exact spAbove_cons.2 ⟨of_decide_eq_true hc, h2, spAbove_filter _ h3⟩
    · exact ih h3

/-- Free cells before others that lie above them. -/
theorem spAbove_freeCells {a k n : Nat} {m : Memory} (h : spAbove 0 (a + n) m = true) : spAbove 0 a (Memory.freeCells a k n m) = true := by
  induction n generalizing m with
  | zero => exact h
  | succ n ih =>
    simp only [Memory.freeCells]
    refine ih ?_
    split
    · exact spAbove_mono (by omega) h
    · exact spAbove_cons.2 ⟨Nat.le_refl _, ‹_›, h⟩

/-- Free values in a range keep memory's form. -/
theorem Memory.wf_blur {m : Memory} {a n k : Nat} (h : Memory.wf m = true) : Memory.wf (Memory.blur m a n k) = true := by
  refine spAbove_append (Nat.zero_le a) (spAbove_filter _ h) (fun e he => ?_) (spAbove_freeCells (spAbove_from h))
  exact of_decide_eq_true (List.mem_filter.1 he).2

theorem State.memOk_blurAt {s : State} {sp : Space} {a n : Nat} (h : s.memOk) : (s.blurAt sp a n).memOk := by
  cases sp with
  | mem =>
    simp only [State.blurAt]
    split
    · exact h
    · exact ⟨Memory.wf_blur h.1, h.2⟩
  | cscr f => exact ⟨h.1, Memory.wf_blur h.2⟩
  | scr blk buf => exact h
  | remote => exact h
  | tile => exact h

/-- An image in the save area keeps memory's form. -/
theorem State.memOk_blurPages {fn child n va left : Nat} {s : State} (h : s.memOk) : (State.blurPages fn child n va left s).memOk := by
  induction n generalizing va left s with
  | zero => exact h
  | succ n ih =>
    simp only [State.blurPages]
    refine ih ?_
    have k := State.memOk_devWalk (fn := fn) (child := child) (va := va) h
    split
    · exact k
    · split
      · exact k
      · split
        · exact (State.Calm.touch ..).memOk (State.memOk_blurAt k)
        · exact State.memOk_blurAt k

theorem State.memOk_imageOut {s : State} {fn child : Nat} (h : s.memOk) : (s.imageOut fn child).memOk := by
  unfold State.imageOut
  simp only
  split
  · exact h
  · exact State.memOk_blurPages h

end Sys2Proof.Machine
end

