-- ==== Sys2Proof/Laws/PerInstr.lean ====
section
/-! SUPPORT. One lemma per constructor of `Instr`: the opcode and form that an instruction is encoded with decode to it (R38, R52). -/
namespace Sys2Proof.Laws.Encoded

/-- The opcode map gives a well-formed instruction back from the opcode and form that it is encoded with. -/
def Statement (i : Instr) : Prop := i.wf = true → ∀ op f, opcodeForm i = some (op, f) → ofOpcode op f = i

/-- A step of another agent has no words. -/
theorem of_none {i : Instr} (h : opcodeForm i = none) : Statement i := fun _ _ _ e => nomatch h.symm.trans e

/-- An instruction whose opcode the map assigns to it. -/
theorem of_some {i : Instr} {o : BitVec 9} {g : Form} (h : opcodeForm i = some (o, g)) (h' : ofOpcode o g = i) : Statement i := by
  intro _ op f e
  cases h.symm.trans e
  exact h'

/-- An opcode that the map does not assign. -/
theorem ofAssigned_none (f : Form) (n : Nat) (hn : n < 512) (h : opcodeAssigned n = false) : ofAssigned n f = none := by
  have all : ∀ q < 32, ∀ r < 16, opcodeAssigned (16 * q + r) = false → ofAssigned (16 * q + r) f = none := of_decide_eq_true rfl
  have e : 16 * (n / 16) + n % 16 = n := Nat.div_add_mod n 16
  have := all (n / 16) (by omega) (n % 16) (by omega)
  rw [e] at this
  exact this h

/-- What passes `WfError.unless`. -/
theorem unless_isNone {p : Bool} {e : WfError} (h : (WfError.unless p e).isNone = true) : p = true := by
  cases p
  · cases h
  · rfl

/-- The map assigns no opcode from 0x180 on. -/
theorem assigned_lt (n : Nat) (h : 0x180 ≤ n) : opcodeAssigned n = false := by
  simp only [opcodeAssigned, assignedRanges, List.any_cons, List.any_nil, Bool.or_false, Bool.or_eq_false_iff, Bool.and_eq_false_iff,
    decide_eq_false_iff_not]
  omega

theorem illegalOpcode (op : BitVec 9) (f : Form) : Statement (.illegalOpcode op f) := by
  intro h
  have h1 : 0x180 ≤ op.toNat := of_decide_eq_true (unless_isNone h)
  refine of_some rfl ?_ h
  rw [ofOpcode, ofAssigned_none f _ op.isLt (assigned_lt _ h1)]
  exact if_neg (by omega)

theorem reservedOpcode (op : BitVec 9) (f : Form) : Statement (.reservedOpcode op f) := by
  intro h
  have h1 := unless_isNone h
  simp only [Bool.and_eq_true, decide_eq_true_eq, Bool.not_eq_true'] at h1
  refine of_some rfl ?_ h
  rw [ofOpcode, ofAssigned_none f _ op.isLt h1.2]
  exact if_pos h1.1

theorem nop (f : Short) : Statement (.nop f) := of_some rfl rfl
theorem nopLong (f : Long) : Statement (.nopLong f) := of_some rfl rfl
theorem iadd (f : Short) : Statement (.iadd f) := of_some rfl rfl
theorem iaddLong (f : Long) : Statement (.iaddLong f) := of_some rfl rfl
theorem isub (f : Short) : Statement (.isub f) := of_some rfl rfl
theorem isubLong (f : Long) : Statement (.isubLong f) := of_some rfl rfl
theorem imul (f : Short) : Statement (.imul f) := of_some rfl rfl
theorem imulLong (f : Long) : Statement (.imulLong f) := of_some rfl rfl
theorem imulh (f : Short) : Statement (.imulh f) := of_some rfl rfl
theorem imulhLong (f : Long) : Statement (.imulhLong f) := of_some rfl rfl
theorem imad (f : Form) : Statement (.imad f) := of_some rfl rfl
theorem imin (f : Short) : Statement (.imin f) := of_some rfl rfl
theorem iminLong (f : Long) : Statement (.iminLong f) := of_some rfl rfl
theorem imax (f : Short) : Statement (.imax f) := of_some rfl rfl
theorem imaxLong (f : Long) : Statement (.imaxLong f) := of_some rfl rfl
theorem iabs (f : Form) : Statement (.iabs f) := of_some rfl rfl
theorem ineg (f : Short) : Statement (.ineg f) := of_some rfl rfl
theorem inegLong (f : Long) : Statement (.inegLong f) := of_some rfl rfl
theorem iaddc (f : Form) : Statement (.iaddc f) := of_some rfl rfl
theorem andBits (f : Short) : Statement (.andBits f) := of_some rfl rfl
theorem andBitsLong (f : Long) : Statement (.andBitsLong f) := of_some rfl rfl
theorem orBits (f : Short) : Statement (.orBits f) := of_some rfl rfl
theorem orBitsLong (f : Long) : Statement (.orBitsLong f) := of_some rfl rfl
theorem xorBits (f : Short) : Statement (.xorBits f) := of_some rfl rfl
theorem xorBitsLong (f : Long) : Statement (.xorBitsLong f) := of_some rfl rfl
theorem andn (f : Short) : Statement (.andn f) := of_some rfl rfl
theorem andnLong (f : Long) : Statement (.andnLong f) := of_some rfl rfl
theorem notBits (f : Short) : Statement (.notBits f) := of_some rfl rfl
theorem notBitsLong (f : Long) : Statement (.notBitsLong f) := of_some rfl rfl
theorem shl (f : Short) : Statement (.shl f) := of_some rfl rfl
theorem shlLong (f : Long) : Statement (.shlLong f) := of_some rfl rfl
theorem shr (f : Short) : Statement (.shr f) := of_some rfl rfl
theorem shrLong (f : Long) : Statement (.shrLong f) := of_some rfl rfl
theorem sar (f : Short) : Statement (.sar f) := of_some rfl rfl
theorem sarLong (f : Long) : Statement (.sarLong f) := of_some rfl rfl
theorem rotl (f : Short) : Statement (.rotl f) := of_some rfl rfl
theorem rotlLong (f : Long) : Statement (.rotlLong f) := of_some rfl rfl
theorem bfx (f : Form) : Statement (.bfx f) := of_some rfl rfl
theorem bfi (f : Form) : Statement (.bfi f) := of_some rfl rfl
theorem popc (f : Short) : Statement (.popc f) := of_some rfl rfl
theorem popcLong (f : Long) : Statement (.popcLong f) := of_some rfl rfl
theorem clz (f : Short) : Statement (.clz f) := of_some rfl rfl
theorem clzLong (f : Long) : Statement (.clzLong f) := of_some rfl rfl
theorem brev (f : Short) : Statement (.brev f) := of_some rfl rfl
theorem brevLong (f : Long) : Statement (.brevLong f) := of_some rfl rfl
theorem prmt (f : Form) : Statement (.prmt f) := of_some rfl rfl
theorem lea (f : Form) : Statement (.lea f) := of_some rfl rfl
theorem icmp (f : Form) : Statement (.icmp f) := of_some rfl rfl
theorem sel (f : Form) : Statement (.sel f) := of_some rfl rfl
theorem fadd (f : Short) : Statement (.fadd f) := of_some rfl rfl
theorem faddLong (f : Long) : Statement (.faddLong f) := of_some rfl rfl
theorem fsub (f : Short) : Statement (.fsub f) := of_some rfl rfl
theorem fsubLong (f : Long) : Statement (.fsubLong f) := of_some rfl rfl
theorem fmul (f : Short) : Statement (.fmul f) := of_some rfl rfl
theorem fmulLong (f : Long) : Statement (.fmulLong f) := of_some rfl rfl
theorem ffma (f : Form) : Statement (.ffma f) := of_some rfl rfl
theorem fmin (f : Short) : Statement (.fmin f) := of_some rfl rfl
theorem fminLong (f : Long) : Statement (.fminLong f) := of_some rfl rfl
theorem fmax (f : Short) : Statement (.fmax f) := of_some rfl rfl
theorem fmaxLong (f : Long) : Statement (.fmaxLong f) := of_some rfl rfl
theorem fcmp (f : Form) : Statement (.fcmp f) := of_some rfl rfl
theorem frcp (f : Short) : Statement (.frcp f) := of_some rfl rfl
theorem frcpLong (f : Long) : Statement (.frcpLong f) := of_some rfl rfl
theorem frsq (f : Short) : Statement (.frsq f) := of_some rfl rfl
theorem frsqLong (f : Long) : Statement (.frsqLong f) := of_some rfl rfl
theorem fsqrt (f : Short) : Statement (.fsqrt f) := of_some rfl rfl
theorem fsqrtLong (f : Long) : Statement (.fsqrtLong f) := of_some rfl rfl
theorem fexp2 (f : Short) : Statement (.fexp2 f) := of_some rfl rfl
theorem fexp2Long (f : Long) : Statement (.fexp2Long f) := of_some rfl rfl
theorem flog2 (f : Short) : Statement (.flog2 f) := of_some rfl rfl
theorem flog2Long (f : Long) : Statement (.flog2Long f) := of_some rfl rfl
theorem ftanh (f : Short) : Statement (.ftanh f) := of_some rfl rfl
theorem ftanhLong (f : Long) : Statement (.ftanhLong f) := of_some rfl rfl
theorem fsigm (f : Short) : Statement (.fsigm f) := of_some rfl rfl
theorem fsigmLong (f : Long) : Statement (.fsigmLong f) := of_some rfl rfl
theorem frnd (f : Short) : Statement (.frnd f) := of_some rfl rfl
theorem frndLong (f : Long) : Statement (.frndLong f) := of_some rfl rfl
theorem fscale (f : Short) : Statement (.fscale f) := of_some rfl rfl
theorem fscaleLong (f : Long) : Statement (.fscaleLong f) := of_some rfl rfl
theorem fclass (f : Form) : Statement (.fclass f) := of_some rfl rfl
theorem fdiv (f : Short) : Statement (.fdiv f) := of_some rfl rfl
theorem fdivLong (f : Long) : Statement (.fdivLong f) := of_some rfl rfl
theorem padd (f : Short) : Statement (.padd f) := of_some rfl rfl
theorem paddLong (f : Long) : Statement (.paddLong f) := of_some rfl rfl
theorem pmul (f : Short) : Statement (.pmul f) := of_some rfl rfl
theorem pmulLong (f : Long) : Statement (.pmulLong f) := of_some rfl rfl
theorem pfma (f : Form) : Statement (.pfma f) := of_some rfl rfl
theorem pmax (f : Short) : Statement (.pmax f) := of_some rfl rfl
theorem pmaxLong (f : Long) : Statement (.pmaxLong f) := of_some rfl rfl
theorem pmin (f : Short) : Statement (.pmin f) := of_some rfl rfl
theorem pminLong (f : Long) : Statement (.pminLong f) := of_some rfl rfl
theorem pdot2 (f : Form) : Statement (.pdot2 f) := of_some rfl rfl
theorem cvt (f : Form) : Statement (.cvt f) := of_some rfl rfl
theorem mxq (f : Form) : Statement (.mxq f) := of_some rfl rfl
theorem mxd (f : Form) : Statement (.mxd f) := of_some rfl rfl
theorem pack (f : Form) : Statement (.pack f) := of_some rfl rfl
theorem unpk (f : Form) : Statement (.unpk f) := of_some rfl rfl
theorem shfl (f : Short) : Statement (.shfl f) := of_some rfl rfl
theorem shflLong (f : Long) : Statement (.shflLong f) := of_some rfl rfl
theorem bcast (f : Short) : Statement (.bcast f) := of_some rfl rfl
theorem bcastLong (f : Long) : Statement (.bcastLong f) := of_some rfl rfl
theorem vote (f : Short) : Statement (.vote f) := of_some rfl rfl
theorem voteLong (f : Long) : Statement (.voteLong f) := of_some rfl rfl
theorem wred (f : Short) : Statement (.wred f) := of_some rfl rfl
theorem wredLong (f : Long) : Statement (.wredLong f) := of_some rfl rfl
theorem wscan (f : Short) : Statement (.wscan f) := of_some rfl rfl
theorem wscanLong (f : Long) : Statement (.wscanLong f) := of_some rfl rfl
theorem matchLanes (f : Short) : Statement (.matchLanes f) := of_some rfl rfl
theorem matchLanesLong (f : Long) : Statement (.matchLanesLong f) := of_some rfl rfl
theorem kand (f : Form) : Statement (.kand f) := of_some rfl rfl
theorem kor (f : Form) : Statement (.kor f) := of_some rfl rfl
theorem kxor (f : Form) : Statement (.kxor f) := of_some rfl rfl
theorem knot (f : Form) : Statement (.knot f) := of_some rfl rfl
theorem kpop (f : Form) : Statement (.kpop f) := of_some rfl rfl
theorem kffs (f : Form) : Statement (.kffs f) := of_some rfl rfl
theorem kmov (f : Form) : Statement (.kmov f) := of_some rfl rfl
theorem mov (f : Short) : Statement (.mov f) := of_some rfl rfl
theorem movLong (f : Long) : Statement (.movLong f) := of_some rfl rfl
theorem movl (f : Short) : Statement (.movl f) := of_some rfl rfl
theorem movlLong (f : Long) : Statement (.movlLong f) := of_some rfl rfl
theorem rdsr (f : Form) : Statement (.rdsr f) := of_some rfl rfl
theorem wrsr (f : Form) : Statement (.wrsr f) := of_some rfl rfl
theorem xset (f : Short) : Statement (.xset f) := of_some rfl rfl
theorem xsetLong (f : Long) : Statement (.xsetLong f) := of_some rfl rfl
theorem xadd (f : Short) : Statement (.xadd f) := of_some rfl rfl
theorem xaddLong (f : Long) : Statement (.xaddLong f) := of_some rfl rfl
theorem bra (f : Short) : Statement (.bra f) := of_some rfl rfl
theorem braLong (f : Long) : Statement (.braLong f) := of_some rfl rfl
theorem brc (f : Form) : Statement (.brc f) := of_some rfl rfl
theorem call (f : Short) : Statement (.call f) := of_some rfl rfl
theorem callLong (f : Long) : Statement (.callLong f) := of_some rfl rfl
theorem ret (f : Short) : Statement (.ret f) := of_some rfl rfl
theorem retLong (f : Long) : Statement (.retLong f) := of_some rfl rfl
theorem split (f : Form) : Statement (.split f) := of_some rfl rfl
theorem join (f : Short) : Statement (.join f) := of_some rfl rfl
theorem joinLong (f : Long) : Statement (.joinLong f) := of_some rfl rfl
theorem exit (f : Short) : Statement (.exit f) := of_some rfl rfl
theorem exitLong (f : Long) : Statement (.exitLong f) := of_some rfl rfl
theorem yield (f : Short) : Statement (.yield f) := of_some rfl rfl
theorem yieldLong (f : Long) : Statement (.yieldLong f) := of_some rfl rfl
theorem trap (f : Short) : Statement (.trap f) := of_some rfl rfl
theorem trapLong (f : Long) : Statement (.trapLong f) := of_some rfl rfl
theorem tret (f : Short) : Statement (.tret f) := of_some rfl rfl
theorem tretLong (f : Long) : Statement (.tretLong f) := of_some rfl rfl
theorem bkpt (f : Short) : Statement (.bkpt f) := of_some rfl rfl
theorem bkptLong (f : Long) : Statement (.bkptLong f) := of_some rfl rfl
theorem sleep (f : Short) : Statement (.sleep f) := of_some rfl rfl
theorem sleepLong (f : Long) : Statement (.sleepLong f) := of_some rfl rfl
theorem ld (f : Short) : Statement (.ld f) := of_some rfl rfl
theorem ldLong (f : Long) : Statement (.ldLong f) := of_some rfl rfl
theorem st (f : Short) : Statement (.st f) := of_some rfl rfl
theorem stLong (f : Long) : Statement (.stLong f) := of_some rfl rfl
theorem atom (f : Form) : Statement (.atom f) := of_some rfl rfl
theorem atomr (f : Form) : Statement (.atomr f) := of_some rfl rfl
theorem cas (f : Form) : Statement (.cas f) := of_some rfl rfl
theorem pref (f : Short) : Statement (.pref f) := of_some rfl rfl
theorem prefLong (f : Long) : Statement (.prefLong f) := of_some rfl rfl
theorem cwb (f : Short) : Statement (.cwb f) := of_some rfl rfl
theorem cwbLong (f : Long) : Statement (.cwbLong f) := of_some rfl rfl
theorem fence (f : Short) : Statement (.fence f) := of_some rfl rfl
theorem fenceLong (f : Long) : Statement (.fenceLong f) := of_some rfl rfl
theorem lds (f : Form) : Statement (.lds f) := of_some rfl rfl
theorem sts (f : Form) : Statement (.sts f) := of_some rfl rfl
theorem atoms (f : Form) : Statement (.atoms f) := of_some rfl rfl
theorem ldrs (f : Form) : Statement (.ldrs f) := of_some rfl rfl
theorem strs (f : Form) : Statement (.strs f) := of_some rfl rfl
theorem waitc (f : Short) : Statement (.waitc f) := of_some rfl rfl
theorem waitcLong (f : Long) : Statement (.waitcLong f) := of_some rfl rfl
theorem bara (f : Short) : Statement (.bara f) := of_some rfl rfl
theorem baraLong (f : Long) : Statement (.baraLong f) := of_some rfl rfl
theorem barw (f : Short) : Statement (.barw f) := of_some rfl rfl
theorem barwLong (f : Long) : Statement (.barwLong f) := of_some rfl rfl
theorem bars (f : Short) : Statement (.bars f) := of_some rfl rfl
theorem barsLong (f : Long) : Statement (.barsLong f) := of_some rfl rfl
theorem drain (f : Short) : Statement (.drain f) := of_some rfl rfl
theorem drainLong (f : Long) : Statement (.drainLong f) := of_some rfl rfl
theorem tdset (f : Form) : Statement (.tdset f) := of_some rfl rfl
theorem tdget (f : Form) : Statement (.tdget f) := of_some rfl rfl
theorem mma (f : Form) : Statement (.mma f) := of_some rfl rfl
theorem accz (f : Form) : Statement (.accz f) := of_some rfl rfl
theorem accrd (f : Form) : Statement (.accrd f) := of_some rfl rfl
theorem accwr (f : Form) : Statement (.accwr f) := of_some rfl rfl
theorem accld (f : Form) : Statement (.accld f) := of_some rfl rfl
theorem accst (f : Form) : Statement (.accst f) := of_some rfl rfl
theorem job (f : Form) : Statement (.job f) := of_some rfl rfl
theorem jobq (f : Form) : Statement (.jobq f) := of_some rfl rfl
theorem objreg (f : Form) : Statement (.objreg f) := of_some rfl rfl
theorem objfree (f : Short) : Statement (.objfree f) := of_some rfl rfl
theorem objfreeLong (f : Long) : Statement (.objfreeLong f) := of_some rfl rfl
theorem comb (f : Form) : Statement (.comb f) := of_some rfl rfl
theorem cbatch (f : Short) : Statement (.cbatch f) := of_some rfl rfl
theorem cbatchLong (f : Long) : Statement (.cbatchLong f) := of_some rfl rfl
theorem carg (f : Short) : Statement (.carg f) := of_some rfl rfl
theorem cargLong (f : Long) : Statement (.cargLong f) := of_some rfl rfl
theorem creply (f : Short) : Statement (.creply f) := of_some rfl rfl
theorem creplyLong (f : Long) : Statement (.creplyLong f) := of_some rfl rfl
theorem cend (f : Short) : Statement (.cend f) := of_some rfl rfl
theorem cendLong (f : Long) : Statement (.cendLong f) := of_some rfl rfl
theorem rshare (f : Short) : Statement (.rshare f) := of_some rfl rfl
theorem rshareLong (f : Long) : Statement (.rshareLong f) := of_some rfl rfl
theorem rquery (f : Short) : Statement (.rquery f) := of_some rfl rfl
theorem rqueryLong (f : Long) : Statement (.rqueryLong f) := of_some rfl rfl
theorem launch (f : Short) : Statement (.launch f) := of_some rfl rfl
theorem launchLong (f : Long) : Statement (.launchLong f) := of_some rfl rfl
theorem chwait (f : Short) : Statement (.chwait f) := of_some rfl rfl
theorem chwaitLong (f : Long) : Statement (.chwaitLong f) := of_some rfl rfl
theorem eread (f : Short) : Statement (.eread f) := of_some rfl rfl
theorem ereadLong (f : Long) : Statement (.ereadLong f) := of_some rfl rfl
theorem tarm (f : Short) : Statement (.tarm f) := of_some rfl rfl
theorem tarmLong (f : Long) : Statement (.tarmLong f) := of_some rfl rfl
theorem rdpr (f : Form) : Statement (.rdpr f) := of_some rfl rfl
theorem wrpr (f : Form) : Statement (.wrpr f) := of_some rfl rfl
theorem prdone (f : Short) : Statement (.prdone f) := of_some rfl rfl
theorem prdoneLong (f : Long) : Statement (.prdoneLong f) := of_some rfl rfl
theorem ctxsv (f : Short) : Statement (.ctxsv f) := of_some rfl rfl
theorem ctxsvLong (f : Long) : Statement (.ctxsvLong f) := of_some rfl rfl
theorem tlbinv (f : Short) : Statement (.tlbinv f) := of_some rfl rfl
theorem tlbinvLong (f : Long) : Statement (.tlbinvLong f) := of_some rfl rfl
theorem sheet (f : Short) : Statement (.sheet f) := of_some rfl rfl
theorem sheetLong (f : Long) : Statement (.sheetLong f) := of_some rfl rfl
theorem hangReport : Statement .hangReport := of_none rfl
theorem sleepExpiry : Statement .sleepExpiry := of_none rfl
theorem burstEnd : Statement .burstEnd := of_none rfl
theorem currentGrant : Statement .currentGrant := of_none rfl
theorem loadComplete : Statement .loadComplete := of_none rfl
theorem storePerformed : Statement .storePerformed := of_none rfl
theorem atomicPerformed : Statement .atomicPerformed := of_none rfl
theorem latheOpStart : Statement .latheOpStart := of_none rfl
theorem latheOpComplete : Statement .latheOpComplete := of_none rfl
theorem accrdComplete : Statement .accrdComplete := of_none rfl
theorem jobStart : Statement .jobStart := of_none rfl
theorem jobComplete : Statement .jobComplete := of_none rfl
theorem translationWalk : Statement .translationWalk := of_none rfl
theorem xfRespReplay : Statement .xfRespReplay := of_none rfl
theorem xfRespDeliver : Statement .xfRespDeliver := of_none rfl
theorem combPacketAdmit : Statement .combPacketAdmit := of_none rfl
theorem batchStart : Statement .batchStart := of_none rfl
theorem methodBudgetExpiry : Statement .methodBudgetExpiry := of_none rfl
theorem combComplete : Statement .combComplete := of_none rfl
theorem drainComplete : Statement .drainComplete := of_none rfl
theorem fabricDrainAck : Statement .fabricDrainAck := of_none rfl
theorem qTailDoorbell : Statement .qTailDoorbell := of_none rfl
theorem recordAdmit : Statement .recordAdmit := of_none rfl
theorem waitRetest : Statement .waitRetest := of_none rfl
theorem priorityAging : Statement .priorityAging := of_none rfl
theorem launchAggregate : Statement .launchAggregate := of_none rfl
theorem bindRecordInstall : Statement .bindRecordInstall := of_none rfl
theorem bindShareRewrite : Statement .bindShareRewrite := of_none rfl
theorem bindWithdraw : Statement .bindWithdraw := of_none rfl
theorem blockDispatch : Statement .blockDispatch := of_none rfl
theorem blockRetire : Statement .blockRetire := of_none rfl
theorem gangRetire : Statement .gangRetire := of_none rfl
theorem gridRetire : Statement .gridRetire := of_none rfl
theorem codePageVerify : Statement .codePageVerify := of_none rfl
theorem rebind : Statement .rebind := of_none rfl
theorem forcedGrowth : Statement .forcedGrowth := of_none rfl
theorem turnAdvance : Statement .turnAdvance := of_none rfl
theorem quotaDelivery : Statement .quotaDelivery := of_none rfl
theorem preemptDelivery : Statement .preemptDelivery := of_none rfl
theorem throttleDelivery : Statement .throttleDelivery := of_none rfl
theorem handlerBudgetOverrun : Statement .handlerBudgetOverrun := of_none rfl
theorem blockSave : Statement .blockSave := of_none rfl
theorem darkroomSwap : Statement .darkroomSwap := of_none rfl
theorem blockRestore : Statement .blockRestore := of_none rfl
theorem poolSliceEnd : Statement .poolSliceEnd := of_none rfl
theorem clusterReassign : Statement .clusterReassign := of_none rfl
theorem classChangeDone : Statement .classChangeDone := of_none rfl
theorem budgetChange : Statement .budgetChange := of_none rfl
theorem dieTempChange : Statement .dieTempChange := of_none rfl
theorem clockGate : Statement .clockGate := of_none rfl
theorem powerGate : Statement .powerGate := of_none rfl
theorem coreWake : Statement .coreWake := of_none rfl
theorem calibrationEpoch : Statement .calibrationEpoch := of_none rfl
theorem periodicSheet : Statement .periodicSheet := of_none rfl
theorem shReq : Statement .shReq := of_none rfl
theorem activate : Statement .activate := of_none rfl
theorem resume : Statement .resume := of_none rfl
theorem stopPartition : Statement .stopPartition := of_none rfl
theorem quiesce : Statement .quiesce := of_none rfl
theorem destroy : Statement .destroy := of_none rfl
theorem pmQuotaWrite : Statement .pmQuotaWrite := of_none rfl
theorem homemodeWrite : Statement .homemodeWrite := of_none rfl
theorem ccWaypartWrite : Statement .ccWaypartWrite := of_none rfl
theorem pmWaysWrite : Statement .pmWaysWrite := of_none rfl
theorem poolClWrite : Statement .poolClWrite := of_none rfl
theorem praDataRead : Statement .praDataRead := of_none rfl
theorem praDataWrite : Statement .praDataWrite := of_none rfl
theorem configRegisterWrite : Statement .configRegisterWrite := of_none rfl
theorem descRead : Statement .descRead := of_none rfl
theorem quoteRecord : Statement .quoteRecord := of_none rfl
theorem fnhost : Statement .fnhost := of_none rfl
theorem windowWrite : Statement .windowWrite := of_none rfl
theorem exportWrite : Statement .exportWrite := of_none rfl
theorem handoff : Statement .handoff := of_none rfl
theorem imagePush : Statement .imagePush := of_none rfl
theorem handoffTimeout : Statement .handoffTimeout := of_none rfl
theorem remoteAccessArrival : Statement .remoteAccessArrival := of_none rfl
theorem remoteTimeout : Statement .remoteTimeout := of_none rfl
theorem dieLinkDown : Statement .dieLinkDown := of_none rfl
theorem fabricPortDown : Statement .fabricPortDown := of_none rfl
theorem cxlLinkFail : Statement .cxlLinkFail := of_none rfl
theorem powerGood : Statement .powerGood := of_none rfl
theorem coldPowerLoss : Statement .coldPowerLoss := of_none rfl
theorem warmReset : Statement .warmReset := of_none rfl
theorem functionReset : Statement .functionReset := of_none rfl
theorem headstockWatchdog : Statement .headstockWatchdog := of_none rfl
theorem chadyPortResume : Statement .chadyPortResume := of_none rfl
theorem chadyPortWrite : Statement .chadyPortWrite := of_none rfl
theorem fabricDrainMarker : Statement .fabricDrainMarker := of_none rfl
theorem handoffArrival : Statement .handoffArrival := of_none rfl
theorem handoffRetireReport : Statement .handoffRetireReport := of_none rfl

end Sys2Proof.Laws.Encoded
end

