-- ==== Sys2Proof/Laws/Power.lean ====
section
/-! SUPPORT. What a booking, and the time that passes, can do where no partition has a quota: accounts alone change. -/
namespace Sys2Proof.Machine

/-- No partition has a quota. -/
def State.quotaless (s : State) : Prop := ∀ fn child, s.quota fn child = none

/-- Bookings that have grown, in canonical form. -/
def Grown (old new : Sp Nat) : Prop := spWf 0 old = true → spWf 0 new = true ∧ ∀ k, spGet 0 old k ≤ spGet 0 new k

/-- A state whose counters and bookings alone may differ from another's, the bookings grown. -/
def State.Booked (s t : State) : Prop := ∃ counters booked, t = { s with counters, booked } ∧ Grown s.booked booked

namespace State.Booked

theorem refl (s : State) : s.Booked s := ⟨_, _, rfl, fun h => ⟨h, fun _ => le_rfl⟩⟩

theorem trans {s t u : State} : s.Booked t → t.Booked u → s.Booked u := by
  rintro ⟨_, _, rfl, g⟩ ⟨c, b, rfl, k⟩
  exact ⟨c, b, rfl, fun h => ⟨(k (g h).1).1, fun i => ((g h).2 i).trans ((k (g h).1).2 i)⟩⟩

theorem quotaless {s t : State} (h : s.Booked t) (hq : s.quotaless) : t.quotaless := by
  obtain ⟨_, _, rfl, -⟩ := h
  exact hq

theorem foldl {α : Type} {f : State → α → State} (hf : ∀ (s : State) a, s.quotaless → s.Booked (f s a)) (l : List α) (s : State)
    (hq : s.quotaless) : s.Booked (l.foldl f s) := by
  induction l generalizing s with
  | nil => exact refl s
  | cons a l ih => exact (hf s a hq).trans (ih _ ((hf s a hq).quotaless hq))

theorem bump (s : State) (fn child units : Nat) (hq : s.quotaless) : s.Booked (s.bump fn child units) := by
  simp only [State.bump, State.aboveQuota, hq fn child]
  exact ⟨_, _, rfl, fun h => ⟨h, fun _ => le_rfl⟩⟩

theorem bookUnits (s : State) (fn child units : Nat) (hq : s.quotaless) : s.Booked (s.bookUnits fn child units) := by
  unfold State.bookUnits
  split
  · exact bump _ _ _ _ hq
  · exact (bump _ _ _ _ hq).trans (bump _ _ _ _ ((bump _ _ _ _ hq).quotaless hq))

theorem tally (s : State) (fn child rail units : Nat) : s.Booked (s.tally fn child rail units) := by
  refine ⟨_, _, rfl, fun h => ⟨spWf_spSet h, fun k => ?_⟩⟩
  rw [spGet_spSet h]
  split_ifs with _ e e <;> simp [e]

theorem book (s : State) (fn child rail cls : Nat) (evs : List (Ev × Nat)) (hq : s.quotaless) : s.Booked (s.book fn child rail cls evs) := by
  simp only [State.book]
  split
  · exact refl s
  · exact (bookUnits _ _ _ _ hq).trans (tally ..)

theorem bookStatic (s : State) (fn child rail units : Nat) (hq : s.quotaless) : s.Booked (s.bookStatic fn child rail units) := by
  unfold State.bookStatic
  split
  · exact refl s
  · exact (bookUnits _ _ _ _ hq).trans (tally ..)

theorem bookCores (s : State) (ns : Nat) (hq : s.quotaless) : s.Booked (s.bookCores ns) := by
  refine foldl (fun t c h => ?_) _ s hq
  split
  · exact book _ _ _ _ _ _ h
  · exact refl t

theorem bookSlices (s : State) (ns : Nat) (hq : s.quotaless) : s.Booked (s.bookSlices ns) :=
  foldl (fun t _ h => foldl (fun _ _ k => book _ _ _ _ _ _ k) _ t h) _ s hq

theorem bookChannels (s : State) (ns f die : Nat) (hq : s.quotaless) : s.Booked (s.bookChannels ns f die) :=
  (bookStatic _ _ _ _ _ hq).trans
    (foldl (fun _ _ h => bookStatic _ _ _ _ _ h) _ _ ((bookStatic _ _ _ _ _ hq).quotaless hq))

theorem bookTime (s : State) (ns : Nat) (hq : s.quotaless) : s.Booked (s.bookTime ns) := by
  have h1 := bookCores s ns hq
  have h2 := bookSlices _ ns (h1.quotaless hq)
  exact (h1.trans h2).trans
    (foldl (fun t _ h => foldl (fun _ _ k => bookChannels _ _ _ _ k) _ t h) _ _ ((h1.trans h2).quotaless hq))

end State.Booked

/-- Where no partition has a quota, time that passes changes the accounts, the clock and the count of free values alone. -/
theorem State.passTime_quotaless (s : State) (hq : s.quotaless) : ∃ counters booked clockNs,
    s.passTime = { s with counters, booked, fresh := s.fresh + 1, hw := { s.hw with clockNs } } ∧ Grown s.booked booked := by
  obtain ⟨c, b, h, g⟩ := State.Booked.bookTime { s with fresh := s.fresh + 1 } ((Config.freeValue s.fresh) >>> 24).toNat hq
  refine ⟨c, b, s.hw.clockNs + BitVec.ofNat 64 ((Config.freeValue s.fresh) >>> 24).toNat, ?_, g⟩
  simp only [State.passTime, State.takeFree, h]

end Sys2Proof.Machine
end

