-- ==== Sys2Proof/Tests/Slice0.lean ====
section
/-! SUPPORT. Tests: terms the checks refuse, words of the spec's encodings decoded, one step on a small state with the result the spec gives, and for
every statement a state and operands that meet its hypotheses. -/
namespace Sys2Proof.Tests
open Sys2Proof.Machine

/-! ## Small states -/

/-- A grid with one block of one wave of 32 lanes, whose split issues. -/
def core : State :=
  { grids := [probeGrid 0]
    cur := some ⟨{ probeBlock 0 0 with waves := [] }, { wid := 0, width := 32, share := 256, wanted := 256 }, probeSplit, []⟩ }

/-- The split, the wave and the block that issue, changed. -/
def onSplit (f : Split → Split) (s : State) : State := s.mapSplit f
def onWave (f : Wave → Wave) (s : State) : State := s.mapCurWave f
def onBlock (f : Block → Block) (s : State) : State := { s with cur := s.cur.map fun c => { c with blk := f c.blk } }
def onKernel (f : Kernel → Kernel) (s : State) : State := s.mapGrid 0 fun g => { g with kernel := f g.kernel }

/-- Registers set: a number in a scalar, in a lane of a symbolic register; a mask's bits. -/
def scal (n v : Nat) : State → State := onSplit fun sp => sp.set (.scal n) 0 (BitVec.ofNat 64 v)
def sym (n i v : Nat) : State → State := onSplit fun sp => sp.set (.sym n) i (BitVec.ofNat 64 v)
def mask (n : Nat) (m : Mask) : State → State := onSplit fun sp => { sp with uni := { sp.uni with k := spSet 0 sp.uni.k n m } }
def active (m : Mask) : State → State := onSplit fun sp => { sp with exec := m }

/-- The same with the first GiB of virtual addresses mapped at 1 GiB, and the code page in memory. -/
def mapped : State :=
  let s : State := { core with mem := Memory.write (Memory.write [] probeRoot (leBytes 8 (probeTable + 1))) probeTable (leBytes 8 (probeBase + 31)) }
  s.setPr 0x829 0 0 0 (BitVec.ofNat 64 probeRoot)

/-- An extended form. -/
def ext (m d a b c : Nat) : Form :=
  .long (.ext ⟨BitVec.ofNat 21 m, BitVec.ofNat 16 d, BitVec.ofNat 16 a, BitVec.ofNat 16 b, BitVec.ofNat 16 c⟩)

/-- An extended form with a literal. -/
def extl (m d a b c v : Nat) : Form :=
  .long (.extLit ⟨BitVec.ofNat 21 m, BitVec.ofNat 16 d, BitVec.ofNat 16 a, BitVec.ofNat 16 b, BitVec.ofNat 16 c⟩ (BitVec.ofNat 64 v))

/-- A literal form. -/
def lit (d a b v : Nat) : Form := .long (.lit ⟨BitVec.ofNat 7 d, BitVec.ofNat 7 a, BitVec.ofNat 7 b⟩ (BitVec.ofNat 64 v))

/-- What the operands of an instruction name, where its checks pass. -/
def ctxOf (s : State) (c : Cur) (op : Nat) (f : Form) (spec : Nat → Spec) : Option Ctx :=
  match (specOf f spec).context (s.limitsOf c) (s.awaited c.split) c.wave.width op (rawOf f spec) c.split with
  | .ok x => some x
  | .error _ => none

/-- An instruction's checks pass in a state, and a condition holds where it takes effect. -/
def when (s : State) (op : Nat) (f : Form) (spec : Nat → Spec) (p : State → Cur → Ctx → Bool) : Bool :=
  match s.cur with
  | none => false
  | some c0 => match ctxOf s c0 op f spec with
    | none => false
    | some x => match (s.prepare x).cur with
      | none => false
      | some c => issuesB s c op f spec x && p (s.ready c x) c.counted x

/-- As `when`, and every move of a transfer to a target can be made. -/
def whenTo (s : State) (op : Nat) (f : Form) (spec : Nat → Spec) (t : Cur → Ctx → Dword) (p : State → Cur → Ctx → Bool) : Bool :=
  when s op f spec p &&
  match s.cur with
  | none => false
  | some c0 => match ctxOf s c0 op f spec with
    | none => false
    | some x => (s.prepare x).cur.any fun c => ((s.prepare x).edgeStop c (passesOf c f spec) op (t c.counted x)).isNone

/-- Every instruction of a list passes its checks in a state. -/
def allIssue (s : State) (l : List (Nat × Form × (Nat → Spec))) : Bool := l.all fun e => when s e.1 e.2.1 e.2.2 fun _ _ _ => true

/-- What `issuesB` finds. -/
theorem issues_of_issuesB {s c op f spec x} (h : issuesB s c op f spec x = true) : Issues s c op f spec x := by
  simp only [issuesB, Bool.and_eq_true, decide_eq_true_eq, Option.isNone_iff_eq_none] at h
  obtain ⟨⟨⟨h1, h2⟩, h3⟩, h4⟩ := h
  refine ⟨?_, h2, h3, h4⟩
  cases hc : s.cur with
  | none => rw [hc] at h1; cases h1
  | some c0 =>
  rw [hc] at h1
  have k := h1
  simp only [Option.any_some, Bool.and_eq_true, Option.isNone_iff_eq_none] at k
  obtain ⟨⟨⟨k1, k2⟩, k3⟩, k4⟩ := k
  refine ⟨c0, hc, k1, k2, ?_, k4⟩
  split at k3
  · rename_i y hy
    rw [hy, of_decide_eq_true k3]
  · cases k3

/-- What `when` finds is a witness. -/
theorem issues_of_when {s op f spec p} (h : when s op f spec p = true) :
    ∃ c x, Issues s c op f spec x ∧ p (s.ready c x) c.counted x = true := by
  simp only [when] at h
  split at h
  · cases h
  · split at h
    · cases h
    · split at h
      · cases h
      · simp only [Bool.and_eq_true] at h
        exact ⟨_, _, issues_of_issuesB h.1, h.2⟩

/-! ## Instructions whose checks pass -/

theorem witness_integer : allIssue core [
    (0x001, .base ⟨0x01, 0x01, 0x01⟩, (specInt2 allInt 1)), (0x001, ext 0x0 0x0001 0x0001 0x0001 0x0000, (specInt2 allInt 1)),
    (0x002, .base ⟨0x01, 0x01, 0x01⟩, (specInt2 allInt 1)), (0x002, ext 0x0 0x0001 0x0001 0x0001 0x0000, (specInt2 allInt 1)),
    (0x003, .base ⟨0x01, 0x01, 0x01⟩, (specInt2 allInt 0)), (0x003, ext 0x0 0x0001 0x0001 0x0001 0x0000, (specInt2 allInt 0)),
    (0x004, .base ⟨0x01, 0x01, 0x01⟩, (specInt2 allInt 0)), (0x004, ext 0x0 0x0001 0x0001 0x0001 0x0000, (specInt2 allInt 0)),
    (0x005, ext 0x0 0x0001 0x0001 0x0001 0x0001, specMad),
    (0x006, .base ⟨0x01, 0x01, 0x01⟩, (specInt2 allInt 0)), (0x006, ext 0x0 0x0001 0x0001 0x0001 0x0000, (specInt2 allInt 0)),
    (0x007, .base ⟨0x01, 0x01, 0x01⟩, (specInt2 allInt 0)), (0x007, ext 0x0 0x0001 0x0001 0x0001 0x0000, (specInt2 allInt 0)),
    (0x008, ext 0x400 0x0001 0x0001 0x0000 0x0000, (specInt1 [1, 2, 3, 4] 1)),
    (0x009, .base ⟨0x01, 0x01, 0x00⟩, specIneg), (0x009, ext 0x0 0x0001 0x0001 0x0000 0x0000, specIneg)] = true := by decide

theorem witness_bits : allIssue core [
    (0x00B, .base ⟨0x01, 0x01, 0x01⟩, (specInt2 allInt 0)), (0x00B, ext 0x0 0x0001 0x0001 0x0001 0x0000, (specInt2 allInt 0)),
    (0x00C, .base ⟨0x01, 0x01, 0x01⟩, (specInt2 allInt 0)), (0x00C, ext 0x0 0x0001 0x0001 0x0001 0x0000, (specInt2 allInt 0)),
    (0x00D, .base ⟨0x01, 0x01, 0x01⟩, (specInt2 allInt 0)), (0x00D, ext 0x0 0x0001 0x0001 0x0001 0x0000, (specInt2 allInt 0)),
    (0x00E, .base ⟨0x01, 0x01, 0x01⟩, (specInt2 allInt 0)), (0x00E, ext 0x0 0x0001 0x0001 0x0001 0x0000, (specInt2 allInt 0)),
    (0x00F, .base ⟨0x01, 0x01, 0x00⟩, (specInt1 allInt 0)), (0x00F, ext 0x0 0x0001 0x0001 0x0000 0x0000, (specInt1 allInt 0)),
    (0x010, .base ⟨0x01, 0x01, 0x01⟩, specShift), (0x010, ext 0x0 0x0001 0x0001 0x0001 0x0000, specShift),
    (0x011, .base ⟨0x01, 0x01, 0x01⟩, specShift), (0x011, ext 0x0 0x0001 0x0001 0x0001 0x0000, specShift),
    (0x012, .base ⟨0x01, 0x01, 0x01⟩, specShift), (0x012, ext 0x0 0x0001 0x0001 0x0001 0x0000, specShift),
    (0x013, .base ⟨0x01, 0x01, 0x01⟩, specShift), (0x013, ext 0x0 0x0001 0x0001 0x0001 0x0000, specShift),
    (0x014, ext 0x0 0x0001 0x0001 0x0001 0x0001, specBfx),
    (0x015, ext 0x0 0x0001 0x0001 0x0001 0x0001, specBfi),
    (0x016, .base ⟨0x01, 0x01, 0x00⟩, (specInt1 allInt 0)), (0x016, ext 0x0 0x0001 0x0001 0x0000 0x0000, (specInt1 allInt 0)),
    (0x017, .base ⟨0x01, 0x01, 0x00⟩, (specInt1 allInt 0)), (0x017, ext 0x0 0x0001 0x0001 0x0000 0x0000, (specInt1 allInt 0)),
    (0x018, .base ⟨0x01, 0x01, 0x00⟩, (specInt1 allInt 0)), (0x018, ext 0x0 0x0001 0x0001 0x0000 0x0000, (specInt1 allInt 0)),
    (0x019, ext 0x0 0x0001 0x0001 0x0001 0x0001, specPrmt),
    (0x01A, ext 0x0 0x0001 0x0001 0x0001 0x0001, specLea)] = true := by decide

theorem witness_compare : allIssue core [
    (0x00A, ext 0x0 0x0001 0x0001 0x0001 0x8001, specIaddc),
    (0x01B, ext 0x0 0x8001 0x0001 0x0001 0x0000, specIcmp),
    (0x01C, ext 0x0 0x0001 0x0001 0x0001 0x8001, specSel),
    (0x026, ext 0x0 0x8001 0x0001 0x0001 0x0000, specFcmp),
    (0x030, ext 0x0 0x8001 0x0001 0x0001 0x0000, specFclass)] = true := by decide

theorem witness_float : allIssue core [
    (0x020, .base ⟨0x01, 0x01, 0x01⟩, (specF2 5 6)), (0x020, ext 0x0 0x0001 0x0001 0x0001 0x0000, (specF2 5 6)),
    (0x021, .base ⟨0x01, 0x01, 0x01⟩, (specF2 5 6)), (0x021, ext 0x0 0x0001 0x0001 0x0001 0x0000, (specF2 5 6)),
    (0x022, .base ⟨0x01, 0x01, 0x01⟩, (specF2 5 6)), (0x022, ext 0x0 0x0001 0x0001 0x0001 0x0000, (specF2 5 6)),
    (0x023, ext 0x0 0x0001 0x0001 0x0001 0x0001, specFfma),
    (0x024, .base ⟨0x01, 0x01, 0x01⟩, (specF2 0 6)), (0x024, ext 0x0 0x0001 0x0001 0x0001 0x0000, (specF2 0 6)),
    (0x025, .base ⟨0x01, 0x01, 0x01⟩, (specF2 0 6)), (0x025, ext 0x0 0x0001 0x0001 0x0001 0x0000, (specF2 0 6)),
    (0x02E, .base ⟨0x01, 0x01, 0x00⟩, (specF1 5 6)), (0x02E, ext 0x0 0x0001 0x0001 0x0000 0x0000, (specF1 5 6)),
    (0x02F, .base ⟨0x01, 0x01, 0x01⟩, specFscale), (0x02F, ext 0x0 0x0001 0x0001 0x0001 0x0000, specFscale)] = true := by decide

theorem witness_float_functions : allIssue core [
    (0x027, .base ⟨0x01, 0x01, 0x00⟩, (specF1 0 12)), (0x027, ext 0x0 0x0001 0x0001 0x0000 0x0000, (specF1 0 12)),
    (0x028, .base ⟨0x01, 0x01, 0x00⟩, (specF1 0 12)), (0x028, ext 0x0 0x0001 0x0001 0x0000 0x0000, (specF1 0 12)),
    (0x029, .base ⟨0x01, 0x01, 0x00⟩, (specF1 5 12)), (0x029, ext 0x0 0x0001 0x0001 0x0000 0x0000, (specF1 5 12)),
    (0x02A, .base ⟨0x01, 0x01, 0x00⟩, (specF1 0 12)), (0x02A, ext 0x0 0x0001 0x0001 0x0000 0x0000, (specF1 0 12)),
    (0x02B, .base ⟨0x01, 0x01, 0x00⟩, (specF1 0 12)), (0x02B, ext 0x0 0x0001 0x0001 0x0000 0x0000, (specF1 0 12)),
    (0x02C, .base ⟨0x01, 0x01, 0x00⟩, (specF1 0 12)), (0x02C, ext 0x0 0x0001 0x0001 0x0000 0x0000, (specF1 0 12)),
    (0x02D, .base ⟨0x01, 0x01, 0x00⟩, (specF1 0 12)), (0x02D, ext 0x0 0x0001 0x0001 0x0000 0x0000, (specF1 0 12)),
    (0x031, .base ⟨0x01, 0x01, 0x01⟩, (specF2 5 12)), (0x031, ext 0x0 0x0001 0x0001 0x0001 0x0000, (specF2 5 12))] = true := by decide

theorem witness_packed : allIssue core [
    (0x040, .base ⟨0x01, 0x01, 0x01⟩, (specPk 5)), (0x040, ext 0x0 0x0001 0x0001 0x0001 0x0000, (specPk 5)),
    (0x041, .base ⟨0x01, 0x01, 0x01⟩, (specPk 5)), (0x041, ext 0x0 0x0001 0x0001 0x0001 0x0000, (specPk 5)),
    (0x042, ext 0x0 0x0001 0x0001 0x0001 0x0001, specPk3),
    (0x043, .base ⟨0x01, 0x01, 0x01⟩, (specPk 0)), (0x043, ext 0x0 0x0001 0x0001 0x0001 0x0000, (specPk 0)),
    (0x044, .base ⟨0x01, 0x01, 0x01⟩, (specPk 0)), (0x044, ext 0x0 0x0001 0x0001 0x0001 0x0000, (specPk 0)),
    (0x045, ext 0x0 0x0001 0x0001 0x0001 0x0001, specPk3)] = true := by decide

theorem witness_conversions : allIssue core [
    (0x050, ext 0x420 0x0001 0x0001 0x0000 0x0000, specCvt),
    (0x051, ext 0x3000 0x0001 0x0001 0x0000 0x0000, specMxq),
    (0x052, ext 0x2580 0x0001 0x0001 0x0000 0x0000, specMxd),
    (0x053, ext 0x400 0x0001 0x0001 0x0001 0x0001, specPack),
    (0x054, ext 0x400 0x0001 0x0001 0x0001 0x0000, specUnpk)] = true := by decide

theorem witness_cross_lane : allIssue core [
    (0x060, .base ⟨0x01, 0x01, 0x01⟩, specShfl), (0x060, ext 0x0 0x0001 0x0001 0x0001 0x0000, specShfl),
    (0x061, .base ⟨0x01, 0x01, 0x42⟩, specBcast), (0x061, ext 0x0 0x0001 0x0001 0x4002 0x0000, specBcast),
    (0x062, .base ⟨0x42, 0x01, 0x00⟩, specVote), (0x062, ext 0x0 0x4002 0x0001 0x0000 0x0000, specVote),
    (0x063, .base ⟨0x01, 0x01, 0x00⟩, specWred), (0x063, ext 0x0 0x0001 0x0001 0x0000 0x0000, specWred),
    (0x064, .base ⟨0x01, 0x01, 0x00⟩, specWscan), (0x064, ext 0x0 0x0001 0x0001 0x0000 0x0000, specWscan),
    (0x065, .base ⟨0x01, 0x01, 0x00⟩, specMatch), (0x065, ext 0x0 0x0001 0x0001 0x0000 0x0000, specMatch)] = true := by decide

theorem witness_masks : allIssue core [
    (0x070, ext 0x0 0x8001 0x8001 0x8001 0x0000, specMask2),
    (0x071, ext 0x0 0x8001 0x8001 0x8001 0x0000, specMask2),
    (0x072, ext 0x0 0x8001 0x8001 0x8001 0x0000, specMask2),
    (0x073, ext 0x0 0x8001 0x8001 0x0000 0x0000, specKnot),
    (0x074, ext 0x0 0x4002 0x8001 0x0000 0x0000, specKpop),
    (0x075, ext 0x0 0x4002 0x8001 0x0000 0x0000, specKpop),
    (0x076, ext 0x0 0x8001 0x8001 0x0000 0x0000, (specKmov 32))] = true := by decide

theorem witness_moves : allIssue core [
    (0x080, .base ⟨0x01, 0x01, 0x00⟩, specMov), (0x080, ext 0x0 0x0001 0x0001 0x0000 0x0000, specMov),
    (0x081, .base ⟨0x01, 0x42, 0x42⟩, specMovl), (0x081, ext 0x0 0x0001 0x4002 0x4002 0x0000, specMovl)] = true := by decide

/-! ## Conditions of the statements about instructions, each met -/

/-- RDSR of MODE, TRAP_EXEC and CLK; WRSR of MODE, STATUS, RSEED and TRAP_PC; XSET and XADD. -/
theorem witness_special_registers : [
    when core 0x082 (ext 0 0x4002 0xC10E 0 0) (specRdsr 0x10E) fun s c _ => (s.gridOf c.blk).isSome && c.blk.method.isNone,
    when core 0x082 (ext 0 0x8001 0xC116 0 0) (specRdsr 0x116) fun _ _ x => x.a = .sreg 0x116,
    when core 0x082 (ext 0 0x4002 0xC111 0 0) (specRdsr 0x111) fun _ _ x => x.a = .sreg 0x111,
    when core 0x083 (ext 0 0xC10E 0xE011 0 0) (specWrsr 0x10E) fun _ _ x => x.d = .sreg 0x10E,
    when core 0x083 (ext 0 0xC10F 0xE011 0 0) (specWrsr 0x10F) fun _ _ x => x.d = .sreg 0x10F,
    when core 0x083 (ext 0 0xC110 0xE011 0 0) (specWrsr 0x110) fun _ _ x => x.d = .sreg 0x110,
    when core 0x083 (ext 0 0xC114 0x4002 0 0) (specWrsr 0x114) fun _ _ x => x.d = .sreg 0x114,
    when core 0x084 (.base ⟨0x42, 0x71, 0⟩) specXset fun _ _ x => x.once, when core 0x085 (ext 0 0x4002 0xE011 0 0) specXset fun _ _ x => x.once
  ].all id = true := by decide

/-- NOP, YIELD, and SLEEP of zero and of one. -/
theorem witness_idle : [
    when core 0x000 (.base ⟨0, 0, 0⟩) specNop fun _ _ _ => true, when core 0x097 (ext 0 0 0 0 0) specPlain fun _ _ _ => true,
    when core 0x09B (.base ⟨0, 0x6A, 0⟩) specSleep fun _ c x => x.vA c.split 0 % 2 ^ 24 = 0,
    when core 0x09B (ext 0 0 0xE011 0 0) specSleep fun _ c x => x.vA c.split 0 % 2 ^ 24 = 1
  ].all id = true := by decide

/-- BRA, RET, CALL and BRC, taken and not, to the first bundle of the code; and each to a target that is no bundle. -/
theorem witness_transfers :
    let there := scal 2 0x10040 core
    let ok := fun (o : Ctx → Opnd) (s : State) (c : Cur) (x : Ctx) => (s.kernelOf c.blk).targetOk (targetOf c.split x (o x))
    let dest := fun (o : Ctx → Opnd) (c : Cur) (x : Ctx) => targetOf c.split x (o x)
    [ whenTo core 0x090 (lit 0 0 0 0) specBra (dest (·.a)) (ok (·.a)), whenTo there 0x093 (.base ⟨0, 0x42, 0⟩) specRet (dest (·.a)) (ok (·.a)),
      whenTo there 0x092 (ext 0 0x4004 0x4002 0 0) specCall (dest (·.a)) (ok (·.a)),
      whenTo core 0x091 (extl (3 * 1024) 0 0xC000 0xC000 0xE000 0) specBrc (dest (·.c)) (fun s c x => brcTaken c.split x && ok (·.c) s c x),
      when core 0x091 (extl (3 * 1024 + 8) 0 0xC000 0xC000 0xE000 0) specBrc (fun _ c x => !brcTaken c.split x),
      when core 0x090 (lit 0 0 0 4) specBra (fun s c x => !ok (·.a) s c x), when core 0x093 (.base ⟨0, 0x42, 0⟩) specRet (fun s c x => !ok (·.a) s c x),
      when core 0x092 (lit 0x44 0 0 (2 ^ 63)) specCall (fun s c x => !ok (·.a) s c x),
      when core 0x091 (extl (3 * 1024) 0 0xC000 0xC000 0xE000 0xFC0) specBrc (fun s c x => brcTaken c.split x && ok (·.c) s c x),
      when core 0x091 (extl (3 * 1024) 0 0xC000 0xC000 0xE000 0x1000) specBrc (fun s c x => brcTaken c.split x && !ok (·.c) s c x)
    ].all id = true := by decide +kernel

/-- SPLIT with all lanes, none and some on the taken side, and to a target that is no bundle. -/
theorem witness_split :
    let taken := fun (c : Cur) (x : Ctx) => x.act &&& c.split.readMask x.a.maskNum
    let other := fun (c : Cur) (x : Ctx) => x.act &&& ~~~c.split.readMask x.a.maskNum
    let ok := fun (s : State) (c : Cur) (x : Ctx) => (s.kernelOf c.blk).targetOk (targetOf c.split x x.b) && c.split.forks.length ≠ 16
    let dest := fun (c : Cur) (x : Ctx) => targetOf c.split x x.b
    [ whenTo (mask 1 (BitVec.allOnes 32 |>.setWidth 128) core) 0x094 (extl 0 0 0x8001 0xE000 0 0) specSplit dest fun s c x =>
        ok s c x && taken c x ≠ 0 && other c x = 0,
      when core 0x094 (extl 0 0 0x8001 0xE000 0 0) specSplit fun s c x => ok s c x && taken c x = 0,
      whenTo (mask 1 1 core) 0x094 (extl 0 0 0x8001 0xE000 0 0) specSplit dest fun s c x => ok s c x && taken c x ≠ 0 && other c x ≠ 0,
      when (mask 1 1 core) 0x094 (extl 0 0 0x8001 0xE000 0 8) specSplit fun s c x => !ok s c x && taken c x ≠ 0
    ].all id = true := by decide +kernel

/-- JOIN with no record, and with each kind on top; a sibling that has come to it, one that has not, and none. -/
theorem witness_join :
    let fork := fun (k : ForkKind) => onSplit (fun sp => { sp with forks := [⟨0, k, 0xFFFFFFFF, 1, []⟩] }) core
    let side := probeSplit.aside 0x10060
    let sibling := fun (r : RunState) (s : State) =>
      onWave (fun w => { w with splits := [{ probeSplit with sid := 1, run := r, forks := [⟨0, .real false, 0xFFFFFFFF, 1, []⟩] }] }) s
    let top := fun (k : ForkKind) (_ : State) (c : Cur) (_ : Ctx) => (c.split.forks.map (·.kind)) = [k]
    let join := fun (s : State) (p : State → Cur → Ctx → Bool) => when s 0x095 (.base ⟨0, 0, 0⟩) specPlain p
    [ join core fun _ c _ => c.split.forks = [], join (fork .single) (fun s c x => top .single s c x),
      join (fork (.serial side)) (fun s c x => top (.serial side) s c x), join (fork (.serialSecond none)) (fun s c x => top (.serialSecond none) s c x),
      join (fork (.serialSecond (some side))) (fun s c x => top (.serialSecond (some side)) s c x),
      join (sibling .parked (fork (.real true))) fun s c x => top (.real true) s c x && (parkedAt c.wave.splits 0 false).isSome,
      join (sibling .ready (fork (.real true))) fun s c x =>
        top (.real true) s c x && (parkedAt c.wave.splits 0 false).isNone && c.wave.splits.any fun o => o.onSide 0 false,
      join (fork (.real true)) fun s c x =>
        top (.real true) s c x && (parkedAt c.wave.splits 0 false).isNone && !(c.wave.splits.any fun o => o.onSide 0 false)
    ].all id = true := by decide

/-- Two sides that share no lane; the other has written a scalar and each register of the wave, and both have written s1. -/
theorem witness_merge :
    let w : Split := { probeSplit with owned := 0x0F, exec := 0x0F, vreg := [(128, 5)], ofile := [(0, 3)], gen := [(0, 1)], written := [.scal 1] }
    let regs := [RegId.scal 0, .xi, .mode, .rseed, .td 1, .trapPc, .trapRec, .inHandler]
    let o : Split := { probeSplit with owned := 0xF0, exec := 0xF0, vreg := [(132, 7)], ofile := [(4, 3)], gen := [(4, 1)], written := .scal 1 :: regs }
    (w.owned &&& o.owned = 0 ∧ (0x0F#128 &&& 0xF0#128) = 0) ∧ ([w, o].all fun x => spWf 0 x.vreg && spWf 0 x.ofile && spWf 0 x.gen) = true ∧
    (spWf 0 w.uni.scal && spWf {} w.uni.td) = true ∧ (regs.all fun x => decide (x ∈ o.written) && decide (x ∉ w.written)) = true ∧
    (RegId.scal 1 ∈ o.written ∧ RegId.scal 1 ∈ w.written) ∧ w.uni.status &&& 1#32 = 0 ∧ o.uni.status &&& 1#32 = 0 := by decide

/-- EXIT of the lanes of k1, of all lanes, and of none. -/
theorem witness_exit :
    let k1 := 1 * 2 ^ 19 + 1 * 2 ^ 15
    let gone := fun (c : Cur) (x : Ctx) => if Mod.msel x.m = 0 then c.split.owned else x.act
    [ when (mask 1 3 core) 0x096 (ext k1 0 0 0 0) specExit fun _ c x => c.split.owned &&& ~~~gone c x ≠ 0 && gone c x = 3,
      when core 0x096 (ext k1 0 0 0 0) specExit fun _ c x => c.split.owned &&& ~~~gone c x ≠ 0 && gone c x = 0,
      when core 0x096 (.base ⟨0, 0, 0⟩) specExit fun _ c x => c.split.owned &&& ~~~gone c x = 0 ].all id = true := by decide

/-- TRAP; BKPT unarmed and armed; TRET in a handler and outside one. -/
theorem witness_traps :
    let armed : State := { core with hw := { core.hw with armedFns := [0] } }
    let inside := onSplit (fun sp => { sp with uni := { sp.uni with inHandler := true, trapPc := 0x10040 } }) core
    [ when core 0x098 (.base ⟨0, 0x71, 0⟩) specTrap fun _ _ _ => true,
      when core 0x09A (ext 0 0 0x4002 0 0) specTrap fun s c _ => !s.hw.armedFns.contains c.blk.fn,
      when armed 0x09A (.base ⟨0, 0x71, 0⟩) specTrap fun s c _ => s.hw.armedFns.contains c.blk.fn,
      whenTo inside 0x099 (.base ⟨0, 0, 0⟩) specTret (fun c _ => c.split.read .trapPc 0) fun s c _ =>
        let pc := c.split.read .trapPc 0
        c.split.uni.inHandler && pc.toNat % 4 = 0 && pc.toNat / 4 % 8 ≠ 1 && !s.midInstr c.blk pc && (s.kernelOf c.blk).inCode pc,
      when core 0x099 (ext 0 0 0 0 0) specTret fun _ c _ => !c.split.uni.inHandler ].all id = true := by decide +kernel

/-- A split of a grid's block, of a method's, and of a saving wave, at an unassigned opcode. -/
theorem witness_unassigned :
    (core.cur.map fun c => (c.blk.method, c.wave.pre)) = some (none, none) ∧
    ((onBlock (fun b => { b with method := some { fn := 0, slot := 0, slice := 0, reqs := [] } }) core).cur.map fun c => c.blk.method.isSome) =
      some true := by decide

/-- The conditions of `Reached`, computed. -/
def reaches (s : State) (b : Block) (n : Nat) (align locks : Bool) (need : BitVec 3) (addrs : List (Nat × Nat)) : Bool :=
  (!align || addrs.all fun p => p.2 % n = 0) && (addrs.all fun p => (s.rangeFault b p.2 n).isNone) &&
  match (s.placeAll b need locks addrs).2 with
  | .ok l => !l.isEmpty
  | .error _ => false

/-- The conditions of `InBuffer`, computed. -/
def inBuffer (s : State) (c : Cur) (blk buf n : Nat) (wr : Bool) (rels : List (Nat × Nat)) : Bool :=
  rels.all fun p => p.2 % n = 0 && p.2 + n ≤ (((s.kernelOf c.blk).bufs[buf]?).map (·.size)).getD 0 &&
    (wr || !s.scrBad c (.scr blk buf) p.2 n)

/-- No lane active. -/
def idle : State := active 0 core

/-- LD of lanes and of a scalar, ST, ATOM, ATOMR and CAS: with no active lane, and at address 0 of mapped memory. -/
theorem witness_global :
    let none0 := fun (op : Nat) (f : Form) (spec : Nat → Spec) => when idle op f spec fun _ _ x => x.lanes = []
    let there := fun (op path : Nat) (f : Form) (spec : Nat → Spec) (locks : Bool) (need : BitVec 3) => when mapped op f spec fun s c x =>
      x.lanes ≠ [] && reaches s c.blk (mtBytes (Mod.mtype x.m)) true locks need (x.addrs c.split x.lanes) && !s.pathFull c path && !s.ahead c.blk
    [ none0 0x0A0 (.base ⟨1, 0x42, 1⟩) specLd, there 0x0A0 0 (.base ⟨1, 0x42, 1⟩) specLd false needR, there 0x0A0 0 (ext 0 0x4004 0x4002 0xC000 0) specLd false needR,
      none0 0x0A1 (.base ⟨1, 0x42, 1⟩) specSt, there 0x0A1 1 (ext 0 1 0x4002 1 0) specSt true needW,
      none0 0x0A2 (ext 0 0 0x4002 1 1) specAtom, there 0x0A2 2 (ext 0 0 0x4002 1 1) specAtom true needRW,
      none0 0x0A3 (ext 0 1 0x4002 1 1) specAtomr, there 0x0A3 2 (ext 0 1 0x4002 1 1) specAtomr true needRW,
      none0 0x0A4 (ext 0 1 0x4002 1 1) specCas, there 0x0A4 2 (ext 0 1 0x4002 1 1) specCas true needRW ].all id = true := by decide

/-- One lane at address 1, and one at the first address outside the space. -/
theorem witness_address_faults :
    let odd := fun (op : Nat) (f : Form) (spec : Nat → Spec) => when (sym 1 3 1 mapped) op f spec fun _ c x =>
      (x.addrs c.split x.lanes).find? (fun p => p.2 % mtBytes (Mod.mtype x.m) ≠ 0) = some (3, 1)
    let far := fun (op : Nat) (f : Form) (spec : Nat → Spec) => when (scal 3 (2 ^ 20) mapped) op f spec fun s c x =>
      (x.addrs c.split x.lanes).all (fun p => p.2 % mtBytes (Mod.mtype x.m) = 0) &&
      (x.addrs c.split x.lanes).findSome? (fun p => (s.rangeFault c.blk p.2 (mtBytes (Mod.mtype x.m))).map fun code => (p, code)) =
        some ((0, 2 ^ 52), 0x11)
    [ odd 0x0A0 (.base ⟨1, 0x42, 1⟩) specLd, far 0x0A0 (.base ⟨1, 0x42, 1⟩) specLd, odd 0x0A1 (.base ⟨1, 0x42, 1⟩) specSt, far 0x0A1 (ext 0 1 0x4002 1 0) specSt,
      odd 0x0A2 (ext 0 0 0x4002 1 1) specAtom, far 0x0A2 (ext 0 0 0x4002 1 1) specAtom, odd 0x0A3 (ext 0 1 0x4002 1 1) specAtomr,
      far 0x0A3 (ext 0 1 0x4002 1 1) specAtomr, odd 0x0A4 (ext 0 1 0x4002 1 1) specCas, far 0x0A4 (ext 0 1 0x4002 1 1) specCas
    ].all id = true := by decide

/-- PREF; CWB with no lane and at mapped lines; FENCE, and FENCE.job, with nothing in flight. -/
theorem witness_cache_and_fence : [
    when mapped 0x0A5 (.base ⟨0, 0x42, 1⟩) specPref fun s c x => (s.prefLines c x).all fun p => !p.2 || !s.flips (128 * p.1),
    when idle 0x0A6 (.base ⟨0, 0x42, 1⟩) specCwb fun _ _ x => x.lanes = [],
    when mapped 0x0A6 (ext 0 0 0x4002 1 0) specCwb fun s c x =>
      x.lanes ≠ [] && reaches s c.blk 1 false true needR (x.addrs c.split x.lanes) && !s.pathFull c 1 && !s.ahead c.blk,
    when core 0x0A7 (.base ⟨0, 0, 0⟩) specFence fun s c x => Mod.sub x.m ≠ 1 && s.fenceDone c 4 5,
    when core 0x0A7 (ext 1 0 0 0 0) specFence fun s _ x => Mod.sub x.m = 1 && s.ops = [] ].all id = true := by decide

/-- LDS, STS, ATOMS, LDRS and STRS with no lane and at offset 0; LDRS and STRS of a member that a gang of one has not. -/
theorem witness_scratchpad :
    let none0 := fun (op : Nat) (f : Form) (spec : Nat → Spec) => when idle op f spec fun _ _ x => x.lanes = []
    let there := fun (op : Nat) (f : Form) (spec : Nat → Spec) (wr : Bool) => when core op f spec fun s c x =>
      x.lanes ≠ [] && !s.pathFull c 3 && inBuffer s c c.blk.id x.a.symNum (mtBytes (Mod.mtype x.m)) wr (x.rels c.split false x.lanes) &&
      ((s.memberOf c.blk (Mod.sub x.m)).map (·.id)) = some c.blk.id
    let far := fun (op : Nat) (f : Form) (spec : Nat → Spec) => when core op f spec fun s c x => x.lanes ≠ [] && s.gangSize c.blk ≤ Mod.sub x.m
    [ none0 0x0B0 (ext 0 1 1 1 0xC000) specLds, there 0x0B0 (ext 0 1 1 1 0xC000) specLds false, none0 0x0B1 (ext 0 1 1 1 0xC000) specSts,
      there 0x0B1 (ext 0 1 1 1 0xC000) specSts true, none0 0x0B2 (ext 0 1 1 1 1) specAtoms, there 0x0B2 (ext 0 1 1 1 1) specAtoms true,
      none0 0x0B3 (ext 0 1 1 1 0xC000) specLdrs, there 0x0B3 (ext 0 1 1 1 0xC000) specLdrs false, none0 0x0B4 (ext 0 1 1 1 0xC000) specStrs,
      there 0x0B4 (ext 0 1 1 1 0xC000) specStrs true, far 0x0B3 (ext 1 1 1 1 0xC000) specLdrs, far 0x0B4 (ext 7 1 1 1 0xC000) specStrs
    ].all id = true := by decide

/-- WAITC; an arrival; a wait on a phase that has passed and on one that has not; BARS at its arrival, and at its wait; DRAIN at its start,
and with its drain done. -/
theorem witness_barriers :
    let key := fun (s : State) (c : Cur) (x : Ctx) => waitKey (s.gangScope c.blk (syncScope x.m)) x.a.symNum
    let past := fun (s : State) (c : Cur) (x : Ctx) => spGet 0 c.split.waitPhase (key s c x) = 3 || spGet 0 c.split.waitPhase (key s c x) = 6
    let gone := onSplit (fun sp => { sp with waitPhase := [(waitKey false 1, 3)] }) core
    let free := fun (s : State) (c : Cur) => s.released c.blk c.wave.wid (· = c.split.sid) (s.before c) 2
    let drain : Drain := { fn := 0, child := 0, tag := false, scope := 5, old := [], done := true, serves := [(0, 0, 0)] }
    let drained : State := { onSplit (fun sp => { sp with started := true }) core with drains := [drain] }
    [ when core 0x0C0 (.base ⟨0, 0x42, 0⟩) specWaitc fun s c x => s.count c.blk.id c.wave.wid (Mod.sub x.m) ≤ x.vA c.split 0 % 2 ^ 32,
      when core 0x0C1 (ext 0 0 1 0x4002 0) (specBar true) fun s c x => free s c && !s.gangScope c.blk (syncScope x.m),
      when gone 0x0C2 (.base ⟨0, 1, 0⟩) (specBar false) fun s c x => past s c x, when core 0x0C2 (ext 0 0 1 0 0) (specBar false) fun s c x => !past s c x,
      when (onSplit (fun sp => { sp with arrived := true }) gone) 0x0C3 (.base ⟨0, 1, 0x42⟩) (specBar true) fun s c x => c.split.arrived && past s c x,
      when core 0x0C3 (.base ⟨0, 1, 0x71⟩) (specBar true) fun s c x => !c.split.arrived && free s c &&
        ((s.arrive c false x.a.symNum (x.vB c.split 0 % 2 ^ 32)).cur.any fun c' => past (s.arrive c false x.a.symNum (x.vB c.split 0 % 2 ^ 32)) c' x),
      when drained 0x0C4 (.base ⟨0, 0, 0⟩) specDrain fun s c _ =>
        c.split.started && s.drainFor 0 0 (0, 0, 0) = some drain && c.split.since = 0 && s.observed c &&
        s.fenceDone { c with split := { c.split with since := s.nextOp + 1 } } 4 5,
      when core 0x0C4 (ext 0 0 0 0 0) specDrain fun s c _ => !c.split.started && s.ops = [] ].all id = true := by decide

/-- A kernel whose buffers hold tiles, and a split with two descriptors: FP16 of one k-block in each role. -/
def tiled : State :=
  let d := fun (role : Nat) => ({ w0 := BitVec.ofNat 32 (2 ^ 31 + role * 2 ^ 30 + 10 * 2 ^ 25), w1 := 0x0001FFFF } : TileDesc)
  onSplit (fun sp => { sp with uni := { sp.uni with td := [(1, d 0), (2, d 1)] } })
    (onKernel (fun k => { k with bufs := List.replicate 16 ⟨131072, 128, 0⟩ }) mapped)

/-- TDSET, TDGET, MMA, ACCZ, ACCRD, ACCWR, ACCLD and ACCST. -/
theorem witness_lathe : [
    when tiled 0x0D0 (ext (10 * 1024) 0xA001 1 0xC000 0xE011) specTdset fun s c x =>
      let kb := if x.c = .zero then 1 else x.vC c.split 0 % 2 ^ 32
      let rows := if tdRole x.m then 128 else 96
      let bufs := (s.kernelOf c.blk).bufs
      1 ≤ kb && kb ≤ 8 && tdFmt x.m < 12 && x.b = .zero && 128 ≤ ((bufs[x.a.symNum]?).map (·.align)).getD 0 &&
      rows * kb * blockBytes (tdFmt x.m) ≤ ((bufs[x.a.symNum]?).map (·.size)).getD 0 && !s.pathFull c 5,
    when core 0x0D1 (ext 0 0x4002 0xA001 0 0) specTdget fun _ _ _ => true,
    when tiled 0x0D2 (ext 0 0xA010 0xA001 0xA002 0) specMma fun s c x =>
      let da := c.split.desc x.a.unitNum
      let db := c.split.desc x.b.unitNum
      (kstepOf da.fmt db.fmt).isSome && da.valid && db.valid && !da.role && db.role && da.kb = db.kb && !s.pathFull c 5,
    when core 0x0D3 (ext 0 0xA017 0 0 0) specAccz fun s c _ => !s.pathFull c 5,
    when idle 0x0D4 (ext 0 1 0xA010 0x4002 0x4002) specAccrd fun _ _ x => x.lanes = [],
    when core 0x0D4 (ext 1 1 0xA010 0xE01F 0xE01F) specAccrd fun s c x => x.lanes ≠ [] && !s.pathFull c 5 &&
      (x.elems c.split).all fun p => p.2.1 < 96 && p.2.2 < 128 && !spGet false c.blk.tilePoison (elemKey x.a.unitNum p.2.1 p.2.2),
    when idle 0x0D5 (ext 0 0xA010 1 0x4002 0x4002) specAccwr fun _ _ x => x.lanes = [],
    when core 0x0D5 (ext 0 0xA010 1 0x4002 0x4002) specAccwr fun s c x => x.lanes ≠ [] && !s.pathFull c 5 &&
      (x.elems c.split).all fun p => p.2.1 < 96 && p.2.2 < 128,
    when mapped 0x0D6 (ext 0 0xA010 0x4002 0xC000 0) (specAccMem false) fun s c _ =>
      (s.rangeScan c.blk (pagesOf 0 512) 0 512).isNone && !s.pathFull c 5 &&
      (match (s.translateRange c.blk needR false (pagesOf 0 512) 0 512).2 with | .ok l => !l.isEmpty | .error _ => false),
    when mapped 0x0D7 (ext 0 0xA010 0x4002 0xC000 0) (specAccMem true) fun s c _ =>
      (s.rangeScan c.blk (pagesOf 0 512) 0 512).isNone && !s.pathFull c 5 &&
      (match (s.translateRange c.blk needW true (pagesOf 0 512) 0 512).2 with | .ok l => !l.isEmpty | .error _ => false)
  ].all id = true := by decide

/-- The card of R218's example, with its global address. -/
def card : List Nat := [0x00040801, 0x00080002, 0x100, 0, 8, 4, 0x00100000, 1]

/-- JOB of that card from s2 to s9, and JOBQ of no card and of that card. -/
theorem witness_jobs :
    let passes := fun (s : State) (c : Cur) (cards : List Card) =>
      (cards.zipIdx.all fun p => p.1.gangDefect (s.gangSize c.blk) p.2 = none && p.1.alignDefect p.2 = none && (s.cardRange c.blk p.1 p.2).isNone) &&
      (match (s.cardsPages c.blk 0 cards).2 with | .ok l => l.length = cards.length | .error _ => false) && !s.pathFull c 4
    let loaded := card.zipIdx.foldl (fun s p => scal (2 + p.2) p.1 s) mapped
    let listed := onBlock (fun b => { b with scratch := Memory.write [] 0 (card.flatMap (leBytes 4)) }) mapped
    let slots := fun (s : State) (n : Nat) => (List.range n).map fun m => s.slotWords 0 1 0 m
    [ when loaded 0x0E0 (ext 4 0 1 0x4002 0xC000) specJob fun s c x =>
        let ws := (List.range 8).map fun n => (c.split.read (.scal (2 + n)) 0).setWidth 32
        headDefect [BitVec.ofNat 32 (x.vB c.split 0)] = none && cardSize [BitVec.ofNat 32 (x.vB c.split 0)] = 8 &&
        s.scalExc c x.mode ((List.range 7).map (3 + ·)) = none && cardDefect (s.kernelOf c.blk).nbuf (Mod.own x.m) 0 false true ws = none &&
        passes s c [cardOf ws x.a.symNum (x.vC c.split 0 % 2 ^ 32) x.mode],
      when mapped 0x0E1 (ext 0 0 1 0xC000 0xC000) specJobq fun s c x => x.vB c.split 0 % 2 ^ 32 = 0 && !s.scrPending c && passes s c [],
      when listed 0x0E1 (ext 0 0 1 0xE011 0xC000) specJobq fun s c x => x.vB c.split 0 % 2 ^ 32 = 1 && !s.scrPending c &&
        (slots s 1).all (fun p => !p.2) && ((slots s 1).zipIdx.all fun p => cardDefect (s.kernelOf c.blk).nbuf 0 p.2 true true p.1.1 = none) &&
        passes s c ((slots s 1).map fun p => cardOf p.1 (refBuf (cw p.1 6)) (refOff (cw p.1 6)) x.mode) ].all id = true := by decide

/-- An object of F0 whose method runs at the probe's code, and a batch of one request on it. -/
def object : Obj := { fn := 0, slot := 0, child := 0, base := 0x100, pa := 0x40000100, size := 16, argb := 16, repb := 8
                      kernel := { probeKernel with role := 1 } }
def request : CombReq := { op := 0, lane := 0, arg := 7, fn := 0, child := 0, slot := 0 }
def served : State :=
  onBlock (fun b => { b with method := some { fn := 0, slot := 0, slice := 0, reqs := [request] } }) { core with objs := [object] }

/-- OBJREG; OBJFREE of no object and of one; COMB with no lane and with all. -/
theorem witness_combining : [
    when core 0x0E8 (ext 0 0x4002 0x4002 0x4004 0x4002) specObjreg fun s c x => !s.pathFull c 6 && x.d.isScal,
    when core 0x0E9 (.base ⟨0, 0x42, 0⟩) specObjfree fun s c x => (s.objOf c.blk.fn (x.vA c.split 0 % 2 ^ 32)).isNone,
    when { scal 2 4096 core with objs := [object] } 0x0E9 (ext 0 0 0x4002 0 0) specObjfree fun s c x =>
      s.objOf c.blk.fn (x.vA c.split 0 % 2 ^ 32) = some object && !s.pathFull c 6,
    when idle 0x0EA (ext 0 1 0x8001 0x4002 0xC000) specComb fun _ _ x => x.lanes = [],
    when core 0x0EA (ext 0 1 0x8001 0x4002 0xC000) specComb fun s c x => x.lanes ≠ [] && !s.ahead c.blk && !relOrd (Mod.ord x.m) && !s.heldBack c &&
      !s.combQueued (s.sources c.blk.core c.blk.id) s.nextOp && !s.pathFull c 6
  ].all id = true := by decide +kernel

/-- CBATCH, CARG, CREPLY and CEND in a method's wave; CARG and CREPLY with no lane too. -/
theorem witness_methods :
    let batch := fun (s : State) (c : Cur) => (s.batchOf c).isSome && !s.pathFull c 6
    [ when served 0x0EB (.base ⟨0x42, 0, 0⟩) specCbatch fun s c _ => batch s c, when served 0x0EC (ext 0 1 0 0 0) specCarg fun s c x => batch s c && x.lanes ≠ [],
      when (active 0 served) 0x0EC (.base ⟨1, 0, 0⟩) specCarg fun s c x => batch s c && x.lanes = [],
      when served 0x0ED (.base ⟨0, 1, 0⟩) specCreply fun s c x => batch s c && x.lanes ≠ [],
      when (active 0 served) 0x0ED (ext 0 0 1 0 0) specCreply fun s c x => batch s c && x.lanes = [],
      when served 0x0EE (.base ⟨0, 0, 0⟩) specCend fun s c _ => c.blk.method.isSome && s.ops = [] &&
        ((({ s with cur := some c } : State).bookFor c.blk [(.issue, 1)]).cur.bind (·.blk.method)).isSome ].all id = true := by decide

/-- RSHARE at once, at a share that is not granted yet, and once it is; RQUERY, LAUNCH, CHWAIT, EREAD and TARM. -/
theorem witness_shares_and_launch :
    let held := onSplit (fun sp => { sp with started := true }) core
    [ when core 0x0F0 (.base ⟨0x42, 0x71, 0⟩) specRshare fun s c x => !c.split.started && s.shareAsked c (x.vA c.split 0 % 2 ^ 32) ≤ c.wave.share,
      when (onWave (fun w => { w with share := 2 }) core) 0x0F0 (lit 0x42 0 0 256) specRshare fun s c x =>
        !c.split.started && c.wave.share < s.shareAsked c (x.vA c.split 0 % 2 ^ 32),
      when held 0x0F0 (ext 0 0x4002 0x4002 0 0) specRshare fun _ c _ => c.split.started && c.wave.share = c.wave.wanted,
      when core 0x0F1 (.base ⟨0x42, 0, 0⟩) specRquery fun _ _ _ => true,
      when mapped 0x0F2 (.base ⟨0x42, 0x44, 0⟩) specLaunch fun s c x => c.wave.wid = 0 && (((s.gridOf c.blk).map (·.depth)).getD 1 ≠ 10) &&
        (dstOf x.d false).isSome && reaches s c.blk 128 true false needR [(0, x.vA c.split 0)] && !s.pathFull c 4 && !s.ahead c.blk &&
        s.released c.blk c.wave.wid (· = c.split.sid) (s.before c) 5,
      when core 0x0F3 (.base ⟨0x42, 0x42, 0⟩) specChwait fun s c _ => !s.pathFull c 4, when core 0x0F4 (.base ⟨0x42, 0, 0⟩) specEread fun _ _ x => x.d = .scal 2,
      when core 0x0F5 (ext 1 0x4002 0 0 0) specTarm fun _ _ _ => true ].all id = true := by decide

/-- A wave of supervisor privilege, and one in a pre-emption handler. -/
def supervisor : State := onWave (fun w => { w with level := 2 }) mapped
def handling : State := onWave (fun w => { w with pre := some { pc := 0x10040, exec := 1, budget := 16384 } }) core

/-- RDPR of a register and of no function's; WRPR accepted, refused and waiting; PRDONE at the recorded PC and at a target; CTXSV; TLBINV with nothing in
flight and with an access that uses a translation; SHEET. -/
theorem witness_privileged :
    let storing : Op := { id := 0, blk := 0, wid := 0, sid := 0, fn := 0, child := 0, core := 0, path := 1, kind := .store }
    let busy : State := { supervisor with
      tlb := [⟨0, 0, 0, 0, 2 ^ 30, probeBase, 7⟩], nextOp := 1, ops := [{ storing with items := [{ lane := 0, space := .mem, addr := 0x40000000, bytes := 4 }] }] }
    let named := fun (s : State) (c : Cur) (x : Ctx) => s.ops.any fun o =>
      s.usesNamed (TlbTarget.mk c.blk.fn c.blk.child (if Mod.own x.m = 0 then some (x.vA c.split 0) else none)) o
    [ when supervisor 0x100 (ext 0 0x4002 0xC808 0xC000 0) (specRdpr 0x808) fun _ c x =>
        match prTarget c.caller x.a.sregNum (x.vB c.split 0 % 2 ^ 32) false with | .ok _ => true | .error _ => false,
      when supervisor 0x100 (extl 0 0x4002 0xC808 0xE000 0 (2 ^ 31)) (specRdpr 0x808) fun _ c x =>
        match prTarget c.caller x.a.sregNum (x.vB c.split 0 % 2 ^ 32) false with | .ok _ => false | .error _ => true,
      when supervisor 0x101 (extl 0 0xC808 0xE000 0xC000 0 31) (specWrpr 0x808) fun s c x =>
        match prTarget c.caller x.d.sregNum (x.vB c.split 0 % 2 ^ 32) true with
        | .ok t => (match s.writePr x.d.sregNum t (x.vA c.split 0 % 2 ^ 32) with | .done _ => true | _ => false)
        | .error _ => false,
      when supervisor 0x101 (extl 0 0xC808 0xE000 0xC000 0 32) (specWrpr 0x808) fun s c x =>
        match prTarget c.caller x.d.sregNum (x.vB c.split 0 % 2 ^ 32) true with
        | .ok t => (match s.writePr x.d.sregNum t (x.vA c.split 0 % 2 ^ 32) with | .refused => true | _ => false)
        | .error _ => false,
      when busy 0x101 (extl 0 0xC860 0xE000 0xC000 0 0x4000) (specWrpr 0x860) fun s c x =>
        match prTarget c.caller x.d.sregNum (x.vB c.split 0 % 2 ^ 32) true with
        | .ok t => (match s.writePr x.d.sregNum t (x.vA c.split 0) with | .wait _ => true | _ => false)
        | .error _ => false,
      when handling 0x102 (.base ⟨0, 0x6A, 0⟩) specPrdone fun _ _ x => x.a = .zero,
      when (scal 2 0x10040 handling) 0x102 (ext 0 0 0x4002 0 0) specPrdone fun s c x => x.a ≠ .zero && (s.kernelOf c.blk).targetOk (BitVec.ofNat 64 (x.vA c.split 0)),
      when handling 0x103 (.base ⟨0, 0, 0⟩) specCtxsv fun _ _ _ => true,
      when supervisor 0x104 (ext 1 0 0 0 0) specTlbinv fun s _ x => Mod.own x.m ≠ 2 && s.ops = [],
      when busy 0x104 (ext 1 0 0 0 0) specTlbinv fun s c x => named s c x,
      when supervisor 0x105 (.base ⟨0, 0x42, 0x6A⟩) specSheet fun s c x =>
        (match sheetTarget c.caller (x.vB c.split 0 % 2 ^ 32) with | .ok _ => true | .error _ => false) && x.vA c.split 0 % 256 = 0 &&
        (match s.devPlace c.blk.fn c.blk.child (x.vA c.split 0) needW with | some (.mem, a) => !s.locked a | _ => false) &&
        s.released c.blk c.wave.wid (· = c.split.sid) (s.before c) 6 ].all id = true := by decide

/-! ## Conditions of the statements about the other agents' steps, each met -/

/-- The split back in its wave; the data of a step; operations in flight. -/
def away : State := mapped.unfocus
def data (a : EvArg) (s : State) : State := { s with arg := a }
def flight (l : List Op) (s : State) : State := { s with ops := l }

/-- An operation of the block's wave, and one lane's access at address 0. -/
def opOf (path : Nat) (kind : OpKind) : Op := { id := 0, blk := 0, wid := 0, sid := 0, fn := 0, child := 0, core := 0, path, kind }
def access (path : Nat) (kind : OpKind) : Op :=
  { opOf path kind with items := [{ lane := 0, space := .mem, addr := 0x40000000, bytes := 4 }], pol := 2 }

/-- The second block of a deterministic grid while the first is at the turn, with room in staging: ST, CWB, ACCST, JOB, COMB and LAUNCH are staged; and
a store that reaches its staging port. -/
theorem witness_staged :
    let waits := fun (s : State) => onBlock (fun b => { b with index := 1 }) (onKernel (fun k => { k with trap := 4 }) s)
    let there := fun (op path : Nat) (f : Form) (spec : Nat → Spec) => when (waits mapped) op f spec fun s c x =>
      s.ahead c.blk && !s.pathFull c path && (match s.placeAll c.blk needW true (x.addrs c.split x.lanes) with
        | (t, .ok l) => !l.isEmpty && !t.stageFull c.blk (entryLines (lineItems l))
        | _ => false)
    let card := cardOf (card.map (BitVec.ofNat 32)) 1 0 0
    let port := flight [{ opOf 1 .store with staged := true }] mapped.unfocus
    [ there 0x0A1 1 (ext 0 1 0x4002 1 0) specSt, there 0x0A6 1 (ext 0 0 0x4002 1 0) specCwb,
      when (waits mapped) 0x0D7 (ext 0 0xA010 0x4002 0xC000 0) (specAccMem true) fun s c _ =>
        (match s.translateRange c.blk needW true (pagesOf 0 512) 0 512 with
          | (t, .ok l) => t.ahead c.blk && !t.stageFull c.blk (t.staging c.blk ((List.range 96).map fun r => (r * 0, 512)) l (heavyOp 5 (.accz 0) [] [])).2
          | _ => false),
      (waits mapped).cur.any fun c => (waits mapped).ahead c.blk && !(waits mapped).stageFull c.blk ((waits mapped).cardOp c.blk 4 card).2,
      when (waits core) 0x0EA (ext 0 1 0x8001 0x4002 0xC000) specComb fun s c _ => s.ahead c.blk && !s.stageFull c.blk [],
      when (waits mapped) 0x0F2 (.base ⟨0x42, 0x44, 0⟩) specLaunch fun s c _ => s.ahead c.blk && !s.stageFull c.blk [(.mem, 0)],
      (port.op? 0).any fun o => o.staged && o.port = 0 && port.ops.length = 1 ].all id = true := by decide +kernel

/-- OBJREG and LAUNCH whose D is `zero`. -/
theorem witness_zero_handle :
    let zero := fun (op : Nat) (f : Form) (spec : Nat → Spec) => core.cur.any fun c =>
      (core.opcodeFault c op (rawOf f spec).len).isNone && (rawOf f spec).d = .zero
    zero 0x0E8 (ext 0 0xC000 0x4002 0x4004 0x4002) specObjreg ∧ zero 0x0F2 (.base ⟨0x6A, 0x44, 0⟩) specLaunch := by decide

/-- A wave at its hang limit and one below it; a request at the head of an arbiter's queue; a drain whose operations are over; no
packet of another device, and one that its marker waits for. -/
theorem witness_core_and_drain :
    let late := (onWave (fun w => { w with hangcnt := 2 ^ 26 }) mapped).unfocus
    let asked : State := { away with clusters := [(0, { queue := [(.burst 0 0, 40)] })] }
    let d : Drain := { fn := 0, child := 0, tag := false, scope := 5, old := [] }
    let draining : State := { away with drains := [d] }
    let far := { request with op := remoteBase + 3, pkt := 7 }
    let marked : State := { away with chucks := [(0, { ingress := [⟨7, 0, 4096, [far], [remoteBase + 3]⟩] })], markers := [⟨3, 0, 0, false, [7]⟩] }
    [ (late.focus 0 0 0).cur.any fun c => (late.focus 0 0 0).hangReached c, (away.focus 0 0 0).cur.any fun c => !(away.focus 0 0 0).hangReached c,
      let k := asked.clusterOf 0
      k.queue = [(.burst 0 0, 40)] && k.reserved + 40 ≤ k.budget,
      draining.runningDrain 0 0 = some d && draining.drainQuiet d,
      away.awake && away.markers = [] && away.packetsOf 3 = [], marked.packetsOf 3 = [7] && marked.markers.length = 1, away.packetsOf 3 ≠ [7]
    ].all id = true := by decide

/-- A load, a store, a write-back and an atomic that may be performed; a walk that ends in a leaf; a held split's token, and one that is none. -/
theorem witness_accesses_and_translation :
    let load := access 0 (.load 0 (some { reg := .sym 1 }))
    let atom := access 2 (.atom 0 0 none 0)
    let r := flight [atom] away
    let item : Item := { lane := 0, space := .mem, addr := 0x40000000, bytes := 4 }
    let held : State := { away with xholds := [⟨0, 0, 5, 0, 0, 0, 0, 0x10040, 1, 0⟩] }
    let freed : State := { held with xholds := [] }
    [ (flight [load] away).op? 0 = some load && ((load.undone.filter fun i => (1#128).getLsbD i.lane && (flight [load] away).loadReady load i) = [item]),
      ((flight [access 1 .store] away).op? 0).any (·.kind = .store), ((flight [access 1 (.cwb true)] away).op? 0).any (·.kind = .cwb true),
      r.op? 0 = some atom && atom.undone.find? (fun j => j.lane = 0) = some item && r.groupReady atom [] item &&
        !((((r.loupeLanes atom [item] fun _ => false).bookMoved atom (fun _ => false) item).bookAtom atom item).scrub 0 .mem item.addr
          item.bytes |>.fetchAt .mem item.addr item.bytes).2,
      match away.walk 0 0 0x100 with | .ok _ => true | .error _ => false,
      (held.xhold? 0 5).isSome && (freed.focus 0 0 0).cur.any fun c => c.blk.loaded, (away.xhold? 0 5).isNone ].all id = true := by decide

/-- Lathe operations and jobs that are due to start, run or complete; elements read and written; a packet at an idle Chuck, requests for its
executor, a batch at its limit, and a COMB, an OBJFREE, an OBJREG and a CARG that may complete. -/
theorem witness_lathe_jobs_and_combining :
    let accz := { opOf 5 (.accz 0) with released := some 0 }
    let c : Card := cardOf (card.map (BitVec.ofNat 32)) 1 0 0
    let job := { opOf 4 (.job c) with released := some 0 }
    let lathe := flight [{ accz with stage := 3 }] away
    let moving := flight [{ job with stage := 3 }] away
    let comb := { access 6 (.comb (some { reg := .sym 1 }) 1 4096 false [request] true []) with fn := 0 }
    let packet : Packet := ⟨0, 0, 4096, [request], [0]⟩
    let sent : State := { flight [comb] away with objs := [object], chucks := [(0, { ingress := [packet] })] }
    let queued : State := { away with objs := [object], chucks := [(0, { admitted := [request] })] }
    let spent := (onBlock (fun b => { b with method := some { fn := 0, slot := 0, slice := 0, reqs := [request], issued := 4096 } }) core).unfocus
    let answered := access 6 (.comb (some { reg := .sym 1 }) 1 4096 false [request] true [(0, true, 9)])
    [ (flight [accz] away).latheFree accz && accz.kind.isLathe && !accz.complete && !(flight [accz] away).jobFenced accz,
      job.kind.isCard && !job.complete && job.released.isSome && !(flight [job] away).jobFenced job,
      (lathe.latheWork { accz with stage := 3 } [(0, 0)]).op? 0 |>.isSome,
      !(access 5 (.accrd 0 (some { reg := .sym 1 }))).complete, !(access 5 (.accwr 0)).complete,
      (State.jobSteps 1 moving 0 c).op? 0 |>.isSome,
      let k := sent.chuck 0
      k.ingress.find? (fun p => p.id = 0) = some packet && k.ingress.takeWhile (·.id ≠ 0) = [] &&
        (sent.chuckHeld k).length + 1 ≤ 256 && sent.objOf 0 4096 = some object && !object.poisoned && !object.freeing,
      let k := queued.chuck 0
      k.running.isNone && ((List.range 8).map fun i => (k.lastFn + 1 + i) % 8).find? (fun f => k.admitted.any (·.fn = f)) = some 0 &&
        k.admitted.find? (·.fn = 0) = some request && queued.obj? 0 0 = some object,
      (spent.focus 0 0 0).cur.any fun c => c.blk.method.any fun m => 4096 ≤ m.issued,
      ((flight [answered] away).op? 0).any fun o => !o.complete && !o.staged,
      ({ flight [opOf 6 (.objfree 0 4096)] away with objs := [object] } : State).objOf 0 4096 = some object &&
        !({ flight [opOf 6 (.objfree 0 4096)] away with objs := [object] } : State).objectBusy object,
      ((flight [opOf 6 (.objreg { reg := .scal 2 } 4096)] away).op? 0).any fun o => !o.complete && !o.staged,
      ((flight [access 6 (.carg (some { reg := .sym 1 }))] away).op? 0).any fun o => !o.complete && !o.staged && o.items.length = 1 ].all id = true := by decide +kernel

/-- A queue of 16 records with one between head and tail; a child's record; two launches with one key. -/
theorem witness_queues :
    let queued := ((away.setCfg 0 0x1008 4).setCfg 0 0x1014 1).setPr 0x82A 0 0 0 1
    let launch := access 4 (.launch { reg := .scal 2 } 0)
    let child := fun (h : Nat) => ({ handle := h, fn := 0, child := 0, parent := some (0, 0, h) } : Grid)
    let two : State := { away with grids := [child 1, child 2] }
    [ queued.awake, queued.queueDue 0 0, (flight [launch] away).launchDue launch,
      (child 1).fresh && (child 2).fresh && (child 1).mergeable && (child 2).mergeable && (child 1).mergeKey = (child 2).mergeKey &&
        (two.mergedWith 1).length + 1 < 64 && two.mergedWith 2 = [] && two.grid? 1 = some (child 1) && two.grid? 2 = some (child 2)
    ].all id = true := by decide +kernel

/-- A grid of one block that is not dispatched, the record of a slot for it, and the record installed. -/
def unstarted : Grid := { probeGrid 0 with dispatched := [] }
def words : BindWords := { fn := 0, child := 0, cls := 3, cores := 1, share := 256, grid := 0, first := 0, last := 0 }
def printed (share : Nat) : Print := { fn := 0, hash := 0, share, place := 0 }
def bound : State := { grids := [unstarted], prints := [printed 2], binds := [{ cluster := 0, slot := 0, words := words }] }

/-- A record that passes and one that does not; a share rewritten; a block with a core that can grant what it needs. -/
theorem witness_binds :
    let empty : State := { grids := [unstarted], prints := [printed 256] }
    let d : Bind := { cluster := 0, slot := 0, words := words }
    let det := { unstarted with kernel := { probeKernel with trap := 4 } }
    [ decide ((data { tag := true, bind := words } empty).policyGrid = some 0) && decide (empty.policyGrid ≠ some 1), (empty.bind? 0 0).isNone,
      decide (nextBlockOf det d = some 0),
      (empty.printAsked words).bindOk 0 0 words, !(empty.printAsked words).bindOk 0 0 { words with last := 1 },
      bound.bind? 0 0 = some d && !d.withdrawn && unstarted.kernel.shareOk 2 &&
        (bound.printAsked { words with share := 2 }).printHeld 0 unstarted.kernel 2 0 && words.print = d.words.print,
      nextBlockOf unstarted d = some 0 && bound.dispatches unstarted && bound.classOk 0 3 && (bound.clusterOf 0).changing.isNone && bound.loupeRoom unstarted 1 &&
        ((coreList d.words 0).filter fun c => bound.coreOpen 0 0 c && (bound.grant c ⟨unstarted.kernel, 1, 8, 256⟩).isSome).length = 1
    ].all id = true := by decide +kernel

/-- A block, and a gang of two, whose waves have ended; a grid whose blocks are over, before its drain and once it is done. -/
theorem witness_retirement :
    let ended := { probeBlock 0 0 with waves := [] }
    let finishedState : State := { grids := [probeGrid 0], blocks := [ended] }
    let pair : State := { grids := [{ probeGrid 0 with kernel := { probeKernel with gang := 2 } }], blocks := [ended, { ended with id := 1, index := 1, core := 1 }] }
    let g := { probeGrid 0 with retired := [(0, true)] }
    let d : Drain := { fn := 0, child := 0, tag := false, scope := 5, old := [], done := true, serves := [gridDrainer 0] }
    [ finishedState.gangSize ended = 1 && finishedState.blockOver ended && ended.method.isNone,
      1 < pair.gangSize ended && (pair.gangOf ended).length = 2 && (pair.gangOf ended).all fun m => pair.blockOver m && !pair.aimedAt m,
      ({ grids := [g] } : State).gridOver g && (({ grids := [g] } : State).drainFor 0 0 (gridDrainer 0)).isNone && ({ grids := [g] } : State).mergedWith 0 = [],
      ({ grids := [g], drains := [d] } : State).drainFor 0 0 (gridDrainer 0) = some d && d.done ].all id = true := by decide +kernel

/-- A fetch that waits for its page; a wanted share that fits; a wave that waits on a blocked core; a finished block at the turn. -/
theorem witness_enlarger :
    let cold : State := { away with grids := [{ probeGrid 0 with verified := [] }] }
    let r := cold.focus 0 0 0
    let shrunk := (onWave (fun w => { w with share := 2 }) mapped).unfocus
    let g := { probeGrid 0 with kernel := { probeKernel with trap := 4 }, retired := [(0, true)] }
    let asking : Split := { probeSplit with run := .held, started := true, asked := 257 }
    let waits : State := { mapped.unfocus with
      mem := Memory.write mapped.mem (probeBase + 0x10040) ((bundleWith [BitVec.ofNat 32 (0x0F0 * 4 + 1 + 0x42 * 2 ^ 11), 256, 0]).flatMap bytesOfWord)
      blocks := mapped.unfocus.blocks.map fun b => { b with waves := [{ wid := 0, width := 128, share := 2, wanted := 256, splits := [asking] },
        { wid := 1, width := 128, share := 256, wanted := 256, splits := [{ probeSplit with run := .parked }] }] } }
    [ r.cur.any fun c => (r.fetch c.blk c.split.pc).2 = .page 0 && !r.pagePoisoned 0 0 1,
      (shrunk.block? 0).any fun b => b.phase = .resident && b.method.isNone && b.waves.any fun w =>
        w.wanted ≠ w.share && shrunk.shareFits b w && w.splits.all (shrunk.pausable b),
      (waits.growers 0).isEmpty = false,
      waits.coreBlocked 0,
      g.kernel.det && g.status.isNone && g.turn < g.rcd.blocks && ({ grids := [g] } : State).finished g g.turn ].all id = true := by decide +kernel

/-- QUOTA and PREEMPT due at an open boundary; a kernel with and without a pre-emption handler; THROTTLE due in an armed block; a wave that has
not parked. -/
theorem witness_deliveries :
    let due := fun (f : Wave → Wave) => onWave f mapped
    let armed := onBlock (fun b => { b with armed := true, throttle := some true }) mapped
    [ (due fun w => { w with quotaDue := true }).cur.any fun c => c.wave.quotaDue && mapped.pOpen c,
      (due fun w => { w with preemptDue := true }).cur.any fun c => c.wave.preemptDue && !c.wave.quotaDue && mapped.pOpen c,
      mapped.cur.any fun c => c.wave.pre.isNone && c.wave.splits.isEmpty && (mapped.kernelOf c.blk).prehandler = 0,
      let s := onKernel (fun k => { k with prehandler := 64 }) mapped
      s.cur.any fun c => c.wave.pre.isNone && c.wave.splits.isEmpty && (s.kernelOf c.blk).prehandler ≠ 0,
      armed.cur.any fun c => c.blk.throttle = some true && c.blk.armed && !c.split.uni.inHandler && c.throttled && c.blk.issues &&
        c.split.atBoundary && !c.wave.quotaDue && !c.wave.preemptDue && c.wave.hangDue.isNone && !armed.hangReached c,
      handling.unfocus.blocks.any fun b => b.waves.any fun w => w.pre.any fun p => p.done.isNone ].all id = true := by decide

/-- A block that is to be saved, with a free slot and with none; one saved that a core can take back, and a gang of two. -/
theorem witness_saves :
    let b := { probeBlock 0 0 with forced := true, waves := [] }
    let s : State := { grids := [probeGrid 0], blocks := [b] }
    let full : State := { s with darkroom := [(0, 9), (1, 9)] }
    let saved := { b with forced := false, phase := .saved none true }
    let t : State := { grids := [probeGrid 0], blocks := [saved] }
    let k := { probeGrid 0 with kernel := { probeKernel with gang := 2 } }
    let pair : State := { grids := [k], blocks := [saved, { saved with id := 1, index := 1 }] }
    [ s.saveReady b && s.slotFor 0 0 0 = some 0 && full.saveReady b && full.slotFor 0 0 0 = none,
      t.gridOf saved = some (probeGrid 0) && t.gangSize saved = 1 && t.gangOf saved = [saved] && saved.isSaved && !t.aimedAt saved && !probeKernel.det &&
        (t.restoreFits (probeGrid 0) saved 0).isSome && t.partState 0 0 = 1 && !t.over 0 0 && (probeGrid 0).abort.isNone,
      1 < pair.gangSize saved && (pair.gangOf saved).length = 2 && (pair.gangOf saved).all (fun x => x.isSaved && !pair.aimedAt x) &&
        gangCores [0, 1] && !k.kernel.det && ((pair.gangOf saved).zip [0, 1]).map (fun p => pair.restoreFits k p.1 p.2) = [0, 0].map some &&
        pair.partState 0 0 = 1 && !pair.over 0 0 ].all id = true := by decide +kernel

/-- A pool whose member has work, at a turn of it; a cluster that changes its class; a rail with a booking on it; and no quota. -/
def pooled (turn : Sp Nat) : State :=
  { grids := [probeGrid 0], preg := [(prKey 0x851 0 0 1, 64)], poolTurn := turn, clusters := [(0, { changing := some 1 })], booked := [(0, 5)] }

theorem pooled_quotaless (turn : Sp Nat) : (pooled turn).quotaless := fun fn child => by
  have h : (prKey 0x851 0 0 1 = prKey 0x825 fn 0 0) = False := eq_false (by simp only [prKey]; omega)
  simp only [State.quota, State.pr, pooled, List.find?_cons, List.find?_nil, h, decide_false]
  rfl

/-- After the time that passes until an event: a pool's next member with its resident member and without one; clusters that do and do not change;
clusters that a pool may take; a rail with a booking. -/
theorem witness_time :
    (let s := (pooled [(1, 1)]).passTime;
    ((s.nextMember 1).isSome = true ∧ (s.residentMember 1).isSome = true) ∧ (s.preg.map (·.1)).Pairwise (· < ·) ∧ spGet 0 s.booked 0 ≠ 0) ∧
    let s := (pooled []).passTime
    (s.nextMember 1).isSome = true ∧ (s.residentMember 1).isNone = true ∧
    (s.clusterOf 47).changing = none ∧ (s.clusterOf 0).changing = some 1 ∧ (∀ j, j < 8 → s.coreBlocks (8 * 0 + j) = []) ∧
    s.f0ChildIn 47 = false ∧ s.poolOf 47 = none ∧ s.partState 7 0 = 0 := by
  obtain ⟨c, b, n, h, g⟩ := State.passTime_quotaless _ (pooled_quotaless [(1, 1)])
  obtain ⟨c', b', n', h', -⟩ := State.passTime_quotaless _ (pooled_quotaless [])
  have k : 5 ≤ spGet 0 b 0 := (g rfl).2 0
  rw [h, h']
  exact ⟨⟨⟨(by decide : ((pooled [(1, 1)]).nextMember 1).isSome = true), (by decide : ((pooled [(1, 1)]).residentMember 1).isSome = true)⟩,
      List.pairwise_singleton .., by simp only; omega⟩,
    (by decide : ((pooled []).nextMember 1).isSome = true), (by decide : ((pooled []).residentMember 1).isNone = true),
    (by decide : ((pooled []).clusterOf 47).changing = none), (by decide : ((pooled []).clusterOf 0).changing = some 1),
    (by decide : ∀ j, j < 8 → (pooled []).coreBlocks (8 * 0 + j) = []), (by decide : (pooled []).f0ChildIn 47 = false),
    (by decide : (pooled []).poolOf 47 = none), (by decide : (pooled []).partState 7 0 = 0)⟩

/-- A sheet's place in mapped memory; budgets on one side of
full and across it; temperatures below 115 °C and at it, the inlet on its side of 40 °C and across; a core with no ready split, one
with no block, and one without power. -/
theorem witness_accounts_and_power :
    let s : State := State.reset
    let off : State := { s with hw := { s.hw with gate := [(0, 2)] } }
    let asked := away.setCfg 0 0x2100 0x1000
    [ s.awake,
      asked.sheetSel 0 = some (0, 0) && (asked.cfgReg 0 0x2100).toNat % 256 = 0 && asked.devPlace 0 0 0x1000 needW = some (.mem, 0x40001000) &&
        !asked.locked 0x40001000,
      decide ((s.clusterOf 47).budget < 4096 ↔ min 5000 4096 < 4096) && !decide ((s.clusterOf 47).budget < 4096 ↔ min 4095 4096 < 4096),
      decide ((0 : Int) < 1840) && decide ((1840 : Int) ≤ 1840) && decide (640 < s.hw.inlet ↔ (640 : Int) < 640) &&
        !decide (640 < s.hw.inlet ↔ (640 : Int) < 641),
      s.present 383 && spGet 0 s.hw.gate 383 = 0 && ((List.range 4).all fun q => (s.readyIn 383 q).isEmpty) && (s.coreBlocks 383).isEmpty,
      spGet 0 off.hw.gate 0 = 2 ].all id = true := by decide +kernel

/-- A partition in the state that each command is accepted in, and in another; the stages of a quiesce; each register of the hosts with a value that
its rules accept; a register that the privileged access block names, one that it may write, and none. -/
theorem witness_commands_and_writes :
    let s : State := State.reset
    let named := s.setCfg 0 0x4008 (BitVec.ofNat 64 0x808)
    let wide := s.setCfg 0 0x4008 (BitVec.ofNat 64 0x829)
    let inState := fun (n : Nat) => s.setPartState 1 0 n
    let going : State := { inState 2 with quiescing := [(1, 0)] }
    let d : Drain := { fn := 1, child := 0, tag := false, scope := 6, old := [], done := true, serves := [quiesceDrainer 1 0] }
    let carved := (s.setPr 0x840 1 0 0 0x30003).putScrw 1 0 1
    let storing : State := { flight [access 1 .store] s with nextOp := 1 }
    let scratching : Op := { opOf 1 .store with fn := 1, items := [{ lane := 0, space := .cscr 1, addr := 2 ^ 30, bytes := 4 }] }
    [ s.awake && (inState 0).configOk 1 0 && (inState 3).partState 1 0 = 3 && (inState 4).partState 1 0 = 4 && (inState 1).partState 1 0 = 1,
      !(inState 3).aboveQuota 1 0 ((inState 3).counter 1 0).toNat && !(inState 1).quiescing.contains (1, 0),
      going.quiescing.contains (1, 0) && going.openGrids 1 0 = [] && (going.drainFor 1 0 (quiesceDrainer 1 0)).isNone,
      ({ going with drains := [d] } : State).drainFor 1 0 (quiesceDrainer 1 0) = some d,
      fld 5 62 26 = 0 && decide (5 * 65536 < dramTop) && spGet 0 s.flipping 5 = 0 && !s.objectIn 5 && s.ops = [],
      storing.ops.any fun o => !o.staged && o.key < storing.nextOp && o.undone.any fun i => i.space = .mem && i.addr / 65536 = 0x4000,
      spGet 0 carved.shrinking 64 = 0 && carved.scrw 1 0 = 1 && carved.clampScrw 1 0 2 = 2 && carved.clampScrw 1 0 0 = 0 &&
        !(carved.shrink 1 0 0).scratchBusy 1 0 0 && ({ carved.shrink 1 0 0 with ops := [scratching] } : State).scratchBusy 1 0 0,
      let set := (s.setPr 0x830 1 0 0 0).setPr 0x840 1 0 0 0
      set.clampScrw 1 0 (s.scrw 1 0) = s.scrw 1 0 && spGet 0 s.shrinking 64 = 0,
      ((prInfo named.praNum).map (·.canRead)).getD false && ((prInfo named.praNum).map (·.canWrite)).getD false &&
        (match prTarget f0Caller named.praNum named.praSel false with | .ok _ => true | .error _ => false) &&
        (match prTarget f0Caller named.praNum named.praSel true with
          | .ok t => (match named.writePr named.praNum t 31 with | .done _ => true | _ => false) &&
            (match named.writePr named.praNum t 32 with | .refused => true | _ => false)
          | .error _ => false),
      wide.praNum = 0x829 && (match prTarget f0Caller wide.praNum wide.praSel true with | .ok _ => true | .error _ => false),
      !((prInfo s.praNum).map (·.canRead)).getD false && !((prInfo s.praNum).map (·.canWrite)).getD false,
      s.isF0 0 && s.isHost 0 0 ].all id = true := by decide +kernel

/-- F0's host, and an adapter that is no host; a device in recovery whose flash is in order; a grid that may be handed over, one that waits no
longer, a queue that takes records, and a grid whose listed blocks are over. -/
theorem witness_package_and_handoff :
    let s : State := State.reset
    let recovery : State := { s with hw := { s.hw with running := false } }
    let given := { unstarted with fromHandoff := some false, withdrawnBlocks := [(0, true)] }
    [ s.awake && s.anyHost 0 && s.isF0 0 && !s.isF0 1 && !s.isHost 1 1 && !s.windowBusy 0 127,
      recovery.hw.powered && !recovery.hw.running && (recovery.flashed {}).bootable,
      !bound.handoffBad unstarted, unstarted.status.isNone, decide (262144 < (262145 : Nat) % 2 ^ 19),
      bit ((s.setPr 0x82A 0 0 0 1).pr 0x82A 0 0 0).toNat 0 && (s.setPr 0x82A 0 0 0 1).partState 0 ((s.setPr 0x82A 0 0 0 1).routeOf 0 0) = 1,
      ({ grids := [given] } : State).allBlocks = [] && given.retired.length + given.withdrawnBlocks.length = given.rcd.blocks ].all id = true := by decide +kernel

/-- Accesses of each kind that an export admits, one that none does and one that the page tables do not permit; operations in a window; a link, a
port and an expander that are up. -/
theorem witness_fabric :
    let open_ : State := { away with exports := [(0, BitVec.ofNat 64 (2 ^ 63 + 2 ^ 62 + 2 ^ 61 + 2 ^ 60 + 1)), (1, 0)], objs := [object] }
    let far : State := { open_ with exports := [(0, BitVec.ofNat 64 (2 ^ 63 + 2 ^ 62 + 1)), (1, BitVec.ofNat 64 (2 ^ 31))] }
    let req : RemoteReq := { kind := 0, bytes := 8 }
    let u := (open_.bookFlit 0 0).devWalk 0 0 0
    [ [0, 1, 2, 4].all fun n => (open_.bookFlit 0 0).exportedVa { req with kind := n } = some 0 && (u.exported { req with kind := n }).isSome,
      (u.exported req).any fun a =>
        let poisoned : State := { u with memPoison := spSet false u.memPoison (a / 8) true }
        !(u.fetchAt .mem a 8).2 && (poisoned.fetchAt .mem a 8).2,
      ((away.bookFlit 0 0).exportedVa req).isNone,
      (far.bookFlit 0 0).exportedVa req = some (2 ^ 31) && (((far.bookFlit 0 0).devWalk 0 0 (2 ^ 31)).exported req).isNone,
      u.sourceOk 0 0 0 0 && bit (u.exportWord 0 0 0) 60 && u.objOf 0 (4096 % 2 ^ 24) = some object,
      (opOf 1 .store).kind = .store && (opOf 0 (.load 0 none)).kind = .load 0 none,
      away.awake && away.hw.linksDown = [] && away.hw.portsDown = [],
      ({ away with hw := { away.hw with cxl := [(0, 16)] } } : State).hw.cxl.any fun e => e.1 = 0 ].all id = true := by decide +kernel

/-- A device without power, one that runs, one whose reset has nothing to wait for and one that has; a symbolic register that is live, and one that is
not; a name of the symbol map; a breakpoint that is not set. -/
theorem witness_resets_and_debug :
    let idleReset := (State.reset).beginReset 0
    let busyReset := away.beginReset 0
    let k := { probeKernel with lives := [⟨2, 4, 0, 4096⟩] }
    let narrow := (onKernel (fun _ => k) mapped).unfocus
    let mem := Memory.write mapped.mem (probeBase + 0x10800) ([1, 0, 0, 0, 0, 1, 2, 0, 0x61, 0, 0, 0] : List Byte)
    let named := ({ onKernel (fun _ => { k with symmap := 0x800 }) mapped with mem } : State).unfocus
    [ !({ hw := { powered := false } } : State).hw.powered, away.hw.powered && away.awake, idleReset.resetQuiet 0, !busyReset.resetQuiet 0,
      (narrow.focus 0 0 0).cur.any fun c => (narrow.focus 0 0 0).symLive c.blk c.split 5 && !(narrow.focus 0 0 0).symLive c.blk c.split 6 &&
        c.portParts.any (fun sp => sp.owned.getLsbD 3) && !(c.portParts.any fun sp => sp.owned.getLsbD 127),
      (named.focus 0 0 0).cur.any fun c => (named.focus 0 0 0).symNamed c.blk [0x61] 1 = some 3,
      !away.hw.breakpoints.contains (0, 0x10040) ].all id = true := by decide +kernel
/-! ## Words of the spec's encodings (R38, R39, R42, R52) and the instructions they stand for -/

/-- Every list of words is one instruction, and the bytes that hold it decode to it as well. -/
def decodesAll (l : List (List Word × Instr)) : Bool :=
  l.all fun e => decodeWords e.1 = .ok (e.2, []) && decode (e.1.flatMap bytesOfWord ++ [7]) = .ok (e.2, [7])

theorem test_decode_idle : decodesAll [
  ([0x0], .nop ⟨0x0, 0x0, 0x0⟩),
  ([0x1, 0x89ABF011, 0x1234567], .nopLong (.lit ⟨0x0, 0x0, 0x0⟩ 0x123456789ABF011))] = true := by decide

theorem test_decode_integer : decodesAll [
  ([0xD6B22004], .iadd ⟨0x44, 0x2C, 0x6B⟩),
  ([0x20B0806, 0x4005C01C, 0x12CE004], .iaddLong (.ext ⟨0x4161, 0x4005, 0xC01C, 0x12C, 0xE004⟩)),
  ([0xEACA3008], .isub ⟨0x46, 0x32, 0x75⟩),
  ([0xF4D63809, 0x89AC3455, 0x1234567], .isubLong (.lit ⟨0x47, 0x35, 0x7A⟩ 0x123456789AC3455)),
  ([0xFEE2400C], .imul ⟨0x48, 0x38, 0x7F⟩),
  ([0x40B680F, 0x4009C038, 0x158E008, 0x89AC5677, 0x1234567], .imulLong (.extLit ⟨0x816D, 0x4009, 0xC038, 0x158, 0xE008⟩ 0x123456789AC5677)),
  ([0x12FA5010], .imulh ⟨0x4A, 0x3E, 0x9⟩),
  ([0x50B9812, 0x400BC046, 0x16EE00A], .imulhLong (.ext ⟨0xA173, 0x400B, 0xC046, 0x16E, 0xE00A⟩)),
  ([0x58BB017, 0x400CC04D, 0x179E00B, 0x89AC89AA, 0x1234567], .imad (.long (.extLit ⟨0xB176, 0x400C, 0xC04D, 0x179, 0xE00B⟩ 0x123456789AC89AA))),
  ([0x311E6818], .imin ⟨0x4D, 0x47, 0x18⟩),
  ([0x68BE01A, 0x400EC05B, 0x18FE00D], .iminLong (.ext ⟨0xD17C, 0x400E, 0xC05B, 0x18F, 0xE00D⟩)),
  ([0x4536781C], .imax ⟨0x4F, 0x4D, 0x22⟩),
  ([0x4F42801D, 0x89ACCDEE, 0x1234567], .imaxLong (.lit ⟨0x50, 0x50, 0x27⟩ 0x123456789ACCDEE)),
  ([0x80C2822, 0x4011C070, 0x1B0E010], .iabs (.long (.ext ⟨0x10185, 0x4011, 0xC070, 0x1B0, 0xE010⟩))),
  ([0x635A9024], .ineg ⟨0x52, 0x56, 0x31⟩),
  ([0x6D669825, 0x89AD0121, 0x1234567], .inegLong (.lit ⟨0x53, 0x59, 0x36⟩ 0x123456789AD0121)),
  ([0x98C702A, 0x4014C085, 0x1D1E013], .iaddc (.long (.ext ⟨0x1318E, 0x4014, 0xC085, 0x1D1, 0xE013⟩))),
  ([0x817EA82C], .andBits ⟨0x55, 0x5F, 0x40⟩),
  ([0x8B8AB02D, 0x89AD3454, 0x1234567], .andBitsLong (.lit ⟨0x56, 0x62, 0x45⟩ 0x123456789AD3454)),
  ([0x9596B830], .orBits ⟨0x57, 0x65, 0x4A⟩),
  ([0xB8CD033, 0x4018C0A1, 0x1FDE017, 0x89AD5676, 0x1234567], .orBitsLong (.extLit ⟨0x1719A, 0x4018, 0xC0A1, 0x1FD, 0xE017⟩ 0x123456789AD5676)),
  ([0xA9AEC834], .xorBits ⟨0x59, 0x6B, 0x54⟩),
  ([0xC8D0036, 0x401AC0AF, 0x213E019], .xorBitsLong (.ext ⟨0x191A0, 0x401A, 0xC0AF, 0x213, 0xE019⟩)),
  ([0xBDC6D838], .andn ⟨0x5B, 0x71, 0x5E⟩),
  ([0xC7D2E039, 0x89AD9ABA, 0x1234567], .andnLong (.lit ⟨0x5C, 0x74, 0x63⟩ 0x123456789AD9ABA)),
  ([0xD1DEE83C], .notBits ⟨0x5D, 0x77, 0x68⟩),
  ([0xE8D603F, 0x401EC0CB, 0x23FE01D, 0x89ADBCDC, 0x1234567], .notBitsLong (.extLit ⟨0x1D1AC, 0x401E, 0xC0CB, 0x23F, 0xE01D⟩ 0x123456789ADBCDC)),
  ([0xE5F6F840], .shl ⟨0x5F, 0x7D, 0x72⟩),
  ([0xF8D9042, 0x4020C0D9, 0x255E01F], .shlLong (.ext ⟨0x1F1B2, 0x4020, 0xC0D9, 0x255, 0xE01F⟩)),
  ([0xF80F0844], .shr ⟨0x61, 0x3, 0x7C⟩),
  ([0x21B1045, 0x89AE0120, 0x1234567], .shrLong (.lit ⟨0x62, 0x6, 0x1⟩ 0x123456789AE0120)),
  ([0xC271848], .sar ⟨0x63, 0x9, 0x6⟩),
  ([0x118DF04B, 0x4024C0F5, 0x281E023, 0x89AE2342, 0x1234567], .sarLong (.extLit ⟨0x231BE, 0x4024, 0xC0F5, 0x281, 0xE023⟩ 0x123456789AE2342)),
  ([0x203F284C], .rotl ⟨0x65, 0xF, 0x10⟩),
  ([0x128E204E, 0x4026C103, 0x297E025], .rotlLong (.ext ⟨0x251C4, 0x4026, 0xC103, 0x297, 0xE025⟩)),
  ([0x130E3853, 0x4027C10A, 0x2A2E026, 0x89AE5675, 0x1234567], .bfx (.long (.extLit ⟨0x261C7, 0x4027, 0xC10A, 0x2A2, 0xE026⟩ 0x123456789AE5675))),
  ([0x3E634055, 0x89AE6786, 0x1234567], .bfi (.long (.lit ⟨0x68, 0x18, 0x1F⟩ 0x123456789AE6786))),
  ([0x486F4858], .popc ⟨0x69, 0x1B, 0x24⟩),
  ([0x148E805B, 0x402AC11F, 0x2C3E029, 0x89AE89A8, 0x1234567], .popcLong (.extLit ⟨0x291D0, 0x402A, 0xC11F, 0x2C3, 0xE029⟩ 0x123456789AE89A8)),
  ([0x5C87585C], .clz ⟨0x6B, 0x21, 0x2E⟩),
  ([0x158EB05E, 0x402CC12D, 0x2D9E02B], .clzLong (.ext ⟨0x2B1D6, 0x402C, 0xC12D, 0x2D9, 0xE02B⟩)),
  ([0x709F6860], .brev ⟨0x6D, 0x27, 0x38⟩),
  ([0x7AAB7061, 0x89AECDEC, 0x1234567], .brevLong (.lit ⟨0x6E, 0x2A, 0x3D⟩ 0x123456789AECDEC)),
  ([0x170EF866, 0x402FC142, 0x2FAE02E], .prmt (.long (.ext ⟨0x2E1DF, 0x402F, 0xC142, 0x2FA, 0xE02E⟩))),
  ([0x178F106B, 0x4030C149, 0x305E02F, 0x89AEF00E, 0x1234567], .lea (.long (.extLit ⟨0x2F1E2, 0x4030, 0xC149, 0x305, 0xE02F⟩ 0x123456789AEF00E))),
  ([0x98CF886D, 0x89AF011F, 0x1234567], .icmp (.long (.lit ⟨0x71, 0x33, 0x4C⟩ 0x123456789AF011F))),
  ([0x188F4072, 0x4032C157, 0x31BE031], .sel (.long (.ext ⟨0x311E8, 0x4032, 0xC157, 0x31B, 0xE031⟩)))] = true := by decide

theorem test_decode_float : decodesAll [
  ([0xACE79880], .fadd ⟨0x73, 0x39, 0x56⟩),
  ([0xB6F3A081, 0x89AF3452, 0x1234567], .faddLong (.lit ⟨0x74, 0x3C, 0x5B⟩ 0x123456789AF3452)),
  ([0xC0FFA884], .fsub ⟨0x75, 0x3F, 0x60⟩),
  ([0x1A8FA087, 0x4036C173, 0x347E035, 0x89AF5674, 0x1234567], .fsubLong (.extLit ⟨0x351F4, 0x4036, 0xC173, 0x347, 0xE035⟩ 0x123456789AF5674)),
  ([0xD517B888], .fmul ⟨0x77, 0x45, 0x6A⟩),
  ([0x1B8FD08A, 0x4038C181, 0x35DE037], .fmulLong (.ext ⟨0x371FA, 0x4038, 0xC181, 0x35D, 0xE037⟩)),
  ([0x1C0FE88F, 0x4039C188, 0x368E038, 0x89AF89A7, 0x1234567], .ffma (.long (.extLit ⟨0x381FD, 0x4039, 0xC188, 0x368, 0xE038⟩ 0x123456789AF89A7))),
  ([0xF33BD090], .fmin ⟨0x7A, 0x4E, 0x79⟩),
  ([0x1D101892, 0x403BC196, 0x37EE03A], .fminLong (.ext ⟨0x3A203, 0x403B, 0xC196, 0x37E, 0xE03A⟩)),
  ([0x753E094], .fmax ⟨0x7C, 0x54, 0x3⟩),
  ([0x115FE895, 0x89AFCDEB, 0x1234567], .fmaxLong (.lit ⟨0x7D, 0x57, 0x8⟩ 0x123456789AFCDEB)),
  ([0x1E90609A, 0x403EC1AB, 0x39FE03D], .fcmp (.long (.ext ⟨0x3D20C, 0x403E, 0xC1AB, 0x39F, 0xE03D⟩))),
  ([0x2577F89C], .frcp ⟨0x7F, 0x5D, 0x12⟩),
  ([0x2F80009D, 0x89B0011E, 0x1234567], .frcpLong (.lit ⟨0x0, 0x60, 0x17⟩ 0x123456789B0011E)),
  ([0x398C08A0], .frsq ⟨0x1, 0x63, 0x1C⟩),
  ([0x2090C0A3, 0x4042C1C7, 0x3CBE041, 0x89B02340, 0x1234567], .frsqLong (.extLit ⟨0x41218, 0x4042, 0xC1C7, 0x3CB, 0xE041⟩ 0x123456789B02340)),
  ([0x4DA418A4], .fsqrt ⟨0x3, 0x69, 0x26⟩),
  ([0x2190F0A6, 0x4044C1D5, 0x3E1E043], .fsqrtLong (.ext ⟨0x4321E, 0x4044, 0xC1D5, 0x3E1, 0xE043⟩)),
  ([0x61BC28A8], .fexp2 ⟨0x5, 0x6F, 0x30⟩),
  ([0x6BC830A9, 0x89B06784, 0x1234567], .fexp2Long (.lit ⟨0x6, 0x72, 0x35⟩ 0x123456789B06784)),
  ([0x75D438AC], .flog2 ⟨0x7, 0x75, 0x3A⟩),
  ([0x239150AF, 0x4048C1F1, 0x40DE047, 0x89B089A6, 0x1234567], .flog2Long (.extLit ⟨0x4722A, 0x4048, 0xC1F1, 0x40D, 0xE047⟩ 0x123456789B089A6)),
  ([0x89EC48B0], .ftanh ⟨0x9, 0x7B, 0x44⟩),
  ([0x249180B2, 0x404AC1FF, 0x423E049], .ftanhLong (.ext ⟨0x49230, 0x404A, 0xC1FF, 0x423, 0xE049⟩)),
  ([0x9C0458B4], .fsigm ⟨0xB, 0x1, 0x4E⟩),
  ([0xA61060B5, 0x89B0CDEA, 0x1234567], .fsigmLong (.lit ⟨0xC, 0x4, 0x53⟩ 0x123456789B0CDEA)),
  ([0xB01C68B8], .frnd ⟨0xD, 0x7, 0x58⟩),
  ([0x2691E0BB, 0x404EC21B, 0x44FE04D, 0x89B0F00C, 0x1234567], .frndLong (.extLit ⟨0x4D23C, 0x404E, 0xC21B, 0x44F, 0xE04D⟩ 0x123456789B0F00C)),
  ([0xC43478BC], .fscale ⟨0xF, 0xD, 0x62⟩),
  ([0x279210BE, 0x4050C229, 0x465E04F], .fscaleLong (.ext ⟨0x4F242, 0x4050, 0xC229, 0x465, 0xE04F⟩)),
  ([0x281228C3, 0x4051C230, 0x470E050, 0x89B1233F, 0x1234567], .fclass (.long (.extLit ⟨0x50245, 0x4051, 0xC230, 0x470, 0xE050⟩ 0x123456789B1233F))),
  ([0xE25890C4], .fdiv ⟨0x12, 0x16, 0x71⟩),
  ([0x291258C6, 0x4053C23E, 0x486E052], .fdivLong (.ext ⟨0x5224B, 0x4053, 0xC23E, 0x486, 0xE052⟩))] = true := by decide

theorem test_decode_packed : decodesAll [
  ([0xF670A100], .padd ⟨0x14, 0x1C, 0x7B⟩),
  ([0x7CA901, 0x89B16783, 0x1234567], .paddLong (.lit ⟨0x15, 0x1F, 0x0⟩ 0x123456789B16783)),
  ([0xA88B104], .pmul ⟨0x16, 0x22, 0x5⟩),
  ([0x2B12B907, 0x4057C25A, 0x4B2E056, 0x89B189A5, 0x1234567], .pmulLong (.extLit ⟨0x56257, 0x4057, 0xC25A, 0x4B2, 0xE056⟩ 0x123456789B189A5)),
  ([0x1EA0C109, 0x89B19AB6, 0x1234567], .pfma (.long (.lit ⟨0x18, 0x28, 0xF⟩ 0x123456789B19AB6))),
  ([0x28ACC90C], .pmax ⟨0x19, 0x2B, 0x14⟩),
  ([0x2C93010F, 0x405AC26F, 0x4D3E059, 0x89B1BCD8, 0x1234567], .pmaxLong (.extLit ⟨0x59260, 0x405A, 0xC26F, 0x4D3, 0xE059⟩ 0x123456789B1BCD8)),
  ([0x3CC4D910], .pmin ⟨0x1B, 0x31, 0x1E⟩),
  ([0x2D933112, 0x405CC27D, 0x4E9E05B], .pminLong (.ext ⟨0x5B266, 0x405C, 0xC27D, 0x4E9, 0xE05B⟩)),
  ([0x2E134917, 0x405DC284, 0x4F4E05C, 0x89B1F00B, 0x1234567], .pdot2 (.long (.extLit ⟨0x5C269, 0x405D, 0xC284, 0x4F4, 0xE05C⟩ 0x123456789B1F00B)))] = true := by decide

theorem test_decode_conversions : decodesAll [
  ([0x5AE8F141, 0x89B2011C, 0x1234567], .cvt (.long (.lit ⟨0x1E, 0x3A, 0x2D⟩ 0x123456789B2011C))),
  ([0x2F137946, 0x405FC292, 0x50AE05E], .mxq (.long (.ext ⟨0x5E26F, 0x405F, 0xC292, 0x50A, 0xE05E⟩))),
  ([0x2F93914B, 0x4060C299, 0x515E05F, 0x89B2233E, 0x1234567], .mxd (.long (.extLit ⟨0x5F272, 0x4060, 0xC299, 0x515, 0xE05F⟩ 0x123456789B2233E))),
  ([0x790D094D, 0x89B2344F, 0x1234567], .pack (.long (.lit ⟨0x21, 0x43, 0x3C⟩ 0x123456789B2344F))),
  ([0x3093C152, 0x4062C2A7, 0x52BE061], .unpk (.long (.ext ⟨0x61278, 0x4062, 0xC2A7, 0x52B, 0xE061⟩)))] = true := by decide

theorem test_decode_cross_lane : decodesAll [
  ([0x8D251980], .shfl ⟨0x23, 0x49, 0x46⟩),
  ([0x97312181, 0x89B26782, 0x1234567], .shflLong (.lit ⟨0x24, 0x4C, 0x4B⟩ 0x123456789B26782)),
  ([0xA13D2984], .bcast ⟨0x25, 0x4F, 0x50⟩),
  ([0x32942187, 0x4066C2C3, 0x557E065, 0x89B289A4, 0x1234567], .bcastLong (.extLit ⟨0x65284, 0x4066, 0xC2C3, 0x557, 0xE065⟩ 0x123456789B289A4)),
  ([0xB5553988], .vote ⟨0x27, 0x55, 0x5A⟩),
  ([0x3394518A, 0x4068C2D1, 0x56DE067], .voteLong (.ext ⟨0x6728A, 0x4068, 0xC2D1, 0x56D, 0xE067⟩)),
  ([0xC96D498C], .wred ⟨0x29, 0x5B, 0x64⟩),
  ([0xD379518D, 0x89B2CDE8, 0x1234567], .wredLong (.lit ⟨0x2A, 0x5E, 0x69⟩ 0x123456789B2CDE8)),
  ([0xDD855990], .wscan ⟨0x2B, 0x61, 0x6E⟩),
  ([0x3594B193, 0x406CC2ED, 0x599E06B, 0x89B2F00A, 0x1234567], .wscanLong (.extLit ⟨0x6B296, 0x406C, 0xC2ED, 0x599, 0xE06B⟩ 0x123456789B2F00A)),
  ([0xF19D6994], .matchLanes ⟨0x2D, 0x67, 0x78⟩),
  ([0x3694E196, 0x406EC2FB, 0x5AFE06D], .matchLanesLong (.ext ⟨0x6D29C, 0x406E, 0xC2FB, 0x5AF, 0xE06D⟩))] = true := by decide

theorem test_decode_masks : decodesAll [
  ([0x3714F9C3, 0x406FC302, 0x5BAE06E, 0x89B3233D, 0x1234567], .kand (.long (.extLit ⟨0x6E29F, 0x406F, 0xC302, 0x5BA, 0xE06E⟩ 0x123456789B3233D))),
  ([0xFC181C5, 0x89B3344E, 0x1234567], .kor (.long (.lit ⟨0x30, 0x70, 0x7⟩ 0x123456789B3344E))),
  ([0x381529CA, 0x4071C310, 0x5D0E070], .kxor (.long (.ext ⟨0x702A5, 0x4071, 0xC310, 0x5D0, 0xE070⟩))),
  ([0x389541CF, 0x4072C317, 0x5DBE071, 0x89B35670, 0x1234567], .knot (.long (.extLit ⟨0x712A8, 0x4072, 0xC317, 0x5DB, 0xE071⟩ 0x123456789B35670))),
  ([0x2DE599D1, 0x89B36781, 0x1234567], .kpop (.long (.lit ⟨0x33, 0x79, 0x16⟩ 0x123456789B36781))),
  ([0x399571D6, 0x4074C325, 0x5F1E073], .kffs (.long (.ext ⟨0x732AE, 0x4074, 0xC325, 0x5F1, 0xE073⟩))),
  ([0x3A1589DB, 0x4075C32C, 0x5FCE074, 0x89B389A3, 0x1234567], .kmov (.long (.extLit ⟨0x742B1, 0x4075, 0xC32C, 0x5FC, 0xE074⟩ 0x123456789B389A3)))] = true := by decide

theorem test_decode_moves : decodesAll [
  ([0x4A09B200], .mov ⟨0x36, 0x2, 0x25⟩),
  ([0x3B15BA02, 0x4077C33A, 0x612E076], .movLong (.ext ⟨0x762B7, 0x4077, 0xC33A, 0x612, 0xE076⟩)),
  ([0x5E21C204], .movl ⟨0x38, 0x8, 0x2F⟩),
  ([0x682DCA05, 0x89B3CDE7, 0x1234567], .movlLong (.lit ⟨0x39, 0xB, 0x34⟩ 0x123456789B3CDE7)),
  ([0x3C96020A, 0x407AC34F, 0x633E079], .rdsr (.long (.ext ⟨0x792C0, 0x407A, 0xC34F, 0x633, 0xE079⟩))),
  ([0x3D161A0F, 0x407BC356, 0x63EE07A, 0x89B3F009, 0x1234567], .wrsr (.long (.extLit ⟨0x7A2C3, 0x407B, 0xC356, 0x63E, 0xE07A⟩ 0x123456789B3F009))),
  ([0x8651E210], .xset ⟨0x3C, 0x14, 0x43⟩),
  ([0x3E164A12, 0x407DC364, 0x654E07C], .xsetLong (.ext ⟨0x7C2C9, 0x407D, 0xC364, 0x654, 0xE07C⟩)),
  ([0x9A69F214], .xadd ⟨0x3E, 0x1A, 0x4D⟩),
  ([0xA475FA15, 0x89B4344D, 0x1234567], .xaddLong (.lit ⟨0x3F, 0x1D, 0x52⟩ 0x123456789B4344D))] = true := by decide

theorem test_decode_control : decodesAll [
  ([0xAE820240], .bra ⟨0x40, 0x20, 0x57⟩),
  ([0x4016AA43, 0x4081C380, 0x680E080, 0x89B4566F, 0x1234567], .braLong (.extLit ⟨0x802D5, 0x4081, 0xC380, 0x680, 0xE080⟩ 0x123456789B4566F)),
  ([0xC29A1245, 0x89B46780, 0x1234567], .brc (.long (.lit ⟨0x42, 0x26, 0x61⟩ 0x123456789B46780))),
  ([0xCCA61A48], .call ⟨0x43, 0x29, 0x66⟩),
  ([0x4196F24B, 0x4084C395, 0x6A1E083, 0x89B489A2, 0x1234567], .callLong (.extLit ⟨0x832DE, 0x4084, 0xC395, 0x6A1, 0xE083⟩ 0x123456789B489A2)),
  ([0xE0BE2A4C], .ret ⟨0x45, 0x2F, 0x70⟩),
  ([0x4297224E, 0x4086C3A3, 0x6B7E085], .retLong (.ext ⟨0x852E4, 0x4086, 0xC3A3, 0x6B7, 0xE085⟩)),
  ([0x43173A53, 0x4087C3AA, 0x6C2E086, 0x89B4BCD5, 0x1234567], .split (.long (.extLit ⟨0x862E7, 0x4087, 0xC3AA, 0x6C2, 0xE086⟩ 0x123456789B4BCD5))),
  ([0xFEE24254], .join ⟨0x48, 0x38, 0x7F⟩),
  ([0x44176A56, 0x4089C3B8, 0x6D8E088], .joinLong (.ext ⟨0x882ED, 0x4089, 0xC3B8, 0x6D8, 0xE088⟩)),
  ([0x12FA5258], .exit ⟨0x4A, 0x3E, 0x9⟩),
  ([0x1D065A59, 0x89B50119, 0x1234567], .exitLong (.lit ⟨0x4B, 0x41, 0xE⟩ 0x123456789B50119)),
  ([0x2712625C], .yield ⟨0x4C, 0x44, 0x13⟩),
  ([0x4617CA5F, 0x408DC3D4, 0x704E08C, 0x89B5233B, 0x1234567], .yieldLong (.extLit ⟨0x8C2F9, 0x408D, 0xC3D4, 0x704, 0xE08C⟩ 0x123456789B5233B)),
  ([0x3B2A7260], .trap ⟨0x4E, 0x4A, 0x1D⟩),
  ([0x4717FA62, 0x408FC3E2, 0x71AE08E], .trapLong (.ext ⟨0x8E2FF, 0x408F, 0xC3E2, 0x71A, 0xE08E⟩)),
  ([0x4F428264], .tret ⟨0x50, 0x50, 0x27⟩),
  ([0x594E8A65, 0x89B5677F, 0x1234567], .tretLong (.lit ⟨0x51, 0x53, 0x2C⟩ 0x123456789B5677F)),
  ([0x635A9268], .bkpt ⟨0x52, 0x56, 0x31⟩),
  ([0x49185A6B, 0x4093C3FE, 0x746E092, 0x89B589A1, 0x1234567], .bkptLong (.extLit ⟨0x9230B, 0x4093, 0xC3FE, 0x746, 0xE092⟩ 0x123456789B589A1)),
  ([0x7772A26C], .sleep ⟨0x54, 0x5C, 0x3B⟩),
  ([0x4A188A6E, 0x4095C40C, 0x75CE094], .sleepLong (.ext ⟨0x94311, 0x4095, 0xC40C, 0x75C, 0xE094⟩))] = true := by decide

theorem test_decode_global : decodesAll [
  ([0x8B8AB280], .ld ⟨0x56, 0x62, 0x45⟩),
  ([0x9596BA81, 0x89B5CDE5, 0x1234567], .ldLong (.lit ⟨0x57, 0x65, 0x4A⟩ 0x123456789B5CDE5)),
  ([0x9FA2C284], .st ⟨0x58, 0x68, 0x4F⟩),
  ([0x4C18EA87, 0x4099C428, 0x788E098, 0x89B5F007, 0x1234567], .stLong (.extLit ⟨0x9831D, 0x4099, 0xC428, 0x788, 0xE098⟩ 0x123456789B5F007)),
  ([0xB3BAD289, 0x89B60118, 0x1234567], .atom (.long (.lit ⟨0x5A, 0x6E, 0x59⟩ 0x123456789B60118))),
  ([0x4D191A8E, 0x409BC436, 0x79EE09A], .atomr (.long (.ext ⟨0x9A323, 0x409B, 0xC436, 0x79E, 0xE09A⟩))),
  ([0x4D993293, 0x409CC43D, 0x7A9E09B, 0x89B6233A, 0x1234567], .cas (.long (.extLit ⟨0x9B326, 0x409C, 0xC43D, 0x7A9, 0xE09B⟩ 0x123456789B6233A))),
  ([0xD1DEEA94], .pref ⟨0x5D, 0x77, 0x68⟩),
  ([0x4E996296, 0x409EC44B, 0x7BFE09D], .prefLong (.ext ⟨0x9D32C, 0x409E, 0xC44B, 0x7BF, 0xE09D⟩)),
  ([0xE5F6FA98], .cwb ⟨0x5F, 0x7D, 0x72⟩),
  ([0xEE030299, 0x89B6677E, 0x1234567], .cwbLong (.lit ⟨0x60, 0x0, 0x77⟩ 0x123456789B6677E)),
  ([0xF80F0A9C], .fence ⟨0x61, 0x3, 0x7C⟩),
  ([0x5099C29F, 0x40A2C467, 0x7EBE0A1, 0x89B689A0, 0x1234567], .fenceLong (.extLit ⟨0xA1338, 0x40A2, 0xC467, 0x7EB, 0xE0A1⟩ 0x123456789B689A0))] = true := by decide

theorem test_decode_scratchpad : decodesAll [
  ([0xC271AC1, 0x89B69AB1, 0x1234567], .lds (.long (.lit ⟨0x63, 0x9, 0x6⟩ 0x123456789B69AB1))),
  ([0x5199F2C6, 0x40A4C475, 0x801E0A3], .sts (.long (.ext ⟨0xA333E, 0x40A4, 0xC475, 0x801, 0xE0A3⟩))),
  ([0x521A0ACB, 0x40A5C47C, 0x80CE0A4, 0x89B6BCD3, 0x1234567], .atoms (.long (.extLit ⟨0xA4341, 0x40A5, 0xC47C, 0x80C, 0xE0A4⟩ 0x123456789B6BCD3))),
  ([0x2A4B32CD, 0x89B6CDE4, 0x1234567], .ldrs (.long (.lit ⟨0x66, 0x12, 0x15⟩ 0x123456789B6CDE4))),
  ([0x531A3AD2, 0x40A7C48A, 0x822E0A6], .strs (.long (.ext ⟨0xA6347, 0x40A7, 0xC48A, 0x822, 0xE0A6⟩)))] = true := by decide

theorem test_decode_barriers : decodesAll [
  ([0x3E634300], .waitc ⟨0x68, 0x18, 0x1F⟩),
  ([0x486F4B01, 0x89B70117, 0x1234567], .waitcLong (.lit ⟨0x69, 0x1B, 0x24⟩ 0x123456789B70117)),
  ([0x527B5304], .bara ⟨0x6A, 0x1E, 0x29⟩),
  ([0x551A9B07, 0x40ABC4A6, 0x84EE0AA, 0x89B72339, 0x1234567], .baraLong (.extLit ⟨0xAA353, 0x40AB, 0xC4A6, 0x84E, 0xE0AA⟩ 0x123456789B72339)),
  ([0x66936308], .barw ⟨0x6C, 0x24, 0x33⟩),
  ([0x561ACB0A, 0x40ADC4B4, 0x864E0AC], .barwLong (.ext ⟨0xAC359, 0x40AD, 0xC4B4, 0x864, 0xE0AC⟩)),
  ([0x7AAB730C], .bars ⟨0x6E, 0x2A, 0x3D⟩),
  ([0x84B77B0D, 0x89B7677D, 0x1234567], .barsLong (.lit ⟨0x6F, 0x2D, 0x42⟩ 0x123456789B7677D)),
  ([0x8EC38310], .drain ⟨0x70, 0x30, 0x47⟩),
  ([0x581B2B13, 0x40B1C4D0, 0x890E0B0, 0x89B7899F, 0x1234567], .drainLong (.extLit ⟨0xB0365, 0x40B1, 0xC4D0, 0x890, 0xE0B0⟩ 0x123456789B7899F))] = true := by decide

theorem test_decode_lathe : decodesAll [
  ([0xA2DB9341, 0x89B79AB0, 0x1234567], .tdset (.long (.lit ⟨0x72, 0x36, 0x51⟩ 0x123456789B79AB0))),
  ([0x591B5B46, 0x40B3C4DE, 0x8A6E0B2], .tdget (.long (.ext ⟨0xB236B, 0x40B3, 0xC4DE, 0x8A6, 0xE0B2⟩))),
  ([0x599B734B, 0x40B4C4E5, 0x8B1E0B3, 0x89B7BCD2, 0x1234567], .mma (.long (.extLit ⟨0xB336E, 0x40B4, 0xC4E5, 0x8B1, 0xE0B3⟩ 0x123456789B7BCD2))),
  ([0xC0FFAB4D, 0x89B7CDE3, 0x1234567], .accz (.long (.lit ⟨0x75, 0x3F, 0x60⟩ 0x123456789B7CDE3))),
  ([0x5A9BA352, 0x40B6C4F3, 0x8C7E0B5], .accrd (.long (.ext ⟨0xB5374, 0x40B6, 0xC4F3, 0x8C7, 0xE0B5⟩))),
  ([0x5B1BBB57, 0x40B7C4FA, 0x8D2E0B6, 0x89B7F005, 0x1234567], .accwr (.long (.extLit ⟨0xB6377, 0x40B7, 0xC4FA, 0x8D2, 0xE0B6⟩ 0x123456789B7F005))),
  ([0xDF23C359, 0x89B80116, 0x1234567], .accld (.long (.lit ⟨0x78, 0x48, 0x6F⟩ 0x123456789B80116))),
  ([0x5C1BEB5E, 0x40B9C508, 0x8E8E0B8], .accst (.long (.ext ⟨0xB837D, 0x40B9, 0xC508, 0x8E8, 0xE0B8⟩)))] = true := by decide

theorem test_decode_jobs : decodesAll [
  ([0x5C9C0383, 0x40BAC50F, 0x8F3E0B9, 0x89B82338, 0x1234567], .job (.long (.extLit ⟨0xB9380, 0x40BA, 0xC50F, 0x8F3, 0xE0B9⟩ 0x123456789B82338))),
  ([0xFD47DB85, 0x89B83449, 0x1234567], .jobq (.long (.lit ⟨0x7B, 0x51, 0x7E⟩ 0x123456789B83449)))] = true := by decide

theorem test_decode_combining : decodesAll [
  ([0x5D9C33A2, 0x40BCC51D, 0x909E0BB], .objreg (.long (.ext ⟨0xBB386, 0x40BC, 0xC51D, 0x909, 0xE0BB⟩))),
  ([0x115FEBA4], .objfree ⟨0x7D, 0x57, 0x8⟩),
  ([0x1B6BF3A5, 0x89B8677C, 0x1234567], .objfreeLong (.lit ⟨0x7E, 0x5A, 0xD⟩ 0x123456789B8677C)),
  ([0x5F1C7BAA, 0x40BFC532, 0x92AE0BE], .comb (.long (.ext ⟨0xBE38F, 0x40BF, 0xC532, 0x92A, 0xE0BE⟩))),
  ([0x2F8003AC], .cbatch ⟨0x0, 0x60, 0x17⟩),
  ([0x398C0BAD, 0x89B89AAF, 0x1234567], .cbatchLong (.lit ⟨0x1, 0x63, 0x1C⟩ 0x123456789B89AAF)),
  ([0x439813B0], .carg ⟨0x2, 0x66, 0x21⟩),
  ([0x611CDBB3, 0x40C3C54E, 0x956E0C2, 0x89B8BCD1, 0x1234567], .cargLong (.extLit ⟨0xC239B, 0x40C3, 0xC54E, 0x956, 0xE0C2⟩ 0x123456789B8BCD1)),
  ([0x57B023B4], .creply ⟨0x4, 0x6C, 0x2B⟩),
  ([0x621D0BB6, 0x40C5C55C, 0x96CE0C4], .creplyLong (.ext ⟨0xC43A1, 0x40C5, 0xC55C, 0x96C, 0xE0C4⟩)),
  ([0x6BC833B8], .cend ⟨0x6, 0x72, 0x35⟩),
  ([0x75D43BB9, 0x89B90115, 0x1234567], .cendLong (.lit ⟨0x7, 0x75, 0x3A⟩ 0x123456789B90115))] = true := by decide

theorem test_decode_launch : decodesAll [
  ([0x7FE043C0], .rshare ⟨0x8, 0x78, 0x3F⟩),
  ([0x641D6BC3, 0x40C9C578, 0x998E0C8, 0x89B92337, 0x1234567], .rshareLong (.extLit ⟨0xC83AD, 0x40C9, 0xC578, 0x998, 0xE0C8⟩ 0x123456789B92337)),
  ([0x93F853C4], .rquery ⟨0xA, 0x7E, 0x49⟩),
  ([0x651D9BC6, 0x40CBC586, 0x9AEE0CA], .rqueryLong (.ext ⟨0xCA3B3, 0x40CB, 0xC586, 0x9AE, 0xE0CA⟩)),
  ([0xA61063C8], .launch ⟨0xC, 0x4, 0x53⟩),
  ([0xB01C6BC9, 0x89B9677B, 0x1234567], .launchLong (.lit ⟨0xD, 0x7, 0x58⟩ 0x123456789B9677B)),
  ([0xBA2873CC], .chwait ⟨0xE, 0xA, 0x5D⟩),
  ([0x671DFBCF, 0x40CFC5A2, 0x9DAE0CE, 0x89B9899D, 0x1234567], .chwaitLong (.extLit ⟨0xCE3BF, 0x40CF, 0xC5A2, 0x9DA, 0xE0CE⟩ 0x123456789B9899D)),
  ([0xCE4083D0], .eread ⟨0x10, 0x10, 0x67⟩),
  ([0x681E2BD2, 0x40D1C5B0, 0x9F0E0D0], .ereadLong (.ext ⟨0xD03C5, 0x40D1, 0xC5B0, 0x9F0, 0xE0D0⟩)),
  ([0xE25893D4], .tarm ⟨0x12, 0x16, 0x71⟩),
  ([0xEC649BD5, 0x89B9CDE1, 0x1234567], .tarmLong (.lit ⟨0x13, 0x19, 0x76⟩ 0x123456789B9CDE1))] = true := by decide

theorem test_decode_privileged : decodesAll [
  ([0x699E7402, 0x40D4C5C5, 0xA11E0D3], .rdpr (.long (.ext ⟨0xD33CE, 0x40D4, 0xC5C5, 0xA11, 0xE0D3⟩))),
  ([0x6A1E8C07, 0x40D5C5CC, 0xA1CE0D4, 0x89B9F003, 0x1234567], .wrpr (.long (.extLit ⟨0xD43D1, 0x40D5, 0xC5CC, 0xA1C, 0xE0D4⟩ 0x123456789B9F003))),
  ([0xA88B408], .prdone ⟨0x16, 0x22, 0x5⟩),
  ([0x6B1EBC0A, 0x40D7C5DA, 0xA32E0D6], .prdoneLong (.ext ⟨0xD63D7, 0x40D7, 0xC5DA, 0xA32, 0xE0D6⟩)),
  ([0x1EA0C40C], .ctxsv ⟨0x18, 0x28, 0xF⟩),
  ([0x28ACCC0D, 0x89BA3447, 0x1234567], .ctxsvLong (.lit ⟨0x19, 0x2B, 0x14⟩ 0x123456789BA3447)),
  ([0x32B8D410], .tlbinv ⟨0x1A, 0x2E, 0x19⟩),
  ([0x6D1F1C13, 0x40DBC5F6, 0xA5EE0DA, 0x89BA5669, 0x1234567], .tlbinvLong (.extLit ⟨0xDA3E3, 0x40DB, 0xC5F6, 0xA5E, 0xE0DA⟩ 0x123456789BA5669)),
  ([0x46D0E414], .sheet ⟨0x1C, 0x34, 0x23⟩),
  ([0x6E1F4C16, 0x40DDC604, 0xA74E0DC], .sheetLong (.ext ⟨0xDC3E9, 0x40DD, 0xC604, 0xA74, 0xE0DC⟩))] = true := by decide

theorem test_decode_unassigned : decodesAll [([0x00000600], .illegalOpcode 0x180 (.base ⟨0, 0, 0⟩)),
  ([0x0204BFFC], .illegalOpcode 0x1FF (.base ⟨0x17, 1, 1⟩)), ([0x000003DE, 0, 0], .reservedOpcode 0x0F7 (.long (.ext ⟨0, 0, 0, 0, 0⟩)))] = true := by
  decide

/-- A table word is laid out with its first word lowest, and zeros above the table's bits. -/
theorem test_decode_table_word : decodeTableWord 32 0x0A041804 = some (.iadd ⟨3, 1, 5⟩) ∧
  decodeTableWord 16 0x0005 = some (.iaddLong (.lit ⟨0, 0, 0⟩ 0)) ∧ decodeTableWord 64 0x10A041805 = some (.iaddLong (.lit ⟨3, 1, 5⟩ 1)) := by decide

/-! ## Terms that the checks refuse -/

theorem test_opcode_checks : (Instr.illegalOpcode 0x17F (.base ⟨0, 0, 0⟩)).check = some .opcodeNotIllegal ∧
  (Instr.reservedOpcode 0x001 (.base ⟨0, 0, 0⟩)).check = some .opcodeNotReserved ∧
  (Instr.reservedOpcode 0x180 (.base ⟨0, 0, 0⟩)).check = some .opcodeNotReserved := by decide

theorem test_number_checks : ([{ fn := 8 }, { child := 5 }, { cluster := 48 }, { core := 384 }, { die := 4 }, { q := 64 }, { pool := 8 },
    { entry := 128 }] : List EvArg).map EvArg.check = [some .functionRange, some .childRange, some .clusterRange, some .coreRange, some .dieRange,
    some .queueRange, some .poolRange, some .windowRange] := by decide
/-! ## Hypotheses of the laws, each met -/

/-- An instruction that decodes from its words; states whose memory has its canonical form and which step; an associative operation; a draw. -/
theorem witness_laws : (∀ a b c : Nat, a + b + c = a + (b + c)) ∧ (Instr.iadd ⟨3, 1, 5⟩).wf = true ∧ encode (.iadd ⟨3, 1, 5⟩) = some [0x0A041804] ∧
    decodeWords [0x0A041804, 7] = .ok (.iadd ⟨3, 1, 5⟩, [7]) ∧ Memory.wf mapped.mem ∧ Memory.wf mapped.cscr ∧ [1, 2].length < 128 ∧ nextDraw 1 ≠ 0 ∧ (0xC000 : Nat) < 2 ^ 16 ∧
    (probeKernel.addr.toNat + 64 + probeKernel.codeSize ≤ 2 ^ 64) ∧ (opcodeForm (.iadd ⟨3, 1, 5⟩) = some (1, .base ⟨3, 1, 5⟩)) :=
  ⟨Nat.add_assoc, by decide⟩

/-- A fetch that finds the placed instruction, at an open boundary with nothing due, chosen by the agenda or, without one, by R162; and a step of
memory's canonical form that answers next. -/
theorem witness_step :
    let s := State.reset.loadProbe [0x0A041804]
    let t : State := { s with agenda := [] }
    let r := s.focus 0 0 0
    let stored := ({ flight [access 1 .store] away with agenda := [.ev .storePerformed { lanes := 1 }] } : State)
    s.agenda = [.issue 0 0 0] && !t.unfocus.eventsFirst && t.unfocus.pick true = some (0, 0, 0) &&
    (r.cur.any fun c =>
      let b := c.blk
      (r.dueNow c).isNone && c.mayIssue && b.loaded && (r.kernelOf b).inCode (bundleOf c.split.pc) &&
      (match r.codePlace b (bundleOf c.split.pc) with
        | (s', .ok (sp, a)) => s'.pageReady b c.split.pc && !(s'.fetchAt sp a 32).2 &&
          (let ws := wordsOfBytes (s'.fetchAt sp a 32).1
           bundleDefect ws = none && firstIssued ws (wordOf c.split.pc) (starts ws) = some 1 && ws.drop 1 = 0x0A041804#32 :: List.replicate 6 0#32)
        | _ => false) &&
      match r.fetch b c.split.pc with
      | (t, .instr i pc _ _ _) => i = .iadd ⟨3, 1, 5⟩ && pc = pcOfWord (bundleOf c.split.pc) 1 && !t.stopsAt c pc
      | _ => false) &&
    (match step stored with | .next _ => true | _ => false) && Memory.wf stored.mem && Memory.wf stored.cscr := by decide

/-- Splits after a step. -/
def stepped (s : State) : List Split :=
  match step s with
  | .next t => t.unfocus.blocks.flatMap fun b => b.waves.flatMap (·.splits)
  | _ => []

/-- A step runs the instruction that was placed, and goes on at the PC of its bundle's word 4 (R36). -/
theorem test_step_runs_placed :
    (stepped (State.reset.withFetchWord 96 (7 * 2 ^ 32 + 0x41805))).map (fun sp => (sp.pc, sp.read (.sym 3) 31)) = [(0x10050, 7)] := by decide

/-- A symbolic register, l0 and a scalar that take results, nothing pending on them; a register that an instruction does not name. -/
theorem witness_results :
    let sp := probeSplit
    (∃ m, RegId.sym 3 = .sym m ∨ RegId.sym 3 = .orf m ∨ RegId.sym 3 = .scal m) ∧ (∀ m, RegId.sym 3 = .scal m → [(31, (7 : Dword))] = [(0, 7)] ∧ 31 = 0) ∧
    (spWf 0 sp.vreg = true ∧ spWf 0 sp.ofile = true ∧ spWf 0 sp.uni.scal = true) ∧ (∀ p ∈ sp.pend, p.reg ≠ .sym 3 ∧ ∀ q ∈ p.vals, q.1 < 128) ∧
    ([(31, (7 : Dword))].map (·.1)).Nodup ∧ (∀ q ∈ [(31, (7 : Dword))], q.1 < 128 ∧ q.2.toNat < 2 ^ 32) ∧
    (31, (7 : Dword)) ∈ [(31, (7 : Dword))] ∧ RegId.sym 4 ∉ (Opnd.sym 3).regs false ∧ (∀ q ∈ [(31, 7)], q.1 < 128) ∧
    (Opnd.sym 3).regs false = [RegId.sym 3] := by
  refine ⟨⟨3, .inl rfl⟩, ?_, ?_, ?_, ?_, ?_, ?_, ?_, ?_, ?_⟩ <;> first | decide | (intro m h; cases h)

/-- Results in l0 and in a scalar: the other ranges of the latency rule. -/
theorem witness_results_forwarded : (∃ m, RegId.orf 8 = .sym m ∨ RegId.orf 8 = .orf m ∨ RegId.orf 8 = .scal m) ∧
    (∃ m, RegId.scal 5 = .sym m ∨ RegId.scal 5 = .orf m ∨ RegId.scal 5 = .scal m) ∧
    ∀ m, RegId.scal 5 = .scal m → [(0, (7 : Dword))] = [(0, 7)] ∧ 0 = 0 := ⟨⟨8, .inr (.inl rfl)⟩, ⟨5, .inr (.inr rfl)⟩, fun _ _ => ⟨rfl, rfl⟩⟩

/-- An unprivileged instruction that issues; a store that reaches memory, and a load that is performed; memories of canonical form. -/
theorem witness_memory :
    let load := flight [access 0 (.load 0 (some { reg := .sym 1 }))] away
    let store := flight [access 1 .store] away
    let done := fun (i : Instr) (s : State) => match exec i (data { lanes := 1 } s) with | .next _ => true | _ => false
    core.cur.isSome && (match exec (.iadd ⟨3, 1, 5⟩) core with | .next _ => true | _ => false) && done .loadComplete load && done .storePerformed store &&
    (store.unfocus.op? 0).isSome && !store.isLost 0x100 && Memory.wf store.mem && Memory.wf (Memory.write [] 0 [1, 2]) := by decide

/-- A kernel with a trap handler and one without, a split in its handler and one outside; the three decoding faults. -/
theorem witness_exceptions :
    let handled := onKernel (fun k => { k with handler := 64 }) core
    let inside := onSplit (fun sp => { sp with uni := { sp.uni with inHandler := true } }) handled
    let masked := core.setPr 0x810 0 0 0 2
    let issuing := fun (s : State) (p : State → Cur → Bool) => s.cur.any (p s)
    (issuing core fun s c => (s.kernelOf c.blk).handler = 0 && !c.split.uni.inHandler) &&
    (issuing handled fun s c => (s.kernelOf c.blk).handler ≠ 0 && !c.split.uni.inHandler) &&
    (issuing inside fun s c => (s.kernelOf c.blk).handler ≠ 0 && c.split.uni.inHandler) &&
    (issuing core fun s c => s.opcodeFault c 0x100 3 = some (0x11, 2 ^ 63 + 0x100 * 256 + 2) && !s.opMasked c.blk.fn 0x100 &&
      s.opcodeFault c 0x0EB 3 = some (0x11, 2 ^ 63 + 0x0EB * 256 + 1) && (s.opcodeFault c 1 1).isNone && c.blk.method.isNone && c.wave.level = 0) &&
    spWf 0 core.counters && (issuing masked fun s c => s.opMasked c.blk.fn 1) := by decide

/-! ## One instruction or one rule, with the result the spec gives -/

/-- The split after an instruction, once its results have landed. -/
def ran (i : Instr) (s : State) : Split :=
  match exec i s with
  | .next t => ((t.cur.map (·.split)).getD probeSplit).advance 64
  | _ => probeSplit

/-- A register's values in the first lanes. -/
def lanesOf (r : RegId) (n : Nat) (sp : Split) : List Nat := (List.range n).map fun i => (sp.read r i).toNat

/-- Values put in the first lanes of symbolic register 1. -/
def given (l : List Nat) : State := l.zipIdx.foldl (fun s p => sym 1 p.2 p.1 s) core

/-- R56's example: FADD's result, of latency 6, is read after counts 2 and 4 and falls short by one after 2 and 3. -/
theorem test_counted_distance : let sp := (probeSplit.put (.sym 0) [(0, 9)] 6).advance 2
    ((sp.advance 4).read (.sym 0) 0, (sp.advance 4).short (.sym 0)) = (9, 0) ∧ ((sp.advance 3).read (.sym 0) 0, (sp.advance 3).short (.sym 0)) = (0, 1) := by
  decide

/-- R70's examples: an integer result in l0 at W = 32, read at distance 2; an FFMA result in l1 at W = 64, at distance 5 (6 + 1 − 2). -/
theorem test_forwarded : ((probeSplit.put (.orf 8) [(0, 9)] 4).advance 2).short (.orf 8) = 0 ∧
    ((probeSplit.put (.orf 9) [(0, 9)] 7).advance 4).short (.orf 9) = 1 ∧ ((probeSplit.put (.orf 9) [(0, 9)] 7).advance 5).short (.orf 9) = 0 := by decide

/-- Words of the encoding chapter's worked examples (after R57) and of the arithmetic chapter's. -/
theorem test_decode_worked : decodesAll [
    ([0x0060001B, 0x40134013, 0xE0000000, 0x80, 0], .iminLong (.extLit ⟨0xC00, 0x4013, 0x4013, 0xE000, 0⟩ 0x80)),
    ([0x0060806E, 0x8001C001, 0x40130000], .icmp (.long (.ext ⟨0xC10, 0x8001, 0xC001, 0x4013, 0⟩))),
    ([0x46400282, 0x00044014, 0], .ldLong (.ext ⟨0x8C800, 4, 0x4014, 0, 0⟩)), ([0x0146880D, 0x60, 0], .imulLong (.lit ⟨0x51, 0x51, 0⟩ 0x60)),
    ([0x00200806, 1, 0x00020000], .iaddLong (.ext ⟨0x401, 0, 1, 2, 0⟩)), ([0x4808008E, 1, 0x00020003], .ffma (.long (.ext ⟨0x90100, 0, 1, 2, 3⟩))),
    ([0x000009C2, 0x80108010, 0x80030000], .kand (.long (.ext ⟨1, 0x8010, 0x8010, 0x8003, 0⟩))),
    ([0x0000020A, 0x400FC100, 0], .rdsr (.long (.ext ⟨0, 0x400F, 0xC100, 0, 0⟩)))] = true := by decide

/-- The fields of those words as the chapters name them: types, comparison, rounding, mask selectors, conversion types. -/
theorem test_modifier_fields : Mod.type 0xC00 = 3 ∧ (Mod.type 0xC10, Mod.cmp 0xC10) = (3, 2) ∧ Mod.mtype 0x8C800 = 9 ∧ Mod.type 0x401 = 1 ∧ Mod.rnd 0x90100 = 2 := by
  decide

/-- Their defective variants: ICMP with `.ord`, LD with MNUM and no MSEL, IMIN with a literal it does not carry, FFMA with RND 6, CVT with DTYPE 0. -/
theorem test_operand_class :
    let refused := fun (f : Form) (spec : Nat → Spec) => core.cur.any fun c => ((specOf f spec).defect (core.limitsOf c) (rawOf f spec)).isSome
    refused (ext 0xC30 0x8001 0xC001 0x4013 0) specIcmp ∧ refused (ext 0xC800 4 0x4014 0 0) specLd ∧
    refused (ext 0xC00 0x4013 0x4013 0xE000 0) (specInt2 allInt 0) ∧ refused (ext 0x300 0 1 2 3) specFfma ∧ refused (ext 0x20 1 1 0 0) specCvt := by decide

/-- 8-bit saturation and 32-bit wrapping (R85, R110). -/
theorem test_iadd : lanesOf (.sym 3) 2 (ran (.iaddLong (.ext ⟨0x401, 3, 1, 1, 0⟩)) (given [100, 0xFFFFFF9C])) = [127, 0xFFFFFF80] ∧
    lanesOf (.sym 3) 1 (ran (.iadd ⟨3, 1, 1⟩) (given [0x80000001])) = [2] := by decide

/-- R118's examples: conversions of 300, 500, 2.5 and −200.5. -/
theorem test_cvt :
    let cvt := fun (dtype x : Nat) => lanesOf (.sym 3) 1 (ran (.cvt (ext (dtype * 1024 + 9 * 32) 3 1 0 0)) (given [x]))
    cvt 12 0x43960000 = [0x79] ∧ cvt 12 0x43FA0000 = [0x7E] ∧ cvt 16 0x40200000 = [4] ∧ cvt 1 0xC3488000 = [0xFFFFFF80] := by decide

/-- R97's example: 500 under SATNAN, and RZ of 500 without. -/
theorem test_e4m3_overflow : let v : FV := .fin false 500 0
    e4m3.round false true 1 0 false ⟨500, 0, false⟩ = 0x7F ∧ (FTy.float e4m3).round false false 2 0 v = 0x7E ∧
    (FTy.float e4m3).round false true 4 0 (.fin false 460 0) = 0x7E := by decide

/-- R98's example: BF16 of 1 + 2^−9 rounds up from a draw of 0xC000 on. -/
theorem test_stochastic : let r := fun (d : Nat) => (FTy.float bf16).round false false 5 d (.fin false 513 (-9))
    (r 0xC000, r 0xBFFF) = (0x3F81, 0x3F80) ∧ (FTy.float bf16).round false false 1 0 (.fin false 513 (-9)) = 0x3F80 := by decide

/-- R96's examples: a block of 1.0, 0.75 and zeros in E2M1, and 300 in E4M3. -/
theorem test_mx_quantise : mxQuantise (.float e2m1) false 1 ((FV.fin false 1 0, 0) :: (.fin false 3 (-2), 0) :: List.replicate 30 (.zero, 0)) =
      (0x7D, 6 :: 5 :: List.replicate 30 0) ∧ (mxQuantise (.float e4m3) false 1 [(.fin false 300 0, 0)]) = (0x7F, [0x79]) ∧
    (FTy.float fp32).round false false 1 0 (mxValue ((FTy.float e2m1).decode false 6) 0x7D) = 0x3F800000 := by decide +kernel

/-- R104's example: 2^24, 1, 1, 1 in a tree and in a scan. -/
theorem test_float_sums : let s := active 15 (given [0x4B800000, 0x3F800000, 0x3F800000, 0x3F800000])
    lanesOf (.scal 3) 1 (ran (.wredLong (.ext ⟨0x2400, 0x4003, 1, 0, 0⟩)) s) = [0x4B800001] ∧
    (lanesOf (.sym 3) 4 (ran (.wscanLong (.ext ⟨0x2400, 3, 1, 0, 0⟩)) s)).getLast? = some 0x4B800000 := by decide +kernel

/-- R106's example: one block of 32 products of 1.0 added to 2^24, rounded once. -/
theorem test_lathe_sum : accAdd 0 0x4B800000 (blockSum (List.replicate 32 ((FTy.float e4m3).decode false 0x38, (FTy.float e4m3).decode false 0x38))
    (some 0x7F) (some 0x7F)) = 0x4B800010 := by decide +kernel

/-- The table after R124: SHFL.down and WSCAN.add over lanes 0 to 7. -/
theorem test_shfl_scan : let s := active 255 (given [0, 10, 20, 30, 40, 50, 60, 70])
    lanesOf (.sym 3) 9 (ran (.shflLong (.extLit ⟨0x2, 3, 1, 0xE000, 0⟩ 2)) s) = [20, 30, 40, 50, 60, 70, 60, 70, 0] ∧
    lanesOf (.sym 3) 9 (ran (.wscan ⟨3, 1, 0⟩) s) = [0, 10, 30, 60, 100, 150, 210, 280, 0] := by decide

/-- The same table: WRED.add, MATCH.lead and MATCH.count. -/
theorem test_wred_match : let s := active 255 (given [5, 7, 5, 5, 9, 7, 2, 5])
    lanesOf (.scal 3) 1 (ran (.wred ⟨0x43, 1, 0⟩) (active 255 (given [0, 10, 20, 30, 40, 50, 60, 70]))) = [280] ∧
    lanesOf (.sym 3) 8 (ran (.matchLanes ⟨3, 1, 0⟩) s) = [0, 1, 0, 0, 4, 1, 6, 0] ∧
    lanesOf (.sym 3) 8 (ran (.matchLanesLong (.ext ⟨1, 3, 1, 0, 0⟩)) s) = [4, 2, 4, 4, 1, 2, 1, 4] := by decide

/-- R129's XADD: the old `xi` to D, the sum modulo 2^16 to `xi`. -/
theorem test_xadd :
    let sp := ran (.xaddLong (.extLit ⟨0, 0x4003, 0xE000, 0, 0⟩ 0x10005)) (onSplit (fun sp => { sp with uni := { sp.uni with xi := 0xFFFE } }) core)
    (lanesOf (.scal 3) 1 sp, sp.uni.xi) = ([0xFFFE], 3) := by decide

/-- R68: `%t[xi + 1]` of the array that holds symbolic registers 2 to 5 reaches number 5 with `xi` 2, and takes INDEX_RANGE with `xi` 3. -/
theorem test_index_range :
    let at_ := fun (xi : BitVec 16) => onSplit (fun sp => { sp with uni := { sp.uni with xi } }) (onKernel (fun k => { k with lives := [⟨2, 4, 0, 4096⟩] }) core)
    let k := { probeKernel with lives := [⟨2, 4, 0, 4096⟩] }
    let f := ext 0 0 0 0x2003 0
    k.array 3 = (2, 4) ∧ ((at_ 2).cur.bind fun c => ctxOf (at_ 2) c 0x020 f (specF2 5 6)).map (·.b) = some (.sym 5) ∧
    ((at_ 3).cur.bind fun c => ctxOf (at_ 3) c 0x020 f (specF2 5 6)).isNone ∧
    ((active 0 (at_ 3)).cur.bind fun c => ctxOf (active 0 (at_ 3)) c 0x020 f (specF2 5 6)).isSome := by decide

/-- The header of R354's example column. -/
theorem test_header :
    let k := kernelOfHeader 0x2000000000 (leBytes 4 0x4B48575A ++ leBytes 2 1 ++ leBytes 2 0 ++ leBytes 4 64 ++ leBytes 4 0x800 ++ [1, 0] ++ leBytes 2 6 ++
      leBytes 2 2 ++ [40, 1] ++ leBytes 4 0x1D00 ++ leBytes 2 4 ++ [1, 3] ++ leBytes 4 9 ++ leBytes 4 0 ++ leBytes 4 0 ++ leBytes 2 0 ++ leBytes 2 8 ++
      leBytes 4 0x900 ++ leBytes 4 0xA00 ++ leBytes 4 0 ++ leBytes 4 0)
    [k.width, k.demand, k.minshare, k.nscal, k.nbar, k.bufBytes, k.nbuf, k.gang, k.cls, k.trap.toNat, k.nsym] = [64, 6, 2, 40, 1, 7424, 4, 1, 3, 9, 8] := by
  decide

/-- The record of R340's example column. -/
theorem test_record :
    let r := launchRecOf ([1, 8, 1, 3] ++ leBytes 4 7 ++ leBytes 8 0x2000000000 ++ leBytes 8 0x40000F0000 ++ leBytes 4 1 ++ leBytes 4 1 ++ leBytes 4 1 ++
      [4, 1, 0, 0] ++ leBytes 16 0 ++ leBytes 8 0x2000100000 ++ leBytes 4 1 ++ leBytes 4 0 ++ leBytes 8 0x2000100040 ++ List.replicate 40 0 ++
      leBytes 8 0x40000F1000)
    [r.prio, r.number.toNat, r.hdr.toNat, r.gdimx, r.waves, r.tiles, r.npages, r.cpl.toNat] = [1, 7, 0x2000000000, 1, 4, 1, 1, 0x40000F1000] := by decide

/-- A kernel with share 2 whose eight values overlap and whose buffers leave no reserve: values 2 to 7 lie in slots 0 to 5 of local memory (R235,
R238). Its instruction adds 7 to value 1, and the sum is value 5. -/
def farState : State :=
  let s := State.reset.withFetchWord 96 (7 * 2 ^ 32 + 0x42805)
  let k := { probeKernel with
    demand := 8, minshare := 2, lives := (List.range 8).map fun n => ⟨n, 1, 0, 4096⟩, bufBytes := 786432, bufs := [⟨786432, 16, 0⟩] }
  { s with
    grids := s.grids.map fun g => { g with kernel := k, rcd := { g.rcd with lmem := 0x200000, lmemsz := 0x200000 } }
    blocks := s.blocks.map fun b => { b with baseShare := 2, waves := b.waves.map fun w =>
      { w with share := 2, wanted := 2, splits := w.splits.map fun sp => { sp with vreg := [(128 + 3, 0xAABBCCD6)] } } } }

/-- Lane 3 of value 5 stands in slot 3, 3 × 4W + 12 bytes into the window (R238, R239). -/
theorem test_spill_slot : (match step farState with
    | .next t => Memory.read t.mem (0x40200000 + 396) 4
    | _ => []) = [0xDD, 0xCC, 0xBB, 0xAA] := by decide +kernel
end Sys2Proof.Tests
end

section
/-! Decoding and encoding are inverse (R32, R38, R39, R42, R52): the opcode map read backwards, a form from its words and its words from
it, and words from the bytes that memory holds. -/
namespace Sys2Proof

/-! ## The opcode map -/

/-- The opcode map gives every well-formed instruction back from the opcode and form it is encoded with. -/
theorem ofOpcode_of_opcodeForm (i : Instr) : Laws.Encoded.Statement i := by
  cases i with
  | illegalOpcode op f => exact Laws.Encoded.illegalOpcode op f
  | reservedOpcode op f => exact Laws.Encoded.reservedOpcode op f
  | _ =>
    intro _ op f e
    cases e <;> rfl

/-- What the opcode map assigns is a step of the device, encoded with that opcode and form: by rows of sixteen opcodes. -/
theorem opcodeForm_of_ofAssigned {n : Nat} {f : Form} {i : Instr} (h : ofAssigned n f = some i) :
    i.wf = true ∧ opcodeForm i = some (BitVec.ofNat 9 n, f) := by
  have hn : n = n / 16 * 16 + n % 16 := (Nat.div_add_mod' n 16).symm
  unfold ofAssigned at h
  split at h
  case h_18 => cases h
  all_goals
    rename_i hq
    simp only [ofOpcode0, ofOpcode1, ofOpcode2, ofOpcode3, ofOpcode4, ofOpcode5, ofOpcode6, ofOpcode7, ofOpcode8, ofOpcode9, ofOpcodeA,
      ofOpcodeB, ofOpcodeC, ofOpcodeD, ofOpcodeE, ofOpcodeF, ofOpcode10] at h
    split at h <;> cases h
    all_goals
      rename_i hr
      rw [hq, hr] at hn
      subst hn
      cases f <;> exact ⟨rfl, rfl⟩

/-- Where the map gives nothing, the opcode is not assigned. -/
theorem not_assigned_of_ofAssigned {n : Nat} (hn : n < 512) {f : Form} (h : ofAssigned n f = none) : opcodeAssigned n = false := by
  have all : ∀ q < 32, ∀ r < 16, ofAssigned (16 * q + r) f = none → opcodeAssigned (16 * q + r) = false := by
    cases f <;> exact of_decide_eq_true rfl
  rw [← Nat.div_add_mod n 16] at h ⊢
  exact all (n / 16) (by omega) (n % 16) (Nat.mod_lt _ (by decide)) h

/-- Every opcode in every form is that of a well-formed instruction. -/
theorem wf_opcodeForm_ofOpcode (op : BitVec 9) (f : Form) : (ofOpcode op f).wf = true ∧ opcodeForm (ofOpcode op f) = some (op, f) := by
  unfold ofOpcode
  split
  next i h => simpa using opcodeForm_of_ofAssigned h
  next h =>
    have hu := not_assigned_of_ofAssigned op.isLt h
    split
    next hlt => exact ⟨by simp [Instr.wf, Instr.check, WfError.unless, hlt, hu], rfl⟩
    next hge => exact ⟨by simp [Instr.wf, Instr.check, WfError.unless, Nat.le_of_not_lt hge], rfl⟩

/-! ## Words from the fields read of them -/

/-- A word is its top 21 bits, its opcode and its LEN (R38). -/
theorem append_opcodeOf_lenOf (w : Word) : w.extractLsb' 11 21 ++ opcodeOf w ++ lenOf w = w := by
  refine BitVec.eq_of_getLsbD_eq fun i hi => ?_
  simp only [opcodeOf, lenOf, BitVec.getLsbD_append, BitVec.getLsbD_extractLsb']
  grind

theorem packShort_shortOf (w : Word) : packShort (opcodeOf w) (shortOf w) (lenOf w) = w := by
  refine BitVec.eq_of_getLsbD_eq fun i hi => ?_
  simp only [packShort, shortOf, opcodeOf, lenOf, BitVec.getLsbD_append, BitVec.getLsbD_extractLsb']
  grind

/-- A word is its two halves. -/
theorem append_halves (w : Word) : w.extractLsb' 16 16 ++ w.extractLsb' 0 16 = w := by
  refine BitVec.eq_of_getLsbD_eq fun i hi => ?_
  simp only [BitVec.getLsbD_append, BitVec.getLsbD_extractLsb']
  grind

theorem packExt_extOf (w w1 w2 : Word) : packExt (opcodeOf w) (extOf w w1 w2) (lenOf w) = [w, w1, w2] := by
  simp only [packExt, extOf, append_opcodeOf_lenOf, append_halves]

theorem packLiteral_literalOf (lo hi : Word) : packLiteral (literalOf lo hi) = [lo, hi] := by
  simp only [packLiteral, literalOf, List.cons.injEq, and_true]
  constructor <;> refine BitVec.eq_of_getLsbD_eq fun i h => ?_ <;> simp only [BitVec.getLsbD_extractLsb', BitVec.getLsbD_append] <;> grind

/-- Whatever list of words starts with a form is the words of that form and the rest. -/
theorem encodeForm_of_decodeForm {ws rest : List Word} {op : BitVec 9} {f : Form} (h : decodeForm ws = .ok (op, f, rest)) :
    ws = encodeForm op f ++ rest := by
  unfold decodeForm at h
  split at h
  next => cases h
  next w _ =>
    have short : ∀ len, (lenOf w).toNat = len.toNat → packShort (opcodeOf w) (shortOf w) len = w := fun len hl => by
      rw [← BitVec.eq_of_toNat_eq hl, packShort_shortOf]
    have ext : ∀ len w1 w2, (lenOf w).toNat = len.toNat → packExt (opcodeOf w) (extOf w w1 w2) len = [w, w1, w2] := fun len w1 w2 hl => by
      rw [← BitVec.eq_of_toNat_eq hl, packExt_extOf]
    split at h <;> cases h <;> rename_i hl
    · simp [encodeForm, short 0#2 hl]
    · simp [encodeForm, short 1#2 hl, packLiteral_literalOf]
    · simp [encodeForm, ext 2#2 _ _ hl]
    · simp [encodeForm, ext 3#2 _ _ hl, packLiteral_literalOf]

/-! ## Bytes -/

theorem wordsOfBytes_bytesOfWord (w : Word) (bs : List Byte) : wordsOfBytes (bytesOfWord w ++ bs) = w :: wordsOfBytes bs := by
  simp only [bytesOfWord, List.cons_append, List.nil_append, wordsOfBytes]
  rw [wordOfBytes_bytesOfWord w _ _ _ _ rfl]

/-- The words of the bytes that memory holds for a list of words. -/
theorem wordsOfBytes_flatMap (ws : List Word) (bs : List Byte) : wordsOfBytes (ws.flatMap bytesOfWord ++ bs) = ws ++ wordsOfBytes bs := by
  induction ws with
  | nil => rfl
  | cons w ws ih => rw [List.flatMap_cons, List.append_assoc, wordsOfBytes_bytesOfWord, ih, List.cons_append]

theorem length_flatMap_bytesOfWord (ws : List Word) : (ws.flatMap bytesOfWord).length = 4 * ws.length := by
  induction ws with
  | nil => rfl
  | cons w ws ih => simp only [List.flatMap_cons, List.length_append, ih, List.length_cons, bytesOfWord, List.length_nil]; omega

theorem length_encodeForm (op : BitVec 9) (f : Form) : (encodeForm op f).length = f.words := by
  match f with
  | .base _ | .long (.lit _ _) | .long (.ext _) | .long (.extLit _ _) => rfl

/-! ## Instructions -/

/-- An instruction that has words has an opcode and a form, and its words are theirs. -/
theorem encode_eq_some {i : Instr} {ws : List Word} (h : encode i = some ws) : ∃ op f, opcodeForm i = some (op, f) ∧ ws = encodeForm op f := by
  unfold encode at h
  split at h <;> cases h
  exact ⟨_, _, ‹_›, rfl⟩

theorem decodeWords_encode {i : Instr} {ws : List Word} (hw : i.wf = true) (h : encode i = some ws) (rest : List Word) :
    decodeWords (ws ++ rest) = .ok (i, rest) := by
  obtain ⟨op, f, hi, rfl⟩ := encode_eq_some h
  simp [decodeWords, decodeForm_encodeForm, ofOpcode_of_opcodeForm i hw op f hi]

theorem decode_encode {i : Instr} {ws : List Word} (hw : i.wf = true) (h : encode i = some ws) (bs : List Byte) :
    decode (ws.flatMap bytesOfWord ++ bs) = .ok (i, bs) := by
  obtain ⟨op, f, hi, rfl⟩ := encode_eq_some h
  simp [decode, wordsOfBytes_flatMap, decodeForm_encodeForm, ofOpcode_of_opcodeForm i hw op f hi, ← length_encodeForm op f,
    ← length_flatMap_bytesOfWord]

theorem encode_of_decodeWords {ws rest : List Word} {i : Instr} (h : decodeWords ws = .ok (i, rest)) :
    i.wf = true ∧ ∃ own, encode i = some own ∧ ws = own ++ rest := by
  unfold decodeWords at h
  split at h <;> cases h
  next op f hd =>
    obtain ⟨hw, ho⟩ := wf_opcodeForm_ofOpcode op f
    exact ⟨hw, encodeForm op f, by simp [encode, ho], encodeForm_of_decodeForm hd⟩

/-- Settles O47: a form is read back from its words and the words from it, and the opcode map is read both ways. -/
theorem decodeInvertsEncode : Obligations.DecodeInvertsEncode := by
  unfold Obligations.DecodeInvertsEncode
  exact ⟨fun _ _ rest hw h => decodeWords_encode hw h rest, fun _ _ bs hw h => decode_encode hw h bs, fun _ _ _ h => encode_of_decodeWords h⟩

end Sys2Proof
end

section
/-! Floating-point comparison and the conversion of a value to an integer (R50, R102, R115). -/
namespace Sys2Proof.Machine

/-! ## Comparison -/

/-- Unordered values satisfy `.ne` and `.uno` alone. -/
theorem cmpFloat_of_none {a b : FV} (h : cmpFV a b = none) (cmp : Nat) : cmpFloat cmp a b = (cmp = 1 || cmp = 7) := by
  unfold cmpFloat
  rw [h]
  split <;> simp_all

/-- The codes 0 to 7 of two ordered values. -/
theorem cmpFloat_of_some {a b : FV} {o : Ordering} (h : cmpFV a b = some o) :
    cmpFloat 0 a b = decide (o = .eq) ∧ cmpFloat 1 a b = decide (o ≠ .eq) ∧ cmpFloat 2 a b = decide (o = .lt) ∧
    cmpFloat 3 a b = decide (o ≠ .gt) ∧ cmpFloat 4 a b = decide (o = .gt) ∧ cmpFloat 5 a b = decide (o ≠ .lt) ∧
    cmpFloat 6 a b = true ∧ cmpFloat 7 a b = false := by
  simp [cmpFloat, h]

theorem cmpFV_nan_left (v : FV) : cmpFV .nan v = none := rfl

theorem cmpFV_nan_right (v : FV) : cmpFV v .nan = none := by cases v <;> rfl

/-- Values other than NaN are ordered. -/
theorem cmpFV_ordered {a b : FV} (ha : a ≠ .nan) (hb : b ≠ .nan) : ∃ o, cmpFV a b = some o := by
  cases a <;> cases b <;> simp_all [cmpFV]

/-- What (−1)^n · m · 2^e stands for. -/
def ratOf (n : Bool) (m : Nat) (e : Int) : ℚ := (if n then -(m : ℚ) else m) * 2 ^ e

/-- The integer of a value at an exponent not above its own, scaled back. -/
theorem mantAt_mul_zpow (n : Bool) (m : Nat) {e k : Int} (h : k ≤ e) : (mantAt n m e k : ℚ) * 2 ^ k = ratOf n m e := by
  obtain ⟨j, rfl⟩ := Int.le.dest h
  have hp : (2 : ℚ) ^ (k + (j : Int)) = 2 ^ j * 2 ^ k := by rw [zpow_add₀ two_ne_zero, zpow_natCast, mul_comm]
  cases n <;> simp [mantAt, ratOf, hp, mul_assoc]

/-- The order of finite values is that of the rationals they stand for. -/
theorem cmpFV_fin (n n' : Bool) (m m' : Nat) (e e' : Int) :
    cmpFV (.fin n m e) (.fin n' m' e') = some (compare (ratOf n m e) (ratOf n' m' e')) := by
  rw [← mantAt_mul_zpow n m (min_le_left e e'), ← mantAt_mul_zpow n' m' (min_le_right e e')]
  have hp : (0 : ℚ) < 2 ^ min e e' := zpow_pos two_pos _
  simp only [cmpFV, Option.some.injEq]
  rcases lt_trichotomy (mantAt n m e (min e e')) (mantAt n' m' e' (min e e')) with h | h | h
  · rw [compare_lt_iff_lt.2 h, eq_comm, compare_lt_iff_lt]
    exact mul_lt_mul_of_pos_right (by exact_mod_cast h) hp
  · rw [h, compare_eq_iff_eq.2 rfl, compare_eq_iff_eq.2 rfl]
  · rw [compare_gt_iff_gt.2 h, eq_comm, compare_gt_iff_gt]
    exact mul_lt_mul_of_pos_right (by exact_mod_cast h) hp

/-! ## Conversion to an integer -/

theorem IntTy.lo_nonpos (t : IntTy) : t.lo ≤ 0 := by
  unfold IntTy.lo; split <;> simp

theorem IntTy.hi_nonneg (t : IntTy) : 0 ≤ t.hi := by
  have h : ∀ k : Nat, (1 : Int) ≤ 2 ^ k := fun k => one_le_pow₀ (by decide)
  unfold IntTy.hi; split <;> linarith [h (t.n - 1), h t.n]

theorem clampI_bounds {lo hi : Int} (h : lo ≤ hi) (v : Int) : lo ≤ clampI lo hi v ∧ clampI lo hi v ≤ hi := by
  unfold clampI; grind

theorem clampI_of_mem {lo hi v : Int} (h : lo ≤ v) (h' : v ≤ hi) : clampI lo hi v = v := by
  unfold clampI; grind

/-- A conversion's result by the kind of its value. -/
theorem FV.toInt_nan (t : IntTy) (rnd d : Nat) : FV.nan.toInt t.n t.signed rnd d = 0 := rfl
theorem FV.toInt_inf (t : IntTy) (s : Bool) (rnd d : Nat) : (FV.inf s).toInt t.n t.signed rnd d = if s then t.lo else t.hi := rfl

theorem FV.toInt_fin (t : IntTy) (s : Bool) (m : Nat) (e : Int) (rnd d : Nat) :
    ∃ q : Int, (FV.fin s m e).toInt t.n t.signed rnd d = clampI t.lo t.hi (if s then -q else q) ∧
      (¬ (128 < (Nat.log2 m : Int) + e ∧ m ≠ 0) → q = Mag.steps ⟨m, e, false⟩ 0 rnd d s) :=
  ⟨_, rfl, fun h => if_neg h⟩

/-- Every result lies in the type's range. -/
theorem FV.toInt_mem (t : IntTy) (v : FV) (rnd d : Nat) : t.lo ≤ v.toInt t.n t.signed rnd d ∧ v.toInt t.n t.signed rnd d ≤ t.hi := by
  have hr : t.lo ≤ t.hi := t.lo_nonpos.trans t.hi_nonneg
  cases v with
  | nan => exact ⟨t.lo_nonpos, t.hi_nonneg⟩
  | inf s => rw [FV.toInt_inf]; split <;> simp [hr]
  | fin s m e =>
    obtain ⟨q, h, -⟩ := FV.toInt_fin t s m e rnd d
    rw [h]
    exact clampI_bounds hr _

/-- An integer takes itself as its rounding: no fraction is left to round up, whatever the draw. -/
theorem Mag.steps_int (m rnd d : Nat) (hd : d < 2 ^ 16) (s : Bool) : Mag.steps ⟨m, 0, false⟩ 0 rnd d s = m := by
  have ht : shl m 17 = m * 2 ^ 17 := by simp [shl, Nat.shiftLeft_eq]
  have hb : shl (m * 2 ^ 17) (-17) = m := by simp [shl, Nat.shiftRight_eq_div_pow]
  have hr : m * 2 ^ 17 % 2 ^ 17 = 0 := Nat.mul_mod_left m _
  have hq : m * 2 ^ 17 / 2 ^ 17 = m := Nat.mul_div_cancel m (by decide)
  have hu : ¬ 65536 ≤ d := by omega
  simp only [Mag.steps, zero_sub, sub_neg_eq_add, zero_add, sub_zero, ht, hb, hr, hq]
  split <;> simp_all

/-- An integer of the type's range converts to itself. -/
theorem FV.toInt_ofInt {t : IntTy} (ht : t.n ≤ 64) {k : Int} (hl : t.lo ≤ k) (hh : k ≤ t.hi) (rnd : Nat) {d : Nat} (hd : d < 2 ^ 16) :
    (FV.ofInt k).toInt t.n t.signed rnd d = k := by
  have hk : k.natAbs < 2 ^ 65 := by
    have h64 : ∀ j ≤ 64, (2 : Int) ^ j ≤ 2 ^ 64 := fun j hj => pow_le_pow_right₀ (by decide) hj
    have h1 := h64 t.n ht
    have h2 := h64 (t.n - 1) (by omega)
    unfold IntTy.lo at hl
    unfold IntTy.hi at hh
    grind
  have hlog : Nat.log2 k.natAbs < 65 := by
    by_cases h0 : k.natAbs = 0
    · simp [h0]
    · exact (Nat.log2_lt h0).2 hk
  obtain ⟨q, h, hq⟩ := FV.toInt_fin t (k < 0) k.natAbs 0 rnd d
  rw [FV.ofInt, h, hq (by omega), Mag.steps_int _ _ _ hd]
  have hs : (if decide (k < 0) = true then -(k.natAbs : Int) else k.natAbs) = k := by
    simp only [decide_eq_true_eq]; omega
  rw [hs, clampI_of_mem hl hh]

/-- The integer types that an instruction names have at most 64 bits (R49). -/
theorem intTy_bits_le (code : Nat) : (intTy code).n ≤ 64 := by
  unfold intTy
  split <;> decide

/-- Settles O5: values other than NaN are ordered as the rationals they stand for, and a conversion clamps to its type's range what
Mag.steps rounds. -/
theorem floatLaws : Obligations.FloatLaws := by
  unfold Obligations.FloatLaws
  refine ⟨⟨?nan, ?zero, ?fin, ?inf, ?codes⟩, ?toInt⟩
  case nan =>
    intro v cmp _
    exact ⟨cmpFloat_of_none (cmpFV_nan_left v) cmp, cmpFloat_of_none (cmpFV_nan_right v) cmp⟩
  case zero =>
    intro e e' n n'
    simp [(cmpFloat_of_some (cmpFV_fin n n' 0 0 e e')).1, ratOf]
  case fin =>
    intro n n' m m' e e'
    obtain ⟨heq, -, hlt, -, hgt, -⟩ := cmpFloat_of_some (cmpFV_fin n n' m m' e e')
    refine ⟨?_, ?_, ?_, rfl, rfl, rfl, rfl⟩
    · rw [heq, decide_eq_true_iff, compare_eq_iff_eq]; rfl
    · rw [hlt, decide_eq_true_iff, compare_lt_iff_lt]; rfl
    · rw [hgt, decide_eq_true_iff, compare_gt_iff_gt]; rfl
  case inf =>
    intro n n'
    cases n <;> cases n' <;> decide
  case codes =>
    intro a b ha hb
    obtain ⟨o, ho⟩ := cmpFV_ordered ha hb
    obtain ⟨h0, h1, h2, h3, h4, h5, h6, h7⟩ := cmpFloat_of_some ho
    rw [h0, h1, h2, h3, h4, h5, h6, h7]
    cases o <;> decide
  case toInt =>
    intro t rnd d hd ht
    have hn : t.n ≤ 64 := by
      simp only [List.mem_cons, List.not_mem_nil, or_false] at ht
      rcases ht with rfl | rfl | rfl | rfl | rfl | rfl | rfl | rfl <;> exact intTy_bits_le _
    exact ⟨rfl, rfl, rfl, fun v => FV.toInt_mem t v rnd d, fun k hl hh => FV.toInt_ofInt hn hl hh rnd hd⟩

end Sys2Proof.Machine
end

section
/-! One issue for all instructions: the faults that end it before the operands are read, and what an instruction is charged (R54, R152, R371). -/
namespace Sys2Proof.Machine

/-! ## A decoding fault -/

/-- LEN as the operand fields of a form give it. -/
theorem Raw.of_len (b : Bool) (f : Form) : (Raw.of b f).len = formLen f := by
  cases f with
  | base o => rfl
  | long l => cases l <;> rfl

/-- A decoding fault is all that comes of an issue. -/
theorem State.issueOp_of_opcodeFault {s : State} {c : Cur} {op code info : Nat} {f : Form} (hc : s.cur = some c)
    (h : s.opcodeFault c op (formLen f) = some (code, info)) (spec : Nat → Spec) (body : State → Cur → Ctx → Res) :
    ∃ n, s.issueOp op f spec body = .next (s.faulted c n code info) := by
  simp only [State.issueOp, hc, State.issueBy, Raw.of_len, h]
  exact ⟨_, rfl⟩

/-! ## A destination that an opcode does not take -/

/-- An operand in D that its position does not accept is a defect, if no other is found before. -/
theorem Spec.defect_of_d {sp : Spec} {p : Slot} {k : Limits} {r : Raw} (hd : sp.d = some p) (ha : p.accepts k r.d = false) :
    ∃ info, sp.defect k r = some info := by
  obtain ⟨info, hi⟩ : ∃ info, posDefect k sp.d r.len r.rd r.d 0 = some info := by simp [posDefect, hd, ha]
  have hl : (if sp.b.isSome then 2 else if sp.a.isSome then 1 else 5) ≠ 0 := by split_ifs <;> decide
  simp only [Spec.defect, hl, decide_false, Bool.and_false, Bool.false_and, Bool.false_eq_true, if_false, hi, Option.some_or]
  rw [← apply_ite some]
  exact ⟨_, rfl⟩

/-- An instruction without a decoding fault whose operands have a defect raises OPERAND_CLASS. -/
theorem State.issueOp_of_defect {s : State} {c : Cur} {op : Nat} {f : Form} {spec : Nat → Spec} (hc : s.cur = some c)
    (ho : s.opcodeFault c op (rawOf f spec).len = none) (hd : ∃ info, (specOf f spec).defect (s.limitsOf c) (rawOf f spec) = some info)
    (body : State → Cur → Ctx → Res) :
    ∃ info, s.issueOp op f spec body = .next (s.faulted c (passesOf c f spec) Fc.operandClass info) := by
  obtain ⟨info, hi⟩ := hd
  simp only [rawOf, specOf] at ho hi
  simp only [State.issueOp, hc, State.issueBy, ho, hi]
  exact ⟨info, rfl⟩

/-! ## Completion -/

/-- An instruction whose body completes, from one state. -/
theorem exec_of_done {s t : State} {c : Cur} {op : Nat} {f : Form} {spec : Nat → Spec} {x : Ctx} {i : Instr} {ev : List (Ev × Nat)}
    {body : State → Cur → Ctx → Res} (he : ∀ s, exec i s = s.issueOp op f spec body) (h : Issues s c op f spec x)
    (hb : body (s.ready c x) c.counted x = .done t ev) : exec i s = .next (t.ended c f spec ev (c.next f)) :=
  exec_of_body' he h hb rfl

/-- A statement about both rows of an opcode, from their one issue. -/
theorem both_of_issueOp {op : Nat} {spec : Nat → Spec} {body : State → Cur → Ctx → Res} {short : Short → Instr} {long : Long → Instr}
    {p : Instr → Form → Prop} (hs : ∀ f s, exec (short f) s = s.issueOp op (.base f) spec body)
    (hl : ∀ f s, exec (long f) s = s.issueOp op (.long f) spec body)
    (h : ∀ i f, (∀ s, exec i s = s.issueOp op f spec body) → p i f) : Both short long p :=
  ⟨fun f => h _ _ (hs f), fun f => h _ _ (hl f)⟩

/-! ## Counting and booking -/

/-- Counting an instruction changes neither who pays for it nor which kernel and window are its block's. -/
theorem State.bookFor_counted (s : State) (c : Cur) (ev : List (Ev × Nat)) : s.bookFor c.counted.blk ev = s.bookFor c.blk ev := by
  unfold Cur.counted
  split
  · rfl
  · cases h : c.blk.method <;> simp only [State.bookFor, h, Option.map_none, Option.map_some]

theorem State.spillArea_counted (s : State) (c : Cur) : s.spillArea c.counted.blk = s.spillArea c.blk := by
  unfold Cur.counted
  split
  · rfl
  · cases h : c.blk.method <;> simp [State.spillArea, State.gridOf, State.kernelOf, h]

@[simp] theorem Cur.counted_slots (c : Cur) : c.counted.slots = c.slots := by
  unfold Cur.counted; split <;> rfl

theorem State.bookIssue_counted (s : State) (c : Cur) (passes : Nat) (ev : List (Ev × Nat)) :
    s.bookIssue c.counted passes ev = s.bookIssue c passes ev := by
  simp only [State.bookIssue, State.spillEvents, Cur.counted_split, Cur.counted_slots, State.bookFor_counted, State.spillArea_counted]

/-- The state in which an instruction takes its effect has the counted split in focus. -/
theorem State.ready_with_cur (s : State) (c : Cur) (x : Ctx) : ({ s.ready c x with cur := some c.counted } : State) = s.ready c x := by
  obtain ⟨l, h⟩ := s.ready_eq c x
  rw [h]

end Sys2Proof.Machine
end

section
/-! The opcode map's words of R52, the opcodes that no instruction has (R53), and the decoding faults that come before all an
instruction does (R54, R361). -/
namespace Sys2Proof

/-- Settles O52: the decoder evaluated on each list of words. -/
theorem specWordsDecode : Obligations.SpecWordsDecode := by
  unfold Obligations.SpecWordsDecode
  decide

namespace Machine

/-! ## Opcodes without an instruction -/

/-- An illegal opcode faults, whatever wave issues it. -/
theorem exec_illegalOpcode {s : State} {c : Cur} (h : s.cur = some c) (op : BitVec 9) (f : Form) :
    exec (.illegalOpcode op f) s = .next (s.faulted c 1 Fc.illegalOp (opcodeInfo op f)) := by
  simp only [exec, execIllegalOpcode, h]

/-- A reserved opcode faults in a method's wave and in one that saves, and stops any other wave's block. -/
theorem exec_reservedOpcode {s : State} {c : Cur} (h : s.cur = some c) (op : BitVec 9) (f : Form) :
    exec (.reservedOpcode op f) s = .next (
      if c.blk.method.isSome ∨ c.wave.pre.isSome then s.faulted c 1 Fc.featureAbsent (opcodeInfo op f)
      else
        let u := ({ s with cur := some c.counted } : State).bookFor c.blk [(.issue, 1)]
        ({ u with tick := u.tick + 1 } : State).blockStop (c.counted.issued u.tick) c.split.pc (BitVec.ofNat 64 (opcodeInfo op f))) := by
  simp only [exec, execReservedOpcode, h]
  split <;> rfl

/-- Settles O23: the equations of the two opcodes without an instruction, by the kind of the wave. -/
theorem unassignedOpcodesComplete : Obligations.UnassignedOpcodesComplete := by
  unfold Obligations.UnassignedOpcodesComplete
  refine ⟨fun op f s c h => exec_illegalOpcode h op f, fun op f s c h hw => ?_, fun op f s c h hm hp => ?_⟩
  · rw [exec_reservedOpcode h, if_pos hw]; rfl
  · rw [exec_reservedOpcode h, if_neg (by simp [hm, hp])]; rfl

/-! ## Decoding faults -/

/-- Every instruction of an assigned opcode goes through the one issue, with the opcode and form that it is encoded with. -/
theorem exec_eq_issueOp {i : Instr} {op : BitVec 9} {f : Form} (hw : i.wf = true) (h : opcodeForm i = some (op, f))
    (ha : opcodeAssigned op.toNat = true) (s : State) : ∃ spec body, exec i s = s.issueOp op.toNat f spec body := by
  cases i with
  | illegalOpcode op' f' =>
    cases h
    have := Laws.Encoded.assigned_lt _ (of_decide_eq_true (Laws.Encoded.unless_isNone hw))
    simp [this] at ha
  | reservedOpcode op' f' =>
    cases h
    simpa [ha] using Laws.Encoded.unless_isNone hw
  | _ => cases h <;> exact ⟨_, _, rfl⟩

/-- A masked opcode is a decoding fault before all others. -/
theorem State.opcodeFault_masked {s : State} {c : Cur} {op len : Nat} (h : s.opMasked c.blk.fn op = true) :
    s.opcodeFault c op len = some (Fc.maskedFeature, len * 512 + op) := by
  simp [State.opcodeFault, h]

/-- NOP, EXIT, TRET and PRDONE cannot be masked. -/
theorem State.opMasked_never {op : Nat} (h : op ∈ [0x000, 0x096, 0x099, 0x102]) (s : State) (fn : Nat) : s.opMasked fn op = false := by
  simp only [List.mem_cons, List.not_mem_nil, or_false] at h
  rcases h with rfl | rfl | rfl | rfl <;> exact Bool.and_false _

/-- A method's instruction in a kernel of another role. -/
theorem State.opcodeFault_role {s : State} {c : Cur} {op : Nat} (hm : s.opMasked c.blk.fn op = false) (hlo : 0x0EB ≤ op) (hhi : op ≤ 0x0EE)
    (hr : (s.kernelOf c.blk).role ≠ 1) (len : Nat) : s.opcodeFault c op len = some (Fc.access, accessInfo op 1) := by
  simp [State.opcodeFault, hm, hlo, hhi, hr]

/-- A privileged instruction in a wave without privilege. -/
theorem State.opcodeFault_privilege {s : State} {c : Cur} {op : Nat} (hm : s.opMasked c.blk.fn op = false) (hlo : 0x100 ≤ op)
    (hhi : op ≤ 0x105) (hb : c.blk.method = none) (hp : c.wave.privilege = 0) (len : Nat) :
    s.opcodeFault c op len = some (Fc.access, accessInfo op 2) := by
  have hrole : ¬ (0x0EB ≤ op ∧ op ≤ 0x0EE ∧ (s.kernelOf c.blk).role ≠ 1) := by omega
  by_cases hsave : op = 0x102 ∨ op = 0x103
  · simp [State.opcodeFault, hm, hrole, hb, hp, hsave]
  · obtain ⟨h2, h3⟩ := not_or.1 hsave
    simp [State.opcodeFault, hm, hrole, hb, hp, h2, h3, hlo, hhi]

/-- Any other instruction outside a method has no decoding fault. -/
theorem State.opcodeFault_none {s : State} {c : Cur} {op : Nat} (hm : s.opMasked c.blk.fn op = false) (hrole : op < 0x0EB ∨ 0x0EE < op)
    (hpriv : op < 0x100) (hb : c.blk.method = none) (len : Nat) : s.opcodeFault c op len = none := by
  simp only [State.opcodeFault, hm, hb]
  rw [if_neg (by decide), if_neg (by omega), if_neg (by simp), if_neg (by omega), if_neg (by omega)]

/-- Settles O59: every instruction goes through the one issue, which looks for a decoding fault first. -/
theorem decodingFaultsComeFirst : Obligations.DecodingFaultsComeFirst := by
  unfold Obligations.DecodingFaultsComeFirst
  refine ⟨fun i op f s c code info hw ho ha hc hf => ?_, fun s c op len _ => ⟨State.opcodeFault_masked, fun h => State.opMasked_never h _ _,
    fun hm hlo hhi hr => State.opcodeFault_role hm hlo hhi hr len, fun hm hlo hhi hb hpre hl => ?_,
    fun hm hrole hpriv hb => State.opcodeFault_none hm hrole hpriv hb len⟩⟩
  · obtain ⟨spec, body, he⟩ := exec_eq_issueOp hw ho ha s
    rw [he]
    exact State.issueOp_of_opcodeFault hc hf spec body
  · exact State.opcodeFault_privilege hm hlo hhi hb (by simp [Wave.privilege, hpre, hl]) len

end Machine

end Sys2Proof
end

section
/-! A result changes no register but those of its destination (R56, R60): what a written lane leaves alone, and so every result that
lands. -/
namespace Sys2Proof.Machine

/-- Setting a key leaves every other key, also of a map that is not in canonical form. -/
theorem spGet_spSet_of_ne {α : Type} [DecidableEq α] {d x : α} {a k : Nat} (h : k ≠ a) (m : Sp α) :
    spGet d (spSet d m a x) k = spGet d m k := by
  induction m with
  | nil =>
    simp only [spSet]
    split
    · rfl
    · exact if_neg (Ne.symm h)
  | cons e m ih =>
    obtain ⟨j, v⟩ := e
    simp only [spSet]
    split_ifs with _ _ hj
    · rfl
    · exact if_neg (Ne.symm h)
    · subst hj; exact (if_neg (Ne.symm h)).symm
    · subst hj; rw [spGet, spGet, if_neg (Ne.symm h), if_neg (Ne.symm h)]
    · simp only [spGet, ih]

/-- Keys of two per-lane registers differ where the registers do. -/
theorem laneKey_ne {n m i j : Nat} (h : n ≠ m) (hi : i < 128) (hj : j < 128) : 128 * n + i ≠ 128 * m + j := by omega

/-- A mask with no pending result applied. -/
def Split.committedMask (sp : Split) (n : Nat) : Mask := if n = 16 then sp.exec else spGet 0 sp.uni.k n

/-- A register that stands in one split as in another, in every lane and as a mask, with the same lanes and forks. -/
structure Split.Stands (r : RegId) (sp sp' : Split) : Prop where
  committed : ∀ i, i < 128 → sp'.committed r i = sp.committed r i
  mask : ∀ m, r = .mask m → sp'.committedMask m = sp.committedMask m
  owned : sp'.owned = sp.owned
  forks : sp'.forks = sp.forks

namespace Split.Stands

theorem refl (r : RegId) (sp : Split) : sp.Stands r sp := ⟨fun _ _ => rfl, fun _ _ => rfl, rfl, rfl⟩

theorem trans {r : RegId} {a b c : Split} (h : a.Stands r b) (k : b.Stands r c) : a.Stands r c :=
  ⟨fun i hi => (k.committed i hi).trans (h.committed i hi), fun m hm => (k.mask m hm).trans (h.mask m hm), k.owned.trans h.owned,
    k.forks.trans h.forks⟩

/-- What a result on its way and its marks touch is no register. -/
theorem of_pend (r : RegId) (sp : Split) (pend : List Pend) (held : List (List Pend)) (written : List RegId) :
    sp.Stands r { sp with pend, held, written } := ⟨fun _ _ => by cases r <;> rfl, fun _ _ => rfl, rfl, rfl⟩

/-- A register set in a lane leaves every other register. -/
theorem set {r q : RegId} (hr : r ≠ q) (sp : Split) {j : Nat} (hj : j < 128) (v : Dword) : sp.Stands r (sp.set q j v) := by
  cases q with
  | sym n =>
    refine ⟨fun i hi => ?_, fun _ _ => rfl, rfl, rfl⟩
    cases r with
    | sym m => exact congrArg (BitVec.setWidth 64) (spGet_spSet_of_ne (α := Word) (laneKey_ne (by simpa using hr) hi hj) _)
    | _ => rfl
  | orf n =>
    refine ⟨fun i hi => ?_, fun _ _ => rfl, rfl, rfl⟩
    cases r with
    | orf m => exact congrArg (BitVec.setWidth 64) (spGet_spSet_of_ne (α := Word) (laneKey_ne (by simpa using hr) hi hj) _)
    | _ => rfl
  | scal n =>
    refine ⟨fun i _ => ?_, fun _ _ => rfl, rfl, rfl⟩
    cases r with
    | scal m => exact congrArg (BitVec.setWidth 64) (spGet_spSet_of_ne (α := Word) (by simpa using hr) _)
    | _ => rfl
  | td n =>
    refine ⟨fun i _ => ?_, fun _ _ => rfl, rfl, rfl⟩
    cases r with
    | td m =>
      have h : spGet {} (sp.set (.td n) j v).uni.td m = spGet {} sp.uni.td m := spGet_spSet_of_ne (by simpa using hr) _
      simp only [Split.committed, h]
    | _ => rfl
  | mask n =>
    have hm : ∀ m, r = .mask m → (sp.set (.mask n) j v).committedMask m = sp.committedMask m := by
      rintro m rfl
      have hmn : m ≠ n := by simpa using hr
      by_cases hn : n = 16
      · subst hn; simp [Split.set, Split.committedMask, hmn, Split.setFlaw, Split.overtake]
      · simp [Split.set, Split.committedMask, hn, Split.setFlaw, Split.overtake, spGet_spSet_of_ne hmn]
    obtain ⟨flaw, pend, held, exec, k, hs⟩ : ∃ flaw pend held exec k,
        sp.set (.mask n) j v = { sp with flaw, pend, held, exec, uni := { sp.uni with k } } := by
      unfold Split.set
      by_cases hn : n = 16 <;> simp only [hn, if_true, if_false] <;> exact ⟨_, _, _, _, _, rfl⟩
    rw [hs] at hm ⊢
    refine ⟨fun i _ => ?_, hm, rfl, rfl⟩
    cases r with
    | mask m => exact congrArg (fun k : Mask => if k.getLsbD i then (1 : Dword) else 0) (hm m rfl)
    | _ => rfl
  | rseed =>
    have hj' : j ≠ 128 := by omega
    simp only [Split.set, hj', if_false]
    exact ⟨fun i _ => by cases r <;> trivial, fun m hm => by subst hm; rfl, rfl, rfl⟩
  | xi | mode | status | trapPc | trapRec | inHandler =>
    exact ⟨fun i _ => by cases r <;> trivial, fun m hm => by subst hm; rfl, rfl, rfl⟩

theorem sets {r q : RegId} (hr : r ≠ q) (l : List (Nat × Dword)) (hl : ∀ p ∈ l, p.1 < 128) (sp : Split) : sp.Stands r (sp.sets q l) := by
  induction l generalizing sp with
  | nil => exact refl r sp
  | cons p l ih => exact (set hr sp (hl p List.mem_cons_self) p.2).trans (ih (fun q hq => hl q (List.mem_cons_of_mem p hq)) _)

end Split.Stands

/-- A pending result of a register other than one given, for lanes of a wave. -/
def Pend.ForOthers (r : RegId) (p : Pend) : Prop := p.reg ≠ r ∧ ∀ q ∈ p.vals, q.1 < 128

theorem Pend.void_reg (r : RegId) (i : Nat) (p : Pend) : (p.void r i).reg = p.reg := by
  unfold Pend.void; split <;> rfl

theorem Pend.ForOthers.void {r : RegId} {p : Pend} (h : p.ForOthers r) (q : RegId) (i : Nat) : (p.void q i).ForOthers r := by
  refine ⟨by rw [Pend.void_reg]; exact h.1, fun v hv => h.2 v ?_⟩
  unfold Pend.void at hv
  split at hv
  · exact List.mem_of_mem_filter hv
  · exact hv

/-- The results on their way once a lane is set: those before, some of them void there. -/
theorem Split.set_pend (sp : Split) (q : RegId) (i : Nat) (v : Dword) :
    (sp.set q i v).pend = sp.pend.map fun p => if p.ghost then p.void q i else p := by
  cases q with
  | mask n => unfold Split.set; by_cases hn : n = 16 <;> simp only [hn, if_true, if_false] <;> rfl
  | rseed => unfold Split.set; by_cases hi : i = 128 <;> simp only [hi, if_true, if_false] <;> rfl
  | _ => rfl

/-- No result on its way is the register's. -/
def Split.Idle (r : RegId) (sp : Split) : Prop := ∀ p ∈ sp.pend, p.ForOthers r

theorem Split.Idle.set {r : RegId} {sp : Split} (h : sp.Idle r) (q : RegId) (i : Nat) (v : Dword) : (sp.set q i v).Idle r := by
  intro p hp
  rw [Split.set_pend] at hp
  obtain ⟨p', hp', rfl⟩ := List.mem_map.1 hp
  split
  · exact (h p' hp').void q i
  · exact h p' hp'

theorem Split.Idle.sets {r : RegId} (q : RegId) (l : List (Nat × Dword)) {sp : Split} (h : sp.Idle r) : (sp.sets q l).Idle r := by
  induction l generalizing sp with
  | nil => exact h
  | cons p l ih => exact ih (h.set q p.1 p.2)

/-- One result of the list that `Split.settle` folds over: applied, or kept behind those that wait. -/
def Split.settleOne (a : Split) (p : Pend) : Split := if p.lands a.pend then a.sets p.reg p.vals else { a with pend := a.pend ++ [p] }

/-- Results that are not a register's leave it, whether they land or wait. -/
theorem Split.foldl_settleOne {r : RegId} (l : List Pend) (hl : ∀ p ∈ l, p.ForOthers r) (sp : Split) (h : sp.Idle r) :
    sp.Stands r (l.foldl Split.settleOne sp) ∧ (l.foldl Split.settleOne sp).Idle r := by
  induction l generalizing sp with
  | nil => exact ⟨.refl r sp, h⟩
  | cons p l ih =>
    have hp := hl p List.mem_cons_self
    have one : sp.Stands r (sp.settleOne p) ∧ (sp.settleOne p).Idle r := by
      unfold Split.settleOne
      split
      · exact ⟨.sets (Ne.symm hp.1) _ hp.2 sp, h.sets p.reg p.vals⟩
      · refine ⟨.of_pend r sp _ sp.held sp.written, fun q hq => ?_⟩
        rcases List.mem_append.1 hq with hq | hq
        · exact h q hq
        · rw [List.mem_singleton.1 hq]; exact hp
    obtain ⟨k, k'⟩ := ih (fun q hq => hl q (List.mem_cons_of_mem p hq)) _ one.2
    exact ⟨one.1.trans k, k'⟩

theorem Split.stands_advance {r : RegId} {sp : Split} (h : sp.Idle r) (n : Nat) : sp.Stands r (sp.advance n) ∧ (sp.advance n).Idle r := by
  have hl : ∀ p ∈ sp.pend.map fun p => { p with left := p.left - n }, p.ForOthers r := by
    intro p hp
    obtain ⟨p', hp', rfl⟩ := List.mem_map.1 hp
    exact h p' hp'
  obtain ⟨k, k'⟩ := Split.foldl_settleOne _ hl { sp with pend := [] } (fun _ hp => nomatch hp)
  exact ⟨(Split.Stands.of_pend r sp [] sp.held sp.written).trans k, k'⟩

theorem Split.mark_eq (sp : Split) (q : RegId) : ∃ written, sp.mark q = { sp with written } := by
  unfold Split.mark
  split
  · exact ⟨sp.written, rfl⟩
  · exact ⟨_, rfl⟩

/-- A result under way leaves every register; one of another register does not make a register less idle. -/
theorem Split.stands_put {r q : RegId} (hr : r ≠ q) {sp : Split} (h : sp.Idle r) {vals : List (Nat × Dword)} (hv : ∀ p ∈ vals, p.1 < 128)
    (lat : Nat) : sp.Stands r (sp.put q vals lat) ∧ (sp.put q vals lat).Idle r := by
  unfold Split.put
  dsimp only
  generalize (if (q = .orf 8 ∨ q = .orf 9) ∧ lat ≠ 0 then max 1 (lat - 2) else lat) = left
  obtain ⟨written, hw⟩ := Split.mark_eq { sp with pend := sp.pend ++ [{ reg := q, vals, left }] } q
  rw [hw]
  refine ⟨.of_pend r sp _ sp.held written, fun p hp => ?_⟩
  rcases List.mem_append.1 hp with hp | hp
  · exact h p hp
  · rw [List.mem_singleton.1 hp]; exact ⟨Ne.symm hr, hv⟩

/-- A result leaves every register that is not of its destination. -/
theorem Split.stands_result {r : RegId} {o : Opnd} {wide : Bool} (hr : r ∉ o.regs wide) {sp : Split} (h : sp.Idle r)
    {vals : List (Nat × Nat)} (hv : ∀ p ∈ vals, p.1 < 128) (lat : Nat) :
    sp.Stands r (sp.result o wide vals lat) ∧ (sp.result o wide vals lat).Idle r := by
  have lanes : ∀ f : Nat × Nat → Nat × Dword, (∀ v, (f v).1 = v.1) → ∀ p ∈ vals.map f, p.1 < 128 := by
    intro f hf p hp
    obtain ⟨v, hv', rfl⟩ := List.mem_map.1 hp
    rw [hf]
    exact hv v hv'
  unfold Split.result
  split
  next => exact ⟨.refl r sp, h⟩
  next =>
    split
    next => exact ⟨.refl r sp, h⟩
    next q hq => exact Split.stands_put (by simpa [hq] using hr) h (lanes _ fun _ => rfl) lat
    next q q' l hq =>
      obtain ⟨hne, hne', -⟩ : r ≠ q ∧ r ≠ q' ∧ r ∉ l := by simpa [hq] using hr
      obtain ⟨k, k'⟩ := Split.stands_put hne h (lanes (fun v => (v.1, BitVec.ofNat 64 (v.2 % 2 ^ 32))) fun _ => rfl) lat
      obtain ⟨m, m'⟩ := Split.stands_put hne' k' (lanes (fun v => (v.1, BitVec.ofNat 64 (v.2 / 2 ^ 32 % 2 ^ 32))) fun _ => rfl) lat
      exact ⟨k.trans m, m'⟩

/-- A fold that nothing in the list changes. -/
theorem foldl_unchanged {α β : Type} {f : β → α → β} {l : List α} (h : ∀ a ∈ l, ∀ b, f b a = b) (b : β) : l.foldl f b = b := by
  induction l with
  | nil => rfl
  | cons a l ih => rw [List.foldl_cons, h a List.mem_cons_self, ih fun a' ha' => h a' (List.mem_cons_of_mem a ha')]

/-- A register with no result on its way reads as it stands. -/
theorem Split.Idle.read {r : RegId} {sp : Split} (h : sp.Idle r) (i : Nat) : sp.read r i = sp.committed r i :=
  foldl_unchanged (fun p hp _ => if_neg fun c => (h p hp).1 c.1) _

theorem Split.Idle.readMask {m : Nat} {sp : Split} (h : sp.Idle (.mask m)) :
    sp.readMask m = if m = 16 then sp.committedMask m &&& sp.owned else sp.committedMask m := by
  unfold Split.readMask
  dsimp only
  rw [foldl_unchanged fun p hp _ => if_neg fun c => (h p hp).1 c.1]
  rfl

/-- Settles O54: what is under way to other registers leaves a register as it stands, and so does what lands of it. -/
theorem otherRegistersKeep : Obligations.OtherRegistersKeep := by
  unfold Obligations.OtherRegistersKeep
  intro sp o wide vals lat n r i hr hreg hi hv hpend
  have idle : sp.Idle r := fun p hp => ⟨hreg p hp, hpend p hp⟩
  obtain ⟨k, k'⟩ := Split.stands_result hr idle hv lat
  obtain ⟨m, idle'⟩ := Split.stands_advance k' n
  have all := k.trans m
  refine ⟨?_, ?_, all.owned, all.forks⟩
  · rw [idle'.read, idle.read, all.committed i hi]
  · rintro j rfl
    rw [idle'.readMask, idle.readMask, all.mask j rfl, all.owned]

end Sys2Proof.Machine
end

section
/-! The step of the machine: what a fetch gives, what a split that may issue does, and which agent moves (R33–R36, R162, R163). -/
namespace Sys2Proof.Machine

/-! ## Fetching -/

/-- The first instruction that issues, as decoded. -/
theorem fetchWord_of_firstIssued {ws rest : List Word} {b : Dword} {w v : Nat} {i : Instr} (hv : firstIssued ws w (starts ws) = some v)
    (hi : decodeWords (ws.drop v) = .ok (i, rest)) :
    fetchWord ws b w = .instr i (pcOfWord b v) (countAt ws v) (yieldBitOf ws) (firstIssued ws (v + 1) (starts ws)).isNone := by
  simp only [fetchWord, hv, hi]

/-- The state in which a fetch reads its bundle: found errors corrected, and the home's line used. -/
def State.atBundle (s : State) (b : Block) (sp : Space) (a : Nat) : State :=
  if sp = .mem then (s.scrub b.fn sp a 32).touch b.fn b.child a 32 false else s.scrub b.fn sp a 32

/-- The fetch of a bundle of the code that translates, is verified, unpoisoned and without defect. -/
theorem State.fetch_of_bundle {s s' : State} {b : Block} {pc : Dword} {sp : Space} {a : Nat} {bs : List Byte}
    (hcode : (s.kernelOf b).inCode (bundleOf pc) = true) (hplace : s.codePlace b (bundleOf pc) = (s', .ok (sp, a)))
    (hpage : s'.pageReady b pc = true) (hbytes : (s'.atBundle b sp a).fetchAt sp a 32 = (bs, false))
    (hdefect : bundleDefect (wordsOfBytes bs) = none) :
    s.fetch b pc = (s'.atBundle b sp a, fetchWord (wordsOfBytes bs) (bundleOf pc) (wordOf pc)) := by
  unfold State.atBundle at hbytes ⊢
  simp only [State.fetch, hcode, hplace, hpage, Bool.not_true, Bool.false_eq_true, if_false, hbytes, hdefect]

/-! ## The move of a split -/

/-- A split that may issue, with nothing due, executes the instruction at its PC. -/
theorem State.issueMove_of_fetch {s t : State} {blk wid sid : Nat} {c : Cur} {i : Instr} {pc : Dword} {cnt : Nat} {y last : Bool}
    (hc : (s.focus blk wid sid).cur = some c) (hdue : (s.focus blk wid sid).dueNow c = none) (hmay : c.mayIssue = true)
    (hloaded : c.blk.loaded = true) (hf : (s.focus blk wid sid).fetch c.blk c.split.pc = (t, .instr i pc cnt y last))
    (hstop : t.stopsAt c pc = false) :
    s.issueMove blk wid sid = Machine.after (fun u => u.issuedBy t.tick c pc y last)
      (exec i { t with cur := some ((c.counts pc).reaches (t.kernelOf c.blk) t.symDst pc cnt y last) }) := by
  simp only [State.issueMove, hc, State.boundary, hdue, hmay, hloaded, Bool.not_true, Bool.false_eq_true, if_false, hf, State.fetched, hstop]

/-! ## Which agent moves -/

theorem step_of_issue {s : State} {blk wid sid : Nat} {rest : List Act} (h : s.agenda = .issue blk wid sid :: rest) :
    step s = Machine.after s.followed (({ s with agenda := rest } : State).issueMove blk wid sid) := by
  simp only [step, State.move, h]

theorem step_of_ev {s : State} {i : Instr} {a : EvArg} {rest : List Act} (h : s.agenda = .ev i a :: rest) :
    step s = Machine.after s.followed (Machine.after State.wake (exec i { ({ s with agenda := rest } : State).unfocus with arg := a })) := by
  simp only [step, State.move, h, State.happens]

theorem step_of_pick {s : State} {w : Who} (h : s.agenda = []) (he : s.unfocus.eventsFirst = false) (hp : s.unfocus.pick true = some w) :
    step s = Machine.after s.followed (s.unfocus.issueMove w.1 w.2.1 w.2.2) := by
  simp only [step, State.move, h, State.choose, he, Bool.false_eq_true, if_false, State.issueFirst, State.issuePick, hp, Option.map_some]

/-- Settles O51: each clause is the equation of the definition on the way from the agenda to the instruction. -/
theorem stepRunsTheDecodedInstruction : Obligations.StepRunsTheDecodedInstruction := by
  unfold Obligations.StepRunsTheDecodedInstruction
  refine ⟨?fetch, ?issue, fun s blk wid sid rest h => step_of_issue h, fun s i a rest h => step_of_ev h, ?upset,
    fun s w h he hp => step_of_pick h he hp, ?slots⟩
  case fetch =>
    intro s b pc s' sp a bs v i rest k ws u hcode hplace hpage hbytes hdefect hv hi
    rw [State.fetch_of_bundle hcode hplace hpage hbytes hdefect, fetchWord_of_firstIssued hv hi]
    rfl
  case issue =>
    intro s blk wid sid c t i pc cnt y last r hc hdue hmay hloaded hf hstop
    exact State.issueMove_of_fetch hc hdue hmay hloaded hf hstop
  case upset =>
    intro s u hard rest h
    simp only [step, State.move, h, Machine.after]
  case slots =>
    intro s t h
    simp only [State.followed, h, Option.getD_none]

end Sys2Proof.Machine
end

section
/-! OBJREG, OBJFREE and COMB (R302–R305). -/
namespace Sys2Proof.Machine

/-! ## OBJREG -/

/-- What a registration leaves: its status or new id on its way to D. -/
def State.registered (s : State) (c : Cur) (x : Ctx) : State :=
  let r := s.register c (x.vA c.split 0) (x.vB c.split 0) (x.vC c.split 0 % 2 ^ 32)
  match x.d with
  | .scal n => r.1.addOp (cmbOp (.objreg { reg := .scal n, wide := false, uniform := true } (BitVec.ofNat 64 r.2)))
  | _ => r.1

theorem bodyObjreg_of_free {s : State} {c : Cur} {x : Ctx} (h : s.pathFull c 6 = false) (hd : ∃ n, x.d = .scal n) :
    bodyObjreg s c x = .done (s.registered c x) [(.objreg, 1)] := by
  obtain ⟨n, hn⟩ := hd
  simp [bodyObjreg, State.registered, h, hn, dstOf]

/-! ## OBJFREE -/

theorem bodyObjfree_of_none {s : State} {c : Cur} {x : Ctx} (h : s.objOf c.blk.fn (x.vA c.split 0 % 2 ^ 32) = none) :
    bodyObjfree s c x = .fault Fc.object (x.vA c.split 0 % 2 ^ 32) := by
  simp only [bodyObjfree, h]

/-- The object that a free names takes no further request. -/
def State.freeing (s : State) (o : Obj) : State :=
  { s with objs := mapIf (fun (p : Obj) => p.fn = o.fn ∧ p.slot = o.slot) (fun p => { p with freeing := true }) s.objs }

theorem bodyObjfree_of_some {s : State} {c : Cur} {x : Ctx} {o : Obj} (h : s.objOf c.blk.fn (x.vA c.split 0 % 2 ^ 32) = some o)
    (hf : s.pathFull c 6 = false) :
    bodyObjfree s c x = .done ((s.freeing o).addOp (cmbOp (.objfree c.blk.fn (x.vA c.split 0 % 2 ^ 32)))) [(.objreg, 1)] := by
  simp only [bodyObjfree, h, hf, Bool.false_eq_true, if_false, State.freeing]

/-! ## COMB -/

/-- The lanes of a COMB as the operation lists them. -/
def State.combItems (s : State) (c : Cur) (x : Ctx) : List Item :=
  x.lanes.map fun n =>
    { lane := n, space := .mem, addr := ((s.objOf c.blk.fn (x.vB c.split 0 % 2 ^ 32)).map (·.pa)).getD 0, bytes := 0 }

/-- The requests of a COMB's packet, one per active lane. -/
def State.combReqs (s : State) (c : Cur) (x : Ctx) : List CombReq :=
  x.lanes.map fun n =>
    { op := s.nextOp, lane := n, arg := x.combArg c.split n, fn := c.blk.fn, child := c.blk.child, slot := x.vB c.split 0 % 2 ^ 32 % 4096 }

/-- The scope of a COMB: `.dev` where its field names none. -/
def Ctx.combScope (x : Ctx) : Nat := if Mod.scope x.m = 0 then 5 else Mod.scope x.m

/-- A COMB in flight. -/
def State.combOp (s : State) (c : Cur) (x : Ctx) : Op :=
  { cmbOp (.comb (dstOf x.d x.dWide) x.a.maskNum (x.vB c.split 0 % 2 ^ 32) (Mod.mtype x.m = 8) (s.combReqs c x) false []) with
    items := s.combItems c x, ord := Mod.ord x.m, scope := x.combScope, staged := s.ahead c.blk
    entries := if s.ahead c.blk then (entryLines (s.combItems c x)).length else 0 }

theorem bodyComb_of_no_lanes {s : State} {c : Cur} {x : Ctx} (h : x.lanes = []) : bodyComb s c x = .done s [] := by
  simp only [bodyComb, h, List.isEmpty_nil, if_true]

/-- A COMB that nothing holds back is sent, or staged ahead of the turn. -/
theorem bodyComb_of_lanes {s : State} {c : Cur} {x : Ctx} (h : x.lanes ≠ [])
    (hr : s.ahead c.blk = false → relOrd (Mod.ord x.m) = true →
      s.released c.blk c.wave.wid (· = c.split.sid) (s.before c) x.combScope = true)
    (hq : s.ahead c.blk = false → s.heldBack c = false ∧ s.combQueued (s.sources c.blk.core c.blk.id) s.nextOp = false)
    (hf : s.pathFull c 6 = false) (hs : s.ahead c.blk = true → s.stageFull c.blk (entryLines (s.combItems c x)) = false) :
    bodyComb s c x = .done (if s.ahead c.blk then s.addOp (s.combOp c x) else (s.addOp (s.combOp c x)).sendComb s.nextOp)
      [(.cmbreq, x.lanes.length)] := by
  have he : x.lanes.isEmpty = false := by simpa using h
  have hlen : (s.combItems c x).length = x.lanes.length := List.length_map _
  change (if x.lanes.isEmpty then Res.done s [] else _) = _
  rw [he, if_neg Bool.false_ne_true]
  cases ha : s.ahead c.blk with
  | false =>
    have hrel : (relOrd (Mod.ord x.m) && !s.released c.blk c.wave.wid (· = c.split.sid) (s.before c) x.combScope) = false := by
      cases h : relOrd (Mod.ord x.m)
      · rfl
      · simp [hr ha h]
    have hc : (s.heldBack c || s.combQueued (s.sources c.blk.core c.blk.id) s.nextOp) = false := by
      simp [(hq ha).1, (hq ha).2]
    simp only [State.combItems, State.combOp, State.combReqs, Ctx.combScope] at hrel hlen ⊢
    simp only [ha, hrel, hc, hf, hlen, Bool.not_false, Bool.true_and, Bool.false_and, Bool.or_false, Bool.false_eq_true, if_false]
  | true =>
    have hst := hs ha
    simp only [State.combItems, State.combOp, State.combReqs, Ctx.combScope] at hlen hst ⊢
    simp only [ha, hst, hf, hlen, Bool.not_true, Bool.true_and, Bool.false_and, Bool.or_false, Bool.false_eq_true, if_false, if_true]

/-! ## The instructions -/

/-- OBJFREE of an object that an id names. -/
theorem exec_objfree {s : State} {c : Cur} {x : Ctx} {o : Obj} {i : Instr} {f : Form}
    (he : ∀ s, exec i s = s.issueOp 0x0E9 f specObjfree bodyObjfree) (hi : Issues s c 0x0E9 f specObjfree x)
    (ho : (s.ready c x).objOf c.counted.blk.fn (x.vA c.split 0 % 2 ^ 32) = some o) (hf : (s.ready c x).pathFull c.counted 6 = false) :
    exec i s = .next ((((s.ready c x).freeing o).addOp (cmbOp (.objfree c.counted.blk.fn (x.vA c.split 0 % 2 ^ 32)))).ended c f specObjfree
      [(.objreg, 1)] (c.next f)) := by
  rw [← Cur.counted_split c] at ho ⊢
  exact exec_of_done he hi (bodyObjfree_of_some ho hf)

/-- Settles O30: what each body does where nothing holds it back, and a `zero` in D as an operand that the position does not accept. -/
theorem combiningInstructionsComplete : Obligations.CombiningInstructionsComplete := by
  unfold Obligations.CombiningInstructionsComplete
  refine ⟨fun f => ?objreg, fun f s c hc ho hz => ?objregZero, ?objfree, fun f => ⟨?combEmpty, ?comb⟩⟩
  case objreg => exact completes_of_body (t := State.registered) (fun _ => rfl) fun s c x h => bodyObjreg_of_free h.1 h.2
  case objregZero => exact State.issueOp_of_defect hc ho (Spec.defect_of_d rfl (by rw [hz]; rfl)) bodyObjreg
  case objfree =>
    refine both_of_issueOp (fun _ _ => rfl) (fun _ _ => rfl) fun i f he => ⟨faults_of_body he fun s c x h => bodyObjfree_of_none h, ?_⟩
    exact fun s c x o hi ho hf => exec_objfree he hi ho hf
  case combEmpty => exact completes_of_body (fun _ => rfl) fun s c x h => bodyComb_of_no_lanes h
  case comb =>
    intro s c x hi hl r b scope oid items reqs hr hq hf hs
    have hb := bodyComb_of_lanes (s := s.ready c x) (c := c.counted) hl
    simp only [State.combOp, State.combItems, State.combReqs, Ctx.combScope, Cur.counted_split, Cur.counted_wid] at hb
    exact exec_of_done (fun _ => rfl) hi (hb hr hq hf hs)

end Sys2Proof.Machine
end

section
/-! RSHARE, RQUERY, LAUNCH, CHWAIT, EREAD and TARM (R250, R252, R348–R350, R376, R389). -/
namespace Sys2Proof.Machine

/-! ## RSHARE -/

/-- A split of a wave whose wanted share another split has changed to `t`. -/
def Cur.marked (c : Cur) (t : Nat) (sp : Split) : Split := if t ≠ c.wave.wanted ∧ sp.asked ≠ 0 then { sp with asked := superseded } else sp

/-- Whether a wave shrinks to a share at once. -/
def State.shrinksTo (s : State) (c : Cur) (t : Nat) : Bool := t < c.wave.share && c.wave.splits.all (s.pausable c.blk)

/-- The state and the split as an RSHARE that has issued leaves them: the wanted share, and a smaller one taken at once where it may be. -/
def State.shared (s : State) (c : Cur) (x : Ctx) : State × Cur :=
  let t := s.shareAsked c (x.vA c.split 0 % 2 ^ 32)
  let w := { c.wave with wanted := t, splits := c.wave.splits.map (c.marked t) }
  let c' : Cur := { c with wave := if s.shrinksTo c t then w.rebound t else w, split := { c.split with asked := t + 1 } }
  (if s.shrinksTo c t then s.printFor c.blk t else s, c')

/-- A share granted. -/
def State.granted (s : State) (c : Cur) (x : Ctx) : State :=
  { s with cur := some { c with split := { c.split.landScal x.d c.wave.share with asked := 0 } } }

theorem bodyRshare_of_running {s : State} {c : Cur} {x : Ctx} (hs : c.split.started = true)
    (hr : c.split.asked = superseded ∨ c.wave.share = c.wave.wanted) : bodyRshare s c x = .done (s.granted c x) [(.sreg, 1)] := by
  simp only [bodyRshare, hs, hr, if_true]
  rfl

/-- An RSHARE that issues completes where the wave then runs at the share it asks for, and waits otherwise. -/
theorem bodyRshare_of_issue {s : State} {c : Cur} {x : Ctx} (hs : c.split.started = false) :
    bodyRshare s c x =
      if (s.shared c x).2.wave.share = s.shareAsked c (x.vA c.split 0 % 2 ^ 32) then
        .done ((s.shared c x).1.granted (s.shared c x).2 x) [(.sreg, 1)]
      else .wait { (s.shared c x).1 with cur := some (s.shared c x).2 } [(.sreg, 1)] := by
  rw [bodyRshare, hs]
  rfl

/-! ## LAUNCH -/

/-- The record of a child grid, as the operation that reads it names it. -/
def launchItems (l : List (Nat × Nat × Space × Nat)) : List Item :=
  (l.filter fun p => p.2.2.1 = .mem).map fun p =>
    { lane := 0, space := .mem, addr := p.2.2.2, bytes := 128, va := BitVec.ofNat 64 p.2.1 }

/-- A LAUNCH in flight. -/
def State.launchOp (s : State) (b : Block) (d : Dst) (items : List Item) : Op :=
  { jobPathOp (.launch d 0) with
    items, ord := 3, scope := 5, staged := s.ahead b, entries := if s.ahead b then (entryLines items).length else 0 }

/-- A LAUNCH whose record is reached, and that nothing holds back. -/
theorem bodyLaunch_of_reached {s t : State} {c : Cur} {x : Ctx} {d : Dst} {l : List (Nat × Nat × Space × Nat)} (hw : c.wave.wid = 0)
    (hdepth : ((s.gridOf c.blk).map (·.depth)).getD 1 ≠ 10) (hd : dstOf x.d false = some d)
    (hreach : Reached s c.blk 128 true false needR [(0, x.vA c.split 0)] t l) (hitems : launchItems l ≠ [])
    (hfree : t.pathFull c 4 = false)
    (hrel : t.ahead c.blk = false → t.released c.blk c.wave.wid (· = c.split.sid) (t.before c) 5 = true)
    (hstage : t.ahead c.blk = true → t.stageFull c.blk (entryLines (launchItems l)) = false) :
    bodyLaunch s c x = .done (t.addOp (t.launchOp c.blk d (launchItems l))) [(.launch, 1)] := by
  have he : (launchItems l).isEmpty = false := by simpa using hitems
  simp only [bodyLaunch, hw, hdepth, withPlaces_of_reached hreach, if_false, ne_eq, not_true_eq_false]
  simp only [launchItems, State.launchOp] at he hstage ⊢
  cases ha : t.ahead c.blk with
  | false =>
    have hrel := hrel ha
    rw [hw] at hrel
    simp only [he, hfree, hrel, hd, Bool.not_true, Bool.and_false, Bool.false_and, Bool.or_false, Bool.false_eq_true, if_false]
  | true =>
    simp only [he, hfree, hstage ha, hd, Bool.not_true, Bool.true_and, Bool.false_and, Bool.or_false, Bool.false_eq_true, if_false, if_true]

/-! ## EREAD -/

/-- What EREAD leaves: one snapshot of the units and of the last factor, after its own booking. -/
def State.ereadDone (s : State) (c : Cur) (x : Ctx) (n : Nat) : State :=
  let r := s.bookIssue c 1 [(.eread, 1)]
  let u := r.ereadUnits c.blk.fn c.blk.child (Mod.own x.m)
  let words := [u / 2 ^ 32, u / 2 ^ 64, u, (r.pr 0x864 0 0 0).toNat]
  r.mapSplit fun sp => words.zipIdx.foldl (fun sp p => sp.landScal (.scal (n + p.2)) p.1) sp

theorem bodyEread_of_scal {s : State} {c : Cur} {x : Ctx} {n : Nat} (hd : x.d = .scal n) :
    bodyEread (s.ready c x) c.counted x = .booked ((s.ready c x).ereadDone c x n) := by
  simp only [bodyEread, hd, State.ready_with_cur, State.bookIssue_counted, State.ereadDone, Cur.counted_fn, Cur.counted_child]

/-! ## The instructions -/

/-- RSHARE in either form. -/
theorem exec_rshare {i : Instr} {f : Form} (he : ∀ s, exec i s = s.issueOp 0x0F0 f specRshare bodyRshare) :
    Completes 0x0F0 specRshare (fun _ c _ => c.split.started = true ∧ (c.split.asked = superseded ∨ c.wave.share = c.wave.wanted))
      State.granted (fun _ _ _ => [(.sreg, 1)]) i f ∧
    Completes 0x0F0 specRshare
      (fun s c x => c.split.started = false ∧ (s.shared c x).2.wave.share = s.shareAsked c (x.vA c.split 0 % 2 ^ 32))
      (fun s c x => (s.shared c x).1.granted (s.shared c x).2 x) (fun _ _ _ => [(.sreg, 1)]) i f ∧
    ∀ s c x, Issues s c 0x0F0 f specRshare x → c.split.started = false →
      ((s.ready c x).shared c.counted x).2.wave.share ≠ (s.ready c x).shareAsked c.counted (x.vA c.counted.split 0 % 2 ^ 32) →
      exec i s = .next (({ ((s.ready c x).shared c.counted x).1 with cur := some ((s.ready c x).shared c.counted x).2 } : State).waiting
        c f specRshare [(.sreg, 1)]) := by
  refine ⟨completes_of_body he fun s c x h => bodyRshare_of_running h.1 h.2, completes_of_body he fun s c x h => ?_, fun s c x h hs hn => ?_⟩
  · rw [bodyRshare_of_issue h.1, if_pos h.2]
  · have hb := bodyRshare_of_issue (s := s.ready c x) (c := c.counted) (x := x) (by rw [Cur.counted_split]; exact hs)
    rw [if_neg hn] at hb
    exact exec_of_body' he h hb rfl

/-- LAUNCH in either form. -/
theorem exec_launch {i : Instr} {f : Form} (he : ∀ s, exec i s = s.issueOp 0x0F2 f specLaunch bodyLaunch) {s t : State} {c : Cur} {x : Ctx}
    {d : Dst} {l : List (Nat × Nat × Space × Nat)} (h : Issues s c 0x0F2 f specLaunch x) (hw : c.wave.wid = 0)
    (hdepth : (((s.ready c x).gridOf c.counted.blk).map (·.depth)).getD 1 ≠ 10) (hd : dstOf x.d false = some d)
    (hreach : Reached (s.ready c x) c.counted.blk 128 true false needR [(0, x.vA c.split 0)] t l) (hitems : launchItems l ≠ [])
    (hfree : t.pathFull c.counted 4 = false)
    (hrel : t.ahead c.counted.blk = false → t.released c.counted.blk c.wave.wid (· = c.split.sid) (t.before c.counted) 5 = true)
    (hstage : t.ahead c.counted.blk = true → t.stageFull c.counted.blk (entryLines (launchItems l)) = false) :
    exec i s = .next ((t.addOp (t.launchOp c.counted.blk d (launchItems l))).ended c f specLaunch [(.launch, 1)] (c.next f)) := by
  have hb := bodyLaunch_of_reached (s := s.ready c x) (t := t) (c := c.counted) (x := x) (d := d) (l := l)
  simp only [Cur.counted_split, Cur.counted_wid] at hb
  exact exec_of_done he h (hb hw hdepth hd hreach hitems hfree hrel hstage)

/-- EREAD in either form. -/
theorem exec_eread {i : Instr} {f : Form} (he : ∀ s, exec i s = s.issueOp 0x0F4 f specEread bodyEread) {s : State} {c : Cur} {x : Ctx} {n : Nat}
    (h : Issues s c 0x0F4 f specEread x) (hd : x.d = .scal n) : exec i s = .next (((s.ready c x).ereadDone c x n).finish (c.next f)) :=
  exec_of_body' he h (bodyEread_of_scal hd) rfl

theorem bodyChwait_of_free {s : State} {c : Cur} {x : Ctx} (h : s.pathFull c 4 = false) :
    bodyChwait s c x = .done (s.addOp { jobPathOp (.chwait (dstOf x.d false) (x.vA c.split 0 % 2 ^ 32)) with
      ord := 2, scope := 5, moved := c.blk.launches }).sweepChwait [(.sync, 1)] := by
  simp only [bodyChwait, h, Bool.false_eq_true, if_false]

/-- Settles O32: what each body does under its conditions, in either form of the opcode. -/
theorem sharesAndLaunchComplete : Obligations.SharesAndLaunchComplete := by
  unfold Obligations.SharesAndLaunchComplete
  refine ⟨?rshare, ?rquery, ?launch, ?launchZero, ?chwait, ?eread, ?tarm⟩
  case rshare => exact both_of_issueOp (fun _ _ => rfl) (fun _ _ => rfl) fun i f he => exec_rshare he
  case rquery => exact both_of_issueOp (fun _ _ => rfl) (fun _ _ => rfl) fun i f he => completes_of_body he fun s c x _ => rfl
  case launch =>
    refine both_of_issueOp (fun _ _ => rfl) (fun _ _ => rfl) fun i f he => ?_
    intro s c x t l d h hw hdepth hd hreach items ahead hitems hfree hrel hstage
    exact exec_launch he h hw hdepth hd hreach hitems hfree hrel hstage
  case launchZero =>
    refine both_of_issueOp (fun _ _ => rfl) (fun _ _ => rfl) fun i f he => ?_
    intro s c hc ho hz
    rw [he]
    exact State.issueOp_of_defect hc ho (Spec.defect_of_d rfl (by rw [hz]; rfl)) bodyLaunch
  case chwait => exact both_of_issueOp (fun _ _ => rfl) (fun _ _ => rfl) fun i f he => completes_of_body he fun s c x h => bodyChwait_of_free h
  case eread => exact both_of_issueOp (fun _ _ => rfl) (fun _ _ => rfl) fun i f he s c x n h hd => exec_eread he h hd
  case tarm => exact both_of_issueOp (fun _ _ => rfl) (fun _ _ => rfl) fun i f he => completes_of_body he fun s c x _ => rfl

end Sys2Proof.Machine
end

section
/-! RDSR, WRSR, XSET and XADD (R71, R72, R74, R99, R128, R129). -/
namespace Sys2Proof.Machine

/-! ## What counting an instruction leaves of its block -/

/-- In a grid's wave no method's count stands beside the wave's. -/
theorem Cur.counted_blk_of_grid {c : Cur} (h : c.blk.method = none) : c.counted.blk = c.blk := by
  unfold Cur.counted
  split
  · rfl
  · simp only [h, Option.map_none]
    rw [← h]

@[simp] theorem Cur.counted_bidx (c : Cur) : c.counted.blk.bidx = c.blk.bidx := by
  unfold Cur.counted; split <;> rfl

@[simp] theorem Cur.counted_bidy (c : Cur) : c.counted.blk.bidy = c.blk.bidy := by
  unfold Cur.counted; split <;> rfl

@[simp] theorem Cur.counted_bidz (c : Cur) : c.counted.blk.bidz = c.blk.bidz := by
  unfold Cur.counted; split <;> rfl

@[simp] theorem Cur.counted_method_isSome (c : Cur) : c.counted.blk.method.isSome = c.blk.method.isSome := by
  unfold Cur.counted; split <;> simp

/-- The grid of the block that issues is the same once the operands stand ready and the instruction is counted. -/
@[simp] theorem State.ready_gridOf_counted (s : State) (c : Cur) (x : Ctx) : (s.ready c x).gridOf c.counted.blk = s.gridOf c.blk := by
  simp only [State.gridOf, State.grid?, State.ready_grids, Cur.counted_method_isSome, Cur.counted_grid]

/-- The kernel of a grid's block is its grid's. -/
theorem State.kernelOf_of_gridOf {s : State} {b : Block} {g : Grid} (h : s.gridOf b = some g) : s.kernelOf b = g.kernel := by
  unfold State.gridOf at h
  unfold State.kernelOf
  cases hm : b.method <;> simp_all

/-! ## RDSR -/

/-- The registers of R71 that a grid's wave reads as a number, by their numbers in RDSR. -/
def sregTable (g : Grid) (c : Cur) (hangcnt : Nat) : List (Nat × Nat) :=
  [(0x100, c.wave.wid), (0x101, c.blk.nwaves), (0x102, c.wave.width), (0x103, c.blk.bidx), (0x104, c.blk.bidy),
    (0x105, c.blk.bidz), (0x106, g.rcd.gdimx), (0x107, g.rcd.gdimy), (0x108, g.rcd.gdimz),
    (0x109, c.blk.index % max g.kernel.gang 1), (0x10A, g.kernel.gang), (0x10B, g.depth), (0x10C, c.blk.param.toNat),
    (0x10E, (c.split.read .mode 0).toNat), (0x10F, (c.split.read .status 0).toNat), (0x110, (c.split.read .rseed 128).toNat),
    (0x112, c.wave.share), (0x113, hangcnt), (0x114, (c.split.read .trapPc 0).toNat),
    (0x117, c.split.uni.trapCode.toNat), (0x118, c.split.uni.trapInfo.toNat)]

theorem sregTable_counted {c : Cur} (h : c.blk.method = none) (g : Grid) (n : Nat) : sregTable g c.counted n = sregTable g c n := by
  simp [sregTable, Cur.counted_blk_of_grid h]

/-- The numbers of the table name registers other than TRAP_EXEC, and each has the value that the model reads. -/
theorem State.sregValue_of_table {s : State} {c : Cur} {g : Grid} (hg : s.gridOf c.blk = some g) (hm : c.blk.method = none) :
    ∀ p ∈ sregTable g c c.wave.hangcnt, p.1 ≠ 0x116 ∧ s.sregValue c c.split p.1 = (s, p.2) := by
  have hk := State.kernelOf_of_gridOf hg
  simp only [sregTable, List.forall_mem_cons]
  simp [State.sregValue, hg, hm, hk]

theorem bodyRdsr_of_table {s : State} {c : Cur} {x : Ctx} {g : Grid} {n v : Nat} (hg : s.gridOf c.blk = some g) (hm : c.blk.method = none)
    (ha : x.a = .sreg n) (h : (n, v) ∈ sregTable g c c.wave.hangcnt) :
    bodyRdsr s c x = doneWith s c (c.split.result x.d x.dWide [(0, v)] x.lat) [(.sreg, 1)] := by
  obtain ⟨hn, hv⟩ := State.sregValue_of_table hg hm _ h
  simp only [bodyRdsr, ha, Opnd.sregNum, if_neg hn, hv]

theorem bodyRdsr_of_trapExec {s : State} {c : Cur} {x : Ctx} (ha : x.a = .sreg 0x116) :
    bodyRdsr s c x = doneWith s c (c.split.result x.d false ((List.range x.w).map fun j => (j, b2n (c.split.uni.trapExec.getLsbD j))) x.lat)
      (x.charge .sreg) := by
  simp only [bodyRdsr, ha, Opnd.sregNum, if_true]

theorem bodyRdsr_of_clk {s : State} {c : Cur} {x : Ctx} (ha : x.a = .sreg 0x111) :
    bodyRdsr s c x = doneWith { s with fresh := s.fresh + 1 } c
      (c.split.result x.d x.dWide [(0, (Config.freeValue s.fresh).toNat)] x.lat) [(.sreg, 1)] := by
  simp only [bodyRdsr, ha]
  rfl

/-- An instruction whose body changes its split's registers, from one state; the state itself may have changed as well. -/
theorem exec_of_doneWith {s t : State} {c : Cur} {op : Nat} {f : Form} {spec : Nat → Spec} {x : Ctx} {i : Instr} {ev : List (Ev × Nat)}
    {sp : Split} {body : State → Cur → Ctx → Res} (he : ∀ s, exec i s = s.issueOp op f spec body) (h : Issues s c op f spec x)
    (hb : body (s.ready c x) c.counted x = doneWith t c.counted sp ev) :
    exec i s = .next ((t.inSplit c sp).ended c f spec ev (c.next f)) :=
  exec_of_done he h hb

theorem exec_rdsr_of_table {f : Form} {s : State} {c : Cur} {x : Ctx} {g : Grid} {n v : Nat}
    (hi : Issues s c 0x082 f (specRdsr (Raw.of false f).a.sregNum) x) (hg : s.gridOf c.blk = some g) (hm : c.blk.method = none)
    (ha : x.a = .sreg n) (h : (n, v) ∈ sregTable g c c.counted.wave.hangcnt) :
    exec (.rdsr f) s = .next (s.after c f (specRdsr (Raw.of false f).a.sregNum) x (c.split.result x.d x.dWide [(0, v)] x.lat) [(.sreg, 1)]) := by
  have hb := bodyRdsr_of_table (s := s.ready c x) (c := c.counted) (x := x) (g := g) (n := n) (v := v)
    (by rw [State.ready_gridOf_counted, hg]) (by rw [Cur.counted_blk_of_grid hm, hm]) ha (by rw [sregTable_counted hm]; exact h)
  rw [Cur.counted_split] at hb
  exact exec_of_doneWith (fun _ => rfl) hi hb

/-! ## WRSR -/

/-- The split with a special register's new value on its way. -/
def State.sregWritten (s : State) (c : Cur) (x : Ctx) : Split :=
  let v := x.vA c.split 0
  match x.d.sregNum with
  | 0x10E => c.split.put .mode [(0, BitVec.ofNat 64 (modeOver (c.split.read .mode 0).toNat v))] x.lat
  | 0x10F => c.split.put .status [(0, BitVec.ofNat 64 (v % 8))] x.lat
  | 0x110 => c.split.put .rseed (seedVals c.blk (((s.gridOf c.blk).map (·.rcd.gdimx)).getD 1) (((s.gridOf c.blk).map (·.rcd.gdimy)).getD 1)
      c.wave.wid c.split.owned (BitVec.ofNat 32 v)) x.lat
  | _ => c.split.put .trapPc [(0, BitVec.ofNat 64 v)] x.lat

theorem bodyWrsr_eq (s : State) (c : Cur) (x : Ctx) : bodyWrsr s c x = doneWith s c (s.sregWritten c x) [(.sreg, 1)] := rfl

/-- Counting changes no seed. -/
@[simp] theorem seedVals_counted (c : Cur) (gx gy wid : Nat) (owned : Mask) (v : Word) :
    seedVals c.counted.blk gx gy wid owned v = seedVals c.blk gx gy wid owned v := by
  simp only [seedVals, Cur.counted_bidx, Cur.counted_bidy, Cur.counted_bidz]

theorem State.ready_sregWritten_counted (s : State) (c : Cur) (x : Ctx) : (s.ready c x).sregWritten c.counted x = s.sregWritten c x := by
  simp only [State.sregWritten, Cur.counted_split, Cur.counted_wid, State.ready_gridOf_counted, seedVals_counted]

theorem exec_wrsr {f : Form} {s : State} {c : Cur} {x : Ctx} (hi : Issues s c 0x083 f (specWrsr (Raw.of false f).d.sregNum) x) :
    exec (.wrsr f) s = .next (s.after c f (specWrsr (Raw.of false f).d.sregNum) x (s.sregWritten c x) [(.sreg, 1)]) := by
  rw [← State.ready_sregWritten_counted]
  exact exec_of_doneWith (fun _ => rfl) hi (bodyWrsr_eq _ _ _)

/-! ## The instructions -/

/-- Settles O13: what each body leaves of the register that it names, from the split as counted. -/
theorem specialRegistersComplete : Obligations.SpecialRegistersComplete := by
  unfold Obligations.SpecialRegistersComplete
  refine ⟨fun f s c x hi => ⟨?table, ?trapExec, ?clk⟩, fun f s c x hi v hv => ?wrsr, ?xset, ?xadd⟩
  case table => exact fun g n v hg hm ha h => exec_rdsr_of_table hi hg hm ha h
  case trapExec =>
    intro ha
    have hb := bodyRdsr_of_trapExec (s := s.ready c x) (c := c.counted) ha
    rw [Cur.counted_split] at hb
    exact exec_of_doneWith (fun _ => rfl) hi hb
  case clk =>
    intro ha
    have hb := bodyRdsr_of_clk (s := s.ready c x) (c := c.counted) ha
    rw [Cur.counted_split] at hb
    exact exec_of_doneWith (fun _ => rfl) hi hb
  case wrsr =>
    subst hv
    rw [exec_wrsr hi]
    refine ⟨fun hd => ?_, fun hd => ?_, fun gx gy hx hy hd => ?_, fun hd => ?_⟩
    · rw [State.sregWritten, hd]; rfl
    · rw [State.sregWritten, hd]; rfl
    · rw [State.sregWritten, hd, hx, hy]; rfl
    · rw [State.sregWritten, hd]; rfl
  case xset => exact both_of_issueOp (fun _ _ => rfl) (fun _ _ => rfl) fun i f he => leaves_of_body he (fun _ _ _ => rfl) fun c x => by simp
  case xadd => exact both_of_issueOp (fun _ _ => rfl) (fun _ _ => rfl) fun i f he => leaves_of_body he (fun _ _ _ => rfl) fun c x => by simp

end Sys2Proof.Machine
end

section
/-! The merge of two surviving sides (R63, R66, R100, R141). -/
namespace Sys2Proof.Machine

/-! ## Sparse maps filtered, put over one another, and tabulated -/

/-- What a key reads as once the entries are removed whose key fails a test. -/
theorem spGet_spFilter {α : Type} {d : α} (p : Nat → Bool) (m : Sp α) (k : Nat) : spGet d (spFilter p m) k = if p k then spGet d m k else d := by
  induction m with
  | nil => simp [spFilter, spGet]
  | cons e m ih =>
    obtain ⟨j, v⟩ := e
    unfold spFilter at ih ⊢
    rw [List.filter_cons]
    by_cases hj : j = k
    · subst hj
      cases hp : p j <;> simp_all [spGet]
    · cases hp : p j <;> simp_all [spGet]

theorem spWf_spFilter {α : Type} [DecidableEq α] {d : α} (p : Nat → Bool) {m : Sp α} (hm : spWf d m = true) : spWf d (spFilter p m) = true :=
  spWf_filter _ hm

/-- What a key reads as once the entries of a canonical map are set over another: no entry is the default. -/
theorem spGet_spSets_of_above {α : Type} [DecidableEq α] {d : α} {b : Nat} {m l : Sp α} (hm : spWf d m = true) (hl : spAbove d b l = true)
    (k : Nat) : spGet d (spSets d m l) k = if spGet d l k = d then spGet d m k else spGet d l k := by
  induction l generalizing m b with
  | nil => exact (if_pos rfl).symm
  | cons e l ih =>
    obtain ⟨j, v⟩ := e
    obtain ⟨-, hv, hl⟩ := spAbove_cons.1 hl
    refine (ih (spWf_spSet hm) hl).trans ?_
    by_cases hj : k = j
    · subst hj
      rw [spGet_of_below hl (Nat.lt_succ_self k), if_pos rfl, spGet_spSet hm, if_pos rfl, spGet, if_pos rfl, if_neg hv]
    · rw [spGet_spSet hm, if_neg hj, spGet, if_neg (Ne.symm hj)]

/-- The table of a function below a bound. -/
def spTable (f : Nat → Mask) (n : Nat) : Sp Mask := (List.range n).foldl (fun m j => spSet 0 m j (f j)) []

theorem spTable_succ (f : Nat → Mask) (n : Nat) : spTable f (n + 1) = spSet 0 (spTable f n) n (f n) := by
  simp [spTable, List.range_succ]

theorem spWf_spTable (f : Nat → Mask) (n : Nat) : spWf 0 (spTable f n) = true := by
  induction n with
  | zero => rfl
  | succ n ih => rw [spTable_succ]; exact spWf_spSet ih

theorem spGet_spTable (f : Nat → Mask) {n j : Nat} (h : j < n) : spGet 0 (spTable f n) j = f j := by
  induction n with
  | zero => omega
  | succ n ih =>
    rw [spTable_succ, spGet_spSet (spWf_spTable f n)]
    split
    next hj => rw [hj]
    next hj => exact ih (by omega)

/-! ## Masks and words by their lanes' owners -/

/-- No lane is in both of two disjoint masks. -/
theorem not_getLsbD_of_disjoint {a b : Mask} (h : a &&& b = 0) {i : Nat} (ha : a.getLsbD i = true) : b.getLsbD i = false := by
  have hi := congrArg (fun m : Mask => m.getLsbD i) h
  simpa [ha] using hi

/-- A merged mask has each side's bits in its lanes. -/
theorem mergeMask_and_lanes {lanes rest : Mask} (h : lanes &&& rest = 0) (a b : Mask) :
    mergeMask lanes rest a b &&& lanes = a &&& lanes ∧ mergeMask lanes rest a b &&& rest = b &&& rest := by
  unfold mergeMask
  generalize Config.mergeBits a b lanes rest = free
  constructor <;> refine BitVec.eq_of_getLsbD_eq fun i hi => ?_
  · cases hl : lanes.getLsbD i
    · simp [hl]
    · simp [hl, not_getLsbD_of_disjoint h hl]
  · cases hr : rest.getLsbD i
    · simp [hr]
    · simp [hr, not_getLsbD_of_disjoint ((BitVec.and_comm rest lanes).trans h) hr]

/-- The words of two sides, each with those of its own lanes. -/
def ownedWords (lanesA lanesB : Mask) (a b : Sp Word) : Sp Word :=
  spSets 0 (spFilter (fun key => lanesA.getLsbD (key % 128)) a) (spFilter (fun key => lanesB.getLsbD (key % 128)) b)

theorem spGet_ownedWords {la lb : Mask} (h : la &&& lb = 0) {a b : Sp Word} (ha : spWf 0 a = true) (hb : spWf 0 b = true) (key : Nat) :
    (la.getLsbD (key % 128) = true → spGet 0 (ownedWords la lb a b) key = spGet 0 a key) ∧
    (lb.getLsbD (key % 128) = true → spGet 0 (ownedWords la lb a b) key = spGet 0 b key) := by
  have he : spGet 0 (ownedWords la lb a b) key = _ :=
    spGet_spSets_of_above (spWf_spFilter (fun key => la.getLsbD (key % 128)) ha) (spWf_spFilter (fun key => lb.getLsbD (key % 128)) hb) key
  rw [spGet_spFilter, spGet_spFilter] at he
  rw [he]
  constructor <;> intro hk
  · simp [hk, not_getLsbD_of_disjoint h hk]
  · simp only [hk, not_getLsbD_of_disjoint ((BitVec.and_comm lb la).trans h) hk, if_true, Bool.false_eq_true, if_false]
    split
    next h0 => exact h0.symm
    next => rfl

/-! ## Registers of the wave -/

/-- The files of a wave's registers have their canonical form. -/
structure Uni.FilesWf (u : Uni) : Prop where
  scal : spWf 0 u.scal = true
  td : spWf {} u.td = true

theorem Uni.FilesWf.take {u : Uni} (h : u.FilesWf) (v : Uni) (r : RegId) : (u.take v r).FilesWf := by
  cases r with
  | scal n => exact ⟨spWf_spSet h.scal, h.td⟩
  | td n => exact ⟨h.scal, spWf_spSet h.td⟩
  | _ => exact ⟨h.scal, h.td⟩

/-- A reading of one register of the wave: taking that register takes what is read, and nothing else changes it. -/
structure Uni.Reads {α : Type} (r : RegId) (get : Uni → α) : Prop where
  take : ∀ (u v : Uni) (x : RegId), u.FilesWf → get (u.take v x) = if x = r then get v else get u
  plain : ∀ (u : Uni) (k : Sp Mask) (status : Word), get { u with k, status } = get u

theorem Uni.reads_scal (n : Nat) : Uni.Reads (.scal n) fun u => spGet 0 u.scal n where
  take u v x h := by
    cases x with
    | scal m =>
      refine (spGet_spSet h.scal).trans ?_
      by_cases hm : n = m
      · subst hm; simp
      · simp [hm, Ne.symm hm]
    | _ => rfl
  plain _ _ _ := rfl

theorem Uni.reads_td (n : Nat) : Uni.Reads (.td n) fun u => spGet {} u.td n where
  take u v x h := by
    cases x with
    | td m =>
      refine (spGet_spSet h.td).trans ?_
      by_cases hm : n = m
      · subst hm; simp
      · simp [hm, Ne.symm hm]
    | _ => rfl
  plain _ _ _ := rfl

theorem Uni.reads_xi : Uni.Reads .xi Uni.xi := ⟨fun _ _ x _ => by cases x <;> rfl, fun _ _ _ => rfl⟩
theorem Uni.reads_mode : Uni.Reads .mode Uni.mode := ⟨fun _ _ x _ => by cases x <;> rfl, fun _ _ _ => rfl⟩
theorem Uni.reads_rseed : Uni.Reads .rseed Uni.rseed := ⟨fun _ _ x _ => by cases x <;> rfl, fun _ _ _ => rfl⟩
theorem Uni.reads_trapPc : Uni.Reads .trapPc Uni.trapPc := ⟨fun _ _ x _ => by cases x <;> rfl, fun _ _ _ => rfl⟩
theorem Uni.reads_trapRec : Uni.Reads .trapRec fun u => (u.trapExec, u.trapCode, u.trapInfo) :=
  ⟨fun _ _ x _ => by cases x <;> rfl, fun _ _ _ => rfl⟩
theorem Uni.reads_inHandler : Uni.Reads .inHandler Uni.inHandler := ⟨fun _ _ x _ => by cases x <;> rfl, fun _ _ _ => rfl⟩

/-- Registers of a list taken from another set, where a test holds of them. -/
def Uni.takeAll (v : Uni) (p : RegId → Bool) (l : List RegId) (u : Uni) : Uni := l.foldl (fun u x => if p x then u.take v x else u) u

/-- A register among them that passes the test is taken, and any other is left. -/
theorem Uni.Reads.takeAll {α : Type} {r : RegId} {get : Uni → α} (h : Uni.Reads r get) (v : Uni) (p : RegId → Bool) (l : List RegId) {u : Uni}
    (hu : u.FilesWf) : get (Uni.takeAll v p l u) = if r ∈ l ∧ p r = true then get v else get u := by
  induction l generalizing u with
  | nil => simp [Uni.takeAll]
  | cons x l ih =>
    change get (Uni.takeAll v p l (if p x then u.take v x else u)) = _
    by_cases hp : p x = true
    · rw [if_pos hp, ih (hu.take v x), h.take u v x hu]
      by_cases hx : x = r
      · subst hx; simp [hp]
      · simp [hx, Ne.symm hx]
    · rw [if_neg hp, ih hu]
      by_cases hx : x = r
      · subst hx; simp [hp]
      · simp [Ne.symm hx]

/-! ## The fields of a merge -/

/-- Levels of results set aside are made as many by results on their way alone. -/
theorem Split.levelled_eq (sp : Split) (n : Nat) : ∃ pend held, sp.levelled n = { sp with pend, held } := by
  have back : ∀ (l : List Nat) (sp : Split), ∃ pend held, l.foldl (fun (x : Split) _ => x.takeBack 0) sp = { sp with pend, held } := by
    intro l
    induction l with
    | nil => exact fun sp => ⟨sp.pend, sp.held, rfl⟩
    | cons j l ih => exact fun sp => ih (sp.takeBack 0)
  obtain ⟨pend, held, h⟩ := back (List.range (sp.held.length - n)) sp
  unfold Split.levelled
  rw [h]
  exact ⟨_, _, rfl⟩

/-- A register that the other side alone has written. -/
def Split.lone (w o : Split) (x : RegId) : Bool := o.written.contains x && !w.written.contains x

/-- Whether a register outside the masks, STATUS and the trap record was written by both sides. -/
def Split.clash (w o : Split) : Bool := w.written.any fun x => !x.quiet && o.written.contains x

/-- What a merge holds, of the sides as they reached it. -/
theorem mergeTwo_fields (r : Fork) (dsts : Nat → List RegId) (w o : Split) (lw lo : Mask) :
    let m := mergeTwo r dsts w o lw lo
    m.owned = w.owned ||| o.owned ∧ m.exec = (w.exec &&& w.owned) ||| (o.exec &&& o.owned) ∧
    m.vreg = ownedWords w.owned o.owned w.vreg o.vreg ∧ m.ofile = ownedWords w.owned o.owned w.ofile o.ofile ∧
    m.gen = ownedWords w.owned o.owned w.gen o.gen ∧
    m.uni = { Uni.takeAll o.uni (w.lone o) o.written w.uni with
      k := spTable (fun n => mergeMask lw lo (spGet 0 w.uni.k n) (spGet 0 o.uni.k n)) 16
      status := w.uni.status ||| o.uni.status ||| (if w.clash o then 1 else 0) } := by
  dsimp only
  unfold mergeTwo
  dsimp only
  generalize (if (o.written.contains .inHandler && !w.written.contains .inHandler) = true then o.held.length else w.held.length) = depth
  obtain ⟨pw, hw, ew⟩ := w.levelled_eq depth
  obtain ⟨po, ho, eo⟩ := o.levelled_eq depth
  rw [ew, eo]
  exact ⟨rfl, rfl, rfl, rfl, rfl, rfl⟩

/-- A register of the wave after a merge: the other side's where that side alone wrote it, and otherwise that of the first. -/
theorem Uni.Reads.mergeTwo {α : Type} {x : RegId} {get : Uni → α} (h : Uni.Reads x get) (r : Fork) (dsts : Nat → List RegId) (w o : Split)
    (lw lo : Mask) (hw : w.uni.FilesWf) :
    (x ∈ o.written ∧ x ∉ w.written → get (mergeTwo r dsts w o lw lo).uni = get o.uni) ∧
    (¬ (x ∈ o.written ∧ x ∉ w.written) → get (mergeTwo r dsts w o lw lo).uni = get w.uni) := by
  obtain ⟨-, -, -, -, -, huni⟩ := mergeTwo_fields r dsts w o lw lo
  have hiff : x ∈ o.written ∧ w.lone o x = true ↔ x ∈ o.written ∧ x ∉ w.written := by
    simp [Split.lone]
  rw [huni, h.plain, h.takeAll o.uni (w.lone o) o.written hw]
  exact ⟨fun hx => if_pos (hiff.2 hx), fun hx => if_neg fun hx' => hx (hiff.1 hx')⟩

theorem Split.clash_iff {w o : Split} : w.clash o = true ↔ ∃ x, x ∈ w.written ∧ x ∈ o.written ∧ x.quiet = false := by
  simp [Split.clash, and_comm]

/-- JOINCONFLICT added leaves the other bits of STATUS. -/
theorem or_conflict_and_not_one (a : Word) (p : Bool) : (a ||| if p = true then 1 else 0) &&& ~~~1#32 = a &&& ~~~1#32 := by
  have hp : (if p = true then (1 : Word) else 0) &&& ~~~1#32 = 0 := by cases p <;> rfl
  rw [BitVec.and_or_distrib_right, hp]
  exact BitVec.or_zero

/-- JOINCONFLICT, clear on both sides, is set where it is added. -/
theorem or_conflict_and_one_ne {a b : Word} (ha : a &&& 1#32 = 0) (hb : b &&& 1#32 = 0) (p : Bool) :
    (a ||| b ||| if p = true then 1 else 0) &&& 1#32 ≠ 0 ↔ p = true := by
  rw [BitVec.and_or_distrib_right, BitVec.and_or_distrib_right, ha, hb]
  cases p <;> decide

/-- Settles O20: lane by lane from the owners, and register by register from the list of those that the other side alone wrote. -/
theorem mergeTakesEachSide : Obligations.MergeTakesEachSide := by
  unfold Obligations.MergeTakesEachSide
  intro r dsts w o lw lo howned hlanes hvw hvo how hoo hgw hgo hscal htd
  have fields := mergeTwo_fields r dsts w o lw lo
  have reads := fun {α : Type} {x : RegId} {get : Uni → α} (h : Uni.Reads x get) => h.mergeTwo r dsts w o lw lo ⟨hscal, htd⟩
  generalize mergeTwo r dsts w o lw lo = m at fields reads ⊢
  obtain ⟨hown, hexec, hvreg, hofile, hgen, huni⟩ := fields
  have lane : ∀ n i, i < 128 → (128 * n + i) % 128 = i := fun n i hi => by omega
  obtain ⟨xi, xi'⟩ := reads Uni.reads_xi
  obtain ⟨mode, mode'⟩ := reads Uni.reads_mode
  obtain ⟨rseed, rseed'⟩ := reads Uni.reads_rseed
  obtain ⟨trapPc, trapPc'⟩ := reads Uni.reads_trapPc
  obtain ⟨trapRec, trapRec'⟩ := reads Uni.reads_trapRec
  obtain ⟨inHandler, inHandler'⟩ := reads Uni.reads_inHandler
  refine ⟨hown, hexec, fun n hn => ?masks, fun n i hi => ?words, fun i hi => ?gen, fun n => reads (Uni.reads_scal n), xi, xi', mode, mode',
    rseed, rseed', fun n => reads (Uni.reads_td n), trapPc, trapPc', trapRec, trapRec', inHandler, inHandler', ?status, ?conflict⟩
  case masks =>
    have hk : m.uni.k = spTable (fun n => mergeMask lw lo (spGet 0 w.uni.k n) (spGet 0 o.uni.k n)) 16 := by rw [huni]
    rw [hk, spGet_spTable _ hn]
    exact mergeMask_and_lanes hlanes _ _
  case words =>
    have hv := spGet_ownedWords howned hvw hvo (128 * n + i)
    have ho := spGet_ownedWords howned how hoo (128 * n + i)
    rw [lane n i hi, ← hvreg] at hv
    rw [lane n i hi, ← hofile] at ho
    exact ⟨hv.1, hv.2, ho.1, ho.2⟩
  case gen =>
    have hg := spGet_ownedWords howned hgw hgo i
    rw [Nat.mod_eq_of_lt hi, ← hgen] at hg
    exact hg
  case status =>
    rw [huni]
    exact or_conflict_and_not_one _ _
  case conflict =>
    intro ha hb
    rw [huni, ← Split.clash_iff]
    exact or_conflict_and_one_ne ha hb _

end Sys2Proof.Machine
end

section
/-! EXIT (R79, R132, R142). -/
namespace Sys2Proof.Machine

/-! ## What an EXIT withdraws -/

/-- The wave of an EXIT, its lanes withdrawn. -/
def Cur.exitWave (c : Cur) (x : Ctx) : Wave := { c.wave with withdrawn := c.wave.withdrawn ||| exitLanes c x, hangcnt := 0 }

/-- The split of an EXIT without the lanes withdrawn. -/
def Cur.exitSplit (c : Cur) (x : Ctx) : Split :=
  { c.split with owned := c.split.owned &&& ~~~exitLanes c x, exec := c.split.exec &&& ~~~exitLanes c x }

/-- The split that an EXIT ends, counted as issued, at the next instruction. -/
def Cur.exited (c : Cur) (x : Ctx) (tick words : Nat) : Cur :=
  (({ c with wave := c.exitWave x, split := c.exitSplit x } : Cur).issued tick).at (nextPc c.split.pc words)

@[simp] theorem exitLanes_counted (c : Cur) (x : Ctx) : exitLanes c.counted x = exitLanes c x := by
  simp only [exitLanes, Cur.counted_split]

@[simp] theorem Cur.exitSplit_counted (c : Cur) (x : Ctx) : c.counted.exitSplit x = c.exitSplit x := by
  simp only [Cur.exitSplit, Cur.counted_split, exitLanes_counted]

theorem Cur.exited_counted (c : Cur) (x : Ctx) (tick : Nat) (f : Form) :
    c.counted.exited x tick (formWords f) =
      (({ c.counted with wave := c.counted.exitWave x, split := c.exitSplit x } : Cur).issued tick).at (c.next f) := by
  simp only [Cur.exited, Cur.exitSplit_counted, Cur.counted_split, Cur.next]

theorem bodyExit_of_lanes_left {words : Nat} {s : State} {c : Cur} {x : Ctx} (h : c.split.owned &&& ~~~exitLanes c x ≠ 0) :
    bodyExit words s c x = .done { s with cur := some { c with wave := c.exitWave x, split := c.exitSplit x } } [(.ctl, 1)] :=
  if_pos h

theorem bodyExit_of_no_lanes {words : Nat} {s : State} {c : Cur} {x : Ctx} (h : c.split.owned &&& ~~~exitLanes c x = 0) :
    bodyExit words s c x = .gone (s.endSplit (c.exited x s.tick words) c.split.forks)
      ((.ctl, 1) :: if endMerges c.wave.splits c.split.forks then [(.fork, 1)] else []) :=
  if_neg (not_not.2 h)

/-! ## The instruction -/

/-- What comes of an instruction whose body has itself dealt with its split. -/
theorem exec_of_gone {s t : State} {c : Cur} {op : Nat} {f : Form} {spec : Nat → Spec} {x : Ctx} {i : Instr} {ev : List (Ev × Nat)}
    {body : State → Cur → Ctx → Res} (he : ∀ s, exec i s = s.issueOp op f spec body) (h : Issues s c op f spec x)
    (hb : body (s.ready c x) c.counted x = .gone t ev) : exec i s = .next (t.dealt s.tick c f spec ev) := by
  rw [exec_of_body' he h hb rfl, State.conclude_gone, (State.Calm.prepare s x).tick]
  rfl

/-- EXIT in either form, by whether it leaves its split a lane. -/
theorem exec_exit {i : Instr} {f : Form} (he : ∀ s, exec i s = s.issueOp 0x096 f specExit (bodyExit (formWords f))) :
    Completes 0x096 specExit (fun _ c x => c.split.owned &&& ~~~exitLanes c x ≠ 0)
      (fun s c x => { s with cur := some { c with wave := c.exitWave x, split := c.exitSplit x } }) (fun _ _ _ => [(.ctl, 1)]) i f ∧
    ∀ s c x, Issues s c 0x096 f specExit x → c.split.owned &&& ~~~exitLanes c x = 0 →
      exec i s = .next (((s.ready c x).endSplit
        ((({ c.counted with wave := c.counted.exitWave x, split := c.exitSplit x } : Cur).issued s.tick).at (c.next f))
        c.split.forks).dealt s.tick c f specExit
          ((.ctl, 1) :: if endMerges c.wave.splits c.split.forks then [(.fork, 1)] else [])) := by
  refine ⟨completes_of_body he fun s c x h => bodyExit_of_lanes_left h, fun s c x hi h => ?_⟩
  have hb := bodyExit_of_no_lanes (words := formWords f) (s := s.ready c x) (c := c.counted) (x := x)
    (by rw [Cur.counted_split, exitLanes_counted]; exact h)
  rw [Cur.counted_split, Cur.counted_splits, State.ready_tick, Cur.exited_counted] at hb
  exact exec_of_gone he hi hb

/-- Settles O21: the body's two cases, by whether a lane is left. -/
theorem exitCompletes : Obligations.ExitCompletes := by
  unfold Obligations.ExitCompletes
  exact ⟨fun f => exec_exit (fun _ => rfl), fun f => exec_exit (fun _ => rfl)⟩

end Sys2Proof.Machine
end

section
/-! Steps of the cores, arbiters and drains (R80, R136, R175, R273, R296, R297, R436). -/
namespace Sys2Proof.Machine

/-! ## Hang reports and sleep -/

/-- A hang report at the split that its data name: reported where the wave has reached the limit at a boundary. -/
theorem exec_hangReport {s : State} {c : Cur} (h : (s.focus s.arg.blk s.arg.wid s.arg.sid).cur = some c) :
    exec .hangReport s = .next (let r := s.focus s.arg.blk s.arg.wid s.arg.sid
      if r.hangReached c = true ∧ c.split.atBoundary = true then (r.hangReported c).takeHang else r.takeHang) := by
  simp only [exec, execHangReport, h, Bool.and_eq_true]

/-- A split that its sleep leaves is ready. -/
theorem exec_sleepExpiry (s : State) :
    exec .sleepExpiry s = .next (s.unfocus.mapSplitAt s.unfocus.arg.blk s.unfocus.arg.wid s.unfocus.arg.sid fun sp => match sp.run with
      | .sleeping _ => { sp with run := .ready }
      | _ => sp) := by
  rw [State.unfocus_arg]
  rfl

/-! ## Current -/

/-- The head of a queue that the budget covers, or that is larger than the whole budget and alone, is granted. -/
theorem Cluster.grants_of_head {k : Cluster} {o : CurrentOwner} {units : Nat} {rest : List (CurrentOwner × Nat)}
    (hq : k.queue = (o, units) :: rest) (h : k.reserved + units ≤ k.budget ∨ k.budget < units ∧ k.held = []) : k.grants = true := by
  simpa [Cluster.grants, hq] using h

/-- A cluster once a request has left its queue and holds its reservation; an operation granted may start. -/
def State.grantsHead (s : State) (cl : Nat) (q : CurrentOwner × Nat) (rest : List (CurrentOwner × Nat)) : State :=
  let k := s.clusterOf cl
  let granted := s.setCluster cl { k with queue := rest, held := k.held ++ [q] }
  match q.1 with
  | .op id => granted.mapOp id fun p => { p with stage := 2 }
  | .burst _ _ => granted

theorem exec_currentGrant {s : State} {q : CurrentOwner × Nat} {rest : List (CurrentOwner × Nat)}
    (hq : (s.unfocus.clusterOf s.arg.cluster).queue = q :: rest) (hg : (s.unfocus.clusterOf s.arg.cluster).grants = true) :
    exec .currentGrant s = .next (s.unfocus.grantsHead s.arg.cluster q rest) := by
  simp only [exec, execCurrentGrant, State.unfocus_arg, hq, hg, Bool.not_true, Bool.false_eq_true, if_false]
  rfl

/-! ## Drains -/

/-- The drain that a controller runs ends once it is quiet. -/
theorem exec_drainComplete {s : State} {d : Drain} (hd : s.unfocus.runningDrain s.arg.fn s.arg.child = some d)
    (hq : s.unfocus.drainQuiet d = true) :
    exec .drainComplete s = .next (
      let l := s.unfocus.drains.map fun e => if e = d then { d with done := true } else e
      ({ s.unfocus with drains := l.filter fun e => !(e.done && e.serves.isEmpty) } : State).nextDrain s.arg.fn s.arg.child) := by
  simp only [exec, execDrainComplete, State.unfocus_arg, hd, hq, Bool.not_true, Bool.false_eq_true, if_false]

/-! ## Markers of other devices -/

/-- The marker that a step's data name. -/
def State.namedMarker (s : State) : Option Marker :=
  s.markers.find? fun m => m.dev = s.arg.dev && m.fn = s.arg.fn && m.child = s.arg.child && m.tag = s.arg.tag

/-- A marker that a step's data name, acknowledged. -/
theorem State.ackMarker_of_named {s : State} {m : Marker} (h : s.namedMarker = some m) (t : State) :
    t.ackMarker m = t.send "DRAIN_ACK" s.arg.dev [BitVec.ofNat 8 s.arg.fn, BitVec.ofNat 8 s.arg.child, if s.arg.tag then 1 else 0] := by
  have hm := List.find?_some h
  simp only [Bool.and_eq_true, decide_eq_true_eq] at hm
  obtain ⟨⟨⟨hdev, hfn⟩, hchild⟩, htag⟩ := hm
  rw [State.ackMarker, hdev, hfn, hchild, htag]

theorem State.markerDue_iff {s : State} {m : Marker} : s.markerDue m = true ↔ ∀ n ∈ s.packetsOf m.dev, n ∉ m.pkts := by
  simp [State.markerDue]

/-- A marker that arrives: acknowledged at once where no packet of its device is unanswered, and kept with those that are otherwise. -/
theorem exec_fabricDrainMarker_of_new {s : State} (ha : s.unfocus.awake = true) (h : s.unfocus.namedMarker = none) :
    exec .fabricDrainMarker s = .next (let r := s.unfocus
      let m : Marker := ⟨r.arg.dev, r.arg.fn, r.arg.child, r.arg.tag, r.packetsOf r.arg.dev⟩
      if r.packetsOf r.arg.dev = [] then r.ackMarker m else { r with markers := r.markers ++ [m] }) := by
  unfold State.namedMarker at h
  simp only [exec, execFabricDrainMarker, ha, h, Bool.not_true, Bool.false_eq_true, if_false, List.isEmpty_iff]

/-- A marker that waits: acknowledged once each of its packets is answered. -/
theorem exec_fabricDrainMarker_of_kept {s : State} {m : Marker} (ha : s.unfocus.awake = true) (h : s.unfocus.namedMarker = some m) :
    exec .fabricDrainMarker s = .next (
      if s.unfocus.markerDue m then ({ s.unfocus with markers := s.unfocus.markers.filter (· ≠ m) } : State).ackMarker m else s.unfocus) := by
  unfold State.namedMarker at h
  simp only [exec, execFabricDrainMarker, ha, h, Bool.not_true, Bool.false_eq_true, if_false]

/-- Settles O34: each step's equation under its condition. -/
theorem coreAndDrainEventsHappen : Obligations.CoreAndDrainEventsHappen := by
  unfold Obligations.CoreAndDrainEventsHappen
  refine ⟨⟨fun s c hc h => ?report, fun s c hc h => ?noReport, fun s _ => exec_sleepExpiry s, fun s _ => rfl, ?grant⟩,
    fun s d hd hq => exec_drainComplete hd hq, fun s _ => rfl, fun s h => ?new, fun s h => ?newWaits, fun s m ha hf => ⟨fun h => ?due, ?waits⟩⟩
  case report => rw [exec_hangReport hc]; exact congrArg Host.Outcome.next (if_pos h)
  case noReport => rw [exec_hangReport hc]; exact congrArg Host.Outcome.next (if_neg h)
  case grant =>
    intro s o units rest r k hq hb granted
    rw [exec_currentGrant hq (Cluster.grants_of_head hq hb)]
    cases o <;> rfl
  case new =>
    obtain ⟨ha, hf, hp⟩ := h
    rw [exec_fabricDrainMarker_of_new ha hf]
    exact congrArg Host.Outcome.next (if_pos hp)
  case newWaits =>
    obtain ⟨ha, hf, hp⟩ := h
    rw [exec_fabricDrainMarker_of_new ha hf]
    exact congrArg Host.Outcome.next (if_neg hp)
  case due =>
    rw [exec_fabricDrainMarker_of_kept ha hf, if_pos (State.markerDue_iff.2 h), State.ackMarker_of_named hf]
  case waits =>
    rintro ⟨n, hn, hm⟩
    rw [exec_fabricDrainMarker_of_kept ha hf, if_neg fun h => State.markerDue_iff.1 h n hn hm]

end Sys2Proof.Machine
end

section
/-! A result lands in its register once the counted distance covers its latency, and not before (R56, R70). -/
namespace Sys2Proof.Machine

/-! ## Words -/

/-- Registers of 32-bit words: symbolic ones, o0–o7 with l0 and l1, and scalars. -/
def RegId.IsWord (r : RegId) : Prop := ∃ m, r = .sym m ∨ r = .orf m ∨ r = .scal m

/-- The files of words have their canonical form. -/
structure Split.FilesWf (sp : Split) : Prop where
  vreg : spWf 0 sp.vreg = true
  ofile : spWf 0 sp.ofile = true
  scal : spWf 0 sp.uni.scal = true

theorem Split.FilesWf.set {sp : Split} (h : sp.FilesWf) (q : RegId) (j : Nat) (v : Dword) : (sp.set q j v).FilesWf := by
  obtain ⟨hv, ho, hs⟩ := h
  cases q with
  | sym n => exact ⟨spWf_spSet hv, ho, hs⟩
  | orf n => exact ⟨hv, spWf_spSet ho, hs⟩
  | scal n => exact ⟨hv, ho, spWf_spSet hs⟩
  | mask n => unfold Split.set; by_cases hn : n = 16 <;> simp only [hn, if_true, if_false] <;> exact ⟨hv, ho, hs⟩
  | rseed => unfold Split.set; by_cases hj : j = 128 <;> simp only [hj, if_true, if_false] <;> exact ⟨hv, ho, hs⟩
  | _ => exact ⟨hv, ho, hs⟩

theorem Split.FilesWf.sets (q : RegId) (l : List (Nat × Dword)) {sp : Split} (h : sp.FilesWf) : (sp.sets q l).FilesWf := by
  induction l generalizing sp with
  | nil => exact h
  | cons p l ih => exact ih (h.set q p.1 p.2)

theorem Split.FilesWf.settle (l : List Pend) {sp : Split} (h : sp.FilesWf) : (l.foldl Split.settleOne sp).FilesWf := by
  induction l generalizing sp with
  | nil => exact h
  | cons p l ih =>
    refine ih ?_
    unfold Split.settleOne
    split
    · exact h.sets p.reg p.vals
    · exact ⟨h.vreg, h.ofile, h.scal⟩

/-- A 32-bit word stands in a 64-bit one as it is. -/
theorem setWidth_word {v : Dword} (h : v.toNat < 2 ^ 32) : (v.setWidth 32).setWidth 64 = v := by
  apply BitVec.eq_of_toNat_eq
  simp only [BitVec.toNat_setWidth]
  omega

/-- A word register set in a lane holds the value there. -/
theorem Split.committed_set_same {r : RegId} (hr : r.IsWord) {sp : Split} (h : sp.FilesWf) (i : Nat) {v : Dword} (hv : v.toNat < 2 ^ 32) :
    (sp.set r i v).committed r i = v := by
  obtain ⟨m, rfl | rfl | rfl⟩ := hr
  · exact (congrArg (BitVec.setWidth 64) ((spGet_spSet h.vreg).trans (if_pos rfl))).trans (setWidth_word hv)
  · exact (congrArg (BitVec.setWidth 64) ((spGet_spSet h.ofile).trans (if_pos rfl))).trans (setWidth_word hv)
  · exact (congrArg (BitVec.setWidth 64) ((spGet_spSet h.scal).trans (if_pos rfl))).trans (setWidth_word hv)

/-- A per-lane register set in a lane stands in every other. -/
theorem Split.committed_set_other {r : RegId} (hr : r.perLane = true) (sp : Split) {i j : Nat} (hij : i ≠ j) (v : Dword) :
    (sp.set r j v).committed r i = sp.committed r i := by
  cases r with
  | sym m => exact congrArg (BitVec.setWidth 64) (spGet_spSet_of_ne (α := Word) (by omega) _)
  | orf m => exact congrArg (BitVec.setWidth 64) (spGet_spSet_of_ne (α := Word) (by omega) _)
  | _ => cases hr

/-- Lanes set one after the other leave a lane that is not among them. -/
theorem Split.committed_sets_of_not_mem {r : RegId} (hr : r.perLane = true) {i : Nat} (l : List (Nat × Dword)) (hi : i ∉ l.map (·.1))
    (sp : Split) : (sp.sets r l).committed r i = sp.committed r i := by
  induction l generalizing sp with
  | nil => rfl
  | cons p l ih =>
    rw [List.map_cons, List.mem_cons, not_or] at hi
    exact (ih hi.2 _).trans (sp.committed_set_other hr hi.1 p.2)

/-- Distinct lanes of a word register hold the values set in them; a uniform one has one value alone. -/
theorem Split.committed_sets {r : RegId} (hr : r.IsWord) {i : Nat} {v : Dword} {l : List (Nat × Dword)} (hn : (l.map (·.1)).Nodup)
    (hl : ∀ q ∈ l, q.2.toNat < 2 ^ 32) (hu : r.perLane = true ∨ l = [(i, v)]) (hm : (i, v) ∈ l) {sp : Split} (h : sp.FilesWf) :
    (sp.sets r l).committed r i = v := by
  rcases hu with hp | rfl
  · induction l generalizing sp with
    | nil => cases hm
    | cons p l ih =>
      rw [List.map_cons, List.nodup_cons] at hn
      rcases List.mem_cons.1 hm with rfl | hm
      · exact (Split.committed_sets_of_not_mem hp l hn.1 _).trans (Split.committed_set_same hr h i (hl _ List.mem_cons_self))
      · exact ih hn.2 (fun q hq => hl q (List.mem_cons_of_mem p hq)) hm (h.set r p.1 p.2)
  · exact Split.committed_set_same hr h i (hl _ List.mem_cons_self)

/-! ## Landing -/

/-- The latency of a result: two less in l0 and l1, but not below 1 (R70). -/
def RegId.latency (r : RegId) (lat : Nat) : Nat := if (r = .orf 8 ∨ r = .orf 9) ∧ lat ≠ 0 then max 1 (lat - 2) else lat

/-- A distance that passes behind a result, which is the only one of its register: the others land or wait, and it comes last. -/
theorem Split.advance_put {r : RegId} {sp : Split} (h : sp.Idle r) (hw : sp.FilesWf) (vals : List (Nat × Dword)) (lat n : Nat) :
    ∃ a : Split, sp.Stands r a ∧ a.Idle r ∧ a.FilesWf ∧
      (sp.put r vals lat).advance n = a.settleOne { reg := r, vals, left := r.latency lat - n } := by
  obtain ⟨written, hm⟩ := Split.mark_eq { sp with pend := sp.pend ++ [{ reg := r, vals, left := r.latency lat }] } r
  have hl : ∀ p ∈ sp.pend.map fun p => { p with left := p.left - n }, p.ForOthers r := by
    intro p hp
    obtain ⟨p', hp', rfl⟩ := List.mem_map.1 hp
    exact h p' hp'
  obtain ⟨k, k'⟩ := Split.foldl_settleOne _ hl { sp with pend := [], written } (fun _ hp => nomatch hp)
  refine ⟨_, (Split.Stands.of_pend r sp [] sp.held written).trans k, k', .settle _ ⟨hw.vreg, hw.ofile, hw.scal⟩, ?_⟩
  rw [show sp.put r vals lat = _ from hm]
  simp only [Split.advance, Split.settle, List.map_append, List.map_cons, List.map_nil, List.foldl_append, List.foldl_cons, List.foldl_nil]
  rfl

/-- A result whose latency is not covered waits: its register reads as it stands, and falls short by the rest. -/
theorem Split.Idle.settleOne_waits {r : RegId} {a : Split} (h : a.Idle r) (vals : List (Nat × Dword)) {left : Nat} (hl : left ≠ 0) (i : Nat) :
    (a.settleOne { reg := r, vals, left }).read r i = a.committed r i ∧ (a.settleOne { reg := r, vals, left }).short r = left := by
  have hw : a.settleOne { reg := r, vals, left } = { a with pend := a.pend ++ [{ reg := r, vals, left }] } := by
    simp [Split.settleOne, Pend.lands, hl]
  have hc : ({ a with pend := a.pend ++ [{ reg := r, vals, left }] } : Split).committed r i = a.committed r i := by cases r <;> rfl
  rw [hw]
  constructor
  · simp only [Split.read, List.foldl_append, List.foldl_cons, List.foldl_nil, hl, and_false, if_false, hc]
    exact h.read i
  · simp only [Split.short, List.foldl_append, List.foldl_cons, List.foldl_nil, hl, if_true, if_false]
    rw [foldl_unchanged fun p hp _ => if_neg (h p hp).1, Nat.zero_max]

/-- A result whose latency is covered, with none of its register before it, is set. -/
theorem Split.Idle.settleOne_lands {r : RegId} {a : Split} (h : a.Idle r) (vals : List (Nat × Dword)) :
    a.settleOne { reg := r, vals, left := 0 } = a.sets r vals := by
  have hn : (a.pend.any fun q => q.reg = r && !q.ghost) = false := by
    rw [List.any_eq_false]
    intro q hq
    simp [(h q hq).1]
  simp [Split.settleOne, Pend.lands, hn]

/-- No reader of a register with no result on its way falls short. -/
theorem Split.Idle.short {r : RegId} {sp : Split} (h : sp.Idle r) : sp.short r = 0 :=
  foldl_unchanged (fun p hp _ => if_neg (h p hp).1) _

/-- Settles O53: the other results leave the register alone, so that its own one waits while the distance is less than its latency, and
is set once it is covered. -/
theorem resultsLandAtTheirLatency : Obligations.ResultsLandAtTheirLatency := by
  unfold Obligations.ResultsLandAtTheirLatency
  intro sp r vals lat n i v hr hscal hvreg hofile hs hpend hnodup hvals hmem
  have idle : sp.Idle r := hpend
  have hu : r.perLane = true ∨ vals = [(i, v)] := by
    obtain ⟨m, rfl | rfl | rfl⟩ := hr
    · exact .inl rfl
    · exact .inl rfl
    · obtain ⟨hv, rfl⟩ := hscal m rfl
      exact .inr hv
  obtain ⟨a, ha, idle', hwf, he⟩ := Split.advance_put idle ⟨hvreg, hofile, hs⟩ vals lat n
  dsimp only
  rw [he]
  change (n < r.latency lat → _ ∧ _ = r.latency lat - n) ∧ (r.latency lat ≤ n → _)
  constructor
  · intro hlt
    obtain ⟨hread, hshort⟩ := idle'.settleOne_waits vals (left := r.latency lat - n) (by omega) i
    exact ⟨by rw [hread, ha.committed i (hvals _ hmem).1, idle.read], hshort⟩
  · intro hle
    rw [Nat.sub_eq_zero_of_le hle, idle'.settleOne_lands]
    have idle'' := idle'.sets r vals
    exact ⟨(idle''.read i).trans (Split.committed_sets hr hnodup (fun q hq => (hvals q hq).2) hu hmem hwf), idle''.short⟩

end Sys2Proof.Machine
end

section
/-! The integer arithmetic of R110, and its results on words, under `.sat` and in BFI's field (R85, R107, R111). -/
namespace Sys2Proof.Machine

/-! ## Completion -/

theorem minRes_eq (t : IntTy) (sat : Bool) (a b : Nat) : minRes t sat a b = t.out (min (t.val a) (t.val b)) := rfl

theorem maxRes_eq (t : IntTy) (sat : Bool) (a b : Nat) : maxRes t sat a b = t.out (max (t.val a) (t.val b)) := rfl

theorem absRes_eq (t : IntTy) (sat : Bool) (a : Nat) : absRes t sat a = t.result sat |t.val a| := by
  unfold absRes
  split
  next h => rw [abs_of_neg h]
  next h => rw [abs_of_nonneg (not_lt.1 h)]

/-- Both rows of an opcode that computes one value at each of its sites. -/
theorem both_computes {op : Nat} {spec : Nat → Spec} {ev : Ev} {v w : Ctx → Split → Nat → Nat} {short : Short → Instr}
    {long : Long → Instr} (hs : ∀ f s, exec (short f) s = s.issueOp op (.base f) spec (laneOp ev w))
    (hl : ∀ f s, exec (long f) s = s.issueOp op (.long f) spec (laneOp ev w))
    (hv : ∀ x sp i, w x sp i = v x sp i) : Both short long (Computes op spec ev v) := by
  obtain rfl : w = v := funext fun x => funext fun sp => funext (hv x sp)
  exact both_of_issueOp hs hl fun i f he => computes_of_body he fun _ _ _ => rfl

/-- Settles O1: each body computes its result at each site, and the least, the greatest and the magnitude are those of the integers. -/
theorem integerArithmeticCompletes : Obligations.IntegerArithmeticCompletes := by
  unfold Obligations.IntegerArithmeticCompletes
  refine ⟨?iadd, ?isub, ?imul, ?imulh, ?imad, ?imin, ?imax, ?iabs, ?ineg⟩
  case imad => exact fun f => computes_of_body (fun _ => rfl) fun _ _ _ => rfl
  case imin => exact both_computes (fun _ _ => rfl) (fun _ _ => rfl) fun _ _ _ => minRes_eq ..
  case imax => exact both_computes (fun _ _ => rfl) (fun _ _ => rfl) fun _ _ _ => maxRes_eq ..
  case iabs =>
    refine fun f => computes_of_body (fun _ => rfl) fun s c x => ?_
    simp only [int1, laneOp, absRes_eq]
  all_goals exact both_computes (fun _ _ => rfl) (fun _ _ => rfl) fun _ _ _ => rfl

/-! ## Integer types as bit vectors of their width -/

theorem wrap_eq_toNat (n : Nat) (v : Int) : wrap n v = (BitVec.ofInt n v).toNat := by
  simp [wrap, BitVec.toNat_ofInt]

theorem sx_eq_toInt {n : Nat} (hn : 0 < n) (x : Nat) : sx n x = (BitVec.ofNat n x).toInt := by
  have hp : 2 * 2 ^ (n - 1) = 2 ^ n := by rw [← pow_succ', Nat.sub_add_cancel hn]
  simp only [sx, BitVec.toInt_eq_toNat_cond, BitVec.toNat_ofNat, Nat.cast_pow, Nat.cast_ofNat]
  congr 1
  exact propext (by omega)

namespace IntTy

/-- A result keeps the low n bits of its integer, extended by the type's signedness. -/
theorem out_eq_toNat {t : IntTy} (hn : 0 < t.n) (v : Int) :
    t.out v = if t.signed then ((BitVec.ofInt t.n v).signExtend (max 32 t.n)).toNat else (BitVec.ofInt t.n v).toNat := by
  simp only [out, wrap_eq_toNat, sx_eq_toInt hn, BitVec.ofNat_toNat, BitVec.setWidth_eq, BitVec.signExtend]

theorem val_eq {t : IntTy} (hn : 0 < t.n) (x : Nat) :
    t.val x = if t.signed then (BitVec.ofNat t.n x).toInt else ((BitVec.ofNat t.n x).toNat : Int) := by
  simp only [val, sx_eq_toInt hn, bits, BitVec.toNat_ofNat]

/-- The value read is the operand's, modulo 2^n. -/
theorem ofInt_val {t : IntTy} (hn : 0 < t.n) (x : Nat) : BitVec.ofInt t.n (t.val x) = BitVec.ofNat t.n x := by
  rw [val_eq hn]
  split
  next => exact BitVec.ofInt_toInt
  next => rw [BitVec.ofInt_natCast, BitVec.ofNat_toNat, BitVec.setWidth_eq]

/-- The result written is the integer's, modulo 2^n. -/
theorem ofNat_out {t : IntTy} (hn : 0 < t.n) (v : Int) : BitVec.ofNat t.n (t.out v) = BitVec.ofInt t.n v := by
  rw [out_eq_toNat hn]
  split
  next =>
    rw [BitVec.ofNat_toNat]
    refine BitVec.eq_of_getLsbD_eq fun i hi => ?_
    rw [BitVec.getLsbD_setWidth, BitVec.getLsbD_signExtend, decide_eq_true hi, decide_eq_true (lt_max_of_lt_right hi), if_pos hi,
      Bool.true_and, Bool.true_and]
  next => rw [BitVec.ofNat_toNat, BitVec.setWidth_eq]

/-- An integer of the type's range reads back from its result. -/
theorem val_out_of_mem {t : IntTy} (hn : 0 < t.n) {v : Int} (hl : t.lo ≤ v) (hh : v ≤ t.hi) : t.val (t.out v) = v := by
  rw [val_eq hn, ofNat_out hn]
  unfold lo at hl
  unfold hi at hh
  split
  next hs =>
    rw [if_pos hs] at hl hh
    exact BitVec.toInt_ofInt_eq_self hn hl (Int.lt_of_le_sub_one hh)
  next hs =>
    rw [if_neg hs] at hl hh
    rw [BitVec.toNat_ofInt, Int.toNat_of_nonneg (Int.emod_nonneg v (by positivity)),
      Int.emod_eq_of_lt hl (by push_cast; exact Int.lt_of_le_sub_one hh)]

/-- Under `.sat` a result lies in the type's range, and is the exact one where that does. -/
theorem val_result_sat {t : IntTy} (hn : 0 < t.n) (v : Int) : t.val (t.result true v) = max t.lo (min t.hi v) := by
  have hr : t.lo ≤ t.hi := t.lo_nonpos.trans t.hi_nonneg
  have hc : clampI t.lo t.hi v = max t.lo (min t.hi v) := by unfold clampI; grind
  rw [result, if_pos rfl, val_out_of_mem hn (clampI_bounds hr v).1 (clampI_bounds hr v).2, hc]

/-- The bits of a result: the integer's, and from the type's width on those of its extension. -/
theorem testBit_out {t : IntTy} (hn : 0 < t.n) (x j : Nat) :
    (t.out x).testBit j = if j < t.n then x.testBit j else t.signed && decide (j < max 32 t.n) && x.testBit (t.n - 1) := by
  have hm : (BitVec.ofNat t.n x).msb = x.testBit (t.n - 1) := by
    rw [BitVec.msb_eq_getLsbD_last, BitVec.getLsbD_ofNat, decide_eq_true (Nat.sub_one_lt hn.ne'), Bool.true_and]
  rw [out_eq_toNat hn, BitVec.ofInt_natCast]
  split
  next hs =>
    rw [BitVec.testBit_toNat, BitVec.getLsbD_signExtend, BitVec.getLsbD_ofNat, hm, hs]
    by_cases hj : j < t.n
    · simp [hj]
    · simp [hj]
  next hs =>
    rw [BitVec.testBit_toNat, BitVec.getLsbD_ofNat]
    by_cases hj : j < t.n <;> simp [hj, hs]

/-- From the type's width on a result extends its own highest bit, to 32 bits, where the type is signed. -/
theorem testBit_out_extended {t : IntTy} (hn : 0 < t.n) (x : Nat) {j : Nat} (hj : t.n ≤ j) :
    (t.out x).testBit j = (t.signed && decide (j < 32) && (t.out x).testBit (t.n - 1)) := by
  have hmax : j < max 32 t.n ↔ j < 32 := by omega
  rw [testBit_out hn, testBit_out hn, if_neg (by omega), if_pos (by omega), decide_eq_decide.2 hmax]

end IntTy

/-! ## Results of 32-bit types -/

theorem ofInt_val_word {t : IntTy} (h : t.n = 32) (a : Word) : BitVec.ofInt 32 (t.val a.toNat) = a := by
  have hv := t.ofInt_val (by omega) a.toNat
  rwa [h, BitVec.ofNat_toNat, BitVec.setWidth_eq] at hv

theorem ofNat_out_word {t : IntTy} (h : t.n = 32) (v : Int) : BitVec.ofNat 32 (t.out v) = BitVec.ofInt 32 v := by
  have ho := t.ofNat_out (by omega) v
  rwa [h] at ho

/-- The results of 32-bit types without `.sat` are those of 32-bit words. -/
theorem word_results {t : IntTy} (h : t.n = 32) (a b : Word) :
    BitVec.ofNat 32 (addRes t false a.toNat b.toNat) = a + b ∧ BitVec.ofNat 32 (subRes t false a.toNat b.toNat) = a - b ∧
    BitVec.ofNat 32 (mulRes t false a.toNat b.toNat) = a * b ∧ BitVec.ofNat 32 (negRes t false a.toNat) = -a := by
  have hv := ofInt_val_word h
  have ho := ofNat_out_word h
  refine ⟨?add, ?sub, ?mul, ?neg⟩
  case add => exact (ho _).trans (by rw [if_neg Bool.false_ne_true, BitVec.ofInt_add, hv, hv])
  case sub =>
    refine (ho _).trans ?_
    rw [if_neg Bool.false_ne_true, sub_eq_add_neg, BitVec.ofInt_add, BitVec.ofInt_neg, hv, hv, BitVec.sub_eq_add_neg]
  case mul => exact (ho _).trans (by rw [BitVec.ofInt_mul, hv, hv])
  case neg => exact (ho _).trans (by rw [if_neg Bool.false_ne_true, BitVec.ofInt_neg, hv])

/-! ## BFI -/

/-- Bits of a number whose field of `len` bits at `pos` is another's low bits. -/
theorem testBit_field (a b pos len j : Nat) :
    (b / 2 ^ (pos + len) * 2 ^ (pos + len) + a % 2 ^ len * 2 ^ pos + b % 2 ^ pos).testBit j =
      if pos ≤ j ∧ j < pos + len then a.testBit (j - pos) else b.testBit j := by
  have hlow : b % 2 ^ pos < 2 ^ pos := Nat.mod_lt _ (by positivity)
  have hfield : 2 ^ pos * (a % 2 ^ len) + b % 2 ^ pos < 2 ^ (pos + len) := by
    calc
      _ < 2 ^ pos * (a % 2 ^ len) + 2 ^ pos := Nat.add_lt_add_left hlow _
      _ = 2 ^ pos * (a % 2 ^ len + 1) := (Nat.mul_succ _ _).symm
      _ ≤ 2 ^ pos * 2 ^ len := Nat.mul_le_mul_left _ (Nat.mod_lt _ (by positivity))
      _ = 2 ^ (pos + len) := (pow_add 2 pos len).symm
  rw [add_assoc, mul_comm, mul_comm (a % _), Nat.testBit_two_pow_mul_add _ hfield, Nat.testBit_two_pow_mul_add _ hlow,
    Nat.testBit_div_two_pow, Nat.testBit_mod_two_pow, Nat.testBit_mod_two_pow]
  by_cases hj : j < pos
  · simp [hj, show j < pos + len by omega, show ¬ pos ≤ j by omega]
  · by_cases hl : j < pos + len
    · simp [hj, hl, show j - pos < len by omega, show pos ≤ j by omega]
    · simp [hl, show j - (pos + len) + (pos + len) = j by omega]

/-- The bits of BFI's result within the type. -/
theorem testBit_bfiRes {t : IntTy} (hn : 0 < t.n) (a b c : Nat) {j : Nat} (hj : j < t.n) :
    (bfiRes t a b c).testBit j =
      if c % 256 ≤ j ∧ j < c % 256 + c / 256 % 256 then a.testBit (j - c % 256) else b.testBit j := by
  have hin : min (c % 256) t.n ≤ j ∧ j < min (c % 256) t.n + min (c / 256 % 256) (t.n - min (c % 256) t.n) ↔
      c % 256 ≤ j ∧ j < c % 256 + c / 256 % 256 := by omega
  simp only [bfiRes]
  rw [IntTy.testBit_out hn, if_pos hj, testBit_field, IntTy.bits, IntTy.bits, Nat.testBit_mod_two_pow, Nat.testBit_mod_two_pow,
    decide_eq_true hj, Bool.true_and]
  simp only [hin]
  refine if_ctx_congr Iff.rfl (fun h => ?_) fun _ => rfl
  rw [min_eq_left (by omega), decide_eq_true (by omega), Bool.true_and]

/-- Settles O2: a result is the exact integer modulo 2^n, from which the type's range reads back, and BFI's field lies bit by bit. -/
theorem integerResults : Obligations.IntegerResults := by
  unfold Obligations.IntegerResults
  refine ⟨fun a b t ht => ?words, fun t a b ht => ?sat, fun t a b c j ht => ?bfi⟩
  case words =>
    have h : t.n = 32 := by rcases ht with rfl | rfl | rfl <;> rfl
    exact word_results h a b
  case sat =>
    have hn : 0 < t.n := by revert t; decide
    exact ⟨IntTy.val_result_sat hn _, IntTy.val_result_sat hn _⟩
  case bfi =>
    have hn : 0 < t.n := by revert t; decide
    exact ⟨testBit_bfiRes hn a b c, IntTy.testBit_out_extended hn _⟩

end Sys2Proof.Machine
end

section
/-! The floating-point instructions: the exact result of the operands' values, rounded once (R103, R113, R114). -/
namespace Sys2Proof.Machine

/-- Both rows of an opcode that rounds one value at each of its sites. -/
theorem both_rounds {op : Nat} {spec : Nat → Spec} {ev : Ev} {rs : Ctx → Bool} {n : Nat} {v : Ctx → Split → Nat → (Nat → Nat) → Nat}
    {short : Short → Instr} {long : Long → Instr}
    (hs : ∀ f s, exec (short f) s = s.issueOp op (.base f) spec fun s c x => roundOp ev (rs x) n v s c x)
    (hl : ∀ f s, exec (long f) s = s.issueOp op (.long f) spec fun s c x => roundOp ev (rs x) n v s c x) :
    Both short long (Rounds op spec ev rs n v) :=
  both_of_issueOp hs hl fun _ _ he => rounds_of_body he fun _ _ _ => rfl

/-- Settles O6: each body rounds once, at the instruction's own mode, the exact result of its operands' values. -/
theorem floatInstructionsComplete : Obligations.FloatInstructionsComplete := by
  unfold Obligations.FloatInstructionsComplete
  refine ⟨⟨?fadd, ?fsub, ?fmul, ?ffma, ?fmin, ?fmax, ?frnd, ?fscale⟩, ?frcp, ?frsq, ?fsqrt, ?fexp2, ?flog2, ?ftanh, ?fsigm, ?fdiv⟩
  case ffma => exact fun f => rounds_of_body (fun _ => rfl) fun _ _ _ => rfl
  all_goals exact both_rounds (fun _ _ => rfl) (fun _ _ => rfl)

end Sys2Proof.Machine
end

section
/-! The cross-lane instructions on the active lanes L (R122–R124), and the folds of R104. -/
namespace Sys2Proof.Machine

/-! ## Folds -/

/-- A level of TreeSum keeps the fold of its values from the left, and halves their number. -/
theorem pairUp_cons {f : Nat → Nat → Nat} (hf : ∀ a b c, f (f a b) c = f a (f b c)) (l : List Nat) (a : Nat) :
    ∃ b m, pairUp f (a :: l) = b :: m ∧ m.foldl f b = l.foldl f a ∧ 2 * m.length ≤ l.length := by
  induction l using List.twoStepInduction generalizing a with
  | nil => exact ⟨a, [], rfl, rfl, le_rfl⟩
  | singleton b => exact ⟨f a b, [], rfl, rfl, Nat.zero_le _⟩
  | cons_cons b c l ih _ =>
    obtain ⟨d, m, hp, hm, hl⟩ := ih c
    have : Std.Associative f := ⟨hf⟩
    refine ⟨f a b, d :: m, by rw [pairUp, hp], ?_, by simp only [List.length_cons]; omega⟩
    rw [List.foldl_cons, List.foldl_assoc, hm, List.foldl_cons, List.foldl_cons, List.foldl_assoc]

theorem treeSum_eq_foldl {f : Nat → Nat → Nat} (hf : ∀ a b c, f (f a b) c = f a (f b c)) {n : Nat} {a : Nat} {l : List Nat}
    (hl : l.length < 2 ^ n) : treeSum f n (a :: l) = l.foldl f a := by
  induction n generalizing a l with
  | zero =>
    obtain rfl : l = [] := List.length_eq_zero_iff.1 (by omega)
    rfl
  | succ n ih =>
    obtain ⟨b, m, hp, hm, hlen⟩ := pairUp_cons hf l a
    rw [treeSum, hp, ih (by omega), hm]

/-- A scan's next values, each folded onto the one before. -/
theorem getElem?_scanSum_some (f : Nat → Nat → Nat) {l : List Nat} {n : Nat} (h : n < l.length) (a : Nat) :
    (scanSum f (some a) l)[n]? = some ((l.take (n + 1)).foldl f a) := by
  induction l generalizing n a with
  | nil => exact absurd h (Nat.not_lt_zero n)
  | cons b l ih =>
    cases n with
    | zero => rfl
    | succ n => exact ih (Nat.lt_of_succ_lt_succ h) (f a b)

/-- Settles O9: a level of the tree keeps the fold and halves the values, and a scan folds each value onto the one before. -/
theorem foldsAgree : Obligations.FoldsAgree := by
  unfold Obligations.FoldsAgree
  refine fun f hf a l hl => ⟨treeSum_eq_foldl hf hl, fun n hn => ?_⟩
  cases n with
  | zero => rfl
  | succ n => exact getElem?_scanSum_some f hn a

/-! ## Completion -/

/-- What a cross-lane operation writes: a scalar D once, where a lane is active, and any other D in each active lane. -/
def Ctx.crossed (x : Ctx) (v : Ctx → Split → Nat → Nat) (sp : Split) : List (Nat × Nat) :=
  match x.d with
  | .scal _ => (x.lanes.take 1).map fun i => (0, v x sp i)
  | _ => x.lanes.map fun i => (i, v x sp i)

theorem crossOp_eq (v : Ctx → Split → Nat → Nat) (s : State) (c : Cur) (x : Ctx) :
    crossOp v s c x = doneWith s c (c.split.result x.d x.dWide (x.crossed v c.split) x.lat) (x.charge .xlane) := by
  unfold crossOp Ctx.crossed
  cases x.d <;> rfl

/-- Both rows of an opcode whose body is a cross-lane operation. -/
theorem both_crosses {op : Nat} {spec : Nat → Spec} {w : Ctx → Split → Nat → Nat} {r : Cur → Ctx → Split}
    {short : Short → Instr} {long : Long → Instr}
    (hs : ∀ f s, exec (short f) s = s.issueOp op (.base f) spec (crossOp w))
    (hl : ∀ f s, exec (long f) s = s.issueOp op (.long f) spec (crossOp w))
    (hr : ∀ c x, r c x = c.split.result x.d x.dWide (x.crossed w c.split) x.lat) :
    Both short long (Leaves op spec (·.charge .xlane) r) :=
  both_of_issueOp hs hl fun i f he => leaves_of_body he (fun s c x => by rw [crossOp_eq, hr]) fun c x => by rw [hr, hr, Cur.counted_split]

/-- SHFL takes the named lane's value where that lane is in L. -/
theorem bodyShfl_eq : bodyShfl = crossOp fun x sp i =>
    x.vA sp (if shflLane (Mod.sub x.m) i (x.vB sp i) ∈ x.lanes then shflLane (Mod.sub x.m) i (x.vB sp i) else i) := by
  simp only [bodyShfl, List.contains_iff_mem]

theorem bodyBcast_eq : bodyBcast = crossOp fun x sp _ => if x.vB sp 0 ∈ x.lanes then x.vA sp (x.vB sp 0) else 0 := by
  simp only [bodyBcast, List.contains_iff_mem]

/-- Settles O8: each body is a cross-lane operation on L but WSCAN's, which writes its sums side by side. -/
theorem crossLaneCompletes : Obligations.CrossLaneCompletes := by
  unfold Obligations.CrossLaneCompletes
  refine ⟨?shfl, ?bcast, ?vote, ?wred, ?wscan, ?matchLanes⟩
  case shfl =>
    exact both_crosses (fun f s => congrArg (s.issueOp 0x060 (.base f) specShfl) bodyShfl_eq)
      (fun f s => congrArg (s.issueOp 0x060 (.long f) specShfl) bodyShfl_eq) fun _ _ => rfl
  case bcast =>
    exact both_crosses (fun f s => congrArg (s.issueOp 0x061 (.base f) specBcast) bodyBcast_eq)
      (fun f s => congrArg (s.issueOp 0x061 (.long f) specBcast) bodyBcast_eq) fun _ _ => rfl
  case vote =>
    refine both_crosses (fun _ _ => rfl) (fun _ _ => rfl) fun c x => ?_
    simp only [Ctx.crossed, Ctx.voteAll]
    match Mod.sub x.m with
    | 0 => rfl
    | 1 => rfl
    | 2 => rfl
    | 3 => rfl
    | _ + 4 => rfl
  case wred => exact both_crosses (fun _ _ => rfl) (fun _ _ => rfl) fun _ _ => rfl
  case wscan =>
    exact both_of_issueOp (fun _ _ => rfl) (fun _ _ => rfl) fun i f he => leaves_of_body he (fun _ _ _ => rfl) fun c x => by
      rw [Cur.counted_split]
  case matchLanes => exact both_crosses (fun _ _ => rfl) (fun _ _ => rfl) fun _ _ => rfl

end Sys2Proof.Machine
end

section
/-! Stochastic-rounding generators (R99, R100). -/
namespace Sys2Proof.Machine

/-- A shift to the left, at least by one, moves every word but zero. -/
theorem eq_zero_of_shiftLeft_eq {w k : Nat} (hk : 0 < k) {x : BitVec w} (h : x <<< k = x) : x = 0 := by
  have hx : ∀ n, x <<< (n * k) = x := fun n => by
    induction n with
    | zero => simp
    | succ n ih => rw [Nat.succ_mul, BitVec.shiftLeft_add, ih, h]
  rw [← hx w]
  exact BitVec.shiftLeft_eq_zero (Nat.le_mul_of_pos_right w hk)

/-- So does one to the right. -/
theorem eq_zero_of_ushiftRight_eq {w k : Nat} (hk : 0 < k) {x : BitVec w} (h : x >>> k = x) : x = 0 := by
  have hx : x.toNat / 2 ^ k = x.toNat := by rw [← Nat.shiftRight_eq_div_pow, ← BitVec.toNat_ushiftRight, h]
  have hp : 1 < 2 ^ k := Nat.one_lt_two_pow hk.ne'
  refine BitVec.eq_of_toNat_eq (Nat.eq_zero_of_not_pos fun h0 => ?_)
  exact absurd hx (Nat.div_lt_self h0 hp).ne

theorem xor_shiftLeft_ne_zero {k : Nat} (hk : 0 < k) {x : Word} (hx : x ≠ 0) : x ^^^ x <<< k ≠ 0 := fun h =>
  hx (eq_zero_of_shiftLeft_eq hk (BitVec.xor_eq_zero_iff.1 h).symm)

theorem xor_ushiftRight_ne_zero {k : Nat} (hk : 0 < k) {x : Word} (hx : x ≠ 0) : x ^^^ x >>> k ≠ 0 := fun h =>
  hx (eq_zero_of_ushiftRight_eq hk (BitVec.xor_eq_zero_iff.1 h).symm)

theorem nextDraw_ne_zero {x : Word} (hx : x ≠ 0) : nextDraw x ≠ 0 :=
  xor_shiftLeft_ne_zero (by decide) (xor_ushiftRight_ne_zero (by decide) (xor_shiftLeft_ne_zero (by decide) hx))

theorem drawAfter_ne_zero (n : Nat) {x : Word} (hx : x ≠ 0) : drawAfter n x ≠ 0 := by
  induction n generalizing x with
  | zero => exact hx
  | succ n ih => exact ih (nextDraw_ne_zero hx)

theorem seedState_ne_zero (bidx bidy bidz gx gy wid : Nat) (v : Word) (i : Nat) : seedState bidx bidy bidz gx gy wid v i ≠ 0 := by
  unfold seedState
  dsimp only
  split
  next => decide
  next h => exact h

/-- Settles O14: a seed of zero is replaced, and each of a draw's three shifts with exclusive or sends no word but zero to zero. -/
theorem generatorsNeverZero : Obligations.GeneratorsNeverZero := by
  unfold Obligations.GeneratorsNeverZero
  exact ⟨seedState_ne_zero, fun _ => nextDraw_ne_zero, fun n _ => drawAfter_ne_zero n⟩

end Sys2Proof.Machine
end

section
/-! Memory reads back what is written (R85). -/
namespace Sys2Proof.Machine

/-! ## Sparse maps and memory by their keys -/

section
variable {α : Type} [DecidableEq α] {d : α}

/-- A write of consecutive keys leaves every other key. -/
theorem spGet_spWrite_of_outside (l : List α) {m : Sp α} {a k : Nat} (h : k < a ∨ a + l.length ≤ k) :
    spGet d (spWrite d m a l) k = spGet d m k := by
  induction l generalizing m a with
  | nil => rfl
  | cons x l ih =>
    rw [List.length_cons] at h
    rw [spWrite, ih (by omega), spGet_spSet_of_ne (by omega)]

/-- A key that is written reads as its value. -/
theorem spGet_spWrite_of_inside (l : List α) {m : Sp α} (hm : spWf d m = true) {a k : Nat} (ha : a ≤ k) (hk : k < a + l.length) :
    spGet d (spWrite d m a l) k = nth d l (k - a) := by
  induction l generalizing m a with
  | nil => exact absurd hk (by simpa using ha)
  | cons x l ih =>
    rw [List.length_cons] at hk
    rw [spWrite]
    by_cases h : k = a
    · subst h
      rw [spGet_spWrite_of_outside l (.inl (Nat.lt_succ_self k)), spGet_spSet hm, if_pos rfl, Nat.sub_self]
      rfl
    · rw [ih (spWf_spSet hm) (by omega) (by omega), show k - a = k - (a + 1) + 1 by omega]
      rfl

/-- Maps that rise from a bound and read alike are equal. -/
theorem spAbove_ext {b : Nat} {m n : Sp α} (hm : spAbove d b m = true) (hn : spAbove d b n = true) (h : ∀ k, spGet d m k = spGet d n k) :
    m = n := by
  induction m generalizing b n with
  | nil =>
    cases n with
    | nil => rfl
    | cons e n =>
      obtain ⟨-, hv, -⟩ := spAbove_cons.1 hn
      exact absurd ((h e.1).trans (if_pos rfl)).symm hv
  | cons e m ih =>
    obtain ⟨k, v⟩ := e
    obtain ⟨hk, hv, hm'⟩ := spAbove_cons.1 hm
    have hkv : spGet d n k = v := (h k).symm.trans (if_pos rfl)
    cases n with
    | nil => exact absurd hkv.symm hv
    | cons e n =>
      obtain ⟨j, w⟩ := e
      obtain ⟨hj, hw, hn'⟩ := spAbove_cons.1 hn
      have hjw : spGet d ((k, v) :: m) j = w := (h j).trans (if_pos rfl)
      obtain hlt | rfl | hgt := lt_trichotomy k j
      · rw [spGet_of_below (spAbove_cons.2 ⟨le_rfl, hw, hn'⟩) hlt] at hkv
        exact absurd hkv.symm hv
      · obtain rfl : v = w := (if_pos rfl).symm.trans hjw
        congr 1
        refine ih hm' hn' fun i => ?_
        by_cases hi : i ≤ k
        · rw [spGet_of_below hm' (Nat.lt_succ_of_le hi), spGet_of_below hn' (Nat.lt_succ_of_le hi)]
        · have hi' := h i
          rwa [spGet, spGet, if_neg (by omega), if_neg (by omega)] at hi'
      · rw [spGet_of_below (spAbove_cons.2 ⟨le_rfl, hv, hm'⟩) hgt] at hjw
        exact absurd hjw.symm hw

end

namespace Memory

theorem byte_write_of_outside (m : Memory) {a b : Nat} {bs : List Byte} (h : b < a ∨ a + bs.length ≤ b) : byte (write m a bs) b = byte m b :=
  spGet_spWrite_of_outside bs h

/-- Bytes once some are written from an address on. -/
theorem byte_write {m : Memory} (hm : wf m = true) (a b : Nat) (bs : List Byte) :
    byte (write m a bs) b = if a ≤ b ∧ b < a + bs.length then nth 0 bs (b - a) else byte m b := by
  split
  next h => exact spGet_spWrite_of_inside bs hm h.1 h.2
  next h => exact byte_write_of_outside m (by omega)

theorem read_write {m : Memory} (hm : wf m = true) (a : Nat) (bs : List Byte) : read (write m a bs) a bs.length = bs := by
  refine List.ext_getElem (by simp [read, spRange]) fun i hi hi' => ?_
  have hb : byte (write m a bs) (a + i) = nth 0 bs i := by
    rw [byte_write hm, if_pos ⟨Nat.le_add_right a i, Nat.add_lt_add_left hi' a⟩, Nat.add_sub_cancel_left]
  simp only [read, spRange, List.getElem_map, List.getElem_range]
  exact hb.trans (by rw [nth, List.getElem?_eq_getElem hi']; rfl)

end Memory

/-- Settles O57: what a write leaves at each address, and that a canonical map is what it reads as. -/
theorem memoryReadsBack : Obligations.MemoryReadsBack := by
  unfold Obligations.MemoryReadsBack
  exact ⟨fun m a bs hm => ⟨Memory.wf_write hm, Memory.read_write hm a bs, fun b hb => Memory.byte_write_of_outside m hb⟩,
    fun _ _ hm hn h => spAbove_ext hm hn h⟩

end Sys2Proof.Machine
end

section
/-! What the performance of an access changes of memory and cluster scratch (R187, R190, R269). -/
namespace Sys2Proof.Machine

/-! ## What performing an access leaves of the accounts alone -/

namespace State.Calm

theorem ite {s t u : State} {p : Prop} [Decidable p] (ht : s.Calm t) (hu : s.Calm u) : s.Calm (if p then t else u) := by
  split
  · exact ht
  · exact hu

theorem dropLine {s t : State} (h : s.Calm t) (core line : Nat) :
    s.Calm (({ t with lines := t.lines.filter (·.line ≠ line) } : State).l1Drop core line) := h.trans ⟨rfl, rfl⟩

theorem mapSplits (s : State) (blk wid : Nat) (f : Split → Split) : s.Calm (s.mapSplits blk wid f) := by
  refine ⟨rfl, ?_⟩
  cases h : s.cur with
  | none => simp [State.mapSplits, h]
  | some c =>
    simp only [State.mapSplits, h, Option.map_some]
    split_ifs <;> rfl

theorem progress (s : State) (blk wid : Nat) : s.Calm (s.progress blk wid) := by
  unfold State.progress State.mapWave
  exact mapWaves s _ _ fun w => by split <;> rfl

theorem acquire (s : State) (core scope : Nat) : s.Calm (s.acquire core scope) := ite ⟨rfl, rfl⟩ (refl s)

theorem forget (s : State) (o : Op) : s.Calm (s.forget o) := mapSplits ..

theorem bookTrip (s : State) (fn child : Nat) : s.Calm (s.bookTrip fn child) := book ..

theorem bookOp (s : State) (o : Op) (evs : List (Ev × Nat)) : s.Calm (s.bookOp o evs) := by
  unfold State.bookOp; split
  · exact bookFor ..
  · exact bookCore ..

theorem bookAtomAt (s : State) (o : Op) (slice : Nat) : s.Calm (s.bookAtomAt o slice) := by
  unfold State.bookAtomAt; split
  · exact bookOp ..
  · exact book ..

theorem bookAtom (s : State) (o : Op) (i : Item) : s.Calm (s.bookAtom o i) := by
  unfold State.bookAtom; split
  · exact bookAtomAt ..
  · exact bookAtomAt ..
  · exact refl s

theorem bookMoved (s : State) (o : Op) (before : Nat → Bool) (i : Item) : s.Calm (s.bookMoved o before i) := by
  unfold State.bookMoved; split
  · exact refl s
  · exact refl s
  · exact bookTrip ..
  · exact ite (refl s) (bookOp ..)

theorem logOp (s : State) (o : Op) (info : Dword) (ue : Bool) : s.Calm (s.logOp o info ue) := logErr ..

theorem deliverWord (s : State) (o : Op) (r : RegId) (lane : Nat) (v : Dword) (bad : Bool) : s.Calm (s.deliverWord o r lane v bad) :=
  mapSplits ..

theorem deliverTo (s : State) (o : Op) (d : Dst) (lane : Nat) (v : Dword) (bad : Bool) : s.Calm (s.deliverTo o d lane v bad) :=
  ite ((deliverWord ..).trans (deliverWord ..)) (deliverWord ..)

theorem deliverOld (s : State) (o : Op) (dst : Option Dst) (olds : List (Nat × Nat)) (bad : Bool) : s.Calm (s.deliverOld o dst olds bad) := by
  unfold State.deliverOld; split
  · exact refl s
  · exact ite (ite (deliverTo ..) (refl s)) (foldl (fun _ _ => deliverTo ..) ..)

theorem evictFirst (s before : State) (a n : Nat) : s.Calm (s.evictFirst before a n) := ⟨rfl, rfl⟩

theorem l1Drop (s : State) (core line : Nat) : s.Calm (s.l1Drop core line) := ⟨rfl, rfl⟩

theorem l1Load (s : State) (core a n : Nat) : s.Calm (s.l1Load core a n).1 := l1Use ..

theorem l1Redo (s : State) (core : Nat) (later : Nat → Bool) (line : Nat) : s.Calm (s.l1Redo core later line) :=
  foldl (fun _ _ => foldl (fun t _ => ite (l1Store ..) (refl t)) ..) ..

theorem fillLine (s : State) (core pa : Nat) : s.Calm (s.fillLine core pa) := ((renew ..).trans (l1Use ..)).trans (l1Redo ..)

theorem wordsAround (s : State) (i : Item) (bs : List Byte) : s.Calm (s.wordsAround i bs).1 := by
  unfold State.wordsAround
  dsimp only
  split
  · exact takeFree s
  · exact refl s

theorem overlay (s : State) (o : Op) (i : Item) (bs : List Byte) (bad : Bool) : s.Calm (s.overlay o i bs bad).1 := by
  unfold State.overlay
  dsimp only
  split_ifs
  · exact refl s
  · exact refl s
  · exact wordsAround s i bs

theorem readItem (s : State) (o : Op) (i : Item) (bad : Bool) : s.Calm (s.readItem o i bad).1 := by
  unfold State.readItem
  split
  · split
    · exact (scrubWords ..).trans (l1Load ..)
    · have ht := (scrub s o.fn .mem i.addr i.bytes).trans (touch _ o.fn o.child i.addr i.bytes false)
      have he : s.Calm (if o.pol = 3 then _ else _) := ite (ht.trans (evictFirst _ s i.addr i.bytes)) ht
      dsimp only
      split
      · exact he.trans (fillLine ..)
      · exact he.trans (l1Drop ..)
  · exact takeFree s
  · exact scrub ..

/-- The bytes that a load's lane binds: read from where they lie, under what its block has still to perform over them. -/
theorem boundBytes (s : State) (o : Op) (before : Nat → Bool) (i : Item) (bad : Bool) (bs : List Byte) (poison : Bool) :
    s.Calm (((if s.l1Serves o i = true then s else s.bookMoved o before i).readItem o i bad).1.overlay o i bs poison).1 :=
  ((ite (refl s) (bookMoved ..)).trans (readItem ..)).trans (overlay ..)

/-- A load performed delivers to registers and moves lines into caches. -/
theorem performLoad (s : State) (o : Op) (before : List Item) (i : Item) (bad : Bool) : s.Calm (s.performLoad o before i bad) := by
  unfold State.performLoad
  split
  · dsimp only
    split
    · exact (ite ((boundBytes ..).trans (logOp ..)) (boundBytes ..)).trans (deliverTo ..)
    · exact ite ((boundBytes ..).trans (logOp ..)) (boundBytes ..)
  · exact refl s

/-- A line written back changes no memory either: memory holds what the caches hold. -/
theorem performCwb (s : State) (o : Op) (inv : Bool) (i : Item) (bad : Bool) : s.Calm (s.performCwb o inv i bad) := by
  unfold State.performCwb
  split
  · refine ite (dropLine ?clean ..) ?clean
    split
    · exact ((bookOp ..).trans (bookLine ..)).trans ⟨rfl, rfl⟩
    · exact refl s
  · exact ite ((bookTrip ..).trans (logOp ..)) (bookTrip ..)
  · exact refl s

end State.Calm

/-! ## Items of an operation's groups -/

theorem length_leBytes (n x : Nat) : (leBytes n x).length = n := by
  induction n generalizing x with
  | zero => rfl
  | succ n ih => rw [leBytes, List.length_cons, ih]

theorem mem_insertBy {α : Type} {key : α → Nat} {x y : α} {l : List α} : x ∈ insertBy key y l ↔ x = y ∨ x ∈ l := by
  induction l with
  | nil => rw [insertBy, List.mem_cons]
  | cons z l ih =>
    rw [insertBy]
    split
    · rw [List.mem_cons, ih, List.mem_cons, or_left_comm]
    · rw [List.mem_cons]

theorem mem_sortBy {α : Type} {key : α → Nat} {x : α} {l : List α} : x ∈ sortBy key l ↔ x ∈ l := by
  induction l with
  | nil => rfl
  | cons y l ih => exact mem_insertBy.trans (by rw [List.mem_cons, ← ih]; rfl)

theorem Op.mem_items_of_mem_undone {o : Op} {i : Item} (h : i ∈ o.undone) : i ∈ o.items := by
  unfold Op.undone at h
  split at h
  · cases h
  · exact List.mem_of_mem_filter h

/-- An address group stands for one of the items that it is formed from. -/
theorem mem_of_mem_storeGroups {l : List Item} {g : Item × List Nat} (h : g ∈ storeGroups l) : g.1 ∈ l := by
  refine List.foldlRecOn (motive := fun acc => ∀ g ∈ acc, g.1 ∈ l) l _ (fun _ hg => absurd hg List.not_mem_nil)
    (fun acc hacc i hi g hg => ?_) g (mem_sortBy.1 h)
  split at hg
  next first hf =>
    obtain ⟨h, hh, rfl⟩ := List.mem_map.1 hg
    have hfirst : (if first.1.lane < i.lane then i else first.1) ∈ l := by
      split
      · exact hi
      · exact hacc first (List.mem_of_find?_eq_some hf)
    split
    · exact hfirst
    · exact hacc h hh
  · rcases List.mem_append.1 hg with hg | hg
    · exact hacc g hg
    · rw [List.mem_singleton.1 hg]
      exact hi

/-! ## Bytes that an operation's performance writes -/

/-- From one state to another no byte of memory or of cluster scratch changes but those that these items access. -/
structure State.WritesWithin (items : List Item) (s t : State) : Prop where
  mem : ∀ a, (∀ j ∈ items, j.space = .mem → a < j.addr ∨ j.addr + j.bytes ≤ a) → Memory.byte t.mem a = Memory.byte s.mem a
  cscr : ∀ a, (∀ j ∈ items, ∀ f, j.space = .cscr f → a < j.addr ∨ j.addr + j.bytes ≤ a) → Memory.byte t.cscr a = Memory.byte s.cscr a

/-- Two states hold the same memory and cluster scratch. -/
def State.SameBytes (s t : State) : Prop := t.mem = s.mem ∧ t.cscr = s.cscr

theorem State.Calm.sameBytes {s t : State} (h : s.Calm t) : s.SameBytes t := ⟨h.mem, h.cscr⟩

namespace State.SameBytes

theorem refl (s : State) : s.SameBytes s := ⟨rfl, rfl⟩

theorem trans {s t u : State} (h : s.SameBytes t) (k : t.SameBytes u) : s.SameBytes u := ⟨k.1.trans h.1, k.2.trans h.2⟩

theorem ite {s t u : State} {p : Prop} [Decidable p] (ht : s.SameBytes t) (hu : s.SameBytes u) : s.SameBytes (if p then t else u) := by
  split
  · exact ht
  · exact hu

theorem withOps {s t : State} (h : s.SameBytes t) (ops : List Op) : s.SameBytes { t with ops } := h

theorem foldl {α : Type} {f : State → α → State} (hf : ∀ (s : State) a, s.SameBytes (f s a)) (l : List α) (s : State) :
    s.SameBytes (l.foldl f s) := by
  induction l generalizing s with
  | nil => exact refl s
  | cons a l ih => exact (hf s a).trans (ih _)

theorem poisonAt (s : State) (sp : Space) (a n : Nat) : s.SameBytes (s.poisonAt sp a n) := by
  cases sp <;> exact ⟨rfl, rfl⟩

/-! ### A store -/

/-- A store to memory that is not lost leaves the bytes written there. -/
theorem storeAt_mem (s : State) (fn a : Nat) (bs : List Byte) (who : ErrRec) :
    State.SameBytes { s with mem := if s.isLost a = true then s.mem else Memory.write s.mem a bs } (s.storeAt fn .mem a bs who) := by
  have h := Calm.rewrite s fn .mem a bs.length
  have hlost : (s.rewrite fn .mem a bs.length).isLost a = s.isLost a := by simp only [State.isLost, State.cxlPort, h.hw]
  unfold State.storeAt
  dsimp only
  generalize s.rewrite fn .mem a bs.length = t at h hlost ⊢
  rw [hlost]
  split
  · exact h.sameBytes
  · have hw : ∀ p, State.SameBytes { s with mem := Memory.write s.mem a bs } { t with mem := Memory.write t.mem a bs, memPoison := p } :=
      fun p => ⟨congrArg (Memory.write · a bs) h.mem, h.cscr⟩
    refine ite (trans ?stored (Calm.logErr ..).sameBytes) ?stored
    exact (hw _).trans (Calm.touch ..).sameBytes

theorem storeAt_cscr (s : State) (fn f a : Nat) (bs : List Byte) (who : ErrRec) :
    State.SameBytes { s with cscr := Memory.write s.cscr a bs } (s.storeAt fn (.cscr f) a bs who) := by
  have h := Calm.rewrite s fn (.cscr f) a bs.length
  unfold State.storeAt
  dsimp only
  generalize s.rewrite fn (.cscr f) a bs.length = t at h ⊢
  have hw : ∀ p, State.SameBytes { s with cscr := Memory.write s.cscr a bs } { t with cscr := Memory.write t.cscr a bs, cscrPoison := p } :=
    fun p => ⟨h.mem, congrArg (Memory.write · a bs) h.cscr⟩
  exact ite ((hw _).trans (Calm.logErr ..).sameBytes) (hw _)

/-- A store to a scratchpad, a window or a tile. -/
theorem storeAt_elsewhere (s : State) (fn a : Nat) {sp : Space} (bs : List Byte) (who : ErrRec) (hm : sp ≠ .mem) (hc : ∀ f, sp ≠ .cscr f) :
    s.SameBytes (s.storeAt fn sp a bs who) := by
  obtain ⟨hmem, hcscr⟩ := (Calm.rewrite s fn sp a bs.length).sameBytes
  cases sp with
  | mem => exact absurd rfl hm
  | cscr f => exact absurd rfl (hc f)
  | scr blk buf => exact ⟨hmem, hcscr⟩
  | remote => exact ⟨hmem, hcscr⟩
  | tile => exact ⟨hmem, hcscr⟩

/-! ### The Loupe -/

theorem mapLoupe (s : State) (b : Block) (f : Loupe → Loupe) : s.SameBytes (s.mapLoupe b f) := by
  unfold State.mapLoupe; split <;> exact ⟨rfl, rfl⟩

theorem checkPair (b : Block) (x : LoupeAcc) (s : State) (a : LoupeAcc) : s.SameBytes (State.checkPair b x s a) := by
  unfold State.checkPair
  split
  · exact refl s
  · dsimp only
    split
    · exact refl s
    · split
      · exact refl s
      · exact (State.Calm.takeFree s).sameBytes.trans ((State.Calm.takeFree _).sameBytes.trans (mapLoupe ..))

theorem loupeAccess (s : State) (b : Block) (core : Nat) (x : LoupeAcc) : s.SameBytes (s.loupeAccess b core x) := by
  unfold State.loupeAccess
  split
  · exact refl s
  · exact ((foldl (checkPair b x) _ s).trans (mapLoupe ..)).trans (State.Calm.bookCore ..).sameBytes

/-- An acquire under the Loupe changes the clocks and the stamps of operations, and a race the records. -/
theorem loupeLearned (s : State) (b : Block) (p : Prop) [Decidable p] (f g : Loupe → Loupe) (ops : List Op) (core : Nat) (x : LoupeAcc) :
    s.SameBytes ((if p then { s.mapLoupe b f with ops } else s.mapLoupe b g : State).loupeAccess b core x) :=
  (ite (withOps (mapLoupe ..) ops) (mapLoupe ..)).trans (loupeAccess ..)

theorem loupeLanes (s : State) (o : Op) (l : List Item) (cached : Item → Bool) : s.SameBytes (s.loupeLanes o l cached) := by
  unfold State.loupeLanes
  dsimp only
  split
  · exact refl s
  · split
    · exact refl s
    · exact ite (refl s) (ite (loupeLearned ..) ((loupeLearned ..).trans (mapLoupe ..)))

/-! ### Completion -/

theorem complete (s : State) (id : Nat) : s.SameBytes (s.complete id) := by
  unfold State.complete
  split
  · exact refl s
  · exact ⟨rfl, rfl⟩

theorem didLanes (s : State) (id : Nat) (lanes : List Nat) : s.SameBytes (s.didLanes id lanes) := by
  unfold State.didLanes
  dsimp only
  split
  · exact ⟨rfl, rfl⟩
  · refine ite ⟨rfl, rfl⟩ (trans (ite (trans ?acquired (State.Calm.progress ..).sameBytes) ?acquired) (complete ..))
    exact ite (trans (t := s.mapOp id _) ⟨rfl, rfl⟩ (State.Calm.acquire ..).sameBytes) ⟨rfl, rfl⟩

theorem reachPort (s : State) (o : Op) : s.SameBytes (s.reachPort o) := by
  unfold State.reachPort; split <;> exact ⟨rfl, rfl⟩

theorem performLoads (s : State) (id : Nat) (lanes : Mask) (bad : Bool) : s.SameBytes (s.performLoads id lanes bad) := by
  unfold State.performLoads
  split
  · exact refl s
  · dsimp only
    split
    · exact refl s
    · exact ((loupeLanes ..).trans (foldl (fun _ _ => (State.Calm.performLoad ..).sameBytes) _ _)).trans (didLanes ..)

end State.SameBytes

namespace State.WritesWithin

theorem of_sameBytes {s t : State} (h : s.SameBytes t) (items : List Item) : s.WritesWithin items t :=
  ⟨fun a _ => by rw [h.1], fun a _ => by rw [h.2]⟩

theorem trans {items : List Item} {s t u : State} (h : s.WritesWithin items t) (k : t.WritesWithin items u) : s.WritesWithin items u :=
  ⟨fun a ha => (k.mem a ha).trans (h.mem a ha), fun a ha => (k.cscr a ha).trans (h.cscr a ha)⟩

theorem refl (items : List Item) (s : State) : s.WritesWithin items s := of_sameBytes (SameBytes.refl s) items

theorem ite {items : List Item} {s t u : State} {p : Prop} [Decidable p] (ht : s.WritesWithin items t) (hu : s.WritesWithin items u) :
    s.WritesWithin items (if p then t else u) := by
  split
  · exact ht
  · exact hu

theorem then_same {items : List Item} {s t u : State} (h : s.WritesWithin items t) (k : t.SameBytes u) : s.WritesWithin items u :=
  h.trans (of_sameBytes k items)

theorem after_same {items : List Item} {s t u : State} (h : s.SameBytes t) (k : t.WritesWithin items u) : s.WritesWithin items u :=
  (of_sameBytes h items).trans k

/-- A store of as many bytes as an item accesses, where it accesses them. -/
theorem storeAt {items : List Item} {i : Item} (hi : i ∈ items) (s : State) (fn : Nat) {bs : List Byte} (hb : bs.length = i.bytes)
    (who : ErrRec) : s.WritesWithin items (s.storeAt fn i.space i.addr bs who) := by
  by_cases hm : i.space = .mem
  · rw [hm]
    obtain ⟨hmem, hcscr⟩ := SameBytes.storeAt_mem s fn i.addr bs who
    refine ⟨fun a ha => ?_, fun a _ => by rw [hcscr]⟩
    rw [hmem]
    dsimp only
    split
    · rfl
    · exact Memory.byte_write_of_outside _ (hb ▸ ha i hi hm)
  · by_cases hc : ∃ f, i.space = .cscr f
    · obtain ⟨f, hf⟩ := hc
      rw [hf]
      obtain ⟨hmem, hcscr⟩ := SameBytes.storeAt_cscr s fn f i.addr bs who
      refine ⟨fun a _ => by rw [hmem], fun a ha => ?_⟩
      rw [hcscr]
      exact Memory.byte_write_of_outside _ (hb ▸ ha i hi f hf)
    · exact of_sameBytes (SameBytes.storeAt_elsewhere s fn i.addr bs who hm fun f hf => hc ⟨f, hf⟩) items

/-- A group of a store performed writes the bytes of its item. -/
theorem performStore {items : List Item} {i : Item} (hi : i ∈ items) (s : State) (o : Op) (bad : Bool) :
    s.WritesWithin items (s.performStore o i bad) := by
  unfold State.performStore
  split
  · exact of_sameBytes ((SameBytes.ite ((Calm.bookTrip ..).trans (Calm.logOp ..)).sameBytes (Calm.bookTrip ..).sameBytes)) items
  · have hstore := after_same (Calm.bookMoved s o (fun _ => false) i).sameBytes
      (storeAt hi _ o.fn (length_leBytes i.bytes i.data.toNat) (s.opRec o 0))
    refine ite (then_same ?poisoned ((Calm.l1Store ..).trans (Calm.l1Redo ..)).sameBytes) ?poisoned
    refine ite (then_same ?allocated (SameBytes.poisonAt ..)) ?allocated
    exact ite (hstore.then_same (Calm.evictFirst ..).sameBytes) hstore

/-- The groups of a store or write-back performed in turn. -/
theorem performGroups {items : List Item} (id : Nat) (lanes : Mask) (bad : Bool) (groups : List (Item × List Nat)) (s : State)
    (held : List (Item × List Nat)) (h : ∀ g ∈ groups, g.1 ∈ items) :
    s.WritesWithin items (State.performGroups id lanes bad s held groups) := by
  induction groups generalizing s held with
  | nil => exact refl items s
  | cons g rest ih =>
    obtain ⟨i, ls⟩ := g
    obtain ⟨hi, hrest⟩ := List.forall_mem_cons.1 h
    rw [State.performGroups]
    split
    · exact refl items s
    next o _ =>
      refine ite (trans (then_same ?_ (SameBytes.didLanes ..)) (ih _ _ hrest)) (ih _ _ hrest)
      split
      · exact after_same (SameBytes.loupeLanes ..) (performStore hi ..)
      · exact of_sameBytes (Calm.performCwb ..).sameBytes items
      · exact refl items s

theorem performStores (s : State) {id : Nat} {o : Op} (ho : s.op? id = some o) (lanes : Mask) (bad : Bool) :
    s.WritesWithin o.items (s.performStores id lanes bad) := by
  unfold State.performStores
  rw [ho]
  exact ite (performGroups _ _ _ _ _ _ fun g hg => Op.mem_items_of_mem_undone (mem_of_mem_storeGroups hg)) (refl _ _)

theorem performAtomic (s : State) {id : Nat} {o : Op} (ho : s.op? id = some o) (lane : Nat) (bad : Bool) :
    s.WritesWithin o.items (s.performAtomic id lane bad) := by
  unfold State.performAtomic
  rw [ho]
  dsimp only
  split
  next aop ty dst mode i _ hi =>
    have hitem : i ∈ o.items := Op.mem_items_of_mem_undone (List.mem_of_find?_eq_some hi)
    refine ite (refl _ _) (then_same ?_ (SameBytes.didLanes ..))
    generalize ht : s.loupeLanes o _ _ = t
    refine after_same (ht ▸ SameBytes.loupeLanes ..) ?_
    split
    · refine of_sameBytes ((Calm.ite (Calm.trans ?taken (Calm.logOp ..)) ?taken).trans (Calm.deliverOld ..)).sameBytes _
      refine (Calm.bookTrip t o.fn o.child).trans (Calm.pairFold ?_ _ (t.bookTrip o.fn o.child, []))
      exact fun x _ => Calm.takeFree x.1
    · have hscrub : t.Calm (((t.bookMoved o (fun _ => false) i).bookAtom o i).scrub o.fn i.space i.addr i.bytes) :=
        ((Calm.bookMoved ..).trans (Calm.bookAtom ..)).trans (Calm.scrub ..)
      have hhome := (Calm.ite (p := i.space = .mem) ((hscrub.trans (Calm.touch _ o.fn o.child i.addr i.bytes false)).trans
        (Calm.l1Drop _ o.core (i.addr / 128))) hscrub).sameBytes
      exact ite (of_sameBytes (hhome.trans ((Calm.logOp ..).trans (Calm.deliverOld ..)).sameBytes) _)
        (ite (of_sameBytes ((hhome.trans (SameBytes.poisonAt ..)).trans ((Calm.logOp ..).trans (Calm.deliverOld ..)).sameBytes) _)
          (then_same (after_same hhome (storeAt hitem _ _ (length_leBytes ..) _)) (Calm.deliverOld ..).sameBytes))
  · exact refl _ _

/-- An entry of staging reaches its port; any other operation is performed. -/
theorem advance {s : State} {id : Nat} {o : Op} (ho : s.op? id = some o) {perform : State → State}
    (h : s.WritesWithin o.items (perform s)) : s.WritesWithin o.items (s.advance id perform) := by
  unfold State.advance
  rw [ho]
  exact ite (of_sameBytes (SameBytes.reachPort ..) _) h

end State.WritesWithin

/-- Settles O56: all that a performance does but storing bytes leaves memory, and bytes are stored at the operation's items alone. -/
theorem storesWriteTheirBytesOnly : Obligations.StoresWriteTheirBytesOnly := by
  unfold Obligations.StoresWriteTheirBytesOnly
  refine ⟨fun s fn a bs who hl hm b => ?stored, fun s t h => ?loaded, fun s t o i hi ho h => ?performed⟩
  case stored =>
    rw [(State.SameBytes.storeAt_mem s fn a bs who).1, if_neg (by simp [hl])]
    exact Memory.byte_write hm a b bs
  case loaded =>
    cases h
    exact State.SameBytes.trans ⟨s.unfocus_mem, s.unfocus_cscr⟩ (State.SameBytes.performLoads ..)
  case performed =>
    have hw : s.unfocus.WritesWithin o.items t := by
      simp only [List.mem_cons, List.not_mem_nil, or_false] at hi
      rcases hi with rfl | rfl
      · cases h
        exact State.WritesWithin.advance ho (State.WritesWithin.performStores _ ho _ _)
      · cases h
        exact State.WritesWithin.advance ho (State.WritesWithin.performAtomic _ ho _ _)
    obtain ⟨hmem, hcscr⟩ := hw.after_same ⟨s.unfocus_mem, s.unfocus_cscr⟩
    exact ⟨hmem, hcscr⟩

end Sys2Proof.Machine
end

section
/-! The bit, shift and field instructions, and comparison, selection and carry (R110–R112, R115, R116). -/
namespace Sys2Proof.Machine

/-- Settles O3: each body computes its result of R110 or R111 at each site, in either form of the opcode. -/
theorem bitInstructionsComplete : Obligations.BitInstructionsComplete := by
  unfold Obligations.BitInstructionsComplete
  refine ⟨?andBits, ?orBits, ?xorBits, ?andn, ?notBits, ?shl, ?shr, ?sar, ?rotl, ?bfx, ?bfi, ?popc, ?clz, ?brev, ?prmt, ?lea⟩
  case bfx | bfi | prmt | lea => exact fun f => computes_of_body (fun _ => rfl) fun _ _ _ => rfl
  all_goals exact both_computes (fun _ _ => rfl) (fun _ _ => rfl) fun _ _ _ => rfl

/-- Settles O4: IADDC's sums stand beside their carries from the mask as it was, SEL computes a value, and the others test each lane. -/
theorem compareSelectCarryComplete : Obligations.CompareSelectCarryComplete := by
  unfold Obligations.CompareSelectCarryComplete
  refine ⟨?iaddc, ?icmp, ?sel, ?fcmp, ?fclass⟩
  case iaddc => exact fun f => leaves_of_body (fun _ => rfl) (fun _ _ _ => rfl) fun c x => by rw [Cur.counted_split]
  case sel => exact fun f => computes_of_body (fun _ => rfl) fun _ _ _ => rfl
  all_goals exact fun f => tests_of_body (fun _ => rfl) fun _ _ _ => rfl

end Sys2Proof.Machine
end

section
/-! The packed 16-bit instructions and the conversions (R117–R121). -/
namespace Sys2Proof.Machine

/-! ## Packed 16-bit -/

/-- Element k of a packed result, rounded once with its own draw. -/
def Ctx.packedElem (f : Bool → FV → FV → FV → FV) (x : Ctx) (sp : Split) (i : Nat) (d : Nat → Nat) (k : Nat) : Nat :=
  x.pkTy.write x.mode (Mod.rnd x.m) (d k) (f x.rd (sp.elem x x.a x.pkTy k i) (sp.elem x x.b x.pkTy k i) (sp.elem x x.c x.pkTy k i))

/-- Both elements of a packed result. -/
def Ctx.packed (f : Bool → FV → FV → FV → FV) (x : Ctx) (sp : Split) (i : Nat) (d : Nat → Nat) : Nat :=
  x.packedElem f sp i d 0 + x.packedElem f sp i d 1 * 2 ^ 16

/-- Two 16-bit elements side by side in a word. -/
theorem sumBy_elements (e : Nat → Nat) : sumBy (fun k => e k * 2 ^ (16 * k)) [0, 1] = e 0 + e 1 * 2 ^ 16 := by
  rw [sumBy, List.foldl_cons, List.foldl_cons, List.foldl_nil, Nat.mul_zero, Nat.pow_zero, Nat.mul_one, Nat.mul_one, Nat.zero_add]

/-- A packed operation rounds twice, once for each element. -/
theorem pkOp_eq (f : Bool → FV → FV → FV → FV) (s : State) (c : Cur) (x : Ctx) :
    pkOp f s c x = roundOp .pk16 (Mod.rnd x.m = 5) 2 (Ctx.packed f) s c x := by
  have he : Ctx.packed f = fun x sp i d => sumBy (fun k => x.packedElem f sp i d k * 2 ^ (16 * k)) [0, 1] := by
    funext x sp i d
    exact (sumBy_elements _).symm
  rw [he]
  rfl

/-- An instruction whose body is a packed operation. -/
theorem rounds_of_pkOp {op : Nat} {spec : Nat → Spec} {f : Bool → FV → FV → FV → FV} {v : Ctx → Split → Nat → (Nat → Nat) → Nat}
    {i : Instr} {g : Form} (he : ∀ s, exec i s = s.issueOp op g spec (pkOp f)) (hv : Ctx.packed f = v) :
    Rounds op spec .pk16 (Mod.rnd ·.m = 5) 2 v i g :=
  rounds_of_body he fun s c x => by rw [pkOp_eq, hv]

/-! ## Conversions -/

/-- A conversion by the kinds of its two types: a value rounded into an element type, or read as an integer of the type (R118). -/
def Ctx.converted (x : Ctx) (sp : Split) (i d : Nat) : Nat :=
  match ftyOf (Mod.dtype x.m), ftyOf (Mod.stype x.m) with
  | some t, some u => t.write x.mode (Mod.xrnd x.m) d (sp.fval x x.a u i)
  | some t, none => t.write x.mode (Mod.xrnd x.m) d (FV.ofInt ((intTy (Mod.stype x.m)).val (x.vA sp i)))
  | none, some u => (intTy (Mod.dtype x.m)).out
      ((sp.fval x x.a u i).toInt (intTy (Mod.dtype x.m)).n (intTy (Mod.dtype x.m)).signed (Mod.xrnd x.m) d)
  | none, none => (intTy (Mod.dtype x.m)).result (Mod.xsub x.m = 1) ((intTy (Mod.stype x.m)).val (x.vA sp i))

theorem Ctx.convert_eq_converted : Ctx.convert = Ctx.converted := by
  funext x sp i d
  unfold Ctx.convert Ctx.cvtValue Ctx.converted
  cases ftyOf (Mod.dtype x.m) <;> cases ftyOf (Mod.stype x.m) <;> rfl

/-- CVT rounds a conversion once, and draws where an element type takes part. -/
theorem bodyCvt_eq (s : State) (c : Cur) (x : Ctx) :
    bodyCvt s c x = roundOp .cvt (Mod.xrnd x.m = 5 && !(Mod.dtype x.m ≤ 8 && Mod.stype x.m ≤ 8)) 1
      (fun x sp i d => x.converted sp i (d 0)) s c x := by
  rw [bodyCvt, Ctx.convert_eq_converted]

/-- Settles O7: a packed body rounds each of its two elements, a conversion goes by the kinds of its types, and MXQ leaves its groups' results. -/
theorem packedAndConversionsComplete : Obligations.PackedAndConversionsComplete := by
  unfold Obligations.PackedAndConversionsComplete
  refine ⟨⟨?padd, ?pmul, ?pfma, ?pmax, ?pmin, ?pdot2⟩, ?cvt, ?mxq, ?mxd, ?pack, ?unpk⟩
  case padd | pmul | pmax | pmin => exact both_of_issueOp (fun _ _ => rfl) (fun _ _ => rfl) fun _ _ he => rounds_of_pkOp he rfl
  case pfma => exact fun f => rounds_of_pkOp (fun _ => rfl) rfl
  case pdot2 | mxd => exact fun f => rounds_of_body (fun _ => rfl) fun _ _ _ => rfl
  case cvt => exact fun f => rounds_of_body (fun _ => rfl) fun s c x => bodyCvt_eq s c x
  case mxq => exact fun f => leaves_of_body (fun _ => rfl) (fun _ _ _ => rfl) fun c x => by rw [Cur.counted_split]
  case pack | unpk => exact fun f => computes_of_body (fun _ => rfl) fun _ _ _ => rfl

end Sys2Proof.Machine
end

section
/-! The mask instructions (R125), what a write of a mask register leaves (R126), and the moves (R127). -/
namespace Sys2Proof.Machine

/-! ## Mask instructions -/

/-- A split with all W bits of a mask on their way to D. -/
def Split.maskBits (sp : Split) (x : Ctx) (m : Mask) : Split :=
  sp.result x.d false ((List.range x.w).map fun i => (i, b2n (m.getLsbD i))) x.lat

/-- An instruction whose body writes a mask. -/
theorem leaves_of_maskResult {op : Nat} {spec : Nat → Spec} {v : Ctx → Split → Mask} {r : Cur → Ctx → Split} {i : Instr} {f : Form}
    (he : ∀ s, exec i s = s.issueOp op f spec (maskResult v)) (hr : ∀ c x, c.split.maskBits x (v x c.split) = r c x) :
    Leaves op spec (·.charge .mask) r i f :=
  leaves_of_body he (fun s c x => by rw [← hr]; rfl) fun c x => by rw [← hr, ← hr, Cur.counted_split]

/-- What KMOV leaves of its split, by the move that its modifier names. -/
def Ctx.kmoved (x : Ctx) (sp : Split) : Split :=
  if x.m = 0 then sp.maskBits x (sp.readMask x.a.maskNum) else if x.m = 1 then sp.maskBits x (x.kmovSrc sp) else x.kmovTo sp

theorem bodyKmov_eq (s : State) (c : Cur) (x : Ctx) : bodyKmov s c x = doneWith s c (x.kmoved c.split) (x.charge .mask) := by
  unfold bodyKmov Ctx.kmoved
  split
  next h => rw [if_pos h]; rfl
  next h => rw [if_neg (by omega), if_pos h]; rfl
  next h0 h1 => rw [if_neg h0, if_neg h1]

/-- KMOV is checked against the width of the wave that issues it. -/
theorem exec_kmov {f : Form} {s : State} {c : Cur} {x : Ctx} (h : Issues s c 0x076 f (specKmov c.wave.width) x) :
    exec (.kmov f) s = .next (s.after c f (specKmov c.wave.width) x (x.kmoved c.split) (x.charge .mask)) := by
  obtain ⟨c0, h0⟩ := h.begun
  have hw : (s.cur.map (·.wave.width)).getD 32 = c.wave.width := by
    rw [h0.chosen, State.prepare_width h0.chosen h.chosen]; rfl
  have he : exec (.kmov f) s = s.issueOp 0x076 f (specKmov c.wave.width) bodyKmov := by
    rw [← hw]; rfl
  rw [he, issueOp_of_issues h bodyKmov (by rw [bodyKmov_eq]; exact fun _ ht => nomatch ht), bodyKmov_eq, Cur.counted_split]
  rfl

/-- Settles O10: each body writes one mask or one number, and KMOV moves by its modifier. -/
theorem maskInstructionsComplete : Obligations.MaskInstructionsComplete := by
  unfold Obligations.MaskInstructionsComplete
  refine ⟨?kand, ?kor, ?kxor, ?knot, ?kpop, ?kffs, fun f s c x h => ?kmov⟩
  case kand | kor | kxor | knot => exact fun f => leaves_of_maskResult (fun _ => rfl) fun _ _ => rfl
  case kpop | kffs => exact fun f => computes_of_body (fun _ => rfl) fun _ _ _ => rfl
  case kmov => exact exec_kmov h

/-! ## What a write of a mask register leaves -/

/-- No register set in a lane changes which lanes a split owns. -/
theorem Split.set_owned (sp : Split) (r : RegId) (i : Nat) (v : Dword) : (sp.set r i v).owned = sp.owned := by
  cases r with
  | mask n => unfold Split.set; by_cases hn : n = 16 <;> simp only [hn, if_true, if_false] <;> rfl
  | rseed => unfold Split.set; by_cases hi : i = 128 <;> simp only [hi, if_true, if_false] <;> rfl
  | _ => rfl

theorem Split.sets_owned (r : RegId) (l : List (Nat × Dword)) (sp : Split) : (sp.sets r l).owned = sp.owned := by
  induction l generalizing sp with
  | nil => rfl
  | cons p l ih => exact (ih _).trans (sp.set_owned r p.1 p.2)

/-- A result that lands or waits changes no owned lane. -/
theorem Split.settleOne_owned (sp : Split) (p : Pend) : (sp.settleOne p).owned = sp.owned := by
  unfold Split.settleOne
  split
  · exact Split.sets_owned p.reg p.vals sp
  · rfl

theorem Split.foldl_settleOne_owned (l : List Pend) (sp : Split) : (l.foldl Split.settleOne sp).owned = sp.owned := by
  induction l generalizing sp with
  | nil => rfl
  | cons p l ih => exact (ih _).trans (sp.settleOne_owned p)

theorem Split.advance_owned (sp : Split) (n : Nat) : (sp.advance n).owned = sp.owned :=
  Split.foldl_settleOne_owned (sp.pend.map fun p : Pend => { p with left := p.left - n }) { sp with pend := [] }

theorem Split.put_owned (sp : Split) (r : RegId) (vals : List (Nat × Dword)) (lat : Nat) : (sp.put r vals lat).owned = sp.owned := by
  obtain ⟨written, hm⟩ := Split.mark_eq { sp with pend := sp.pend ++ [{ reg := r, vals, left := r.latency lat }] } r
  rw [show sp.put r vals lat = _ from hm]

/-- `exec` reads in owned lanes alone, whatever is on its way to it (R61, R126). -/
theorem Split.readMask_exec_within (sp : Split) : sp.readMask 16 &&& ~~~sp.owned = 0 := by
  obtain ⟨m, hm⟩ : ∃ m, sp.readMask 16 = m &&& sp.owned := ⟨_, rfl⟩
  rw [hm, BitVec.and_assoc, BitVec.and_not_self]
  exact BitVec.and_zero

/-- A bit put in a mask, or taken out of it. -/
theorem getLsbD_setBit (m : Mask) (v : Dword) {i : Nat} (hi : i < 128) :
    (if v = 0 then m &&& ~~~(1#128 <<< i) else m ||| (1#128 <<< i)).getLsbD i = decide (v ≠ 0) := by
  by_cases h : v = 0
  · simp [h]
  · rw [if_neg h, decide_eq_true h, BitVec.getLsbD_or, BitVec.getLsbD_shiftLeft]
    simp [hi]

/-- A bit of k0–k15 reads as written once its latency is covered, for any lane. -/
theorem Split.readMask_put {k : Nat} (hk : k < 16) (sp : Split) {i : Nat} (hi : i < 128) (v : Dword) :
    ((sp.put (.mask k) [(i, v)] 0).readMask k).getLsbD i = decide (v ≠ 0) := by
  obtain ⟨written, hm⟩ := Split.mark_eq { sp with pend := sp.pend ++ [{ reg := .mask k, vals := [(i, v)], left := 0 }] } (.mask k)
  rw [show sp.put (.mask k) [(i, v)] 0 = _ from hm]
  simp only [Split.readMask, List.foldl_append, List.foldl_cons, List.foldl_nil, if_neg (show k ≠ 16 by omega), and_self, if_true]
  exact getLsbD_setBit _ v hi

/-- Settles O11: what lands of a write changes no owned lane, and `exec` reads in those alone. -/
theorem execHoldsOwnedLanes : Obligations.ExecHoldsOwnedLanes := by
  unfold Obligations.ExecHoldsOwnedLanes
  refine ⟨fun sp vals lat n => ?owned, fun sp vals k i v hk hi hv => ?any⟩
  case owned =>
    have h := ((sp.put (.mask 16) vals lat).advance n).readMask_exec_within
    rwa [Split.advance_owned, Split.put_owned] at h
  case any => rw [hv]; exact sp.readMask_put hk hi v

/-! ## Moves -/

/-- MOVL writes one lane, and that only where it is active. -/
theorem bodyMovl_eq (s : State) (c : Cur) (x : Ctx) :
    bodyMovl s c x = doneWith s c (c.split.result x.d x.dWide
      (if x.vB c.split 0 ∈ x.lanes then [(x.vB c.split 0, x.vA c.split 0)] else []) x.lat) (x.charge .int) := by
  simp only [bodyMovl, List.contains_iff_mem]

/-- Settles O12: MOV computes its operand at each site, and MOVL writes the one lane. -/
theorem movesComplete : Obligations.MovesComplete := by
  unfold Obligations.MovesComplete
  refine ⟨?mov, ?movl⟩
  case mov => exact both_computes (fun _ _ => rfl) (fun _ _ => rfl) fun _ _ _ => rfl
  case movl =>
    exact both_of_issueOp (fun _ _ => rfl) (fun _ _ => rfl) fun i f he => leaves_of_body he bodyMovl_eq fun c x => by rw [Cur.counted_split]

end Sys2Proof.Machine
end

section
/-! NOP, YIELD and SLEEP (R136). -/
namespace Sys2Proof.Machine

/-- A statement about both rows of an opcode whose body takes the number of the form's words. -/
theorem both_of_words {op : Nat} {spec : Nat → Spec} (body : Nat → State → Cur → Ctx → Res) {short : Short → Instr} {long : Long → Instr}
    {p : Instr → Form → Prop} (hs : ∀ f s, exec (short f) s = s.issueOp op (.base f) spec (body (formWords (.base f))))
    (hl : ∀ f s, exec (long f) s = s.issueOp op (.long f) spec (body (formWords (.long f))))
    (h : ∀ i f, (∀ s, exec i s = s.issueOp op f spec (body (formWords f))) → p i f) : Both short long p :=
  ⟨fun f => h _ _ (hs f), fun f => h _ _ (hl f)⟩

/-- The state in which an instruction takes its effect, its split as it is. -/
@[simp] theorem State.inSplit_ready_self (s : State) (c : Cur) (x : Ctx) : (s.ready c x).inSplit c c.split = s.ready c x := by
  have h : ({ c.counted with split := c.split } : Cur) = c.counted := by rw [← c.counted_split]
  rw [State.inSplit, h, State.ready_with_cur]

/-- The split that issues, counted as issued and standing behind an instruction of some words. -/
def Cur.passed (c : Cur) (tick words : Nat) : Cur := (c.issued tick).at (nextPc c.split.pc words)

/-- The split of an instruction that takes its effect, behind it. -/
theorem Cur.passed_ready (s : State) (c : Cur) (x : Ctx) (f : Form) :
    c.counted.passed (s.ready c x).tick (formWords f) = (c.counted.issued s.tick).at (c.next f) := by
  rw [Cur.passed, Cur.counted_split, Cur.next, State.ready_tick]

/-- The split of a SLEEP, which issues nothing for n aclk. -/
def Cur.sleeping (c : Cur) (n : Nat) : Cur := { c with split := { c.split with run := .sleeping n } }

theorem bodySleep_of_zero {words : Nat} {s : State} {c : Cur} {x : Ctx} (h : x.vA c.split 0 % 2 ^ 24 = 0) :
    bodySleep words s c x = .done { s with cur := some (s.yielded c) } [(.ctl, 1)] := if_pos h

theorem bodySleep_of_ne_zero {words : Nat} {s : State} {c : Cur} {x : Ctx} (h : x.vA c.split 0 % 2 ^ 24 ≠ 0) :
    bodySleep words s c x = .gone { s with cur := some ((c.passed s.tick words).sleeping (x.vA c.split 0 % 2 ^ 24)) } [(.ctl, 1)] :=
  if_neg h

/-- SLEEP of n, which is not zero. -/
theorem exec_sleep {s : State} {c : Cur} {x : Ctx} {i : Instr} {f : Form}
    (he : ∀ s, exec i s = s.issueOp 0x09B f specSleep (bodySleep (formWords f))) (hi : Issues s c 0x09B f specSleep x)
    (h : x.vA c.split 0 % 2 ^ 24 ≠ 0) :
    exec i s = .next (({ s.ready c x with cur := some (((c.counted.issued s.tick).at (c.next f)).sleeping (x.vA c.split 0 % 2 ^ 24)) } :
      State).dealt s.tick c f specSleep [(.ctl, 1)]) := by
  have hb := bodySleep_of_ne_zero (words := formWords f) (s := s.ready c x) (c := c.counted) (x := x) (by rwa [Cur.counted_split])
  rw [Cur.counted_split, Cur.passed_ready] at hb
  exact exec_of_gone he hi hb

/-- Settles O15: each body completes, and a SLEEP is dealt with by whether it is of zero. -/
theorem idleInstructionsComplete : Obligations.IdleInstructionsComplete := by
  unfold Obligations.IdleInstructionsComplete
  refine ⟨both_of_issueOp (fun _ _ => rfl) (fun _ _ => rfl) fun i f he s c x hi => ?nop,
    both_of_issueOp (fun _ _ => rfl) (fun _ _ => rfl) fun i f he => completes_of_body he fun _ _ _ _ => rfl,
    both_of_words bodySleep (fun _ _ => rfl) (fun _ _ => rfl) fun i f he =>
      ⟨completes_of_body he fun _ _ _ h => bodySleep_of_zero h, fun s c x n hi hn h0 => ?sleep⟩⟩
  case nop =>
    rw [State.after, State.inSplit_ready_self]
    exact exec_of_done he hi rfl
  case sleep =>
    subst hn
    exact exec_sleep he hi h0

end Sys2Proof.Machine
end

section
/-! Transfers of control: BRA, BRC, CALL and RET, and the targets that R131 allows (R130, R131, R134, R135). -/
namespace Sys2Proof.Machine

/-! ## Targets -/

/-- A bundle's address has its five low bits zero. -/
theorem and_31_eq_zero_iff (t : Dword) : t &&& 31#64 = 0 ↔ t.toNat % 32 = 0 := by
  rw [← BitVec.toNat_inj, BitVec.toNat_and]
  exact Eq.congr_left (Nat.and_two_pow_sub_one_eq_mod t.toNat 5)

/-- A PC lies in the code where it lies in the range of addresses that the code takes, which does not wrap. -/
theorem Kernel.inCode_iff {k : Kernel} (h : k.addr.toNat + 64 + k.codeSize ≤ 2 ^ 64) (t : Dword) :
    k.inCode t = true ↔ k.addr.toNat + 64 ≤ t.toNat ∧ t.toNat < k.addr.toNat + 64 + k.codeSize := by
  have ht := t.isLt
  have h64 : (64 : Dword).toNat = 64 := rfl
  rw [Kernel.inCode, decide_eq_true_eq, Kernel.entry, BitVec.toNat_sub, BitVec.toNat_add, h64]
  omega

theorem Kernel.targetOk_iff {k : Kernel} (h : k.addr.toNat + 64 + k.codeSize ≤ 2 ^ 64) (t : Dword) :
    k.targetOk t = true ↔ t &&& 31#64 = 0 ∧ k.addr.toNat + 64 ≤ t.toNat ∧ t.toNat < k.addr.toNat + 64 + k.codeSize := by
  rw [Kernel.targetOk, Bool.and_eq_true, decide_eq_true_eq, and_31_eq_zero_iff, Kernel.inCode_iff h]

/-! ## Going to a target -/

theorem goTo_of_targetOk {s : State} {c : Cur} {t : Dword} (h : (s.kernelOf c.blk).targetOk t = true) (sp : Split) (ev : List (Ev × Nat)) :
    goTo s c t sp ev = .jump { s with cur := some { c with split := sp } } ev t := if_pos h

theorem goTo_of_not_targetOk {s : State} {c : Cur} {t : Dword} (h : (s.kernelOf c.blk).targetOk t = false) (sp : Split) (ev : List (Ev × Nat)) :
    goTo s c t sp ev = .fault Fc.branchAlign t.toNat := if_neg (by rw [h]; exact Bool.false_ne_true)

theorem bodyBrc_of_taken {s : State} {c : Cur} {x : Ctx} (h : brcTaken c.split x = true) :
    bodyBrc s c x = goTo s c (targetOf c.split x x.c) c.split ctl := if_pos h

theorem bodyBrc_of_not_taken {s : State} {c : Cur} {x : Ctx} (h : brcTaken c.split x = false) : bodyBrc s c x = .done s ctl :=
  if_neg (by rw [h]; exact Bool.false_ne_true)

theorem bodySplit_of_not_targetOk {words : Nat} {s : State} {c : Cur} {x : Ctx} (ht : x.act &&& c.split.readMask x.a.maskNum ≠ 0)
    (h : (s.kernelOf c.blk).targetOk (targetOf c.split x x.b) = false) :
    bodySplit words s c x = .fault Fc.branchAlign (targetOf c.split x x.b).toNat := if_pos ⟨ht, by rw [h]; rfl⟩

/-! ## The instructions -/

/-- Settles O16: every transfer goes through `goTo`, and the target checked there is valid. -/
theorem transfersComplete : Obligations.TransfersComplete := by
  unfold Obligations.TransfersComplete
  refine ⟨?bra, ?ret, ?call, fun f => ⟨?taken, ?untaken⟩, fun sp x n => ⟨rfl, rfl⟩⟩
  case bra | ret | call =>
    exact both_of_issueOp (fun _ _ => rfl) (fun _ _ => rfl) fun i f he => transfers_of_body he fun s c x h => goTo_of_targetOk h _ _
  case taken =>
    exact transfers_of_body (fun _ => rfl) fun s c x h => (bodyBrc_of_taken h.1).trans (goTo_of_targetOk h.2 _ _)
  case untaken => exact completes_of_body (fun _ => rfl) fun s c x h => bodyBrc_of_not_taken h

/-- Settles O17: which targets are valid, and the fault of `goTo`, and of SPLIT, at any other. -/
theorem invalidTargetsFault : Obligations.InvalidTargetsFault := by
  unfold Obligations.InvalidTargetsFault
  refine ⟨fun k t h => Kernel.targetOk_iff h t, ?bra, ?ret, ?call, fun f => ?brc, fun f => ?split⟩
  case bra | ret | call =>
    exact both_of_issueOp (fun _ _ => rfl) (fun _ _ => rfl) fun i f he => faults_of_body he fun s c x h => goTo_of_not_targetOk h _ _
  case brc => exact faults_of_body (fun _ => rfl) fun s c x h => (bodyBrc_of_taken h.1).trans (goTo_of_not_targetOk h.2 _ _)
  case split => exact faults_of_body (fun _ => rfl) fun s c x h => bodySplit_of_not_targetOk h.1 h.2

end Sys2Proof.Machine
end

section
/-! SPLIT (R137, R139). -/
namespace Sys2Proof.Machine

/-! ## The sides of a fork -/

/-- The lanes of `exec` that take a SPLIT's branch, and the others. -/
def Cur.taken (c : Cur) (x : Ctx) : Mask := x.act &&& c.split.readMask x.a.maskNum
def Cur.untaken (c : Cur) (x : Ctx) : Mask := x.act &&& ~~~c.split.readMask x.a.maskNum

@[simp] theorem Cur.taken_counted (c : Cur) (x : Ctx) : c.counted.taken x = c.taken x := by simp only [Cur.taken, Cur.counted_split]
@[simp] theorem Cur.untaken_counted (c : Cur) (x : Ctx) : c.counted.untaken x = c.untaken x := by simp only [Cur.untaken, Cur.counted_split]

/-- What lets a SPLIT take effect: a valid target, where a lane goes there, and room in the fork stack. -/
def State.maySplit (s : State) (c : Cur) (x : Ctx) : Prop :=
  (c.taken x ≠ 0 → (s.kernelOf c.blk).targetOk (targetOf c.split x x.b) = true) ∧ c.split.forks.length ≠ 16

/-- The single record of a SPLIT with lanes on one side alone. -/
def State.forkSingle (s : State) (c : Cur) (x : Ctx) : State :=
  { s with cur := some { c with
    wave := { c.wave with nextFork := c.wave.nextFork + 1 }
    split := { c.split with forks :=
      { fid := c.wave.nextFork, kind := .single, origin := c.split.owned, takenLanes := c.taken x, outer := [] } :: c.split.forks } } }

/-- The fork of a SPLIT with lanes on both sides. -/
def State.forkBoth (s : State) (c : Cur) (x : Ctx) (words : Nat) : State :=
  if s.roomForSplit c then s.forkReal c (c.taken x) (c.untaken x) (targetOf c.split x x.b) words
  else s.forkSerial c (c.taken x) (c.untaken x) (targetOf c.split x x.b) words

theorem bodySplit_of_maySplit {s : State} {c : Cur} {x : Ctx} (h : s.maySplit c x) (words : Nat) :
    bodySplit words s c x =
      if c.taken x = 0 ∨ c.untaken x = 0 then
        if c.taken x ≠ 0 then .jump (s.forkSingle c x) ctl (targetOf c.split x x.b) else .done (s.forkSingle c x) ctl
      else if s.roomForSplit c then
        .forked (s.forkReal c (c.taken x) (c.untaken x) (targetOf c.split x x.b) words) [(.ctl, 1), (.fork, 1)] (targetOf c.split x x.b)
      else .forked (s.forkSerial c (c.taken x) (c.untaken x) (targetOf c.split x x.b) words) [(.ctl, 1), (.fork, 1)] (targetOf c.split x x.b) :=
  (if_neg fun hb => by simp [h.1 hb.1] at hb).trans (if_neg h.2)

theorem bodySplit_of_taken_alone {s : State} {c : Cur} {x : Ctx} (h : s.maySplit c x) (ht : c.taken x ≠ 0) (hf : c.untaken x = 0)
    (words : Nat) : bodySplit words s c x = .jump (s.forkSingle c x) ctl (targetOf c.split x x.b) := by
  rw [bodySplit_of_maySplit h, if_pos (.inr hf), if_pos ht]

theorem bodySplit_of_none_taken {s : State} {c : Cur} {x : Ctx} (h : s.maySplit c x) (ht : c.taken x = 0) (words : Nat) :
    bodySplit words s c x = .done (s.forkSingle c x) ctl := by
  rw [bodySplit_of_maySplit h, if_pos (.inl ht), if_neg (not_not.2 ht)]

theorem bodySplit_of_both {s : State} {c : Cur} {x : Ctx} (h : s.maySplit c x) (ht : c.taken x ≠ 0) (hf : c.untaken x ≠ 0) (words : Nat) :
    bodySplit words s c x = .forked (s.forkBoth c x words) [(.ctl, 1), (.fork, 1)] (targetOf c.split x x.b) := by
  rw [bodySplit_of_maySplit h, if_neg (not_or.2 ⟨ht, hf⟩), State.forkBoth]
  split <;> rfl

/-! ## What the sides hold -/

/-- Two live splits: the one that issued goes on as the other side, and the taken one is new. -/
theorem State.forkReal_sides (s : State) (c : Cur) (t f : Mask) (target : Dword) (words : Nat) :
    ∃ c', (s.forkReal c t f target words).cur = some c' ∧
      c'.split.exec = f ∧ c'.split.owned = c.split.owned &&& ~~~t ∧ c'.split.pc = nextPc c.split.pc words ∧
      ∃ y ∈ c'.wave.splits, y.sid = c.wave.nextSid ∧ y.exec = t ∧ y.owned = t ∧ y.pc = target :=
  ⟨_, rfl, rfl, rfl, rfl, _, mem_insertBy.2 (.inl rfl), rfl, rfl, rfl, rfl⟩

/-- One side after the other: the split goes on as the taken one, and its record keeps the other. -/
theorem State.forkSerial_sides (s : State) (c : Cur) (t f : Mask) (target : Dword) (words : Nat) :
    ∃ c', (s.forkSerial c t f target words).cur = some c' ∧
      c'.split.exec = t ∧ c'.split.owned = t ∧ c'.split.pc = target ∧
      ∃ (r : Fork) (rest : List Fork) (o : Side), c'.split.forks = r :: rest ∧ r.kind = .serial o ∧ o.exec = f ∧
        o.owned = c.split.owned &&& ~~~t ∧ o.pc = nextPc c.split.pc words :=
  ⟨_, rfl, rfl, rfl, rfl, _, _, _, rfl, rfl, rfl, rfl, rfl⟩

/-! ## The instruction -/

/-- What comes of an instruction that forks, the moves of whose target can be made. -/
theorem exec_of_forked {s t : State} {c : Cur} {op : Nat} {f : Form} {spec : Nat → Spec} {x : Ctx} {i : Instr} {ev : List (Ev × Nat)}
    {target : Dword} {body : State → Cur → Ctx → Res} (he : ∀ s, exec i s = s.issueOp op f spec body) (h : Issues s c op f spec x)
    (hb : body (s.ready c x) c.counted x = .forked t ev target)
    (hj : (s.prepare x).edgeStop c (passesOf c f spec) op target = none) : exec i s = .next (t.dealt s.tick c f spec ev) := by
  rw [exec_of_body he h hb fun _ ht => by cases ht; exact hj]
  simp only [State.conclude, (State.Calm.prepare s x).tick]
  rfl

/-- Settles O18: the body by which sides have lanes, and what either kind of fork leaves of them. -/
theorem splitCompletes : Obligations.SplitCompletes := by
  unfold Obligations.SplitCompletes
  intro t f may single fm
  refine ⟨transfers_of_body (fun _ => rfl) fun s c x h => bodySplit_of_taken_alone h.1 h.2.1 h.2.2 _,
    completes_of_body (fun _ => rfl) fun s c x h => bodySplit_of_none_taken h.1 h.2 _, fun s c x hi hmay ht hf hj => ?both⟩
  have hb := bodySplit_of_both (s := s.ready c x) (c := c.counted) (x := x) hmay (by rwa [Cur.taken_counted])
    (by rwa [Cur.untaken_counted]) (formWords fm)
  refine ⟨_, exec_of_forked (fun _ => rfl) hi hb (by rwa [Cur.counted_split]), ?_⟩
  rw [State.forkBoth, Cur.taken_counted, Cur.untaken_counted, Cur.counted_split]
  split
  · have hs := (s.ready c x).forkReal_sides c.counted (c.taken x) (c.untaken x) (targetOf c.split x x.b) (formWords fm)
    rwa [Cur.counted_split, Cur.counted_nextSid] at hs
  · have hs := (s.ready c x).forkSerial_sides c.counted (c.taken x) (c.untaken x) (targetOf c.split x x.b) (formWords fm)
    rwa [Cur.counted_split] at hs

end Sys2Proof.Machine
end

section
/-! JOIN (R140). -/
namespace Sys2Proof.Machine

/-! ## The split that has reached a JOIN -/

/-- What no lane of a register set, and no result on its way, changes of a split stands as its stall count passes. -/
theorem Split.advance_keeps {α : Type} {g : Split → α} (hset : ∀ sp r i v, g (sp.set r i v) = g sp)
    (hpend : ∀ (sp : Split) pend, g { sp with pend } = g sp) (sp : Split) (n : Nat) : g (sp.advance n) = g sp := by
  have sets : ∀ r l sp, g (sp.sets r l) = g sp := by
    intro r l
    induction l with
    | nil => exact fun _ => rfl
    | cons p l ih => exact fun sp => (ih _).trans (hset sp r p.1 p.2)
  have settles : ∀ (l : List Pend) sp, g (l.foldl Split.settleOne sp) = g sp := by
    intro l
    induction l with
    | nil => exact fun _ => rfl
    | cons p l ih =>
      intro sp
      refine (ih _).trans ?_
      unfold Split.settleOne
      split
      · exact sets p.reg p.vals sp
      · exact hpend sp _
  exact (settles _ _).trans (hpend sp [])

theorem Split.set_forks (sp : Split) (r : RegId) (i : Nat) (v : Dword) : (sp.set r i v).forks = sp.forks := by
  cases r with
  | mask n => unfold Split.set; by_cases hn : n = 16 <;> simp only [hn, if_true, if_false] <;> rfl
  | rseed => unfold Split.set; by_cases hi : i = 128 <;> simp only [hi, if_true, if_false] <;> rfl
  | _ => rfl

/-- The fork stack of a split stands as it issues. -/
@[simp] theorem Split.advance_forks (sp : Split) (n : Nat) : (sp.advance n).forks = sp.forks :=
  Split.advance_keeps Split.set_forks (fun _ _ => rfl) sp n

theorem Cur.forks_passed {c : Cur} {l : List Fork} (h : c.split.forks = l) (tick words : Nat) :
    ((c.issued tick).at (nextPc c.split.pc words)).split.forks = l := (c.split.advance_forks _).trans h

/-! ## The cases of R140 -/

section
variable {words : Nat} {s : State} {c : Cur} {x : Ctx} {h : Fork} {rest : List Fork}

theorem bodyJoin_of_no_fork (hf : c.split.forks = []) : bodyJoin words s c x = .done s ctl := by
  simp only [bodyJoin, Cur.forks_passed hf]

theorem bodyJoin_of_single (hf : c.split.forks = h :: rest) (hk : h.kind = .single) :
    bodyJoin words s c x = .done { s with cur := some { c with split := { c.split with forks := rest } } } ctl := by
  simp only [bodyJoin, Cur.forks_passed hf, hk]

theorem bodyJoin_of_serial {other : Side} (hf : c.split.forks = h :: rest) (hk : h.kind = .serial other) :
    let c' := c.passed s.tick words
    bodyJoin words s c x = .gone { s with cur := some { c' with
      split := other.on c'.split ({ h with kind := .serialSecond (some (c'.split.aside c'.split.pc)) } :: rest) } } ctl := by
  simp only [bodyJoin, Cur.passed, Cur.forks_passed hf, hk]

theorem bodyJoin_of_serialSecond {first : Option Side} (hf : c.split.forks = h :: rest) (hk : h.kind = .serialSecond first) :
    let c' := c.passed s.tick words
    let m := s.merge (s.kernelOf c.blk) h (first.map fun a => a.on c'.split c'.split.forks) (some c'.split)
    bodyJoin words s c x = .gone { m.1 with cur := some { c' with split := m.2.getD c'.split } } [(.ctl, 1), (.fork, 1)] := by
  simp only [bodyJoin, Cur.passed, Cur.forks_passed hf, hk]

/-- The later side of a real fork. -/
theorem bodyJoin_of_parked {taken : Bool} {o : Split} (hf : c.split.forks = h :: rest) (hk : h.kind = .real taken)
    (ho : parkedAt (c.passed s.tick words).wave.splits h.fid (!taken) = some o) :
    let c' := c.passed s.tick words
    let k := s.kernelOf c.blk
    let m := if taken then s.merge k h (some c'.split) (some o) else s.merge k h (some o) (some c'.split)
    bodyJoin words s c x = .gone { m.1 with cur := some { c' with
      wave := { c'.wave with splits := c'.wave.splits.filter (·.sid ≠ o.sid) }, split := m.2.getD c'.split } } [(.ctl, 1), (.fork, 1)] := by
  unfold Cur.passed at ho ⊢
  simp only [bodyJoin, Cur.forks_passed hf, hk, ho]

/-- The side of a real fork whose sibling has not come, by whether the sibling's side still lives. -/
theorem bodyJoin_of_not_parked {taken : Bool} (hf : c.split.forks = h :: rest) (hk : h.kind = .real taken)
    (ho : parkedAt (c.passed s.tick words).wave.splits h.fid (!taken) = none) :
    let c' := c.passed s.tick words
    bodyJoin words s c x = if c'.wave.splits.any (fun o => o.onSide h.fid (!taken)) then
        .gone { s with cur := some { c' with split := { c'.split with run := .parked } } } ctl
      else .gone { s with cur := some { c' with split := mergeOne h c'.split } } [(.ctl, 1), (.fork, 1)] := by
  unfold Cur.passed at ho ⊢
  simp only [bodyJoin, Cur.forks_passed hf, hk, ho]

end

/-! ## The instruction -/

/-- Settles O19: the body in each case of the innermost fork record. -/
theorem joinCompletes : Obligations.JoinCompletes := by
  unfold Obligations.JoinCompletes
  refine both_of_words bodyJoin (fun _ _ => rfl) (fun _ _ => rfl) fun i f he s c x hi => ?_
  refine ⟨fun hf => ?noFork, fun h rest hf => ⟨fun hk => ?single, fun other hk => ?serial, fun first hk => ?second,
    fun taken hk => ⟨fun o ho => ?parked, fun ho => ⟨fun hs => ?waits, fun hs => ?alone⟩⟩⟩⟩
  all_goals rw [← Cur.counted_split] at hf
  case noFork => exact exec_of_done he hi (bodyJoin_of_no_fork hf)
  case single =>
    have hb := bodyJoin_of_single (words := formWords f) (s := s.ready c x) (x := x) hf hk
    rw [Cur.counted_split] at hb
    exact exec_of_done he hi hb
  case serial =>
    have hb := bodyJoin_of_serial (words := formWords f) (s := s.ready c x) (x := x) hf hk
    rw [Cur.passed_ready] at hb
    exact exec_of_gone he hi hb
  case second =>
    have hb := bodyJoin_of_serialSecond (words := formWords f) (s := s.ready c x) (x := x) hf hk
    rw [Cur.passed_ready] at hb
    exact exec_of_gone he hi hb
  case parked =>
    have hb := bodyJoin_of_parked (words := formWords f) (s := s.ready c x) (x := x) hf hk (by rw [Cur.passed_ready]; exact ho)
    rw [Cur.passed_ready] at hb
    exact exec_of_gone he hi hb
  all_goals
    have hb := bodyJoin_of_not_parked (words := formWords f) (s := s.ready c x) (x := x) hf hk (by rw [Cur.passed_ready]; exact ho)
    rw [Cur.passed_ready] at hb
  case waits => exact exec_of_gone he hi (hb.trans (if_pos hs))
  case alone => exact exec_of_gone he hi (hb.trans (if_neg (by rw [hs]; exact Bool.false_ne_true)))

end Sys2Proof.Machine
end

section
/-! Traps: TRAP, BKPT and TRET, and the entry of a handler (R149–R151). -/
namespace Sys2Proof.Machine

/-! ## TRAP and BKPT -/

/-- An ended instruction leaves a split that issues. -/
theorem State.ended_cur {s : State} {c0 : Cur} (h : s.cur = some c0) (c : Cur) (f : Form) (spec : Nat → Spec) (ev : List (Ev × Nat))
    (pc : Dword) : ∃ c', (s.ended c f spec ev pc).cur = some c' := by
  have booked : ∃ c1, (s.bookIssue c (passesOf c f spec) ev).cur = some c1 := by
    unfold State.bookIssue
    split
    · exact ⟨c0, h⟩
    · have hw := (State.Calm.bookFor s c.blk ((.issue, passesOf c f spec) :: ev ++ s.spillEvents c)).width
      rw [h, Option.map_some, Option.map_eq_some_iff] at hw
      obtain ⟨c1, h1, -⟩ := hw
      exact ⟨c1, h1⟩
  obtain ⟨c1, h1⟩ := booked
  exact ⟨_, by rw [State.ended, State.finish, h1]; rfl⟩

/-- What comes of an instruction that completes and takes a trap. -/
theorem exec_of_trap {s t : State} {c c' : Cur} {op code : Nat} {f : Form} {spec : Nat → Spec} {x : Ctx} {i : Instr} {ev : List (Ev × Nat)}
    {info : Dword} {body : State → Cur → Ctx → Res} (he : ∀ s, exec i s = s.issueOp op f spec body) (h : Issues s c op f spec x)
    (hb : body (s.ready c x) c.counted x = .trap t ev code info) (hc : (t.ended c f spec ev (c.next f)).cur = some c') :
    exec i s = .next ((t.ended c f spec ev (c.next f)).deliver c' code (c.next f) info) := by
  rw [exec_of_body' he h hb rfl]
  simp only [State.ended, Cur.next] at hc ⊢
  simp only [State.conclude, hc]

/-- A trap that an instruction with a 64-bit operand takes, with the operand in TRAP_INFO. -/
theorem exec_of_trap_operand {s : State} {c : Cur} {op code : Nat} {f : Form} {x : Ctx} {i : Instr} {body : State → Cur → Ctx → Res}
    (he : ∀ s, exec i s = s.issueOp op f specTrap body) (hi : Issues s c op f specTrap x)
    (hb : body (s.ready c x) c.counted x = .trap (s.ready c x) ctl code (BitVec.ofNat 64 (x.vA c.counted.split 0))) :
    ∃ c', ((s.ready c x).ended c f specTrap ctl (c.next f)).cur = some c' ∧
      exec i s = .next (((s.ready c x).ended c f specTrap ctl (c.next f)).deliver c' code (c.next f) (BitVec.ofNat 64 (x.vA c.split 0))) := by
  obtain ⟨c', hc⟩ := State.ended_cur (s.ready_cur c x) c f specTrap ctl (c.next f)
  rw [Cur.counted_split] at hb
  exact ⟨c', hc, exec_of_trap he hi hb hc⟩

/-- BKPT stops its wave where breakpoints are armed for the function, and traps elsewhere. -/
theorem bodyBkpt_of_armed {s : State} {c : Cur} (h : c.blk.fn ∈ s.hw.armedFns) (x : Ctx) :
    bodyBkpt s c x = .done { s with cur := some { c with wave := { c.wave with debug := 1 } } } ctl :=
  if_pos (List.contains_iff_mem.2 h)

theorem bodyBkpt_of_not_armed {s : State} {c : Cur} (h : c.blk.fn ∉ s.hw.armedFns) (x : Ctx) :
    bodyBkpt s c x = .trap s ctl Fc.bkpt (BitVec.ofNat 64 (x.vA c.split 0)) :=
  if_neg fun hc => h (List.contains_iff_mem.1 hc)

/-! ## TRET -/

/-- TRAP_PC names an instruction of the kernel (R36, R131). -/
structure State.Returns (s : State) (c : Cur) (pc : Dword) : Prop where
  word : pc.toNat % 4 = 0
  bundle : pc.toNat / 4 % 8 ≠ 1
  start : s.midInstr c.blk pc = false
  code : (s.kernelOf c.blk).inCode pc = true

theorem bodyTret_of_handler {s : State} {c : Cur} (hh : c.split.uni.inHandler = true) (h : s.Returns c (c.split.read .trapPc 0)) (x : Ctx) :
    bodyTret s c x = .jump { s with cur := some { c with split := c.split.leave (c.split.read .trapPc 0) } } ctl (c.split.read .trapPc 0) := by
  obtain ⟨hw, hb, hs, hc⟩ := h
  simp only [bodyTret, hh, hw, hb, hs, hc, Bool.not_true, Bool.false_eq_true, if_false, ne_eq, not_true, or_self]

theorem bodyTret_of_no_handler {s : State} {c : Cur} (h : c.split.uni.inHandler = false) (x : Ctx) :
    bodyTret s c x = .fault Fc.access (accessInfo 0x099 4) := if_pos (by rw [h]; rfl)

/-- Settles O22: TRAP and BKPT complete and then deliver, and TRET returns behind its checks. -/
theorem trapsAndReturn : Obligations.TrapsAndReturn := by
  unfold Obligations.TrapsAndReturn
  refine ⟨⟨?trap, ?bkpt, ?armed⟩, both_of_issueOp (fun _ _ => rfl) (fun _ _ => rfl) fun i f he => ⟨?returns, ?access⟩⟩
  case trap =>
    refine both_of_issueOp (fun _ _ => rfl) (fun _ _ => rfl) fun i f he s c x hi _ u hu => ?_
    subst hu
    exact exec_of_trap_operand he hi rfl
  case bkpt =>
    refine both_of_issueOp (fun _ _ => rfl) (fun _ _ => rfl) fun i f he s c x hi hn u hu => ?_
    subst hu
    exact exec_of_trap_operand he hi (bodyBkpt_of_not_armed (by rw [State.ready_hw, Cur.counted_fn]; exact hn rfl) x)
  case armed =>
    exact both_of_issueOp (fun _ _ => rfl) (fun _ _ => rfl) fun i f he => completes_of_body he fun s c x h => bodyBkpt_of_armed h x
  case returns =>
    exact transfers_of_body he fun s c x ⟨hh, hw, hb, hs, hc⟩ => bodyTret_of_handler hh ⟨hw, hb, hs, hc⟩ x
  case access => exact faults_of_body he fun s c x h => bodyTret_of_no_handler h x

/-! ## TakeTrap -/

theorem Split.mem_written_mark {r : RegId} (hr : r.perLane = false) (sp : Split) (q : RegId) :
    q ∈ (sp.mark r).written ↔ q ∈ sp.written ∨ q = r := by
  unfold Split.mark
  rw [hr, Bool.false_or]
  split
  next h => exact ⟨.inl, fun k => k.elim id fun e => e ▸ List.contains_iff_mem.1 h⟩
  next => rw [List.mem_append, List.mem_singleton]

/-- Three registers marked change the list of those written alone. -/
theorem Split.mark3_eq (sp : Split) (a b c : RegId) :
    ((sp.mark a).mark b).mark c = { sp with written := (((sp.mark a).mark b).mark c).written } := by
  obtain ⟨l1, h1⟩ := sp.mark_eq a
  obtain ⟨l2, h2⟩ := ({ sp with written := l1 } : Split).mark_eq b
  obtain ⟨l3, h3⟩ := ({ sp with written := l2 } : Split).mark_eq c
  rw [h1, h2, h3]

/-- The split that enters a handler: its results set aside, its trap record saved, and its hold over. -/
theorem Split.enter_eq (sp : Split) (code : Nat) (pc info handler : Dword) :
    ∃ l, (∀ r, r ∈ l ↔ r ∈ sp.written ∨ r ∈ [RegId.trapPc, .trapRec, .inHandler]) ∧
      sp.enter code pc info handler = { sp with
        uni := { sp.uni with
          trapPc := pc, trapExec := sp.readMask 16, trapCode := BitVec.ofNat 32 code, trapInfo := info, inHandler := true }
        pc := handler, run := .ready, started := false, arrived := false, since := 0, written := l
        held := sp.pend :: sp.held, pend := sp.pend.map fun p => { p with ghost := true } } := by
  refine ⟨_, fun r => ?_, Split.mark3_eq _ _ _ _⟩
  rw [Split.mem_written_mark rfl, Split.mem_written_mark rfl, Split.mem_written_mark rfl]
  simp only [List.mem_cons, List.not_mem_nil, or_false, or_assoc]
  rfl

theorem State.takeTrap_of_dropped {s : State} {c : Cur} {code : Nat} (h : (s.kernelOf c.blk).handler = 0) (hc : code = Fc.throttle ∨ code = Fc.hang)
    (pc info : Dword) : s.takeTrap c code pc info = { s with cur := some c } := if_pos ⟨h, hc⟩

theorem State.takeTrap_of_abort {s : State} {c : Cur} {code : Nat} (hd : ¬ ((s.kernelOf c.blk).handler = 0 ∧ (code = Fc.throttle ∨ code = Fc.hang)))
    (h : c.split.uni.inHandler = true ∨ (s.kernelOf c.blk).handler = 0) (pc info : Dword) :
    s.takeTrap c code pc info = ({ s with cur := some c } : State).gridAbort c.blk code pc c.wave.wid info := (if_neg hd).trans (if_pos h)

theorem State.takeTrap_of_entry {s : State} {c : Cur} (h : (s.kernelOf c.blk).handler ≠ 0) (hh : c.split.uni.inHandler = false) (code : Nat)
    (pc info : Dword) : s.takeTrap c code pc info = ({ s with cur := some { c with
      wave := c.wave.enters c.split.sid
      split := c.split.enter code pc info ((s.kernelOf c.blk).addr + BitVec.ofNat 64 (s.kernelOf c.blk).handler) } } : State).bookFor
        c.blk [(.trap, 1)] :=
  (if_neg fun k => h k.1).trans (if_neg fun k => k.elim (fun e => by simp [hh] at e) h)

/-- Settles O58: TakeTrap's three outcomes, and the entry's split written out. -/
theorem takingAnException : Obligations.TakingAnException := by
  unfold Obligations.TakingAnException
  intro s c code pc info k t
  refine ⟨fun h hc => State.takeTrap_of_dropped h hc pc info,
    fun h h1 h2 => State.takeTrap_of_abort (fun hd => hd.2.elim h1 h2) (.inr h) pc info,
    fun h hh => State.takeTrap_of_abort (fun hd => h hd.1) (.inl hh) pc info, fun h hh => ?entry⟩
  have ht := State.takeTrap_of_entry h hh code pc info
  obtain ⟨l, hl, he⟩ := c.split.enter_eq code pc info (k.addr + BitVec.ofNat 64 k.handler)
  rw [he] at ht
  exact ⟨(congrArg State.ops ht).trans (State.Calm.bookFor ..).ops, l, hl, ht⟩

end Sys2Proof.Machine
end

section
/-! Deliveries at a boundary: QUOTA, PREEMPT and THROTTLE, and the overrun of a handler's budget (R152, R380, R381, R386, R389). -/
namespace Sys2Proof.Machine

/-! ## QUOTA and PREEMPT -/

theorem exec_quotaDelivery {s : State} {c : Cur} (hc : (s.focus s.arg.blk s.arg.wid s.arg.sid).cur = some c) :
    exec .quotaDelivery s = .next ((s.focus s.arg.blk s.arg.wid s.arg.sid).takeQuota c) := by
  simp only [exec, execQuotaDelivery, hc]

theorem exec_preemptDelivery {s : State} {c : Cur} (hc : (s.focus s.arg.blk s.arg.wid s.arg.sid).cur = some c) :
    exec .preemptDelivery s = .next ((s.focus s.arg.blk s.arg.wid s.arg.sid).takePreempt c) := by
  simp only [exec, execPreemptDelivery, hc]

/-- A wave with one split in a kernel with a handler enters it, and its record keeps the point it resumes at. -/
theorem State.pDeliver_enters {s : State} {c : Cur} (hp : c.wave.pre = none) (hs : c.wave.splits = []) (hk : (s.kernelOf c.blk).prehandler ≠ 0) :
    ∃ c', (s.pDeliver c).cur = some c' ∧ c'.split.pc = (s.kernelOf c.blk).addr + BitVec.ofNat 64 (s.kernelOf c.blk).prehandler ∧
      ∃ p, c'.wave.pre = some p ∧ p.pc = c.split.boundary.pc ∧ p.exec = c.split.boundary.readMask 16 ∧ p.budget = s.preBudget c.blk ∧
        p.done = none := by
  simp only [State.pDeliver, hp, hs, hk, Option.isSome_none, Bool.false_eq_true, if_false, List.isEmpty_nil, Bool.not_true, or_self]
  exact ⟨_, rfl, rfl, _, rfl, rfl, rfl, rfl, rfl⟩

/-- A wave with more splits, or in a kernel without a handler, is to be saved by force. -/
theorem State.pDeliver_forces {s : State} {c : Cur} (hp : c.wave.pre = none) (h : c.wave.splits ≠ [] ∨ (s.kernelOf c.blk).prehandler = 0) :
    (s.pDeliver c).cur = some { c with blk := { c.blk with forced := true } } := by
  have hf : (!c.wave.splits.isEmpty) = true ∨ (s.kernelOf c.blk).prehandler = 0 := h.imp_left fun hs => by simpa using hs
  simp only [State.pDeliver, hp, Option.isSome_none, Bool.false_eq_true, if_false, if_pos hf]

/-! ## THROTTLE -/

theorem exec_throttleDelivery {s : State} {c : Cur} (hc : (s.focus s.arg.blk s.arg.wid s.arg.sid).cur = some c) :
    exec .throttleDelivery s = .next ((s.focus s.arg.blk s.arg.wid s.arg.sid).takeThrottle c) := by
  simp only [exec, execThrottleDelivery, hc]

/-- An armed block's THROTTLE, in the split that it goes to, once nothing goes before it. -/
theorem State.takeThrottle_of_open {s : State} {c : Cur} {v : Bool} (ht : c.blk.throttle = some v) (ha : c.blk.armed = true)
    (ho : s.throttleOpen c = true) :
    s.takeThrottle c = s.takeTrap { c with blk := { c.blk with throttle := none, lastThrottle := c.blk.throttle } } Fc.throttle c.split.pc
      (if c.blk.throttle = some true then 1 else 0) := by
  simp only [State.takeThrottle, ht, ha, ho, Bool.not_true, Bool.false_eq_true, if_false, Option.some.injEq]

/-! ## The budget of a handler -/

/-- A wave whose handler has not parked in time forces the save of its block. -/
theorem exec_handlerBudgetOverrun {s : State} {b : Block} {w : Wave} {p : PreRec} (hb : s.unfocus.block? s.arg.blk = some b) (hw : w ∈ b.waves)
    (hid : w.wid = s.unfocus.arg.wid) (hp : w.pre = some p) (hd : p.done = none) :
    exec .handlerBudgetOverrun s = .next (s.unfocus.mapBlock b.id fun b => { b with forced := true }) := by
  have hany : (b.waves.any fun w => w.wid = s.unfocus.arg.wid && w.pre.any fun p => p.done.isNone) = true :=
    List.any_eq_true.2 ⟨w, hw, by simp [hid, hp, hd]⟩
  rw [← s.unfocus_arg] at hb
  simp only [exec, execHandlerBudgetOverrun, hb, hany, if_true]

/-- Settles O40: each delivery's equation where it is due. -/
theorem deliveryEventsHappen : Obligations.DeliveryEventsHappen := by
  unfold Obligations.DeliveryEventsHappen
  refine ⟨fun s c hc h => ?quota, fun s c hc ⟨hd, hq, ho⟩ => ?preempt, fun s c hp hs hk => State.pDeliver_enters hp hs hk,
    fun s c hp h => State.pDeliver_forces hp h, fun s c hc h => ?throttle, fun s b hb ⟨w, hw, hid, p, hp, hd⟩ =>
      exec_handlerBudgetOverrun hb hw hid hp hd⟩
  case quota => rw [exec_quotaDelivery hc, State.takeQuota, if_pos h]
  case preempt => rw [exec_preemptDelivery hc, State.takePreempt, if_pos ⟨hd, by rw [hq]; rfl, ho⟩]
  case throttle =>
    obtain ⟨⟨v, hv⟩, ha, hh, ht, hi, hb, hq, hp, hn, hr⟩ := h
    rw [exec_throttleDelivery hc, State.takeThrottle_of_open hv ha (by simp [State.throttleOpen, hh, ht, hi, hb, hq, hp, hn, hr])]
    rfl

end Sys2Proof.Machine
end

section
/-! A warm reset and the counters (R373, R375, R418): it persists the sheets of the active partitions, time passes as each is closed, and the
static power of that time is booked. -/
namespace Sys2Proof.Machine

/-! ## What leaves the counters -/

theorem State.counters_foldl {α : Type} {f : State → α → State} (hf : ∀ s a, (f s a).counters = s.counters) (l : List α) (s : State) :
    (l.foldl f s).counters = s.counters :=
  List.foldlRecOn (motive := fun t : State => t.counters = s.counters) l f rfl fun t ht a _ => (hf t a).trans ht

theorem State.stopping_counters (s : State) (fn child : Nat) : (s.stopping fn child).counters = s.counters := by
  unfold State.stopping; split <;> rfl

theorem State.settleStop_counters (s : State) (fn child : Nat) : (s.settleStop fn child).counters = s.counters := by
  unfold State.settleStop
  dsimp only
  split_ifs <;> rfl

/-- A crossing stops partitions, and changes no counter. -/
theorem State.cross_counters (s : State) (fn child : Nat) : (s.cross fn child).counters = s.counters := by
  have stops : ∀ l : List Nat, (l.foldl (fun t k => t.stopping fn k) (s.setOver fn child true)).counters = s.counters := fun l =>
    State.counters_foldl (fun t k => t.stopping_counters fn k) l _
  unfold State.cross
  dsimp only
  generalize (if child = 0 then [0, 1, 2, 3, 4] else [child]) = l
  refine (State.counters_foldl (fun t k => t.settleStop_counters fn k) _ _).trans (Eq.trans ?_ (stops l))
  dsimp only [State.mapWaves]
  split <;> rfl

theorem State.noteCrossed_counters (s : State) (fn child : Nat) : (s.noteCrossed fn child).counters = s.counters := rfl

/-- One counter raised, whether or not that crosses a quota. -/
theorem State.bump_counters (s : State) (fn child units : Nat) :
    (s.bump fn child units).counters = spSet 0 s.counters (8 * fn + child)
      (BitVec.ofNat 96 (min ((spGet 0 s.counters (8 * fn + child)).toNat + units) (2 ^ 96 - 1))) := by
  unfold State.bump
  dsimp only
  split
  · rfl
  · split
    · rw [State.noteCrossed_counters]
    · rw [State.noteCrossed_counters, State.cross_counters]

theorem State.openSheet_counters (s : State) (fn child : Nat) : (s.openSheet fn child).counters = s.counters := by
  unfold State.openSheet
  dsimp only
  split <;> rfl

theorem State.bringUp_counters (s : State) (cause : Nat) : (s.bringUp cause).counters = s.counters := by
  unfold State.bringUp
  split
  · exact State.openSheet_counters ..
  · rfl

theorem State.takeFree_counters (s : State) : s.takeFree.1.counters = s.counters := rfl

/-- Time that passes is booked, and moves the clock. -/
theorem State.passTime_eq (s : State) : ∃ hw, s.passTime = { s.takeFree.1.bookTime (s.takeFree.2 >>> 24).toNat with hw } := by
  unfold State.passTime
  generalize s.takeFree = r
  obtain ⟨t, v⟩ := r
  dsimp only
  generalize t.bookTime (v >>> 24).toNat = u
  exact ⟨_, rfl⟩

theorem State.closeSheet_counters (s : State) (fn child kind : Nat) : (s.closeSheet fn child kind).1.counters = s.passTime.counters := by
  unfold State.closeSheet
  generalize s.passTime = t
  dsimp only
  split
  · exact State.takeFree_counters t
  · rfl

theorem State.persistSheet_counters (s : State) (fn child kind : Nat) :
    (s.persistSheet fn child kind).counters = (s.closeSheet fn child kind).1.counters := by
  unfold State.persistSheet
  generalize s.closeSheet fn child kind = r
  rfl

theorem State.warmReset_counters (s : State) (cause : Nat) :
    (s.warmReset cause).counters = (s.activePartitions.foldl (fun s p => s.persistSheet p.1 p.2 2) s).counters :=
  State.bringUp_counters ..

/-- A booking on the calibrated table, for a function's own partition, raises its counter. -/
theorem State.book_counters_of_calibrated {s : State} {fn : Nat} (h : s.nominal fn 0 = false) (rail cls : Nat) (evs : List (Ev × Nat)) :
    (s.book fn 0 rail cls evs).counters = (s.bump fn 0 (s.unitsOf fn 0 rail cls evs)).counters := by
  simp only [State.book, h, Bool.false_and, Bool.false_eq_true, if_false, State.tally, State.bookUnits, if_true]

/-! ## Bookings keep the counters' form -/

/-- The counters have their canonical form. -/
def State.CountersWf (s : State) : Prop := spWf 0 s.counters = true

namespace State.CountersWf

theorem withHw {s : State} (h : s.CountersWf) (hw : Hardware) : ({ s with hw } : State).CountersWf := h

theorem foldl {α : Type} {f : State → α → State} (hf : ∀ s a, s.CountersWf → (f s a).CountersWf) (l : List α) {s : State}
    (h : s.CountersWf) : (l.foldl f s).CountersWf :=
  List.foldlRecOn l f h fun t ht a _ => hf t a ht

theorem bump {s : State} (h : s.CountersWf) (fn child units : Nat) : (s.bump fn child units).CountersWf := by
  rw [State.CountersWf, State.bump_counters]
  exact spWf_spSet h

theorem bookUnits {s : State} (h : s.CountersWf) (fn child units : Nat) : (s.bookUnits fn child units).CountersWf := by
  unfold State.bookUnits
  split
  · exact h.bump ..
  · exact (h.bump ..).bump ..

theorem book {s : State} (h : s.CountersWf) (fn child rail cls : Nat) (evs : List (Ev × Nat)) : (s.book fn child rail cls evs).CountersWf := by
  unfold State.book
  dsimp only
  split
  · exact h
  · exact h.bookUnits fn child _

theorem bookStatic {s : State} (h : s.CountersWf) (fn child rail units : Nat) : (s.bookStatic fn child rail units).CountersWf := by
  unfold State.bookStatic
  split
  · exact h
  · exact h.bookUnits fn child units

theorem bookChannels {s : State} (h : s.CountersWf) (ns f die : Nat) : (s.bookChannels ns f die).CountersWf :=
  foldl (fun _ _ k => k.bookStatic ..) _ (h.bookStatic ..)

end State.CountersWf

/-! ## The refuting state -/

/-- A key of one entry set leaves the canonical form, though the entry was not in it. -/
theorem spWf_spSet_single {α : Type} [DecidableEq α] (d v x : α) (k : Nat) : spWf d (spSet d [(k, v)] k x) = true := by
  simp only [spSet, lt_self_iff_false, if_false, if_true]
  split
  · rfl
  · exact spAbove_cons.2 ⟨Nat.zero_le k, ‹_›, rfl⟩

/-- A device after reset whose cores are all retired, and whose counters list one that is zero. -/
def retiredState : State := { counters := [(0, 0)], hw := { absentCores := List.range 384 } }

/-- No core is there to be charged. -/
theorem bookCores_retiredState (ns : Nat) : retiredState.takeFree.1.bookCores ns = retiredState.takeFree.1 := by
  have h : (List.range 384).filter retiredState.takeFree.1.present = [] := by
    refine List.filter_eq_nil_iff.2 fun c _ => ?_
    simp [State.present, State.takeFree, retiredState]
  rw [State.bookCores, h, List.foldl_nil]

/-- F0's ways in the first slice are charged first, which sets its counter anew. -/
theorem countersWf_bookSlices_retiredState (ns : Nat) : (retiredState.takeFree.1.bookSlices ns).CountersWf := by
  have first : ∀ evs, (retiredState.takeFree.1.bookSlice 0 0 0 evs).CountersWf := by
    intro evs
    rw [State.CountersWf, State.bookSlice, State.book_counters_of_calibrated rfl, State.bump_counters]
    exact spWf_spSet_single ..
  rw [State.bookSlices, List.range_succ_eq_map (n := 47), List.foldl_cons]
  refine State.CountersWf.foldl (fun s sl h => .foldl (fun _ _ k => k.book ..) _ h) _ ?_
  rw [List.range_succ_eq_map (n := 7), List.foldl_cons]
  exact .foldl (fun _ _ k => k.book ..) _ (first _)

/-- The time that passes as a sheet is closed sets the counters anew. -/
theorem countersWf_warmReset_retiredState (cause : Nat) : (retiredState.warmReset cause).CountersWf := by
  have ha : retiredState.activePartitions = [(0, 0)] := by decide
  have ht : ∀ ns, (retiredState.takeFree.1.bookTime ns).CountersWf := by
    intro ns
    rw [State.bookTime, bookCores_retiredState]
    exact .foldl (fun _ _ h => .foldl (fun _ _ k => k.bookChannels ..) _ h) _ (countersWf_bookSlices_retiredState ns)
  have hp : retiredState.passTime.CountersWf := by
    obtain ⟨hw, h⟩ := State.passTime_eq retiredState
    rw [h]
    exact (ht _).withHw hw
  rwa [State.CountersWf, State.warmReset_counters, ha, List.foldl_cons, List.foldl_nil, State.persistSheet_counters,
    State.closeSheet_counters]

/-- Refutes O46: a warm reset persists the sheets of the active partitions, and closing a sheet books the static power of the time until
then, so that it does not leave the counters as they are. The energies are free values; what shows the booking for any of them is a
state whose counters list one that is zero, which the booking takes out or raises. -/
theorem not_resetAndDebugEventsHappen : ¬ Obligations.ResetAndDebugEventsHappen := by
  unfold Obligations.ResetAndDebugEventsHappen
  rintro ⟨-, -, -, -, h, -⟩
  obtain ⟨-, hc, -⟩ := h retiredState 1
  have hw : spWf 0 (retiredState.warmReset 1).counters = true := countersWf_warmReset_retiredState 1
  rw [hc] at hw
  exact absurd hw (by decide)

end Sys2Proof.Machine
end

section
/-! The accesses to global memory put in flight, and the faults of their addresses (R183, R184, R187–R190, R400). -/
namespace Sys2Proof.Machine

/-! ## An access by its lanes -/

/-- The lanes of an access: all that are active, or one where the operands are uniform. -/
def Ctx.accessing (x : Ctx) (uniform : Bool) : List Nat := if uniform then x.lanes.take 1 else x.lanes

theorem Ctx.accessing_of_empty {x : Ctx} (h : x.lanes = []) (uniform : Bool) : x.accessing uniform = [] := by
  cases uniform <;> simp [accessing, h]

/-- An instruction whose body looks its lanes' addresses up, and goes on to complete where they are reached. -/
theorem exec_of_reached {s t u : State} {c : Cur} {op : Nat} {f : Form} {spec : Nat → Spec} {x : Ctx} {i : Instr}
    {body : State → Cur → Ctx → Res} (he : ∀ s, exec i s = s.issueOp op f spec body) (h : Issues s c op f spec x)
    {n : Nat} {align wr locks : Bool} {need : BitVec 3} {addrs : List (Nat × Nat)} {l : List (Nat × Nat × Space × Nat)}
    {go : State → List (Nat × Nat × Space × Nat) → Res} {ev : List (Ev × Nat)}
    (hb : body (s.ready c x) c.counted x = withPlaces (s.ready c x) c.counted n align wr locks need addrs go)
    (hr : Reached (s.ready c x) c.counted.blk n align locks need addrs t l) (hgo : go t l = .done u ev) :
    exec i s = .next (u.ended c f spec ev (c.next f)) :=
  exec_of_done he h (by rw [hb, withPlaces_of_reached hr, hgo])

/-! ## Each body as one such access -/

/-- What a load does once its places are known. -/
def loadFrom (c : Cur) (x : Ctx) (s : State) (l : List (Nat × Nat × Space × Nat)) : Res :=
  if s.pathFull c 0 then .hold
  else .done (s.addOp (memOp x 0 (.load (Mod.mtype x.m) (dstOf x.d x.dWide))
      (itemsOf (mtBytes (Mod.mtype x.m)) (fun _ => 0) (fun _ => 0) l) (effPol c.blk x.m true) false))
    [(.load (8 * mtBytes (Mod.mtype x.m)), (itemsOf (mtBytes (Mod.mtype x.m)) (fun _ => 0) (fun _ => 0) l).length)]

theorem bodyLd_eq (s : State) (c : Cur) (x : Ctx) : bodyLd s c x =
    if (x.accessing x.d.isScal).isEmpty then .done s []
    else withPlaces s c (mtBytes (Mod.mtype x.m)) true false false needR (x.addrs c.split (x.accessing x.d.isScal)) (loadFrom c x) := rfl

/-- The items of a store. -/
def storeItems (c : Cur) (x : Ctx) (l : List (Nat × Nat × Space × Nat)) : List Item :=
  itemsOf (mtBytes (Mod.mtype x.m)) (fun n => BitVec.ofNat 64 (x.vD c.split n % 2 ^ (8 * mtBytes (Mod.mtype x.m)))) (fun _ => 0) l

/-- What a store does once its places are known. -/
def storeTo (c : Cur) (x : Ctx) (s : State) (l : List (Nat × Nat × Space × Nat)) : Res :=
  let staged := s.ahead c.blk
  let pol := if staged then effPol c.blk x.m false else s.storePol c x.m
  if s.pathFull c 1 || (staged && s.stageFull c.blk (entryLines (storeItems c x l))) then .hold
  else .done ((if staged then s else s.l1Stores c.blk.core pol (storeItems c x l)).addOp
      (memOp x 1 .store (storeItems c x l) pol staged))
    [(.store (8 * mtBytes (Mod.mtype x.m)), (storeItems c x l).length)]

theorem bodySt_eq (s : State) (c : Cur) (x : Ctx) : bodySt s c x =
    if (x.accessing (x.d.uniform && x.b.uniform)).isEmpty then .done s []
    else withPlaces s c (mtBytes (Mod.mtype x.m)) true true true needW (x.addrs c.split (x.accessing (x.d.uniform && x.b.uniform)))
      (storeTo c x) := rfl

/-- The items of an atomic. -/
def atomItems (c : Cur) (x : Ctx) (l : List (Nat × Nat × Space × Nat)) : List Item :=
  itemsOf (mtBytes (Mod.mtype x.m)) (fun n => BitVec.ofNat 64 (x.vC c.split n)) (fun n => BitVec.ofNat 64 (x.vD c.split n)) l

/-- What an atomic does once its places are known. -/
def atomAt (aop : Nat → Nat) (returns : Bool) (c : Cur) (x : Ctx) (s : State) (l : List (Nat × Nat × Space × Nat)) : Res :=
  let ahead := s.ahead c.blk
  if s.pathFull c 2 || (ahead && (returns || s.stageFull c.blk (entryLines (atomItems c x l)))) then .hold
  else .done ((if ahead then s else s.l1Atoms c.blk.core (atomItems c x l)).addOp
      (memOp x 2 (.atom (aop x.m) (Mod.mtype x.m) (if returns then dstOf x.d x.dWide else none) (BitVec.ofNat 32 x.mode))
        (atomItems c x l) 2 ahead))
    [(.atom (8 * mtBytes (Mod.mtype x.m)), (atomItems c x l).length)]

theorem bodyAtomic_eq (aop : Nat → Nat) (returns : Bool) (s : State) (c : Cur) (x : Ctx) : bodyAtomic aop returns s c x =
    if x.lanes.isEmpty then .done s []
    else withPlaces s c (mtBytes (Mod.mtype x.m)) true true true needRW (x.addrs c.split x.lanes) (atomAt aop returns c x) := rfl

/-! ## Faults of addresses -/

/-- A misaligned lane's fault comes first. -/
theorem withPlaces_of_misaligned {s : State} {c : Cur} {n : Nat} {wr locks : Bool} {need : BitVec 3} {addrs : List (Nat × Nat)}
    {lane va : Nat} (h : addrs.find? (fun p => p.2 % n ≠ 0) = some (lane, va)) (go : State → List (Nat × Nat × Space × Nat) → Res) :
    withPlaces s c n true wr locks need addrs go = .fault Fc.align (memInfo lane wr false 0 va) := by
  simp only [withPlaces, if_true, h]

/-- Where every lane is aligned, the range fault of the lowest lane that has one. -/
theorem withPlaces_of_rangeFault {s : State} {c : Cur} {n : Nat} {wr locks : Bool} {need : BitVec 3} {addrs : List (Nat × Nat)}
    {lane va code : Nat} (ha : ∀ p ∈ addrs, p.2 % n = 0)
    (h : addrs.findSome? (fun p => (s.rangeFault c.blk p.2 n).map fun code => (p, code)) = some ((lane, va), code))
    (go : State → List (Nat × Nat × Space × Nat) → Res) :
    withPlaces s c n true wr locks need addrs go = .fault code (memInfo lane wr false 0 va) := by
  have hn : addrs.find? (fun p => p.2 % n ≠ 0) = none := by simpa using ha
  simp only [withPlaces, if_true, hn, h]

/-- What the statements say of an access's misaligned and unreachable lanes. -/
def FaultsByAddress (op : Nat) (spec : Nat → Spec) (wr : Bool) (lanes : Ctx → List Nat) (i : Instr) (f : Form) : Prop :=
  ∀ s c x, Issues s c op f spec x →
    (∀ lane va, (x.addrs c.split (lanes x)).find? (fun p => p.2 % mtBytes (Mod.mtype x.m) ≠ 0) = some (lane, va) →
      exec i s = .next ((s.prepare x).faulted c (passesOf c f spec) 0x10 (memInfo lane wr false 0 va))) ∧
    ((∀ p ∈ x.addrs c.split (lanes x), p.2 % mtBytes (Mod.mtype x.m) = 0) → ∀ lane va code,
      (x.addrs c.split (lanes x)).findSome?
        (fun p => ((s.ready c x).rangeFault c.counted.blk p.2 (mtBytes (Mod.mtype x.m))).map fun code => (p, code)) =
          some ((lane, va), code) →
      exec i s = .next ((s.prepare x).faulted c (passesOf c f spec) code (memInfo lane wr false 0 va)))

/-- A body that looks up the addresses of some lanes faults as they do: a lane that faults is one of them. -/
theorem faultsByAddress_of_body {op : Nat} {spec : Nat → Spec} {wr locks : Bool} {need : BitVec 3} {lanes : Ctx → List Nat} {i : Instr}
    {f : Form} {body : State → Cur → Ctx → Res} {go : Cur → Ctx → State → List (Nat × Nat × Space × Nat) → Res}
    (he : ∀ s, exec i s = s.issueOp op f spec body)
    (hb : ∀ s c x, body s c x = if (lanes x).isEmpty then .done s []
      else withPlaces s c (mtBytes (Mod.mtype x.m)) true wr locks need (x.addrs c.split (lanes x)) (go c x)) :
    FaultsByAddress op spec wr lanes i f := by
  intro s c x h
  have hbody : lanes x ≠ [] → body (s.ready c x) c.counted x = withPlaces (s.ready c x) c.counted (mtBytes (Mod.mtype x.m)) true wr locks
      need (x.addrs c.split (lanes x)) (go c.counted x) := fun hl => by
    rw [hb, if_neg (by simpa using hl), Cur.counted_split]
  have some_lane : ∀ {α : Type} {p : List (Nat × Nat) → Option α} {a : α}, p [] = none → p (x.addrs c.split (lanes x)) = some a →
      lanes x ≠ [] := fun h0 hp hl => by
    rw [hl] at hp
    exact absurd (h0.symm.trans hp) nofun
  refine ⟨fun lane va hf => ?misaligned, fun ha lane va code hf => ?unreachable⟩
  case misaligned =>
    have hl := some_lane (p := List.find? _) rfl hf
    exact exec_of_body' he h ((hbody hl).trans (withPlaces_of_misaligned hf _)) rfl
  case unreachable =>
    have hl := some_lane (p := List.findSome? _) rfl hf
    exact exec_of_body' he h ((hbody hl).trans (withPlaces_of_rangeFault ha hf _)) rfl

/-- Settles O25: each of the five looks its lanes' addresses up by the one check, alignment first. -/
theorem addressFaults : Obligations.AddressFaults := by
  unfold Obligations.AddressFaults
  refine ⟨?ld, ?st, ?atom, ?atomr, ?cas⟩
  case ld => exact both_of_issueOp (fun _ _ => rfl) (fun _ _ => rfl) fun _ _ he => faultsByAddress_of_body he bodyLd_eq
  case st => exact both_of_issueOp (fun _ _ => rfl) (fun _ _ => rfl) fun _ _ he => faultsByAddress_of_body he bodySt_eq
  all_goals exact fun f => faultsByAddress_of_body (fun _ => rfl) (bodyAtomic_eq _ _)

/-! ## Accesses put in flight -/

/-- An atomic whose lanes' addresses are reached is in flight. -/
theorem atomAt_of_free {aop : Nat → Nat} {returns : Bool} {c : Cur} {x : Ctx} {t : State} {l : List (Nat × Nat × Space × Nat)}
    (hp : t.pathFull c 2 = false)
    (hs : t.ahead c.blk = true → returns = false ∧ t.stageFull c.blk (entryLines (atomItems c x l)) = false) :
    atomAt aop returns c x t l = .done ((if t.ahead c.blk then t else t.l1Atoms c.blk.core (atomItems c x l)).addOp
      (memOp x 2 (.atom (aop x.m) (Mod.mtype x.m) (if returns then dstOf x.d x.dWide else none) (BitVec.ofNat 32 x.mode))
        (atomItems c x l) 2 (t.ahead c.blk))) [(.atom (8 * mtBytes (Mod.mtype x.m)), (atomItems c x l).length)] := by
  refine if_neg ?_
  cases ha : t.ahead c.blk
  · simp [hp]
  · simp [hp, hs ha]

theorem storeTo_of_free {c : Cur} {x : Ctx} {t : State} {l : List (Nat × Nat × Space × Nat)} (hp : t.pathFull c 1 = false)
    (hs : t.ahead c.blk = true → t.stageFull c.blk (entryLines (storeItems c x l)) = false) :
    storeTo c x t l = .done ((if t.ahead c.blk then t else
        t.l1Stores c.blk.core (if t.ahead c.blk then effPol c.blk x.m false else t.storePol c x.m) (storeItems c x l)).addOp
      (memOp x 1 .store (storeItems c x l) (if t.ahead c.blk then effPol c.blk x.m false else t.storePol c x.m) (t.ahead c.blk)))
      [(.store (8 * mtBytes (Mod.mtype x.m)), (storeItems c x l).length)] := by
  refine if_neg ?_
  cases ha : t.ahead c.blk
  · simp [hp]
  · simp [hp, hs ha]

theorem loadFrom_of_free {c : Cur} {x : Ctx} {t : State} {l : List (Nat × Nat × Space × Nat)} (hp : t.pathFull c 0 = false) :
    loadFrom c x t l = .done (t.addOp (memOp x 0 (.load (Mod.mtype x.m) (dstOf x.d x.dWide))
        (itemsOf (mtBytes (Mod.mtype x.m)) (fun _ => 0) (fun _ => 0) l) (effPol c.blk x.m true) false))
      [(.load (8 * mtBytes (Mod.mtype x.m)), l.length)] := by
  simp [loadFrom, hp, itemsOf]

/-- An atomic issued, its lanes' addresses reached. -/
theorem exec_of_reached_atomic {s t : State} {c : Cur} {op : Nat} {f : Form} {spec : Nat → Spec} {x : Ctx} {i : Instr} {aop : Nat → Nat}
    {returns : Bool} {l : List (Nat × Nat × Space × Nat)} (he : ∀ s, exec i s = s.issueOp op f spec (bodyAtomic aop returns))
    (h : Issues s c op f spec x) (hl : x.lanes ≠ [])
    (hr : Reached (s.ready c x) c.counted.blk (mtBytes (Mod.mtype x.m)) true true needRW (x.addrs c.split x.lanes) t l)
    (hp : t.pathFull c.counted 2 = false)
    (hs : t.ahead c.counted.blk = true → returns = false ∧ t.stageFull c.counted.blk (entryLines (atomItems c x l)) = false) :
    exec i s = .next (((if t.ahead c.counted.blk then t else t.l1Atoms c.counted.blk.core (atomItems c x l)).addOp
      (memOp x 2 (.atom (aop x.m) (Mod.mtype x.m) (if returns then dstOf x.d x.dWide else none) (BitVec.ofNat 32 x.mode))
        (atomItems c x l) 2 (t.ahead c.counted.blk))).ended c f spec
      [(.atom (8 * mtBytes (Mod.mtype x.m)), (atomItems c x l).length)] (c.next f)) := by
  have hi : atomItems c.counted x l = atomItems c x l := by rw [atomItems, atomItems, Cur.counted_split]
  rw [← hi] at hs ⊢
  refine exec_of_reached (wr := true) (go := atomAt aop returns c.counted x) he h ?_ hr (atomAt_of_free hp hs)
  rw [bodyAtomic_eq, if_neg (by simpa using hl), Cur.counted_split]

/-- Settles O24: each of the five, once its lanes' addresses are reached, adds its operation where its path and its staging have room. -/
theorem globalAccessesComplete : Obligations.GlobalAccessesComplete := by
  unfold Obligations.GlobalAccessesComplete
  refine ⟨?ld, ?st, ?atom, ?atomr, ?cas⟩
  case ld =>
    refine both_of_issueOp (fun _ _ => rfl) (fun _ _ => rfl) fun i f he =>
      ⟨completes_of_body he fun s c x hx => ?_, fun s c x t l h hl hr hp =>
        exec_of_reached (wr := false) he h ?_ hr (loadFrom_of_free hp)⟩
    · rw [bodyLd_eq, Ctx.accessing_of_empty hx]; rfl
    · rw [bodyLd_eq, if_neg (by simpa [Ctx.accessing] using hl), Cur.counted_split]; rfl
  case st =>
    refine both_of_issueOp (fun _ _ => rfl) (fun _ _ => rfl) fun i f he =>
      ⟨completes_of_body he fun s c x hx => ?_, fun s c x t l h hl hr hp hs =>
        exec_of_reached (wr := true) (go := storeTo c.counted x) he h ?_ hr ?_⟩
    · rw [bodySt_eq, Ctx.accessing_of_empty hx]; rfl
    · rw [bodySt_eq, if_neg (by simpa [Ctx.accessing] using hl), Cur.counted_split]; rfl
    · rw [storeTo_of_free hp (by rwa [storeItems, Cur.counted_split]), storeItems, Cur.counted_split]
  case atom | atomr =>
    exact fun f => ⟨completes_of_body (fun _ => rfl) fun s c x hx => by rw [bodyAtomic_eq, hx]; rfl,
      fun s c x t l h hl hr hp hs => exec_of_reached_atomic (fun _ => rfl) h hl hr hp hs⟩
  case cas =>
    exact fun f => ⟨completes_of_body (fun _ => rfl) fun s c x hx => by rw [bodyAtomic_eq, hx]; rfl,
      fun s c x t l h hl hr hp hs => exec_of_reached_atomic (aop := fun _ => 7) (fun _ => rfl) h hl hr hp hs⟩

end Sys2Proof.Machine
end

section
/-! The accesses to scratchpads put in flight (R192, R258–R260). -/
namespace Sys2Proof.Machine

/-- A load within its buffer, on a path with room, is in flight. -/
theorem scrLoad_of_inBuffer {s : State} {c : Cur} {x : Ctx} {blk m scope : Nat} {ev : Nat → Ev} (hp : s.pathFull c 3 = false)
    (hb : InBuffer s c blk x.a.symNum (mtBytes (Mod.mtype x.m)) false
      (x.rels c.split true (if x.d.isScal then x.lanes.take 1 else x.lanes))) :
    scrLoad blk m scope ev s c x = .done (s.addOp (scrOp x (.load (Mod.mtype x.m) (dstOf x.d x.dWide))
        (scrItems blk x.a.symNum (mtBytes (Mod.mtype x.m)) (fun _ => 0) (fun _ => 0)
          (x.rels c.split true (if x.d.isScal then x.lanes.take 1 else x.lanes))) scope))
      [(ev (8 * mtBytes (Mod.mtype x.m)), x.lanes.length)] :=
  (withScratch_of_inBuffer hb _).trans (if_neg (by simp [hp]))

/-- A store within its buffer, on a path with room, is in flight. -/
theorem scrStore_of_inBuffer {s : State} {c : Cur} {x : Ctx} {blk m scope : Nat} {ev : Nat → Ev} (hp : s.pathFull c 3 = false)
    (hb : InBuffer s c blk x.a.symNum (mtBytes (Mod.mtype x.m)) true
      (x.rels c.split true (if x.d.uniform && x.b.uniform then x.lanes.take 1 else x.lanes))) :
    scrStore blk m scope ev s c x = .done (s.addOp (scrOp x .store
        (scrItems blk x.a.symNum (mtBytes (Mod.mtype x.m))
          (fun n => BitVec.ofNat 64 (x.vD c.split n % 2 ^ (8 * mtBytes (Mod.mtype x.m)))) (fun _ => 0)
          (x.rels c.split true (if x.d.uniform && x.b.uniform then x.lanes.take 1 else x.lanes))) scope))
      [(ev (8 * mtBytes (Mod.mtype x.m)), x.lanes.length)] :=
  (withScratch_of_inBuffer hb _).trans (if_neg (by simp [hp]))

/-- An atomic within its buffer, on a path with room, is in flight. -/
theorem bodyAtoms_of_inBuffer {s : State} {c : Cur} {x : Ctx} (hl : x.lanes ≠ []) (hp : s.pathFull c 3 = false)
    (hb : InBuffer s c c.blk.id x.a.symNum (mtBytes (Mod.mtype x.m)) true (x.rels c.split false x.lanes)) :
    bodyAtoms s c x = .done (s.addOp (scrOp x (.atom (Mod.sub x.m) (Mod.mtype x.m) (dstOf x.d x.dWide) (BitVec.ofNat 32 x.mode))
        (scrItems c.blk.id x.a.symNum (mtBytes (Mod.mtype x.m)) (fun n => BitVec.ofNat 64 (x.vC c.split n))
          (fun n => BitVec.ofNat 64 (x.vD c.split n)) (x.rels c.split false x.lanes)) 2))
      [(.satom (8 * mtBytes (Mod.mtype x.m)), x.lanes.length)] :=
  (if_neg (by simpa using hl)).trans ((withScratch_of_inBuffer hb _).trans (if_neg (by simp [hp])))

/-- An access to a member of the gang is that to the member's scratchpad. -/
theorem gangAccess_of_member {s : State} {c : Cur} {x : Ctx} (hl : x.lanes ≠ []) (hm : Mod.sub x.m < s.gangSize c.blk)
    (f : Nat → Nat → State → Cur → Ctx → Res) :
    gangAccess f s c x = f ((s.memberOf c.blk (Mod.sub x.m)).getD c.blk).id (Mod.sub x.m) s c x :=
  (if_neg (by simpa using hl)).trans (if_neg (Nat.not_le.2 hm))

theorem gangAccess_of_no_member {s : State} {c : Cur} {x : Ctx} (hl : x.lanes ≠ []) (hm : ¬ Mod.sub x.m < s.gangSize c.blk)
    (f : Nat → Nat → State → Cur → Ctx → Res) : gangAccess f s c x = .fault Fc.gangRange (Mod.sub x.m) :=
  (if_neg (by simpa using hl)).trans (if_pos (Nat.not_lt.1 hm))

/-- Settles O27: each access stands within its buffer, a gang's once its member is known. -/
theorem scratchpadAccessesComplete : Obligations.ScratchpadAccessesComplete := by
  unfold Obligations.ScratchpadAccessesComplete
  refine ⟨fun f => ⟨?ldsEmpty, ?lds⟩, fun f => ⟨?ldrsEmpty, ?ldrs⟩, fun f => ⟨?stsEmpty, ?sts⟩, fun f => ⟨?strsEmpty, ?strs⟩,
    fun f => ⟨?atomsEmpty, ?atoms⟩, fun f => ?ldrsRange, fun f => ?strsRange⟩
  case ldsEmpty | ldrsEmpty | stsEmpty | strsEmpty | atomsEmpty =>
    exact completes_of_body (fun _ => rfl) fun s c x hx => if_pos (by simpa using hx)
  case lds =>
    refine completes_of_body (fun _ => rfl) fun s c x ⟨hl, _, hp, hb⟩ => ?_
    exact (if_neg (by simpa using hl)).trans (scrLoad_of_inBuffer hp hb)
  case sts =>
    refine completes_of_body (fun _ => rfl) fun s c x ⟨hl, _, hp, hb⟩ => ?_
    exact (if_neg (by simpa using hl)).trans (scrStore_of_inBuffer hp hb)
  case ldrs =>
    refine completes_of_body (fun _ => rfl) fun s c x ⟨hl, hm, hp, hb⟩ => ?_
    exact (gangAccess_of_member hl hm _).trans (scrLoad_of_inBuffer hp hb)
  case strs =>
    refine completes_of_body (fun _ => rfl) fun s c x ⟨hl, hm, hp, hb⟩ => ?_
    exact (gangAccess_of_member hl hm _).trans (scrStore_of_inBuffer hp hb)
  case atoms => exact completes_of_body (fun _ => rfl) fun s c x ⟨hl, hp, hb⟩ => bodyAtoms_of_inBuffer hl hp hb
  case ldrsRange | strsRange => exact faults_of_body (fun _ => rfl) fun s c x ⟨hl, hm⟩ => gangAccess_of_no_member hl hm _

end Sys2Proof.Machine
end

section
/-! Bookings, translations and reads of caches leave the split that issues as it is, in a block of the same function. -/
namespace Sys2Proof.Machine

/-- The split that issues, with the function of its block. -/
def State.seat (s : State) : Option (Nat × Split) := s.cur.map fun c => (c.blk.fn, c.split)

/-- The split that issues is the same, in a block of the same function. -/
def State.SameSeat (s t : State) : Prop := t.seat = s.seat

namespace State.SameSeat

theorem refl (s : State) : s.SameSeat s := rfl

theorem trans {s t u : State} (h : s.SameSeat t) (k : t.SameSeat u) : s.SameSeat u := Eq.trans k h

theorem ite {s t u : State} {p : Prop} [Decidable p] (ht : s.SameSeat t) (hu : s.SameSeat u) : s.SameSeat (if p then t else u) := by
  split
  · exact ht
  · exact hu

theorem foldl {α : Type} {f : State → α → State} (hf : ∀ (s : State) a, s.SameSeat (f s a)) (l : List α) (s : State) :
    s.SameSeat (l.foldl f s) := by
  induction l generalizing s with
  | nil => exact refl s
  | cons a l ih => exact (hf s a).trans (ih _)

theorem pairFold {α β : Type} {f : State × β → α → State × β} (hf : ∀ (x : State × β) a, x.1.SameSeat (f x a).1) (l : List α)
    (x : State × β) : x.1.SameSeat (l.foldl f x).1 := by
  induction l generalizing x with
  | nil => exact refl _
  | cons a l ih => exact (hf x a).trans (ih _)

theorem of_cur {s t : State} (h : t.cur = s.cur) : s.SameSeat t := by unfold SameSeat seat; rw [h]

/-- A change of the split in focus that keeps the split itself and its block's function. -/
theorem mapCur {s t : State} {f : Cur → Cur} (h : t.cur = s.cur.map f) (hf : ∀ c, (f c).blk.fn = c.blk.fn ∧ (f c).split = c.split) :
    s.SameSeat t := by
  unfold SameSeat seat
  rw [h, Option.map_map]
  exact congrArg (fun g => Option.map g s.cur) (funext fun c => Prod.ext (hf c).1 (hf c).2)

/-! ## Accounts -/

theorem stopping (s : State) (fn child : Nat) : s.SameSeat (s.stopping fn child) := by
  unfold State.stopping; split <;> exact of_cur rfl

theorem mapWaves (s : State) (p : Block → Bool) (f : Wave → Wave) : s.SameSeat (s.mapWaves p f) :=
  mapCur rfl fun c => by split <;> exact ⟨rfl, rfl⟩

theorem settleStop (s : State) (fn child : Nat) : s.SameSeat (s.settleStop fn child) := by
  unfold State.settleStop
  split
  · dsimp only; split <;> exact of_cur rfl
  · exact refl s

theorem cross (s : State) (fn child : Nat) : s.SameSeat (s.cross fn child) := by
  have h : ∀ l : List Nat, s.SameSeat (l.foldl (fun s k => s.stopping fn k) (s.setOver fn child true)) := fun l =>
    foldl (fun s k => stopping s fn k) l (s.setOver fn child true)
  unfold State.cross
  dsimp only
  generalize (if child = 0 then [0, 1, 2, 3, 4] else [child]) = l
  refine trans ?_ (foldl (fun s k => settleStop s fn k) ..)
  refine trans ?_ (mapWaves ..)
  split
  · exact (h l).trans (of_cur rfl)
  · exact h l

theorem bump (s : State) (fn child units : Nat) : s.SameSeat (s.bump fn child units) := by
  unfold State.bump
  dsimp only
  have h : ∀ l, s.SameSeat { s with counters := l } := fun l => of_cur rfl
  have n : ∀ t : State, t.SameSeat (t.noteCrossed fn child) := fun _ => of_cur rfl
  split
  · exact h _
  · split
    · exact of_cur rfl
    · exact ((h _).trans (cross ..)).trans (n _)

theorem bookUnits (s : State) (fn child units : Nat) : s.SameSeat (s.bookUnits fn child units) :=
  ite (bump ..) ((bump ..).trans (bump ..))

theorem book (s : State) (fn child rail cls : Nat) (evs : List (Ev × Nat)) : s.SameSeat (s.book fn child rail cls evs) := by
  unfold State.book
  dsimp only
  split
  · exact refl s
  · exact (bookUnits ..).trans (of_cur rfl)

theorem bookFor (s : State) (b : Block) (evs : List (Ev × Nat)) : s.SameSeat (s.bookFor b evs) := by
  unfold State.bookFor
  split
  · exact mapCur rfl fun c => by split <;> exact ⟨rfl, rfl⟩
  · exact book ..

/-! ## Caches and the words they hold -/

theorem scrubWords (s : State) (fn : Nat) (l : List Word8) : s.SameSeat (s.scrubWords fn l) := by
  unfold State.scrubWords
  split
  · exact refl s
  · dsimp only; split <;> exact of_cur rfl

theorem scrub (s : State) (fn : Nat) (sp : Space) (a n : Nat) : s.SameSeat (s.scrub fn sp a n) := ite (refl s) (scrubWords ..)

theorem bookLine (s : State) (fn child l : Nat) : s.SameSeat (s.bookLine fn child l) := ite (book ..) (book ..)

theorem touchLine (s : State) (fn child l : Nat) (write : Bool) : s.SameSeat (s.touchLine fn child l write) := by
  unfold State.touchLine
  dsimp only
  split
  · split <;> exact of_cur rfl
  · split
    · exact bookLine ..
    · refine ((bookLine s fn child l).trans ?_).trans (of_cur rfl)
      split
      · exact ite (bookLine ..) (refl _)
      · exact refl _

theorem touch (s : State) (fn child a n : Nat) (write : Bool) : s.SameSeat (s.touch fn child a n write) :=
  foldl (fun s l => touchLine s fn child l write) _ _

theorem renew (s : State) (w : Word8) : s.SameSeat (s.renew w) := ite (refl s) (of_cur rfl)

theorem l1Store (s : State) (core a : Nat) (bs : List Byte) (bad : Bool) : s.SameSeat (s.l1Store core a bs bad) := by
  unfold State.l1Store; split <;> exact of_cur rfl

theorem l1Redo (s : State) (core : Nat) (later : Nat → Bool) (line : Nat) : s.SameSeat (s.l1Redo core later line) :=
  foldl (fun _ _ => foldl (fun t _ => ite (l1Store ..) (refl t)) ..) ..

theorem fillLine (s : State) (core pa : Nat) : s.SameSeat (s.fillLine core pa) :=
  ((renew ..).trans (of_cur rfl)).trans (l1Redo ..)

theorem l1Bytes (s : State) (fn child core pa n : Nat) : s.SameSeat (s.l1Bytes fn child core pa n).1 := by
  unfold State.l1Bytes
  refine pairFold (fun x a => ?_) _ (s, [], [])
  dsimp only
  split
  · exact (scrubWords ..).trans (of_cur rfl)
  · exact ((((scrub ..).trans (touchLine ..)).trans (book ..)).trans (renew ..)).trans (of_cur rfl)

/-! ## Translations -/

theorem walked (s : State) (fn child va : Nat) : s.SameSeat (s.walked fn child va) := by
  have h : ∀ l : List Nat, s.SameSeat (l.foldl (fun s a => (s.scrub fn .mem a 8).touch fn child a 8 false)
      (s.book fn child 14 0 [(.walk, (s.walkAll fn child va).1.length)])) := fun l =>
    (book ..).trans (foldl (fun t a => (scrub t ..).trans (touch ..)) _ _)
  unfold State.walked
  dsimp only
  split
  · exact h _
  · exact ite ((h _).trans (of_cur rfl)) (h _)

theorem cacheAt (s : State) (at_ fn child : Nat) (l : Leaf) : s.SameSeat (s.cacheAt at_ fn child l) := of_cur rfl

theorem cache (s : State) (core fn child : Nat) (l : Leaf) : s.SameSeat (s.cache core fn child l) := (cacheAt ..).trans (cacheAt ..)

theorem serves (s : State) (fn child va : Nat) (l : Option Leaf) : s.SameSeat (s.serves fn child va l).1 := by
  unfold State.serves
  split
  · exact refl s
  · split <;> exact of_cur rfl

theorem leafOf (s : State) (core fn child va : Nat) : s.SameSeat (s.leafOf core fn child va).1 := by
  unfold State.leafOf
  have h := serves s fn child va (s.cachedAt core fn child va)
  split
  · rename_i e; rw [e] at h; exact h.trans (cacheAt ..)
  · rename_i t e
    rw [e] at h
    have k := serves t fn child va (t.cachedAt (clusterTlb core) fn child va)
    split
    · rename_i e'; rw [e'] at k; exact (h.trans k).trans (cache ..)
    · rename_i e'; rw [e'] at k
      split
      · exact ((h.trans k).trans (walked ..)).trans (cache ..)
      · exact (h.trans k).trans (walked ..)

theorem place (s : State) (core fn child va : Nat) (need : BitVec 3) : s.SameSeat (s.place core fn child va need).1 := by
  have h := leafOf s core fn child va
  unfold State.place
  split
  · exact refl s
  · exact refl s
  · exact refl s
  · split
    · rename_i he; rw [he] at h; exact h
    · rename_i he; rw [he] at h
      split <;> exact h

/-! ## Prefetches (R191) -/

theorem prefetch (s : State) (c : Cur) (pol line : Nat) : s.SameSeat (s.prefetch c pol line) := by
  unfold State.prefetch
  split
  · split
    · exact of_cur rfl
    · exact ((touchLine ..).trans (fillLine ..)).trans (book ..)
  · exact ite ((touchLine ..).trans (of_cur rfl)) (touchLine ..)

end State.SameSeat

theorem State.Calm.prefetch (s : State) (c : Cur) (pol line : Nat) : s.Calm (s.prefetch c pol line) := by
  unfold State.prefetch
  split
  · split
    · exact l1Use ..
    · exact ((touchLine ..).trans (fillLine ..)).trans (bookCore ..)
  · exact ite ((touchLine ..).trans (evictFirst ..)) (touchLine ..)

end Sys2Proof.Machine
end

section
/-! CWB, FENCE, WAITC, the barriers and DRAIN (R196, R199–R201, R269, R297). -/
namespace Sys2Proof.Machine

/-- An instruction whose body waits. -/
theorem exec_of_wait {s t : State} {c : Cur} {op : Nat} {f : Form} {spec : Nat → Spec} {x : Ctx} {i : Instr} {ev : List (Ev × Nat)}
    {body : State → Cur → Ctx → Res} (he : ∀ s, exec i s = s.issueOp op f spec body) (h : Issues s c op f spec x)
    (hb : body (s.ready c x) c.counted x = .wait t ev) : exec i s = .next (t.waiting c f spec ev) :=
  exec_of_body' he h hb rfl

/-! ## CWB and FENCE -/

/-- What a write-back does once its places are known. -/
def writeBackAt (c : Cur) (x : Ctx) (s : State) (l : List (Nat × Nat × Space × Nat)) : Res :=
  if s.pathFull c 1 || (s.ahead c.blk && s.stageFull c.blk (entryLines (lineItems l))) then .hold
  else .done ((s.addOp { memOp x 1 (.cwb (Mod.sub x.m = 1)) (lineItems l) 2 (s.ahead c.blk) with
    complete := (lineItems l).isEmpty }).retire) []

theorem bodyCwb_of_empty {s : State} {c : Cur} {x : Ctx} (h : x.lanes = []) : bodyCwb s c x = .done s [] := if_pos (by simp [h])

theorem bodyCwb_of_lanes {s : State} {c : Cur} {x : Ctx} (h : x.lanes ≠ []) :
    bodyCwb s c x = withPlaces s c 1 false false true needR (x.addrs c.split x.lanes) (writeBackAt c x) := if_neg (by simpa using h)

theorem bodyFence_of_accesses {s : State} {c : Cur} {x : Ctx} (h : Mod.sub x.m ≠ 1)
    (hd : s.fenceDone c (if Mod.ord x.m = 0 then 4 else Mod.ord x.m) (if Mod.scope x.m = 0 then 5 else Mod.scope x.m) = true) :
    bodyFence s c x =
      let ord := if Mod.ord x.m = 0 then 4 else Mod.ord x.m
      let s := s.loupeFence c.blk c.wave.wid (acqOrd ord) (relOrd ord)
      .done (if acqOrd ord then s.acquire c.blk.core (if Mod.scope x.m = 0 then 5 else Mod.scope x.m) else s) x.sync :=
  (if_neg h).trans (if_neg (by simp [hd]))

/-- The number below which the operations lie that a FENCE.job of a split waits for. -/
def State.jobFence (s : State) (c : Cur) : Nat := ((c.wave.jobFences.find? (·.1 = c.split.sid)).map (·.2)).getD s.nextOp

theorem bodyFence_of_jobs {s : State} {c : Cur} {x : Ctx} (h : Mod.sub x.m = 1)
    (hd : ∀ o ∈ s.ops, o.blk = c.blk.id → o.wid = c.wave.wid → o.kind.isHeavy = true → o.id < s.jobFence c → o.complete = true) :
    bodyFence s c x = .done (({ s with cur := some { c with wave := { c.wave with
      jobFences := c.wave.jobFences.filter (·.1 ≠ c.split.sid) } } } : State).loupeCover c.blk c.wave.wid fun _ => true) x.sync := by
  refine (if_pos h).trans (if_neg ?_)
  simpa [State.jobFence] using hd

/-! ## Waits and barriers -/

theorem bodyWaitc_of_count {s : State} {c : Cur} {x : Ctx} (h : s.count c.blk.id c.wave.wid (Mod.sub x.m) ≤ x.vA c.split 0 % 2 ^ 32) :
    bodyWaitc s c x = .done (({ s with cur := some c.progress } : State).loupeCover c.blk c.wave.wid fun p => decide (p = Mod.sub x.m))
      x.sync := if_neg (Nat.not_lt.2 h)

/-- The phase that a wait on a barrier has recorded. -/
def State.recorded (s : State) (c : Cur) (x : Ctx) : Nat := spGet 0 c.split.waitPhase (waitKey (s.barScope c x) x.a.symNum)

/-- The state that the end of a wait on a barrier leaves: a progress event, no phase recorded, and the acquire. -/
def State.waited (s : State) (c : Cur) (x : Ctx) : State :=
  let c := { c.progress with split := { c.split with
    waitPhase := spSet 0 c.split.waitPhase (waitKey (s.barScope c x) x.a.symNum) 0 } }
  (({ s with cur := some c } : State).loupeWait c.blk c.wave.wid (s.gangKey c.blk (s.barScope c x)) x.a.symNum).acquire c.blk.core
    (if s.barScope c x then 3 else 2)

theorem waitBar_of_past {s : State} {c : Cur} {x : Ctx} (h : s.recorded c x = 3 ∨ s.recorded c x = 6) :
    waitBar s c x = .done (s.waited c x) x.sync := if_pos h

theorem waitBar_of_not_past {s : State} {c : Cur} {x : Ctx} (h : ¬ (s.recorded c x = 3 ∨ s.recorded c x = 6)) :
    ∃ v, v ≠ 0 ∧ waitBar s c x = .wait { s with cur := some { c with split := { c.split with
      waitPhase := spSet 0 c.split.waitPhase (waitKey (s.barScope c x) x.a.symNum) v } } } x.sync := by
  refine ⟨_, ?_, if_neg h⟩
  split_ifs with h0
  · unfold phaseCode; split <;> decide
  · exact h0

theorem bodyBara_of_released {s : State} {c : Cur} {x : Ctx} (h : s.arrivalReady c (s.barScope c x) = true) :
    bodyBara s c x = .done { s.arrived c x with cur := (s.arrived c x).cur.map Cur.progress } x.sync := if_neg (by simp [h])

theorem bodyBars_of_arrived {s : State} {c : Cur} {x : Ctx} (h : c.split.arrived = true) : bodyBars s c x = waitBar s c x := if_pos h

theorem bodyBars_of_released {s : State} {c c' : Cur} {x : Ctx} (ha : c.split.arrived = false)
    (hr : s.arrivalReady c (s.barScope c x) = true) (hc : (s.arrived c x).cur = some c') :
    bodyBars s c x = waitBar { s.arrived c x with cur := some { c' with split := { c'.split with arrived := true } } }
      { c' with split := { c'.split with arrived := true } } x := by
  refine (if_neg (by simp [ha])).trans ((if_neg (by simp [hr])).trans ?_)
  simp only [hc]

/-! ## DRAIN -/

/-- The scope of a DRAIN. -/
def Ctx.drainScope (x : Ctx) : Nat := if syncScope x.m = 0 then 5 else syncScope x.m

/-- The split at its drain's end: it has observed what it waits for, if it has. -/
def State.drained (s : State) (c : Cur) : Cur :=
  { c with split := { c.split with since := if c.split.since = 0 ∧ s.observed c = true then s.nextOp + 1 else c.split.since } }

/-- What a DRAIN does that a drain serves, for the split as it stands now. -/
def drainServed (s : State) (c : Cur) (x : Ctx) (d : Drain) (who : Nat × Nat × Nat) : Res :=
  if !d.done || !s.fenceDone c 4 x.drainScope then .wait { s with cur := some c } [(.sync, 1)]
  else .done (((s.leaveDrain d who).loupeFence c.blk c.wave.wid true true).acquire c.blk.core x.drainScope) [(.sync, 1)]

theorem bodyDrain_of_served {s : State} {c : Cur} {x : Ctx} {d : Drain}
    (h : (if c.split.started then s.drainFor c.blk.fn c.blk.child c.who else none) = some d) :
    bodyDrain s c x = drainServed s (if d.done && c.split.since = 0 && s.observed c then
      { c with split := { c.split with since := s.nextOp + 1 } } else c) x d c.who := by
  simp only [Cur.who] at h
  simp only [bodyDrain, h]
  rfl

theorem bodyDrain_of_done {s : State} {c : Cur} {x : Ctx} {d : Drain} (hs : c.split.started = true)
    (hd : s.drainFor c.blk.fn c.blk.child c.who = some d) (hdone : d.done = true)
    (hf : s.fenceDone (s.drained c) 4 x.drainScope = true) :
    bodyDrain s c x = .done (((s.leaveDrain d c.who).loupeFence c.blk c.wave.wid true true).acquire c.blk.core x.drainScope) [(.sync, 1)] := by
  have hc : (if d.done && c.split.since = 0 && s.observed c then
      { c with split := { c.split with since := s.nextOp + 1 } } else c) = s.drained c := by
    unfold State.drained
    by_cases h : c.split.since = 0 ∧ s.observed c = true
    · simp [hdone, h]
    · rw [if_neg (by simpa [hdone] using h), if_neg h]
  rw [bodyDrain_of_served (by rw [if_pos hs, hd]), hc]
  exact if_neg (by simp [hdone, hf])

/-- Whether a split has a COMB that is not yet sent. -/
def State.unsent (s : State) (c : Cur) : Bool :=
  s.ops.any fun o => o.blk = c.blk.id && o.wid = c.wave.wid && o.sids.contains c.split.sid && !o.staged &&
    (match o.kind with | .comb _ _ _ _ _ sent _ => !sent | _ => false)

theorem State.unsent_eq_false {s : State} {c : Cur} (h : ∀ o ∈ s.ops, o.blk = c.blk.id → o.wid = c.wave.wid → c.split.sid ∈ o.sids →
    o.staged = false → ∀ d k id rep reqs answers, o.kind ≠ .comb d k id rep reqs false answers) : s.unsent c = false := by
  refine List.any_eq_false.2 fun o ho => ?_
  simp only [Bool.and_eq_true, decide_eq_true_eq, Bool.not_eq_true', List.contains_iff_mem, and_imp, not_and]
  intro hblk hwid hsid hst
  split
  next d k id rep reqs sent answers hkind =>
    cases sent
    · exact absurd hkind (h o ho hblk hwid hsid hst d k id rep reqs answers)
    · simp
  · simp

theorem bodyDrain_of_asked {s : State} {c : Cur} {x : Ctx} (hs : c.split.started = false) (hu : s.unsent c = false) :
    bodyDrain s c x = .wait ((((s.dropServed (· = c.who)).askDrain c.blk.fn c.blk.child x.drainScope (dieOfCore c.blk.core) c.who).1).mapSplit
      fun sp => { sp with since := 0 }) [(.sync, 1)] := by
  unfold bodyDrain
  simp only [hs, Bool.false_eq_true, if_false]
  exact if_neg (ne_true_of_eq_false hu)

/-! ## PREF (R191) -/

theorem bodyPref_of_settled {s : State} {c : Cur} {x : Ctx} (h : ∀ p ∈ s.prefLines c x, p.2 = true → s.flips (128 * p.1) = false) :
    bodyPref s c x = .done ((s.prefLines c x).foldl (fun s p => if p.2 then s.prefetch c (Mod.pol x.m) p.1 else s) s)
      (if (s.prefLines c x).isEmpty then [] else [(.pref, ((s.prefLines c x).map (·.1)).eraseDups.length)]) :=
  if_neg (by simpa using h)

/-- Prefetches leave everything but accounts, logs and caches, and the split. -/
theorem State.prefetches (s : State) (c : Cur) (pol : Nat) (l : List (Nat × Bool)) :
    s.Calm (l.foldl (fun s p => if p.2 then s.prefetch c pol p.1 else s) s) ∧
      s.SameSeat (l.foldl (fun s p => if p.2 then s.prefetch c pol p.1 else s) s) :=
  ⟨Calm.foldl (fun s _ => Calm.ite (Calm.prefetch ..) (Calm.refl s)) l s,
    SameSeat.foldl (fun s _ => SameSeat.ite (SameSeat.prefetch ..) (SameSeat.refl s)) l s⟩

theorem exec_pref {i : Instr} {f : Form} (he : ∀ s, exec i s = s.issueOp 0x0A5 f specPref bodyPref) {s : State} {c : Cur} {x : Ctx}
    (h : Issues s c 0x0A5 f specPref x)
    (hl : ∀ p ∈ (s.ready c x).prefLines c.counted x, p.2 = true → (s.ready c x).flips (128 * p.1) = false) :
    ∃ t ev, exec i s = .next (t.ended c f specPref ev (c.next f)) ∧ s.sameMemory t ∧ t.ops = s.ops ∧
      ∃ d, t.cur = some d ∧ d.split = c.split := by
  obtain ⟨hcalm, hseat⟩ := (s.ready c x).prefetches c.counted (Mod.pol x.m) ((s.ready c x).prefLines c.counted x)
  refine ⟨_, _, exec_of_done he h (bodyPref_of_settled hl), ⟨?_, ?_, ?_, ?_⟩, ?_, ?_⟩
  · exact hcalm.mem.trans (s.ready_mem c x)
  · exact hcalm.memPoison.trans (s.ready_memPoison c x)
  · exact hcalm.cscr.trans (s.ready_cscr c x)
  · exact hcalm.cscrPoison.trans (s.ready_cscrPoison c x)
  · exact hcalm.ops.trans (s.ready_ops c x)
  · unfold State.SameSeat State.seat at hseat
    rw [State.ready_cur, Option.map_some, Option.map_eq_some_iff] at hseat
    obtain ⟨d, hd, hsplit⟩ := hseat
    exact ⟨d, hd, (congrArg Prod.snd hsplit).trans c.counted_split⟩

/-! ## The statement -/

/-- Settles O26: each body under its condition, by the lemma that says so. -/
theorem cacheFenceAndBarriersComplete : Obligations.CacheFenceAndBarriersComplete := by
  unfold Obligations.CacheFenceAndBarriersComplete
  refine ⟨⟨?pref, ?cwb, ?fence⟩, ?waitc, ?bara, ?barw, ?bars, ?drain⟩
  case pref => exact both_of_issueOp (fun _ _ => rfl) (fun _ _ => rfl) fun i f he s c x h hl => exec_pref he h hl
  case cwb =>
    refine both_of_issueOp (fun _ _ => rfl) (fun _ _ => rfl) fun i f he =>
      ⟨completes_of_body he fun s c x hx => bodyCwb_of_empty hx, fun s c x t l h hl hr hp hs =>
        exec_of_reached (wr := false) (go := writeBackAt c.counted x) he h ?_ hr (if_neg ?_)⟩
    · rw [bodyCwb_of_lanes hl, Cur.counted_split]
    · simpa [hp] using hs
  case fence =>
    exact both_of_issueOp (fun _ _ => rfl) (fun _ _ => rfl) fun i f he =>
      ⟨completes_of_body he fun s c x ⟨hm, hd⟩ => bodyFence_of_accesses hm hd,
        completes_of_body he fun s c x ⟨hm, hd⟩ => bodyFence_of_jobs hm hd⟩
  case waitc =>
    exact both_of_issueOp (fun _ _ => rfl) (fun _ _ => rfl) fun i f he => completes_of_body he fun s c x hc => bodyWaitc_of_count hc
  case bara =>
    exact both_of_issueOp (fun _ _ => rfl) (fun _ _ => rfl) fun i f he => completes_of_body he fun s c x hr => bodyBara_of_released hr
  case barw =>
    refine both_of_issueOp (fun _ _ => rfl) (fun _ _ => rfl) fun i f he =>
      ⟨completes_of_body he fun s c x hp => waitBar_of_past hp, fun s c x h hp => ?_⟩
    obtain ⟨v, hv, hw⟩ := waitBar_of_not_past hp
    refine ⟨v, hv, (exec_of_wait he h hw).trans ?_⟩
    rw [Cur.counted_split]
    rfl
  case bars =>
    refine both_of_issueOp (fun _ _ => rfl) (fun _ _ => rfl) fun i f he => ⟨completes_of_body he fun s c x ⟨ha, hp⟩ =>
      (bodyBars_of_arrived ha).trans (waitBar_of_past hp), completes_of_body he fun s c x ⟨ha, hr, c', hc, hp⟩ => ?_⟩
    refine (bodyBars_of_released ha hr hc).trans ((waitBar_of_past ?_).trans ?_)
    · exact hp
    · dsimp only at hc ⊢
      rw [hc]
      rfl
  case drain =>
    refine both_of_issueOp (fun _ _ => rfl) (fun _ _ => rfl) fun i f he =>
      ⟨fun s c x d h hs hd hdone hf => exec_of_done he h (bodyDrain_of_done (by rwa [Cur.counted_split]) hd hdone ?_),
        fun s c x h hs hu => ⟨_, _, Prod.mk.eta.symm, (exec_of_wait he h (bodyDrain_of_asked ?_ (State.unsent_eq_false ?_))).trans ?_⟩⟩
    · unfold State.drained
      rw [Cur.counted_split]
      exact hf
    · rwa [Cur.counted_split]
    · simpa using hu
    · rw [Cur.counted_core]
      rfl

end Sys2Proof.Machine
end

section
/-! Accesses performed, walks made and held faults answered (R187, R190, R193, R284, R288, R400). -/
namespace Sys2Proof.Machine

/-! ## Loads and stores -/

theorem State.performLoads_of_ready {s : State} {id : Nat} {o : Op} (ho : s.op? id = some o) {lanes : Mask} {l : List Item}
    (hl : (o.undone.filter fun i => lanes.getLsbD i.lane && s.loadReady o i) = l) (hne : l ≠ []) (bad : Bool) :
    s.performLoads id lanes bad =
      (l.foldl (fun t i => t.performLoad o l i bad) (s.loupeLanes o l (s.l1Serves o))).didLanes id (l.map (·.lane)) := by
  subst hl
  simp only [State.performLoads, ho]
  exact if_neg (by simpa using hne)

/-- A staged entry that stands behind nothing of its wave on its way to the port reaches it. -/
theorem State.advance_of_staged {s : State} {id : Nat} {o : Op} (ho : s.op? id = some o) (hs : o.staged = true) (hp : o.port = 0)
    (hb : ∀ p ∈ s.ops, p.blk = o.blk → p.wid = o.wid → p.id < o.id → p.staged = true → p.port ≠ 0) (perform : State → State) :
    s.advance id perform = s.mapOp o.id fun p => { p with port := s.nextPort o.blk } := by
  have hnone : (s.ops.any fun p => p.blk = o.blk && p.wid = o.wid && p.id < o.id && p.staged && p.port = 0) = false := by
    simpa [List.any_eq_false] using hb
  simp only [State.advance, ho, hs, if_true, State.reachPort, hp, hnone]
  rfl

theorem State.advance_of_not_staged {s : State} {id : Nat} {o : Op} (ho : s.op? id = some o) (hs : o.staged = false)
    (perform : State → State) : s.advance id perform = perform s := by
  simp [State.advance, ho, hs]

theorem State.performStores_of_store {s : State} {id : Nat} {o : Op} (ho : s.op? id = some o)
    (hk : o.kind = .store ∨ ∃ inv, o.kind = .cwb inv) (lanes : Mask) (bad : Bool) :
    s.performStores id lanes bad = State.performGroups id lanes bad s [] (storeGroups o.undone) := by
  simp only [State.performStores, ho]
  refine if_pos ?_
  rcases hk with hk | ⟨inv, hk⟩ <;> simp [hk, OpKind.isStore]

/-! ## Atomics -/

/-- An atomic's home once its word has been read: corrected, charged, and gone from the core's first-level cache. -/
def State.atomHome (s : State) (o : Op) (i : Item) : State :=
  ((((s.bookMoved o (fun _ => false) i).bookAtom o i).scrub o.fn .mem i.addr i.bytes).touch o.fn o.child i.addr i.bytes false).l1Drop
    o.core (i.addr / 128)

theorem State.performAtomic_of_ready {s : State} {id lane : Nat} {o : Op} {aop ty : Nat} {d : Option Dst} {mode : Word} {i : Item}
    (ho : s.op? id = some o) (hk : o.kind = .atom aop ty d mode) (hi : o.undone.find? (fun j => j.lane = lane) = some i)
    (hm : i.space = .mem) {group : List Item} (hg : (o.undone.filter fun j => j.space = i.space && j.addr = i.addr) = group)
    (hlow : ∀ j ∈ group, lane ≤ j.lane)
    (hr : s.groupReady o ((o.undone.filter fun j => j.lane < lane && !(j.space = i.space && j.addr = i.addr)).map fun j => (j, [j.lane])) i =
      true)
    (hgood : ∀ j ∈ group, j.bad = false) {u : State} (hu : s.loupeLanes o group (fun _ => false) = u) {bs : List Byte}
    (hbs : (((u.bookMoved o (fun _ => false) i).bookAtom o i).scrub o.fn .mem i.addr i.bytes).fetchAt .mem i.addr i.bytes = (bs, false))
    (bad : Bool) :
    s.performAtomic id lane bad = ((((u.atomHome o i).storeAt o.fn .mem i.addr
      (leBytes i.bytes (applyLanes aop ty mode.toNat group (ofLe bs)).1) ((u.atomHome o i).opRec o 0)).deliverOld o d
        (applyLanes aop ty mode.toNat group (ofLe bs)).2 false).didLanes id (group.map (·.lane))) := by
  have hb : (group.any fun j => j.lane < lane) = false := by simpa [List.any_eq_false] using hlow
  have hbad : group.any (·.bad) = false := by simpa [List.any_eq_false] using hgood
  simp only [State.performAtomic, ho, hk, hi, hg, hb, hr, hu]
  simp only [hm, hbs, hbad, State.atomHome]
  rfl

theorem not_staged_of_groupReady {s : State} {o : Op} {earlier : List (Item × List Nat)} {i : Item} (h : s.groupReady o earlier i = true) :
    o.staged = false := by
  simp only [State.groupReady, Bool.and_eq_true, Bool.not_eq_true'] at h
  exact h.1.1.1.1

/-! ## Translations -/

theorem exec_translationWalk_of_leaf {s : State} {l : Leaf} (h : s.unfocus.walk s.arg.fn s.arg.child s.arg.va.toNat = .ok l) :
    exec .translationWalk s = .next ((s.arg.core :: s.arg.cores.filter fun k => dieOfCore k = dieOfCore s.arg.core).foldl
      (fun t k => t.cache k s.arg.fn s.arg.child l) (s.unfocus.walked s.arg.fn s.arg.child s.arg.va.toNat)) := by
  simp only [exec, execTranslationWalk, h]

theorem State.xfReplay_of_held {s : State} {fn token : Nat} {h : XHold} (hh : s.xhold? fn token = some h) :
    s.xfReplay fn token = ({ s with xholds := s.xholds.filter (· ≠ h) } : State).mapSplitAt h.blk h.wid h.sid fun sp =>
      if sp.run = .xlate token then { sp with run := .ready } else sp := by
  simp only [State.xfReplay, hh]

/-- A held fault of an instruction is delivered in its split, whose block has its parameters; a fetch has booked nothing. -/
theorem State.xfDeliver_of_held {s : State} {fn token : Nat} {h : XHold} {c : Cur} (hh : s.xhold? fn token = some h) (hj : h.job = 0)
    {t : State} (ht : ({ s with xholds := s.xholds.filter (· ≠ h) } : State).focus h.blk h.wid h.sid = t)
    (hc : t.cur = some c) (hl : c.blk.loaded = true) (hb : bit h.info.toNat 63 = false) :
    s.xfDeliver fn token =
      if h.passes = 0 then t.deliver { c with split := { c.split with run := .ready } } Fc.xlate h.pc h.info
      else t.faulted { c with split := { c.split with run := .ready } } h.passes Fc.xlate h.info.toNat := by
  simp only [State.xfDeliver, hh, hj, ht, hc, hl, hb]
  rfl

theorem State.xf_of_unknown {s : State} {fn token : Nat} (h : s.xhold? fn token = none) :
    s.xfReplay fn token = s.unknownToken fn token ∧ s.xfDeliver fn token = s.unknownToken fn token := by
  simp only [State.xfReplay, State.xfDeliver, h, and_self]

/-- Settles O35: each step by the lemma that says what it does where it is due. -/
theorem accessesAndTranslationPerformed : Obligations.AccessesAndTranslationPerformed := by
  unfold Obligations.AccessesAndTranslationPerformed
  refine ⟨⟨fun s o ty d ho hk => ?load, fun s o ho ⟨hs, hp, hb⟩ => ?staged, fun s o ho ⟨hs, hk⟩ => ?store,
    fun s o aop ty d mode i ho hk hi hm => ?atomic⟩, fun s l h => exec_translationWalk_of_leaf h, fun s h hh => ⟨?replay, ?deliver⟩,
    fun s h => ?unknown⟩
  case load => exact fun hl => congrArg Host.Outcome.next (State.performLoads_of_ready ho rfl hl _)
  case staged => exact congrArg Host.Outcome.next (State.advance_of_staged ho hs hp hb _)
  case store =>
    dsimp only
    rw [State.unfocus_arg]
    exact congrArg Host.Outcome.next ((State.advance_of_not_staged ho hs _).trans (State.performStores_of_store ho hk _ _))
  case atomic =>
    intro r group earlier hlow hr u hgood bs hbs
    exact congrArg Host.Outcome.next ((State.advance_of_not_staged ho (not_staged_of_groupReady hr) _).trans
      (State.performAtomic_of_ready ho hk hi hm rfl hlow hr hgood rfl hbs _))
  case replay => exact congrArg Host.Outcome.next (State.xfReplay_of_held hh)
  case deliver => exact fun c hj hc hl hb => congrArg Host.Outcome.next (State.xfDeliver_of_held hh hj rfl hc hl hb)
  case unknown =>
    obtain ⟨hr, hd⟩ := State.xf_of_unknown h
    exact ⟨congrArg Host.Outcome.next hr, congrArg Host.Outcome.next hd⟩

end Sys2Proof.Machine
end

section
/-! What global memory and cluster scratch hold, and the operations of the state that leave it. -/
namespace Sys2Proof.Machine

namespace State.Calm

/-! ## Places of a list of addresses, and of a card's rows -/

theorem placeFor (s : State) (b : Block) (va : Nat) (need : BitVec 3) (locks : Bool) : s.Calm (s.placeFor b va need locks).1 := by
  have h := place s b.core b.fn b.child va need
  unfold State.placeFor
  split
  · split <;> exact refl s
  · split
    · next hp => rw [hp] at h; exact h
    · exact h

theorem placeAll (s : State) (b : Block) (need : BitVec 3) (locks : Bool) (l : List (Nat × Nat)) :
    s.Calm (s.placeAll b need locks l).1 := by
  induction l generalizing s with
  | nil => exact refl s
  | cons p rest ih =>
    have h := placeFor s b p.2 need locks
    unfold State.placeAll
    split
    · next hp => rw [hp] at h; exact h
    · next t sp a hp =>
      rw [hp] at h
      have k := h.trans (ih t)
      split
      all_goals next hr => rw [hr] at k; exact k

theorem translateRange (s : State) (b : Block) (need : BitVec 3) (locks : Bool) (n va stop : Nat) :
    s.Calm (s.translateRange b need locks n va stop).1 := by
  induction n generalizing s va with
  | zero => exact refl s
  | succ n ih =>
    unfold State.translateRange
    split
    · exact refl s
    split
    · exact refl s
    · have h := leafOf s b.core b.fn b.child va
      split
      · next hl => rw [hl] at h; exact h
      · next t l hl =>
        rw [hl] at h
        dsimp only
        split
        · exact h
        · have k := h.trans (ih t (l.va + l.size))
          split
          · next hr => rw [hr] at k; exact k
          · exact k
    · exact ih ..

theorem cardPages (s : State) (b : Block) (c : Card) (idx : Nat) : s.Calm (s.cardPages b c idx).1 := by
  unfold State.cardPages
  split
  · exact refl s
  · next r _ =>
    have h := translateRange s b c.need c.toGlobal (pagesOf r.base (r.base + r.hull)) r.base (r.base + r.hull)
    split
    all_goals next hr => rw [hr] at h; exact h

theorem cardsPages (s : State) (b : Block) (idx : Nat) (l : List Card) : s.Calm (s.cardsPages b idx l).1 := by
  induction l generalizing s idx with
  | nil => exact refl s
  | cons c rest ih =>
    have h := cardPages s b c idx
    unfold State.cardsPages
    split
    · next hc => rw [hc] at h; exact h
    · next t _ hc =>
      rw [hc] at h
      have k := h.trans (ih t (idx + 1))
      split
      all_goals next hr => rw [hr] at k; exact k

end State.Calm

/-- What global memory and cluster scratch hold: their bytes and their poison. -/
def State.contents (s : State) : List Host.Cell × Sp Bool × List Host.Cell × Sp Bool := (s.mem, s.memPoison, s.cscr, s.cscrPoison)

namespace State

theorem Calm.contents {s t : State} (h : s.Calm t) : t.contents = s.contents := by
  simp only [State.contents, h.mem, h.memPoison, h.cscr, h.cscrPoison]

theorem contents_mk (agenda arg cur blocks grids ops nextOp nextBlk nextGrid mem memPoison cscr cscrPoison soft lines shrinking hostWaits
    flipping near l1 tlb cfg preg windows errCE errUE errRec exports objs objGen chucks clusters binds prints lastBound tags
    drains markers xholds nextToken counters house quiescing crossings booked sheets persisted darkroom badImages saves
    locks lastOn poolTurn hw out tick fresh) :
    (State.mk agenda arg cur blocks grids ops nextOp nextBlk nextGrid mem memPoison cscr cscrPoison soft lines shrinking hostWaits
      flipping near l1 tlb cfg preg windows errCE errUE errRec exports objs objGen chucks clusters binds prints lastBound
      tags drains markers xholds nextToken counters house quiescing crossings booked sheets persisted darkroom badImages
      saves locks lastOn poolTurn hw out tick fresh).contents =
      (mem, memPoison, cscr, cscrPoison) := by simp only [contents]

theorem contents_eta (s : State) : (s.mem, s.memPoison, s.cscr, s.cscrPoison) = s.contents := by simp only [contents]

theorem contents_ite (p : Prop) [Decidable p] (s t : State) : (if p then s else t).contents = if p then s.contents else t.contents :=
  apply_ite ..

theorem contents_foldl {α : Type} {f : State → α → State} (hf : ∀ s a, (f s a).contents = s.contents) (l : List α) (s : State) :
    (l.foldl f s).contents = s.contents := by
  induction l generalizing s with
  | nil => rfl
  | cons a l ih => rw [List.foldl_cons, ih, hf]

theorem contents_pairFold {α β : Type} {f : State × β → α → State × β} (hf : ∀ x a, (f x a).1.contents = x.1.contents) (l : List α)
    (x : State × β) : (l.foldl f x).1.contents = x.1.contents := by
  induction l generalizing x with
  | nil => rfl
  | cons a l ih => rw [List.foldl_cons, ih, hf]

/-! ## Registers, accounts, errors, grids and exceptions -/

theorem contents_withBlock (s : State) (b : Block) : (s.withBlock b).contents = s.contents := by
  simp only [State.withBlock, contents_mk, contents_eta]

theorem contents_unfocus (s : State) : s.unfocus.contents = s.contents := by
  unfold State.unfocus
  split <;> simp only [contents_mk, contents_eta, contents_withBlock]

theorem contents_focus (s : State) (blk wid sid : Nat) : (s.focus blk wid sid).contents = s.contents := by
  simp only [State.focus]
  repeat' split
  all_goals simp only [contents_mk, contents_eta, contents_unfocus]

theorem contents_mapGrid (s : State) (h : Nat) (f : Grid → Grid) : (s.mapGrid h f).contents = s.contents := by
  simp only [State.mapGrid, contents_mk, contents_eta]

theorem contents_mapOp (s : State) (id : Nat) (f : Op → Op) : (s.mapOp id f).contents = s.contents := by
  simp only [State.mapOp, contents_mk, contents_eta]

theorem contents_mapBlock (s : State) (id : Nat) (f : Block → Block) : (s.mapBlock id f).contents = s.contents := by
  simp only [State.mapBlock, contents_mk, contents_eta]

theorem contents_mapWaves (s : State) (p : Block → Bool) (f : Wave → Wave) : (s.mapWaves p f).contents = s.contents := by
  simp only [State.mapWaves, contents_mk, contents_eta]

theorem contents_mapWave (s : State) (blk wid : Nat) (f : Wave → Wave) : (s.mapWave blk wid f).contents = s.contents := by
  simp only [State.mapWave, contents_mapWaves]

theorem contents_mapSplits (s : State) (blk wid : Nat) (f : Split → Split) : (s.mapSplits blk wid f).contents = s.contents :=
  (Calm.mapSplits ..).contents

theorem contents_mapSplit (s : State) (f : Split → Split) : (s.mapSplit f).contents = s.contents := by
  simp only [State.mapSplit, contents_mk, contents_eta]

theorem contents_mapCurWave (s : State) (f : Wave → Wave) : (s.mapCurWave f).contents = s.contents := by
  simp only [State.mapCurWave, contents_mk, contents_eta]

theorem contents_takeFree (s : State) : s.takeFree.1.contents = s.contents := (Calm.takeFree ..).contents

theorem contents_setPr (s : State) (reg fn child inst : Nat) (v : Dword) : (s.setPr reg fn child inst v).contents = s.contents :=
  (Calm.setPr ..).contents

theorem contents_setCfg (s : State) (fn off : Nat) (v : Dword) : (s.setCfg fn off v).contents = s.contents := by
  simp only [State.setCfg, contents_mk, contents_eta]

theorem contents_setPartState (s : State) (fn child v : Nat) : (s.setPartState fn child v).contents = s.contents := by
  simp only [State.setPartState, contents_setPr]

theorem contents_setOver (s : State) (fn child : Nat) (b : Bool) : (s.setOver fn child b).contents = s.contents := by
  simp only [State.setOver, contents_setPr]

theorem contents_logErr (s : State) (fn : Nat) (r : ErrRec) (ue : Bool) : (s.logErr fn r ue).contents = s.contents := (Calm.logErr ..).contents

theorem contents_countUE (s : State) (fn n : Nat) : (s.countUE fn n).contents = s.contents := by
  simp only [State.countUE, contents_mk, contents_eta]

theorem contents_countCE (s : State) (fn n : Nat) : (s.countCE fn n).contents = s.contents := (Calm.countCE ..).contents

theorem contents_settleStops (s : State) (fn : Nat) : (s.settleStops fn).contents = s.contents := (Calm.settleStops ..).contents

theorem contents_bookUnits (s : State) (fn child units : Nat) : (s.bookUnits fn child units).contents = s.contents := (Calm.bookUnits ..).contents

theorem contents_tally (s : State) (fn child rail units : Nat) : (s.tally fn child rail units).contents = s.contents := by
  simp only [State.tally, contents_mk, contents_eta]

theorem contents_book (s : State) (fn child rail cls : Nat) (evs : List (Ev × Nat)) : (s.book fn child rail cls evs).contents = s.contents :=
  (Calm.book ..).contents

theorem contents_bookCore (s : State) (fn child core : Nat) (evs : List (Ev × Nat)) : (s.bookCore fn child core evs).contents = s.contents :=
  (Calm.bookCore ..).contents

theorem contents_bookSlice (s : State) (fn child slice : Nat) (evs : List (Ev × Nat)) : (s.bookSlice fn child slice evs).contents = s.contents := by
  simp only [State.bookSlice, contents_book]

theorem contents_bookFor (s : State) (b : Block) (evs : List (Ev × Nat)) : (s.bookFor b evs).contents = s.contents := (Calm.bookFor ..).contents

theorem contents_sweepDarkroom (s : State) : s.sweepDarkroom.contents = s.contents := by
  simp only [State.sweepDarkroom, contents_mk, contents_eta]

theorem contents_stopGrid (s : State) (h : Nat) : (s.stopGrid h).contents = s.contents := by
  simp only [State.stopGrid, contents_mk, contents_eta, contents_sweepDarkroom]

theorem contents_abortTree (n : Nat) (s : State) (h : Nat) (a : AbortInfo) : (State.abortTree n s h a).contents = s.contents := by
  induction n generalizing s h a with
  | zero => rfl
  | succ n ih =>
    unfold State.abortTree
    refine (contents_foldl (fun s k => ih s k _) _ _).trans ?_
    simp only [contents_stopGrid, contents_mapGrid]

theorem contents_gridAbort (s : State) (b : Block) (code : Nat) (pc : Dword) (wid : Nat) (info : Dword) :
    (s.gridAbort b code pc wid info).contents = s.contents := by
  simp only [State.gridAbort, contents_foldl, implies_true, contents_logErr, contents_abortTree]

theorem contents_answer (s : State) (r : CombReq) (served : Bool) (v : Dword) : (s.answer r served v).contents = s.contents := by
  simp only [State.answer, contents_mk, contents_eta, contents_ite, ite_self, contents_book, contents_mapOp]

theorem contents_setChuck (s : State) (slice : Nat) (c : Chuck) : (s.setChuck slice c).contents = s.contents := by
  simp only [State.setChuck, contents_mk, contents_eta]

theorem contents_answerAll (s : State) (slice code : Nat) (l : List CombReq) : (s.answerAll slice code l).contents = s.contents := by
  simp only [State.answerAll, contents_foldl, implies_true, contents_bookSlice, contents_answer]

theorem contents_flushObject (s : State) (slice fn slot : Nat) : (s.flushObject slice fn slot).contents = s.contents := by
  simp only [State.flushObject, contents_countUE, contents_answerAll, contents_setChuck]

theorem contents_endBatch (s : State) (b : Block) (m : Method) (energy : Nat) : (s.endBatch b m energy).contents = s.contents := by
  simp only [State.endBatch, contents_mk, contents_eta, contents_foldl, implies_true, contents_bookUnits, contents_tally, contents_setChuck]

theorem contents_batchAbort (s : State) (b : Block) (m : Method) (cause : Nat) (pc : Dword) :
    (s.batchAbort b m cause pc).contents = s.contents := by
  simp only [State.batchAbort, contents_mk, contents_eta, contents_foldl, implies_true, contents_logErr, contents_answer, contents_flushObject,
    contents_endBatch]

theorem contents_takeTrap (s : State) (c : Cur) (code : Nat) (pc info : Dword) : (s.takeTrap c code pc info).contents = s.contents := by
  simp only [State.takeTrap, contents_mk, contents_eta, contents_ite, ite_self, contents_gridAbort, contents_bookFor]

theorem contents_deliver (s : State) (c : Cur) (code : Nat) (pc info : Dword) : (s.deliver c code pc info).contents = s.contents := by
  unfold State.deliver
  split <;> simp only [contents_mk, contents_eta, contents_ite, ite_self, contents_batchAbort, contents_logErr, contents_gridAbort,
    contents_takeTrap]

theorem contents_blockStop (s : State) (c : Cur) (pc info : Dword) : (s.blockStop c pc info).contents = s.contents := by
  simp only [State.blockStop]
  split <;> simp only [contents_mk, contents_eta, contents_ite, ite_self, contents_gridAbort, contents_logErr, contents_mapGrid, contents_mapBlock]

/-! ## Words, translations, first-level caches and places -/

theorem contents_bookLine (s : State) (fn child l : Nat) : (s.bookLine fn child l).contents = s.contents := (Calm.bookLine ..).contents

theorem contents_bookFlit (s : State) (fn child : Nat) : (s.bookFlit fn child).contents = s.contents := by
  simp only [State.bookFlit, contents_book]

theorem contents_bookTrip (s : State) (fn child : Nat) : (s.bookTrip fn child).contents = s.contents := (Calm.bookTrip ..).contents

theorem contents_cleanLine (s : State) (x : SliceLine) : (s.cleanLine x).contents = s.contents := by
  simp only [State.cleanLine, contents_mk, contents_eta]

theorem contents_evictFirst (s before : State) (a n : Nat) : (s.evictFirst before a n).contents = s.contents := (Calm.evictFirst ..).contents

theorem contents_touch (s : State) (fn child a n : Nat) (write : Bool) : (s.touch fn child a n write).contents = s.contents :=
  (Calm.touch ..).contents

theorem contents_writeBack (s : State) (ev : Ev) (p : SliceLine → Bool) : (s.writeBack ev p).contents = s.contents := by
  refine contents_foldl (fun s a => ?_) _ _
  split <;> simp only [contents_bookLine, contents_bookSlice]

theorem contents_scrubWords (s : State) (fn : Nat) (l : List Word8) : (s.scrubWords fn l).contents = s.contents := (Calm.scrubWords ..).contents

theorem contents_scrub (s : State) (fn : Nat) (sp : Space) (a n : Nat) : (s.scrub fn sp a n).contents = s.contents := (Calm.scrub ..).contents

theorem contents_renew (s : State) (w : Word8) : (s.renew w).contents = s.contents := (Calm.renew ..).contents

theorem contents_cache (s : State) (core fn child : Nat) (l : Leaf) : (s.cache core fn child l).contents = s.contents := (Calm.cache ..).contents

theorem contents_walked (s : State) (fn child va : Nat) : (s.walked fn child va).contents = s.contents := (Calm.walked ..).contents

theorem contents_place (s : State) (core fn child va : Nat) (need : BitVec 3) : (s.place core fn child va need).1.contents = s.contents :=
  (Calm.place ..).contents

theorem contents_l1Store (s : State) (core a : Nat) (bs : List Byte) (bad : Bool) : (s.l1Store core a bs bad).contents = s.contents :=
  (Calm.l1Store ..).contents

theorem contents_l1Drop (s : State) (core line : Nat) : (s.l1Drop core line).contents = s.contents := (Calm.l1Drop ..).contents

theorem contents_l1Clear (s : State) (core : Nat) : (s.l1Clear core).contents = s.contents := by
  simp only [State.l1Clear, contents_mk, contents_eta]

theorem contents_l1ClearRange (s : State) (a n : Nat) : (s.l1ClearRange a n).contents = s.contents := by
  simp only [State.l1ClearRange, contents_mk, contents_eta]

/-! ## The Loupe -/

theorem contents_mapLoupe (s : State) (b : Block) (f : Loupe → Loupe) : (s.mapLoupe b f).contents = s.contents := by
  simp only [State.mapLoupe, contents_ite, ite_self, contents_mapGrid]

theorem contents_stampOp (s : State) (b : Block) (pc : Dword) (o : Op) : (s.stampOp b pc o).1.contents = s.contents := by
  unfold State.stampOp
  split <;> simp only [contents_ite, ite_self, contents_mapLoupe]

theorem contents_loupeFence (s : State) (b : Block) (wid : Nat) (acq rel : Bool) : (s.loupeFence b wid acq rel).contents = s.contents := by
  simp only [State.loupeFence, contents_mapLoupe]

theorem contents_loupeArrive (s : State) (b : Block) (wid : Nat) (gang : Option Nat) (n : Nat) :
    (s.loupeArrive b wid gang n).contents = s.contents := by
  simp only [State.loupeArrive, contents_mapLoupe]

theorem contents_loupePhase (s : State) (b : Block) (gang : Option Nat) (n : Nat) : (s.loupePhase b gang n).contents = s.contents := by
  simp only [State.loupePhase, contents_mapLoupe]

theorem contents_loupeWait (s : State) (b : Block) (wid : Nat) (gang : Option Nat) (n : Nat) :
    (s.loupeWait b wid gang n).contents = s.contents := by
  simp only [State.loupeWait, contents_mapLoupe]

theorem contents_checkPair (b : Block) (x : LoupeAcc) (s : State) (a : LoupeAcc) : (State.checkPair b x s a).contents = s.contents := by
  simp only [State.checkPair]
  repeat' split
  all_goals simp only [contents_takeFree, contents_mapLoupe]

theorem contents_loupeAccess (s : State) (b : Block) (core : Nat) (x : LoupeAcc) : (s.loupeAccess b core x).contents = s.contents := by
  unfold State.loupeAccess
  split <;> simp only [contents_foldl, implies_true, contents_checkPair, contents_mapLoupe, contents_bookCore]

theorem contents_loupeLanes (s : State) (o : Op) (l : List Item) (cached : Item → Bool) : (s.loupeLanes o l cached).contents = s.contents := by
  unfold State.loupeLanes
  split
  · rfl
  · split <;> simp only [contents_mk, contents_eta, contents_ite, ite_self, contents_mapLoupe, contents_loupeAccess]

theorem contents_loupeComb (s : State) (o : Op) (obj : Nat) (lanes : List Nat) : (s.loupeComb o obj lanes).contents = s.contents := by
  unfold State.loupeComb
  split <;> simp only [contents_loupeAccess]

theorem contents_loupeJob (s : State) (o : Op) (reads writes : List Item) : (s.loupeJob o reads writes).contents = s.contents := by
  unfold State.loupeJob
  split <;> simp only [contents_mapLoupe]

theorem contents_loupeCover (s : State) (b : Block) (wid : Nat) (path : Nat → Bool) : (s.loupeCover b wid path).contents = s.contents := by
  unfold State.loupeCover
  split <;> simp only [contents_foldl, implies_true, contents_mapLoupe, contents_loupeAccess]

/-! ## The issue -/

theorem contents_addOp (s : State) (o : Op) : (s.addOp o).contents = s.contents := by
  unfold State.addOp
  split <;> simp only [contents_mk, contents_eta, contents_stampOp]

theorem contents_setCluster (s : State) (cl : Nat) (k : Cluster) : (s.setCluster cl k).contents = s.contents := by
  simp only [State.setCluster, contents_mk, contents_eta]

theorem contents_request (s : State) (cl : Nat) (o : CurrentOwner) (units : Nat) : (s.request cl o units).contents = s.contents := by
  simp only [State.request, contents_ite, ite_self, contents_setCluster]

theorem contents_burst (s : State) (c : Cur) : (s.burst c).contents = s.contents := by
  simp only [State.burst, contents_ite, ite_self, contents_setCluster]

theorem contents_askBurst (s : State) (c : Cur) : (s.askBurst c).contents = s.contents := by
  simp only [State.askBurst, contents_request]

theorem contents_finish (s : State) (pc : Dword) : (s.finish pc).contents = s.contents := by
  simp only [State.finish, contents_mk, contents_eta]

theorem contents_faulted (s : State) (c : Cur) (passes code info : Nat) : (s.faulted c passes code info).contents = s.contents := by
  simp only [State.faulted]
  split <;> simp only [contents_mk, contents_eta, contents_ite, ite_self, contents_bookFor, contents_deliver]

theorem contents_heldAt (s : State) (c : Cur) : (s.heldAt c).contents = s.contents := by
  simp only [State.heldAt, contents_mk, contents_eta]

theorem contents_waits (s : State) (c : Cur) : (s.waits c).contents = s.contents := by
  simp only [State.waits, contents_mk, contents_eta]

theorem contents_bookIssue (s : State) (c : Cur) (passes : Nat) (ev : List (Ev × Nat)) : (s.bookIssue c passes ev).contents = s.contents := by
  simp only [State.bookIssue, contents_ite, ite_self, contents_bookFor]

theorem contents_spillAbort (s : State) (c : Cur) (passes : Nat) (info : Dword) : (s.spillAbort c passes info).contents = s.contents := by
  simp only [State.spillAbort]
  split <;> simp only [contents_mk, contents_eta, contents_bookFor, contents_deliver, contents_gridAbort]

theorem contents_readRegs (s : State) (act : Mask) (regs : List RegId) : (s.readRegs act regs).contents = s.contents := (Calm.readRegs ..).contents

theorem contents_prepare (s : State) (x : Ctx) : (s.prepare x).contents = s.contents := (Calm.prepare ..).contents

/-! ## Order and barriers -/

theorem contents_acquire (s : State) (core scope : Nat) : (s.acquire core scope).contents = s.contents := (Calm.acquire ..).contents

theorem contents_l1Redo (s : State) (core : Nat) (later : Nat → Bool) (line : Nat) : (s.l1Redo core later line).contents = s.contents :=
  (Calm.l1Redo ..).contents

theorem contents_retire (s : State) : s.retire.contents = s.contents := by
  simp only [State.retire, contents_mk, contents_eta]

theorem contents_deliverWord (s : State) (o : Op) (r : RegId) (lane : Nat) (v : Dword) (bad : Bool) :
    (s.deliverWord o r lane v bad).contents = s.contents := (Calm.deliverWord ..).contents

theorem contents_deliverTo (s : State) (o : Op) (d : Dst) (lane : Nat) (v : Dword) (bad : Bool) :
    (s.deliverTo o d lane v bad).contents = s.contents := (Calm.deliverTo ..).contents

theorem contents_forget (s : State) (o : Op) : (s.forget o).contents = s.contents := (Calm.forget ..).contents

theorem contents_complete (s : State) (id : Nat) : (s.complete id).contents = s.contents := by
  unfold State.complete
  split <;> simp only [contents_retire, contents_mapOp, contents_forget]

theorem contents_progress (s : State) (blk wid : Nat) : (s.progress blk wid).contents = s.contents := (Calm.progress ..).contents

theorem contents_setBar (s : State) (b : Block) (gang : Bool) (n : Nat) (x : Bar) : (s.setBar b gang n x).contents = s.contents := by
  simp only [State.setBar, contents_ite, ite_self, contents_mapGrid, contents_mapBlock]

theorem contents_releasePhase (s : State) (b : Block) (gang : Bool) (n : Nat) (p : Bool) : (s.releasePhase b gang n p).contents = s.contents := by
  simp only [State.releasePhase, contents_mk, contents_eta]

theorem contents_checkBar (s : State) (b : Block) (gang : Bool) (n : Nat) : (s.checkBar b gang n).contents = s.contents := by
  simp only [State.checkBar, contents_ite, ite_self, contents_loupePhase, contents_releasePhase, contents_setBar]

theorem contents_arrive (s : State) (c : Cur) (gang : Bool) (n count : Nat) : (s.arrive c gang n count).contents = s.contents := by
  simp only [State.arrive, contents_mk, contents_eta, contents_checkBar, contents_setBar, contents_loupeArrive]

theorem contents_waveLeft (s : State) (b : Block) : (s.waveLeft b).contents = s.contents := by
  simp only [State.waveLeft, contents_ite, ite_self, contents_foldl, implies_true, contents_checkBar]

/-! ## Places and staging -/

theorem contents_toPort (s : State) (o : Op) : (s.toPort o).contents = s.contents := by
  simp only [State.toPort, contents_mapOp]

theorem contents_reachPort (s : State) (o : Op) : (s.reachPort o).contents = s.contents := by
  simp only [State.reachPort, contents_ite, ite_self, contents_toPort]

theorem contents_portBefore (s : State) (blk wid before : Nat) : (s.portBefore blk wid before).contents = s.contents := by
  simp only [State.portBefore, contents_foldl, implies_true, contents_toPort]

/-! ## Fetches -/

theorem contents_codePlace (s : State) (b : Block) (bu : Dword) : (s.codePlace b bu).1.contents = s.contents := by
  unfold State.codePlace
  split <;> simp only [contents_place]

theorem contents_fetch (s : State) (b : Block) (pc : Dword) : (s.fetch b pc).1.contents = s.contents := by
  unfold State.fetch
  have h := contents_codePlace s b (bundleOf pc)
  dsimp only
  split
  · rfl
  split
  · next hp => rw [hp] at h; exact h
  · next hp => rw [hp] at h; exact h
  · next t _ _ hp =>
    rw [hp] at h
    split
    · exact h
    · rw [← h]
      repeat' split
      all_goals simp only [contents_touch, contents_scrub]

/-! ## Code pages and prints -/

theorem contents_devWalk (s : State) (fn child va : Nat) : (s.devWalk fn child va).contents = s.contents := by
  unfold State.devWalk
  split <;> simp only [contents_walked]

theorem contents_readPage (s : State) (fn child va n : Nat) : (s.readPage fn child va n).contents = s.contents := by
  simp only [State.readPage]
  repeat' split
  all_goals simp only [contents_walked, contents_touch, contents_scrub, contents_logErr]

theorem contents_readRange (s : State) (fn child va n : Nat) : (s.readRange fn child va n).contents = s.contents := by
  simp only [State.readRange, contents_foldl, implies_true, contents_readPage]

theorem contents_lockPage (s : State) (fn child page holder : Nat) : (s.lockPage fn child page holder).contents = s.contents := by
  unfold State.lockPage
  split <;> simp only [contents_mk, contents_eta, contents_ite, ite_self]

theorem contents_hashReads (s : State) (fn child hashtab index page : Nat) : (s.hashReads fn child hashtab index page).contents = s.contents := by
  simp only [State.hashReads, contents_readRange]

theorem contents_unlock (s : State) (holder : Nat) : (s.unlock holder).contents = s.contents := by
  simp only [State.unlock, contents_mk, contents_eta]

theorem contents_usePrint (s : State) (fn child : Nat) (k : Kernel) (share waves : Nat) :
    (s.usePrint fn child k share waves).contents = s.contents := by
  unfold State.usePrint
  split <;> simp only [contents_mk, contents_eta]

/-! ## First-level copies and prefetches -/

theorem contents_l1Stores (s : State) (core pol : Nat) (items : List Item) : (s.l1Stores core pol items).contents = s.contents := by
  unfold State.l1Stores
  refine (contents_ite ..).trans ((congrArg _ (contents_foldl (fun t i => ?_) _ _)).trans (ite_self _))
  split <;> simp only [contents_l1Store]

theorem contents_l1Atoms (s : State) (core : Nat) (items : List Item) : (s.l1Atoms core items).contents = s.contents := by
  refine contents_foldl (fun s a => ?_) _ _
  split <;> simp only [contents_l1Drop]

theorem contents_prefetch (s : State) (c : Cur) (pol line : Nat) : (s.prefetch c pol line).contents = s.contents := (Calm.prefetch ..).contents

/-! ## Combining -/

theorem contents_verifyPages (s : State) (fn child : Nat) (r : LaunchRec) (k : Kernel) (pages : List Nat) :
    (s.verifyPages fn child r k pages).contents = s.contents := by
  simp only [State.verifyPages, contents_ite, ite_self, contents_foldl, implies_true, contents_book, contents_hashReads]

theorem contents_register (s : State) (c : Cur) (a b attr : Nat) : (s.register c a b attr).1.contents = s.contents := by
  simp only [State.register]
  repeat' split
  all_goals simp only [contents_mk, contents_eta, contents_foldl, implies_true, contents_devWalk, contents_verifyPages, contents_readRange,
    contents_lockPage]

theorem contents_refuseComb (s : State) (reqs : List CombReq) : (s.refuseComb reqs).contents = s.contents := by
  simp only [State.refuseComb, contents_foldl, implies_true, contents_answer]

theorem contents_sendComb (s : State) (id : Nat) : (s.sendComb id).contents = s.contents := by
  unfold State.sendComb
  repeat' split
  all_goals simp only [contents_foldl, implies_true, contents_mapOp, contents_loupeComb, contents_bookFlit, contents_refuseComb, contents_l1Drop,
    contents_setChuck]

theorem contents_cmbDone (s : State) : s.cmbDone.contents = s.contents := by
  simp only [State.cmbDone, contents_retire, contents_addOp]

/-! ## Turns -/

theorem contents_tookTurn (s : State) (w : Who) : (s.tookTurn w).contents = s.contents := by
  simp only [State.tookTurn, contents_mk, contents_eta, contents_mapWaves]

/-! ## Forks, merges and ends of splits -/

theorem contents_inherit (s : State) (blk wid old new : Nat) : (s.inherit blk wid old new).contents = s.contents := by
  simp only [State.inherit, contents_mk, contents_eta]

theorem contents_merge (s : State) (k : Kernel) (r : Fork) (taken other : Option Split) : (s.merge k r taken other).1.contents = s.contents := by
  unfold State.merge
  repeat' split
  all_goals simp only [contents_inherit]

theorem contents_forkReal (s : State) (c : Cur) (t f : Mask) (target : Dword) (words : Nat) :
    (s.forkReal c t f target words).contents = s.contents := by
  simp only [State.forkReal, contents_mk, contents_eta, contents_inherit]

theorem contents_forkSerial (s : State) (c : Cur) (t f : Mask) (target : Dword) (words : Nat) :
    (s.forkSerial c t f target words).contents = s.contents := by
  simp only [State.forkSerial, contents_mk, contents_eta]

theorem contents_splitGone (s : State) (c : Cur) : (s.splitGone c).contents = s.contents := by
  simp only [State.splitGone, contents_mk, contents_eta, contents_ite, ite_self, contents_withBlock, contents_waveLeft]

theorem contents_endSplit (s : State) (c : Cur) (l : List Fork) : (s.endSplit c l).contents = s.contents := by
  induction l with
  | nil => exact contents_splitGone ..
  | cons r rest ih =>
    unfold State.endSplit
    repeat' split
    all_goals simp only [contents_mk, contents_eta, contents_splitGone, ih]

/-! ## Special registers -/

theorem contents_sregValue (s : State) (c : Cur) (sp : Split) (n : Nat) : (s.sregValue c sp n).1.contents = s.contents := by
  simp only [State.sregValue, contents_mk, contents_eta, contents_ite, ite_self, apply_ite Prod.fst]

/-! ## Loads and write-backs performed -/

theorem contents_logPoison (s : State) (fn addr : Nat) : (s.logPoison fn addr).contents = s.contents := by
  simp only [State.logPoison, contents_logErr]

theorem contents_bookMoved (s : State) (o : Op) (before : Nat → Bool) (i : Item) : (s.bookMoved o before i).contents = s.contents :=
  (Calm.bookMoved ..).contents

theorem contents_logOp (s : State) (o : Op) (info : Dword) (ue : Bool) : (s.logOp o info ue).contents = s.contents := (Calm.logOp ..).contents

theorem contents_didLanes (s : State) (id : Nat) (lanes : List Nat) : (s.didLanes id lanes).contents = s.contents := by
  simp only [State.didLanes]
  split <;> simp only [contents_ite, ite_self, contents_mapOp, contents_acquire, contents_progress, contents_complete]

theorem contents_overlay (s : State) (o : Op) (i : Item) (bs : List Byte) (bad : Bool) : (s.overlay o i bs bad).1.contents = s.contents :=
  (Calm.overlay ..).contents

theorem contents_performLoad (s : State) (o : Op) (before : List Item) (i : Item) (bad : Bool) :
    (s.performLoad o before i bad).contents = s.contents := (Calm.performLoad ..).contents

theorem contents_performLoads (s : State) (id : Nat) (lanes : Mask) (bad : Bool) : (s.performLoads id lanes bad).contents = s.contents := by
  unfold State.performLoads
  split <;> simp only [contents_ite, ite_self, contents_foldl, implies_true, contents_didLanes, contents_performLoad, contents_loupeLanes]

theorem contents_performCwb (s : State) (o : Op) (inv : Bool) (i : Item) (bad : Bool) : (s.performCwb o inv i bad).contents = s.contents :=
  (Calm.performCwb ..).contents

theorem contents_deliverOld (s : State) (o : Op) (dst : Option Dst) (olds : List (Nat × Nat)) (bad : Bool) :
    (s.deliverOld o dst olds bad).contents = s.contents := (Calm.deliverOld ..).contents

theorem contents_bookAtom (s : State) (o : Op) (i : Item) : (s.bookAtom o i).contents = s.contents := (Calm.bookAtom ..).contents

/-! ## Chucks and batches -/

theorem contents_loupePacket (s : State) (p : Packet) : (s.loupePacket p).contents = s.contents := by
  unfold State.loupePacket
  split <;> simp only [contents_loupeComb]

theorem contents_takeIn (s : State) (slice : Nat) (p : Packet) : (s.takeIn slice p).contents = s.contents := by
  unfold State.takeIn
  split <;> simp only [contents_ite, ite_self, contents_countUE, contents_answerAll, contents_loupePacket, contents_setChuck]

theorem contents_remoteAnswers (s : State) (reqs : List CombReq) (error : Bool) : (s.remoteAnswers reqs error).contents = s.contents := by
  unfold State.remoteAnswers
  split <;> simp only [contents_ite, ite_self, contents_foldl, implies_true, contents_bookFlit, contents_takeFree, contents_answer]

theorem contents_finishComb (s : State) (o : Op) : (s.finishComb o).contents = s.contents := by
  unfold State.finishComb
  repeat' split
  all_goals simp only [contents_foldl, implies_true, contents_deliverTo, contents_deliverWord, contents_acquire, contents_complete,
    contents_progress]

theorem contents_freeObject (s : State) (o : Obj) : (s.freeObject o).contents = s.contents := by
  simp only [State.freeObject, contents_mk, contents_eta, contents_unlock]

/-! ## Reservations, footprints and job data -/

theorem contents_release (s : State) : s.release.contents = s.contents := by
  simp only [State.release, contents_mk, contents_eta]

theorem contents_ask (s : State) (o : Op) : (s.ask o).contents = s.contents := by
  simp only [State.ask, contents_mapOp, contents_request]

theorem contents_giveBack (s : State) (o : Op) : (s.giveBack o).contents = s.contents := by
  simp only [State.giveBack]
  split <;> simp only [contents_setCluster]

theorem contents_markLists (s : State) : s.markLists.contents = s.contents := by
  simp only [State.markLists, contents_foldl, implies_true, contents_mapOp]

theorem contents_completeHeavy (s : State) (o : Op) : (s.completeHeavy o).contents = s.contents := by
  simp only [State.completeHeavy, contents_foldl, implies_true, contents_complete, contents_giveBack, contents_release, contents_markLists]

theorem contents_readGlobal (s : State) (o : Op) (pages : List (Nat × Nat × Nat)) (va n : Nat) :
    (s.readGlobal o pages va n).1.contents = s.contents := by
  refine contents_pairFold (fun x q => ?_) _ _
  dsimp only
  split
  · rfl
  · simp only [contents_overlay, contents_takeFree, contents_bookTrip]
  · simp only [contents_overlay, contents_evictFirst, contents_touch, contents_scrub, contents_ite, ite_self]

theorem contents_childWrite (s : State) (o : Op) (atom : Option (Nat × Nat × Word)) (staged : Bool) (i : Item) :
    (s.childWrite o atom staged i).contents = s.contents := by
  simp only [State.childWrite, contents_mk, contents_eta, contents_ite, ite_self, contents_portBefore]

/-! ## The Lathe -/

theorem contents_receive (s : State) (o : Op) : (s.receive o).contents = s.contents := by
  simp only [State.receive, contents_release, contents_addOp]

theorem contents_mmaScrub (s : State) (o : Op) (d : TileDesc) (r b : Nat) : (s.mmaScrub o d r b).contents = s.contents := by
  simp only [State.mmaScrub, contents_ite, ite_self, contents_scrub]

theorem contents_mmaStep (s : State) (o : Op) (tile : Nat) (da db : TileDesc) (mode e b : Nat) :
    (s.mmaStep o tile da db mode e b).contents = s.contents := by
  unfold State.mmaStep
  split <;> simp only [contents_ite, ite_self, contents_mmaScrub, contents_mapBlock, contents_scrubWords, contents_logOp]

theorem contents_elemStep (s : State) (o : Op) (e upto : Nat) : (s.elemStep o e upto).contents = s.contents := by
  unfold State.elemStep
  repeat' split
  all_goals simp only [contents_ite, ite_self, contents_foldl, implies_true, contents_mmaStep, contents_mapBlock, contents_renew,
    contents_readGlobal, contents_logOp, contents_mapOp]

/-! ## Jobs -/

theorem contents_receiveAll (s : State) (l : List Op) : (s.receiveAll l).contents = s.contents := by
  simp only [State.receiveAll, contents_foldl, implies_true, contents_receive]

theorem contents_fixRow (s : State) (o : Op) (r : Nat) (va : Option (Nat × List (Nat × Nat × Nat))) : (s.fixRow o r va).contents = s.contents := by
  simp only [State.fixRow, contents_mapOp]

theorem contents_gatherLost (s : State) (id : Nat) (va : Dword) : (s.gatherLost id va).contents = s.contents := by
  unfold State.gatherLost
  split
  · rfl
  · split <;> simp only [contents_fixRow, contents_logOp, contents_bookCore]

theorem contents_logRead (s : State) (o : Op) (at_ : Nat) (bad : Bool) : (s.logRead o at_ bad).contents = s.contents := by
  simp only [State.logRead, contents_ite, ite_self, contents_logOp]

theorem contents_jobScr (s : State) (o : Op) (c : Card) (rel n : Nat) : (s.jobScr o c rel n).1.contents = s.contents := by
  simp only [State.jobScr, contents_scrub, contents_logRead]

theorem contents_jobGlobal (s : State) (o : Op) (c : Card) (va n : Nat) : (s.jobGlobal o c va n).1.contents = s.contents := by
  simp only [State.jobGlobal, contents_readGlobal, contents_logRead]

/-! ## Drains -/

theorem contents_arrived (s : State) (c : Cur) (x : Ctx) : (s.arrived c x).contents = s.contents := by
  simp only [State.arrived, contents_arrive]

theorem contents_startDrain (s : State) (d : Drain) : (s.startDrain d).contents = s.contents := by
  simp only [State.startDrain, contents_mk, contents_eta, contents_book]

theorem contents_leaveDrain (s : State) (d : Drain) (who : Nat × Nat × Nat) : (s.leaveDrain d who).contents = s.contents := by
  simp only [State.leaveDrain, contents_mk, contents_eta]

theorem contents_dropServed (s : State) (gone : Nat × Nat × Nat → Bool) : (s.dropServed gone).contents = s.contents := by
  simp only [State.dropServed, contents_mk, contents_eta]

theorem contents_askDrain (s : State) (fn child scope die : Nat) (who : Nat × Nat × Nat) :
    (s.askDrain fn child scope die who).1.contents = s.contents := by
  unfold State.askDrain
  split <;> simp only [contents_mk, contents_eta, contents_ite, ite_self, apply_ite Prod.fst, contents_startDrain]

/-! ## Hang reports, walks and drains -/

theorem contents_mapSplitAt (s : State) (blk wid sid : Nat) (f : Split → Split) : (s.mapSplitAt blk wid sid f).contents = s.contents := by
  simp only [State.mapSplitAt, contents_mapSplits]

theorem contents_hangReported (s : State) (c : Cur) : (s.hangReported c).contents = s.contents := by
  simp only [State.hangReported, contents_logErr, contents_mapCurWave, contents_mapSplits]

theorem contents_takeHang (s : State) : s.takeHang.contents = s.contents := by
  unfold State.takeHang
  split
  · rfl
  · split <;> simp only [contents_ite, ite_self, contents_takeTrap]

theorem contents_unknownToken (s : State) (fn token : Nat) : (s.unknownToken fn token).contents = s.contents := by
  simp only [State.unknownToken, contents_logErr]

theorem contents_xfReplay (s : State) (fn token : Nat) : (s.xfReplay fn token).contents = s.contents := by
  unfold State.xfReplay
  split <;> simp only [contents_mk, contents_eta, contents_unknownToken, contents_mapSplitAt]

theorem contents_xfDeliver (s : State) (fn token : Nat) : (s.xfDeliver fn token).contents = s.contents := by
  simp only [State.xfDeliver]
  repeat' split
  all_goals simp only [contents_mk, contents_eta, contents_unknownToken, contents_gatherLost, contents_focus, contents_gridAbort,
    contents_spillAbort, contents_deliver, contents_faulted]

theorem contents_nextDrain (s : State) (fn child : Nat) : (s.nextDrain fn child).contents = s.contents := by
  unfold State.nextDrain
  split <;> simp only [contents_mk, contents_eta, contents_startDrain]

/-! ## Shares, rebinds and launches -/

theorem contents_printFor (s : State) (b : Block) (share : Nat) : (s.printFor b share).contents = s.contents := by
  simp only [State.printFor, contents_usePrint]

theorem contents_chwaitDone (s : State) (o : Op) : (s.chwaitDone o).contents = s.contents := by
  unfold State.chwaitDone
  repeat' split
  all_goals simp only [contents_deliverTo, contents_complete, contents_acquire]

theorem contents_sweepChwait (s : State) : s.sweepChwait.contents = s.contents := by
  simp only [State.sweepChwait, contents_foldl, implies_true, contents_chwaitDone]

/-! ## Time and static power -/

theorem contents_bookCores (s : State) (ns : Nat) : (s.bookCores ns).contents = s.contents := by
  refine contents_foldl (fun s a => ?_) _ _
  split <;> simp only [contents_book]

theorem contents_bookSlices (s : State) (ns : Nat) : (s.bookSlices ns).contents = s.contents := by
  simp only [State.bookSlices, contents_foldl, implies_true, contents_bookSlice]

theorem contents_bookStatic (s : State) (fn child rail units : Nat) : (s.bookStatic fn child rail units).contents = s.contents := by
  simp only [State.bookStatic, contents_ite, ite_self, contents_tally, contents_bookUnits]

theorem contents_bookChannels (s : State) (ns f die : Nat) : (s.bookChannels ns f die).contents = s.contents := by
  simp only [State.bookChannels, contents_foldl, implies_true, contents_bookStatic]

theorem contents_bookTime (s : State) (ns : Nat) : (s.bookTime ns).contents = s.contents := by
  simp only [State.bookTime, contents_foldl, implies_true, contents_bookChannels, contents_bookSlices, contents_bookCores]

theorem contents_passTime (s : State) : s.passTime.contents = s.contents := by
  simp only [State.passTime, contents_mk, contents_eta, contents_takeFree, contents_bookTime]

/-! ## The package's reads and records -/

theorem contents_launchReads (s : State) (fn child : Nat) (b : List Byte) (pages : List Nat) :
    (s.launchReads fn child b pages).contents = s.contents := by
  simp only [State.launchReads, contents_ite, ite_self, contents_readRange, contents_devWalk, contents_verifyPages]

theorem contents_retest (s : State) (h : Nat) : (s.retest h).contents = s.contents := by
  unfold State.retest
  split <;> simp only [contents_ite, ite_self, contents_foldl, implies_true, contents_readRange, contents_mapGrid]

theorem contents_occupy (s : State) (core fn child : Nat) : (s.occupy core fn child).contents = s.contents := by
  simp only [State.occupy, contents_mk, contents_eta, contents_ite, ite_self, contents_l1Clear]

theorem contents_placeBlock (s : State) (g : Grid) (index core q0 share slot : Nat) :
    (s.placeBlock g index core q0 share slot).contents = s.contents := by
  simp only [State.placeBlock, contents_mk, contents_eta, contents_occupy, contents_bookCore, contents_mapGrid]

theorem contents_sweepBinds (s : State) : s.sweepBinds.contents = s.contents := by
  simp only [State.sweepBinds, contents_mk, contents_eta]

theorem contents_retireBlock (s : State) (b : Block) : (s.retireBlock b).contents = s.contents := by
  simp only [State.retireBlock, contents_mk, contents_eta, contents_ite, ite_self, contents_passTime, contents_mapGrid, contents_settleStops,
    contents_sweepBinds, contents_sweepDarkroom, contents_dropServed]

/-! ## Admission, binding and dispatch -/

theorem contents_qError (s : State) (fn q n : Nat) : (s.qError fn q n).contents = s.contents := by
  simp only [State.qError, contents_setCfg]

theorem contents_doorbell (s : State) (fn q tail : Nat) : (s.doorbell fn q tail).contents = s.contents := by
  simp only [State.doorbell, contents_ite, ite_self, contents_qError, contents_setCfg]

theorem contents_launched (s : State) (o : Op) (d : Dst) (v : Nat) (bad : Bool) : (s.launched o d v bad).contents = s.contents := by
  simp only [State.launched, contents_complete, contents_deliverTo]

theorem contents_discard (s : State) (w : BindWords) : (s.discard w).contents = s.contents := by
  simp only [State.discard, contents_logErr]

theorem contents_printAsked (s : State) (w : BindWords) : (s.printAsked w).contents = s.contents := by
  unfold State.printAsked
  split <;> simp only [contents_ite, ite_self, contents_usePrint]

theorem contents_lowerTo (s : State) (b : Block) (w : Wave) (share : Nat) : (s.lowerTo b w share).contents = s.contents := by
  simp only [State.lowerTo, contents_mapWave, contents_printFor]

theorem contents_lowerShares (s : State) (missing : Nat) (l : List (Block × Wave)) : (lowerShares s missing l).contents = s.contents := by
  induction l generalizing s missing with
  | nil => rfl
  | cons p rest ih =>
    unfold lowerShares
    split
    · rfl
    · simp only [ih, contents_ite, contents_lowerTo, ite_self]

theorem contents_unstage (s : State) (o : Op) : (s.unstage o).contents = s.contents := by
  simp only [State.unstage]
  split <;> simp only [contents_mk, contents_eta, contents_ite, ite_self, contents_mapOp, contents_l1Stores, contents_l1Atoms, contents_sendComb]

theorem contents_releaseAll (s : State) (h i : Nat) : (s.releaseAll h i).contents = s.contents := by
  simp only [State.releaseAll, contents_foldl, implies_true, contents_unstage]

/-! ## Partitions, sheets and privileged registers -/

theorem contents_leaveF0 (s : State) (v : Nat) : (s.leaveF0 v).contents = s.contents := by
  simp only [State.leaveF0, contents_mk, contents_eta, contents_sweepBinds]

theorem contents_waysLeft (s after : State) (fn cl : Nat) : (s.waysLeft after fn cl).contents = s.contents := by
  simp only [State.waysLeft, contents_writeBack]

theorem contents_putScrw (s : State) (fn cl n : Nat) : (s.putScrw fn cl n).contents = s.contents := by
  simp only [State.putScrw, contents_setCfg]

theorem contents_shrink (s : State) (fn cl n : Nat) : (s.shrink fn cl n).contents = s.contents := by
  simp only [State.shrink, contents_mk, contents_eta, contents_putScrw]

theorem contents_writeQuota (s : State) (fn : Nat) (v : Dword) : (s.writeQuota fn v).contents = s.contents := by
  simp only [State.writeQuota, contents_ite, ite_self, contents_foldl, implies_true, contents_setOver, contents_setPr]

theorem contents_openSheet (s : State) (fn child : Nat) : (s.openSheet fn child).contents = s.contents := by
  simp only [State.openSheet, contents_mk, contents_eta, contents_ite, ite_self]

theorem contents_closeSheet (s : State) (fn child kind : Nat) : (s.closeSheet fn child kind).1.contents = s.contents := by
  simp only [State.closeSheet, contents_mk, contents_eta, contents_ite, ite_self, apply_ite Prod.fst, contents_passTime, contents_takeFree]

theorem contents_persistSheet (s : State) (fn child kind : Nat) : (s.persistSheet fn child kind).contents = s.contents := by
  simp only [State.persistSheet, contents_mk, contents_eta, contents_closeSheet]

theorem contents_activate (s : State) (fn child : Nat) : (s.activate fn child).contents = s.contents := by
  simp only [State.activate, contents_ite, ite_self, contents_openSheet, contents_setPartState, contents_passTime, contents_setOver,
    contents_leaveF0]

theorem contents_signalPreempt (s : State) (fn child : Nat) : (s.signalPreempt fn child).contents = s.contents := by
  simp only [State.signalPreempt, contents_mapWaves]

theorem contents_abortGrid (s : State) (g : Grid) (code : Nat) : (s.abortGrid g code).contents = s.contents := by
  simp only [State.abortGrid, contents_logErr, contents_abortTree]

theorem contents_quiesce (s : State) (fn child : Nat) : (s.quiesce fn child).contents = s.contents := by
  simp only [State.quiesce, contents_mk, contents_eta, contents_ite, ite_self, contents_foldl, implies_true, contents_setPartState,
    contents_abortGrid]

theorem contents_quiesceOn (s : State) (fn child : Nat) : (s.quiesceOn fn child).contents = s.contents := by
  unfold State.quiesceOn
  split
  · rfl
  · split <;> simp only [contents_mk, contents_eta, contents_ite, ite_self, contents_askDrain, contents_persistSheet, contents_leaveDrain,
    contents_setPartState]

theorem contents_destroy (s : State) (fn child : Nat) : (s.destroy fn child).contents = s.contents := by
  simp only [State.destroy, contents_mk, contents_eta, contents_foldl, implies_true, contents_passTime, contents_freeObject, contents_setPartState,
    contents_setOver]

theorem contents_logRefused (s : State) (n : Nat) : (s.logRefused n).contents = s.contents := by
  simp only [State.logRefused, contents_logErr]

/-! ## Bring-up and resets -/

theorem contents_firstPartition (s : State) : s.firstPartition.contents = s.contents := by
  simp only [State.firstPartition, contents_openSheet, contents_setPartState]

theorem contents_bringUp (s : State) (cause : Nat) : (s.bringUp cause).contents = s.contents := by
  simp only [State.bringUp, contents_mk, contents_eta, contents_ite, ite_self, contents_firstPartition]

theorem contents_clearCfg (s : State) (fn : Nat) : (s.clearCfg fn).contents = s.contents := by
  simp only [State.clearCfg, contents_mk, contents_eta]

theorem contents_beginReset (s : State) (fn : Nat) : (s.beginReset fn).contents = s.contents := by
  simp only [State.beginReset, contents_mk, contents_eta, contents_ite, ite_self, contents_foldl, implies_true, contents_abortGrid]

/-! ## Deliveries, budgets and commands -/

theorem contents_pDeliver (s : State) (c : Cur) : (s.pDeliver c).contents = s.contents := by
  simp only [State.pDeliver, contents_mk, contents_eta, contents_ite, ite_self, contents_dropServed]

theorem contents_takeQuota (s : State) (c : Cur) : (s.takeQuota c).contents = s.contents := by
  simp only [State.takeQuota, contents_ite, ite_self, contents_pDeliver]

theorem contents_takePreempt (s : State) (c : Cur) : (s.takePreempt c).contents = s.contents := by
  simp only [State.takePreempt, contents_ite, ite_self, contents_pDeliver]

theorem contents_takeThrottle (s : State) (c : Cur) : (s.takeThrottle c).contents = s.contents := by
  unfold State.takeThrottle
  split <;> simp only [contents_mk, contents_eta, contents_ite, ite_self, contents_takeTrap]

theorem contents_saveBlock (s : State) (kind : ImageKind) (slot : Option Nat) (seq : Nat) (b : Block) :
    (s.saveBlock kind slot seq b).contents = s.contents := by
  simp only [State.saveBlock, contents_mk, contents_eta, contents_mapBlock, contents_dropServed]

theorem contents_forceGangs (s : State) (l : List Block) : (s.forceGangs l).contents = s.contents := by
  simp only [State.forceGangs, contents_mk, contents_eta]

theorem contents_preemptWhere (s : State) (p : Block → Bool) : (s.preemptWhere p).contents = s.contents := by
  simp only [State.preemptWhere, contents_mapWaves]

theorem contents_setBudget (s : State) (cl v : Nat) : (s.setBudget cl v).contents = s.contents := by
  simp only [State.setBudget, contents_mk, contents_eta, contents_ite, ite_self, contents_setCluster]

theorem contents_setGate (s : State) (core v : Nat) : (s.setGate core v).contents = s.contents := by
  simp only [State.setGate, contents_mk, contents_eta, contents_passTime]

theorem contents_calibrate (s : State) (rails : List Int) (r : Nat) : (s.calibrate rails r).contents = s.contents := by
  simp only [State.calibrate, contents_ite, ite_self, contents_takeFree, contents_setPr]

theorem contents_praError (s : State) : s.praError.contents = s.contents := by
  simp only [State.praError, contents_setCfg]

theorem contents_writeQueue (s : State) (fn q off v : Nat) : (s.writeQueue fn q off v).contents = s.contents := by
  unfold State.writeQueue
  split <;> simp only [contents_setCfg, contents_doorbell]

/-! ## Devices on the fabric -/

theorem contents_send (s : State) (tag : String) (dest : Nat) (bytes : List Byte) : (s.send tag dest bytes).contents = s.contents := by
  simp only [State.send, contents_mk, contents_eta]

theorem contents_opRefused (s : State) (adapter : Nat) : (s.opRefused adapter).contents = s.contents := by
  simp only [State.opRefused, contents_send, contents_logErr]

theorem contents_remoteAnswer (s : State) (r : RemoteReq) (error : Bool) (vs : List Nat) : (s.remoteAnswer r error vs).contents = s.contents := by
  simp only [State.remoteAnswer, contents_send, contents_bookFlit]

theorem contents_remoteRefused (s : State) (r : RemoteReq) : (s.remoteRefused r).contents = s.contents := by
  simp only [State.remoteRefused, contents_remoteAnswer, contents_logErr]

theorem contents_remoteCwb (s : State) (r : RemoteReq) (a : Nat) : (s.remoteCwb r a).contents = s.contents := by
  simp only [State.remoteCwb, contents_mk, contents_eta, contents_ite, ite_self]
  split <;> simp only [contents_cleanLine, contents_bookLine, contents_bookSlice]

theorem contents_remoteComb (s : State) (a : EvArg) : (s.remoteComb a).contents = s.contents := by
  simp only [State.remoteComb, contents_mk, contents_eta, contents_ite, contents_foldl, implies_true, contents_bookFlit, contents_answer,
    contents_logErr]
  repeat' split
  all_goals simp only [contents_mk, contents_eta, contents_foldl, implies_true, contents_bookFlit, contents_answer, contents_setChuck]

theorem contents_ackMarker (s : State) (m : Marker) : (s.ackMarker m).contents = s.contents := by
  simp only [State.ackMarker, contents_send]

theorem contents_flashed (s : State) (p : RecoveryPush) : (s.flashed p).contents = s.contents := by
  simp only [State.flashed, contents_mk, contents_eta]

theorem contents_featureAbort (s : State) (g : Grid) : (s.featureAbort g).contents = s.contents := by
  unfold State.featureAbort
  split <;> simp only [contents_foldl, implies_true, contents_logErr, contents_abortTree]

theorem contents_handOver (s : State) (g : Grid) (dev tfn q : Nat) : (s.handOver g dev tfn q).contents = s.contents := by
  simp only [State.handOver, contents_mapGrid, contents_send]

theorem contents_portRefused (s : State) (c : Cur) (n : Nat) : (s.portRefused c n).contents = s.contents := by
  simp only [State.portRefused, contents_logErr]

theorem contents_portWrites (s : State) (blk wid sid n : Nat) (lanes : Mask) (v : Word) :
    (s.portWrites blk wid sid n lanes v).contents = s.contents := by
  simp only [State.portWrites]
  split <;> simp only [contents_mk, contents_eta, contents_ite, ite_self, contents_focus, contents_portRefused]

theorem contents_portShows (s : State) (blk wid sid : Nat) (f : State → Cur → Option (List Byte)) :
    (s.portShows blk wid sid f).contents = s.contents := by
  simp only [State.portShows]
  repeat' split
  all_goals simp only [contents_focus, contents_send, contents_portRefused]

/-! ## Operations that complete -/

theorem contents_startHeavy (s : State) (o : Op) : (s.startHeavy o).contents = s.contents := by
  simp only [State.startHeavy, contents_ite, ite_self, contents_ask, contents_mapOp]

theorem contents_lathePlaces (s : State) (o : Op) : (s.lathePlaces o).contents = s.contents := by
  unfold State.lathePlaces
  split
  · rfl
  · split <;> simp only [contents_loupeJob]

theorem contents_cardPlaces (s : State) (o : Op) (c : Card) : (s.cardPlaces o c).contents = s.contents := by
  unfold State.cardPlaces
  split <;> simp only [contents_ite, ite_self, contents_loupeJob]

theorem contents_markWorked (s : State) (o : Op) (b : Bool) : (s.markWorked o b).contents = s.contents := by
  simp only [State.markWorked, contents_ite, ite_self, contents_markLists, contents_mapOp, contents_giveBack]

theorem contents_accItem (s : State) (o : Op) (i : Item) : (s.accItem o i).contents = s.contents := by
  unfold State.accItem
  repeat' split
  all_goals simp only [contents_deliverTo, contents_scrubWords, contents_mapBlock, contents_renew]

/-! ## Errors that arise -/

theorem contents_upsetReg (s : State) (blk wid sid key lane : Nat) (hard : Bool) :
    (s.upsetReg blk wid sid key lane hard).contents = s.contents := by
  unfold State.upsetReg
  split <;> simp only [contents_mapSplitAt]

theorem contents_eccAbort (s : State) (b : Block) (wid : Nat) : (s.eccAbort b wid).contents = s.contents := by
  unfold State.eccAbort
  split <;> simp only [contents_batchAbort, contents_gridAbort]

theorem contents_upsetControl (s : State) (blk wid : Nat) (hard : Bool) : (s.upsetControl blk wid hard).contents = s.contents := by
  unfold State.upsetControl
  split <;> simp only [contents_ite, ite_self, contents_eccAbort, contents_countCE]

theorem contents_upsetImage (s : State) (slot : Nat) (hard : Bool) : (s.upsetImage slot hard).contents = s.contents := by
  unfold State.upsetImage
  split <;> simp only [contents_mk, contents_eta, contents_ite, ite_self, contents_countCE]

theorem contents_upsetGang (s : State) (blk : Nat) (hard : Bool) : (s.upsetGang blk hard).contents = s.contents := by
  unfold State.upsetGang
  split <;> simp only [contents_ite, ite_self, contents_eccAbort, contents_countCE]

theorem contents_upsetCluster (s : State) (cl : Nat) (fn : Option Nat) (hard : Bool) : (s.upsetCluster cl fn hard).contents = s.contents := by
  simp only [State.upsetCluster, contents_ite, ite_self, contents_foldl, implies_true, contents_countCE, contents_setCluster, contents_logErr,
    contents_eccAbort]

theorem contents_upsetChuck (s : State) (slice i : Nat) (hard : Bool) : (s.upsetChuck slice i hard).contents = s.contents := by
  simp only [State.upsetChuck]
  split <;> simp only [contents_ite, ite_self, contents_countUE, contents_answerAll, contents_setChuck, contents_countCE]

/-! ## Parameters and what follows an issue -/

theorem contents_readParam (s : State) (b : Block) (p : Par) : (s.readParam b p).1.contents = s.contents := by
  refine contents_pairFold (fun x q => ?_) _ _
  obtain ⟨t, r⟩ := x
  cases r with
  | error e => rfl
  | ok v =>
    have h := contents_place t b.core b.fn b.child q.1 needR
    dsimp only
    split
    · next hp => rw [hp] at h; exact h
    · next hp =>
      rw [hp] at h
      simp only [contents_scrub, contents_touch, contents_takeFree, contents_bookFlit, contents_ite, apply_ite Prod.fst, ite_self]
      exact h

theorem contents_restart (s : State) (c : Cur) : (s.restart c).contents = s.contents := by
  simp only [State.restart, contents_mk, contents_eta]

theorem contents_turnOver (s : State) (pc : Dword) (yieldBit last : Bool) : (s.turnOver pc yieldBit last).contents = s.contents := by
  unfold State.turnOver
  split <;> simp only [contents_mk, contents_eta]

theorem contents_wake (s : State) : s.wake.contents = s.contents := by
  simp only [State.wake]
  split <;> simp only [contents_mk, contents_eta]

theorem contents_issuedBy (s : State) (before : Nat) (c : Cur) (pc : Dword) (yieldBit last : Bool) :
    (s.issuedBy before c pc yieldBit last).contents = s.contents := by
  simp only [State.issuedBy, contents_mk, contents_eta, contents_ite, ite_self, contents_wake, contents_turnOver, contents_restart,
    contents_tookTurn, contents_mapWave, contents_setGate]

end State

end Sys2Proof.Machine
end

section
/-! What an instruction's effect leaves in memory: all of it, as a store reaches memory by its performance. -/
namespace Sys2Proof.Machine

/-- The state that comes of an instruction's effect holds in memory what an earlier one holds; where an address has no translation, the
configuration is the same too. -/
def Res.Keeps (s : State) : Res → Prop
  | .done t _ | .jump t _ _ | .trap t _ _ _ | .gone t _ | .forked t _ _ | .booked t | .faultIn t _ _ | .wait t _ => t.contents = s.contents
  | .xlate t _ _ _ _ => t.contents = s.contents ∧ t.cfg = s.cfg
  | .fault _ _ | .hold | .holdIn _ => True

namespace Res

theorem keeps_done {s t : State} {ev : List (Ev × Nat)} : (done t ev).Keeps s ↔ t.contents = s.contents := Iff.rfl
theorem keeps_jump {s t : State} {ev : List (Ev × Nat)} {pc : Dword} : (jump t ev pc).Keeps s ↔ t.contents = s.contents := Iff.rfl
theorem keeps_trap {s t : State} {ev : List (Ev × Nat)} {code : Nat} {info : Dword} :
    (trap t ev code info).Keeps s ↔ t.contents = s.contents := Iff.rfl
theorem keeps_gone {s t : State} {ev : List (Ev × Nat)} : (gone t ev).Keeps s ↔ t.contents = s.contents := Iff.rfl
theorem keeps_forked {s t : State} {ev : List (Ev × Nat)} {pc : Dword} : (forked t ev pc).Keeps s ↔ t.contents = s.contents := Iff.rfl
theorem keeps_booked {s t : State} : (booked t).Keeps s ↔ t.contents = s.contents := Iff.rfl
theorem keeps_wait {s t : State} {ev : List (Ev × Nat)} : (wait t ev).Keeps s ↔ t.contents = s.contents := Iff.rfl
theorem keeps_fault {s : State} {code info : Nat} : (fault code info).Keeps s := trivial
theorem keeps_hold {s : State} : Res.hold.Keeps s := trivial
theorem keeps_holdIn {s : State} {w : Wave} : (holdIn w).Keeps s := trivial

theorem keeps_ite {s : State} {q r : Res} {p : Prop} [Decidable p] (hq : q.Keeps s) (hr : r.Keeps s) : (if p then q else r).Keeps s := by
  split
  · exact hq
  · exact hr

theorem keeps_holdOr {s t : State} {ev : List (Ev × Nat)} {p : Prop} [Decidable p] (h : t.contents = s.contents) :
    (if p then Res.hold else done t ev).Keeps s := keeps_ite keeps_hold h

theorem Keeps.of_contents {s t : State} (h : t.contents = s.contents) (k : t.cfg = s.cfg) {r : Res} (hr : r.Keeps t) : r.Keeps s := by
  cases r
  case xlate => exact ⟨hr.1.trans h, hr.2.trans k⟩
  case fault | hold | holdIn => trivial
  all_goals exact Eq.trans hr h

theorem Keeps.of_calm {s t : State} (h : s.Calm t) {r : Res} (k : r.Keeps t) : r.Keeps s := k.of_contents h.contents h.cfg

theorem keeps_addrRes (s : State) (lane va : Nat) (wr : Bool) (e : AddrErr) : (addrRes s lane va wr e).Keeps s := by
  cases e
  case xlate => exact ⟨rfl, rfl⟩
  all_goals trivial

theorem keeps_withPlaces {s : State} {c : Cur} {n : Nat} {align wr locks : Bool} {need : BitVec 3} {addrs : List (Nat × Nat)}
    {go : State → List (Nat × Nat × Space × Nat) → Res} (h : ∀ t l, (go t l).Keeps t) :
    (withPlaces s c n align wr locks need addrs go).Keeps s := by
  have k := State.Calm.placeAll s c.blk need locks addrs
  unfold withPlaces
  split
  · trivial
  split
  · trivial
  split
  · next hp => rw [hp] at k; exact (keeps_addrRes ..).of_calm k
  · next hp => rw [hp] at k; exact (h ..).of_calm k

theorem keeps_withScratch {s : State} {c : Cur} {blk buf m n : Nat} {wr : Bool} {rels : List (Nat × Nat)} {go : Res} (h : go.Keeps s) :
    (withScratch s c blk buf m n wr rels go).Keeps s := by
  unfold withScratch
  dsimp only
  split
  · trivial
  split
  · trivial
  split
  · trivial
  · exact h

theorem keeps_cardPages {s : State} {b : Block} {c : Card} {idx : Nat} {r : Res} (h : (s.cardPages b c idx).2 = .error r) : r.Keeps s := by
  have k := State.Calm.cardPages s b c idx
  revert h k
  unfold State.cardPages
  split
  · exact fun h => nomatch h
  · split
    · exact fun h => nomatch h
    · intro h k; cases h; exact ⟨k.contents, k.cfg⟩
    · intro h k; cases h; exact (keeps_addrRes ..).of_calm k

theorem keeps_cardsPages {s : State} {b : Block} {idx : Nat} {l : List Card} {r : Res} (h : (s.cardsPages b idx l).2 = .error r) :
    r.Keeps s := by
  induction l generalizing s idx with
  | nil => exact nomatch h
  | cons c rest ih =>
    have hc := @keeps_cardPages s b c idx
    have k := State.Calm.cardPages s b c idx
    unfold State.cardsPages at h
    split at h
    · next hp => rw [hp] at hc; cases h; exact hc rfl
    · next hp =>
      rw [hp] at k
      split at h
      · next hr => cases h; exact (ih (by rw [hr])).of_calm k
      · exact nomatch h

theorem keeps_withCards {s : State} {c : Cur} {cards : List Card} {go : State → List Card → Res} (h : ∀ t l, (go t l).Keeps t) :
    (withCards s c cards go).Keeps s := by
  have k := State.Calm.cardsPages s c.blk 0 cards
  have hc := @keeps_cardsPages s c.blk 0 cards
  unfold withCards
  dsimp only
  split
  · trivial
  split
  · trivial
  split
  · trivial
  split
  · next hp => rw [hp] at hc; exact hc rfl
  · next hp => rw [hp] at k; exact (h ..).of_calm k

theorem keeps_gangAccess {f : Nat → Nat → State → Cur → Ctx → Res} (h : ∀ blk m s c x, (f blk m s c x).Keeps s) (s : State) (c : Cur)
    (x : Ctx) : (gangAccess f s c x).Keeps s := by
  unfold gangAccess
  dsimp only
  split
  · rfl
  split
  · trivial
  · exact h ..

theorem keeps_doneWith (s : State) (c : Cur) (sp : Split) (ev : List (Ev × Nat)) : (doneWith s c sp ev).Keeps s := rfl

theorem keeps_bodyLd (s : State) (c : Cur) (x : Ctx) : (bodyLd s c x).Keeps s := by
  unfold bodyLd
  extract_lets uniform lanes n
  split
  · rfl
  · refine keeps_withPlaces fun t l => ?_
    exact keeps_holdOr (State.contents_addOp ..)

theorem keeps_bodySt (s : State) (c : Cur) (x : Ctx) : (bodySt s c x).Keeps s := by
  unfold bodySt
  extract_lets uniform lanes n
  split
  · rfl
  · refine keeps_withPlaces fun t l => ?_
    exact keeps_holdOr (by simp only [State.contents_addOp, State.contents_ite, State.contents_l1Stores, ite_self])

theorem keeps_bodyAtomic (aop : Nat → Nat) (returns : Bool) (s : State) (c : Cur) (x : Ctx) : (bodyAtomic aop returns s c x).Keeps s := by
  unfold bodyAtomic
  extract_lets ty n
  split
  · rfl
  · refine keeps_withPlaces fun t l => ?_
    exact keeps_holdOr (by simp only [State.contents_addOp, State.contents_ite, State.contents_l1Atoms, ite_self])

theorem keeps_bodyPref (s : State) (c : Cur) (x : Ctx) : (bodyPref s c x).Keeps s := by
  simp only [bodyPref]
  repeat' split
  all_goals simp only [keeps_done, keeps_hold, State.contents_ite, ite_self, State.contents_foldl, implies_true, State.contents_prefetch]

theorem keeps_bodyCwb (s : State) (c : Cur) (x : Ctx) : (bodyCwb s c x).Keeps s := by
  unfold bodyCwb
  split
  · rfl
  · refine keeps_withPlaces fun t l => ?_
    exact keeps_holdOr (by simp only [State.contents_retire, State.contents_addOp])

theorem keeps_bodyFence (s : State) (c : Cur) (x : Ctx) : (bodyFence s c x).Keeps s := by
  simp only [bodyFence]
  repeat' split
  all_goals simp only [keeps_done, keeps_hold, keeps_holdIn, State.contents_mk, State.contents_eta, State.contents_loupeCover,
    State.contents_loupeFence, State.contents_acquire]

theorem keeps_bodyObjreg (s : State) (c : Cur) (x : Ctx) : (bodyObjreg s c x).Keeps s := by
  unfold bodyObjreg
  repeat' split
  all_goals simp only [keeps_done, keeps_hold, State.contents_register, State.contents_addOp]

theorem keeps_bodyObjfree (s : State) (c : Cur) (x : Ctx) : (bodyObjfree s c x).Keeps s := by
  simp only [bodyObjfree]
  repeat' split
  all_goals simp only [keeps_done, keeps_fault, keeps_hold, State.contents_mk, State.contents_eta, State.contents_addOp]

theorem keeps_bodyComb (s : State) (c : Cur) (x : Ctx) : (bodyComb s c x).Keeps s := by
  simp only [bodyComb]
  repeat' split
  all_goals simp only [keeps_done, keeps_hold, State.contents_addOp, State.contents_sendComb]

theorem keeps_bodyCbatch (s : State) (c : Cur) (x : Ctx) : (bodyCbatch s c x).Keeps s := by
  unfold bodyCbatch
  repeat' split
  all_goals simp only [keeps_done, keeps_hold, State.contents_mk, State.contents_eta, State.contents_cmbDone]

theorem keeps_bodyCarg (s : State) (c : Cur) (x : Ctx) : (bodyCarg s c x).Keeps s := by
  unfold bodyCarg
  repeat' split
  all_goals simp only [keeps_done, keeps_hold, State.contents_addOp]

theorem keeps_bodyCreply (s : State) (c : Cur) (x : Ctx) : (bodyCreply s c x).Keeps s := by
  unfold bodyCreply
  repeat' split
  all_goals simp only [keeps_done, keeps_hold, State.contents_mk, State.contents_eta, State.contents_cmbDone]

theorem keeps_bodyCend (s : State) (c : Cur) (x : Ctx) : (bodyCend s c x).Keeps s := by
  simp only [bodyCend]
  repeat' split
  all_goals simp only [keeps_done, keeps_gone, keeps_hold, State.contents_mk, State.contents_eta, State.contents_foldl, implies_true,
    State.contents_bookFor, State.contents_answer, State.contents_endBatch]

theorem keeps_goTo (s : State) (c : Cur) (t : Dword) (sp : Split) (ev : List (Ev × Nat)) : (goTo s c t sp ev).Keeps s := by
  unfold goTo
  split <;> simp only [keeps_jump, keeps_fault, State.contents_mk, State.contents_eta]

theorem keeps_bodyYield (s : State) (c : Cur) (x : Ctx) : (bodyYield s c x).Keeps s := rfl

theorem keeps_bodySleep (words : Nat) (s : State) (c : Cur) (x : Ctx) : (bodySleep words s c x).Keeps s := by
  simp only [bodySleep]
  repeat' split
  all_goals simp only [keeps_gone, keeps_bodyYield, State.contents_mk, State.contents_eta]

theorem keeps_bodyBra (s : State) (c : Cur) (x : Ctx) : (bodyBra s c x).Keeps s := keeps_goTo ..

theorem keeps_bodyBrc (s : State) (c : Cur) (x : Ctx) : (bodyBrc s c x).Keeps s := by
  unfold bodyBrc
  split <;> simp only [keeps_done, keeps_goTo]

theorem keeps_bodyCall (s : State) (c : Cur) (x : Ctx) : (bodyCall s c x).Keeps s := keeps_goTo ..

theorem keeps_bodySplit (words : Nat) (s : State) (c : Cur) (x : Ctx) : (bodySplit words s c x).Keeps s := by
  simp only [bodySplit]
  repeat' split
  all_goals simp only [keeps_done, keeps_jump, keeps_forked, keeps_fault, State.contents_mk, State.contents_eta, State.contents_forkReal,
    State.contents_forkSerial]

theorem keeps_bodyJoin (words : Nat) (s : State) (c : Cur) (x : Ctx) : (bodyJoin words s c x).Keeps s := by
  simp only [bodyJoin]
  repeat' split
  all_goals simp only [keeps_done, keeps_gone, State.contents_mk, State.contents_eta, State.contents_merge]

theorem keeps_bodyExit (words : Nat) (s : State) (c : Cur) (x : Ctx) : (bodyExit words s c x).Keeps s := by
  simp only [bodyExit]
  repeat' split
  all_goals simp only [keeps_done, keeps_gone, State.contents_mk, State.contents_eta, State.contents_endSplit]

theorem keeps_bodyBkpt (s : State) (c : Cur) (x : Ctx) : (bodyBkpt s c x).Keeps s := by
  unfold bodyBkpt
  split <;> simp only [keeps_done, keeps_trap, State.contents_mk, State.contents_eta]

theorem keeps_bodyTret (s : State) (c : Cur) (x : Ctx) : (bodyTret s c x).Keeps s := by
  simp only [bodyTret]
  repeat' split
  all_goals simp only [keeps_jump, keeps_fault, State.contents_mk, State.contents_eta]

theorem keeps_maskResult (f : Ctx → Split → Mask) (s : State) (c : Cur) (x : Ctx) : (maskResult f s c x).Keeps s := rfl

theorem keeps_bodyKmov (s : State) (c : Cur) (x : Ctx) : (bodyKmov s c x).Keeps s := by
  unfold bodyKmov
  split <;> simp only [keeps_maskResult, keeps_doneWith]

theorem keeps_bodyRdsr (s : State) (c : Cur) (x : Ctx) : (bodyRdsr s c x).Keeps s := by
  unfold bodyRdsr
  dsimp only
  split
  · rfl
  · exact State.contents_sregValue ..

theorem keeps_scrLoad (blk m scope : Nat) (ev : Nat → Ev) (s : State) (c : Cur) (x : Ctx) : (scrLoad blk m scope ev s c x).Keeps s := by
  refine keeps_withScratch ?_
  split <;> simp only [keeps_done, keeps_hold, State.contents_addOp]

theorem keeps_scrStore (blk m scope : Nat) (ev : Nat → Ev) (s : State) (c : Cur) (x : Ctx) : (scrStore blk m scope ev s c x).Keeps s :=
  keeps_withScratch (blk := blk) (keeps_holdOr (State.contents_addOp ..))

theorem keeps_bodyLds (s : State) (c : Cur) (x : Ctx) : (bodyLds s c x).Keeps s := by
  unfold bodyLds
  split <;> simp only [keeps_done, keeps_scrLoad]

theorem keeps_bodySts (s : State) (c : Cur) (x : Ctx) : (bodySts s c x).Keeps s := by
  unfold bodySts
  split <;> simp only [keeps_done, keeps_scrStore]

theorem keeps_bodyAtoms (s : State) (c : Cur) (x : Ctx) : (bodyAtoms s c x).Keeps s := by
  unfold bodyAtoms
  dsimp only
  split
  · simp only [keeps_done]
  · refine keeps_withScratch ?_
    split <;> simp only [keeps_done, keeps_hold, State.contents_addOp]

theorem keeps_classFault (s : State) (o : Opnd) (pos : Nat) : (classFault o pos).Keeps s := by
  simp only [classFault, keeps_fault]

theorem keeps_bodyTdset (s : State) (c : Cur) (x : Ctx) : (bodyTdset s c x).Keeps s := by
  simp only [bodyTdset]
  repeat' split
  all_goals simp only [keeps_done, keeps_fault, keeps_hold, keeps_classFault, State.contents_mk, State.contents_eta, State.contents_retire,
    State.contents_addOp]

theorem keeps_bodyMma (s : State) (c : Cur) (x : Ctx) : (bodyMma s c x).Keeps s := by
  simp only [bodyMma]
  repeat' split
  all_goals simp only [keeps_done, keeps_hold, keeps_classFault, State.contents_receive]

theorem keeps_bodyAccz (s : State) (c : Cur) (x : Ctx) : (bodyAccz s c x).Keeps s := by
  unfold bodyAccz
  split <;> simp only [keeps_done, keeps_hold, State.contents_receive]

theorem keeps_bodyAccrd (s : State) (c : Cur) (x : Ctx) : (bodyAccrd s c x).Keeps s := by
  simp only [bodyAccrd]
  repeat' split
  all_goals simp only [keeps_done, keeps_fault, keeps_hold, State.contents_addOp]

theorem keeps_bodyAccwr (s : State) (c : Cur) (x : Ctx) : (bodyAccwr s c x).Keeps s := by
  simp only [bodyAccwr]
  repeat' split
  all_goals simp only [keeps_done, keeps_fault, keeps_hold, State.contents_addOp]

theorem keeps_accMem (wr : Bool) (kind : Nat → Dword → Nat → Word → List (Nat × Nat × Nat) → OpKind) (s : State) (c : Cur) (x : Ctx) :
    (accMem wr kind s c x).Keeps s := by
  unfold accMem
  extract_lets e a b len tile
  split
  · trivial
  split
  · trivial
  split
  · trivial
  have h := State.Calm.translateRange s c.blk (if wr then needW else needR) wr (pagesOf a (a + len)) a (a + len)
  split
  · next hp => rw [hp] at h; exact (keeps_addrRes ..).of_calm h
  · next hp =>
    rw [hp] at h
    exact keeps_holdOr ((State.contents_receive ..).trans h.contents)

theorem keeps_bodyAccld (s : State) (c : Cur) (x : Ctx) : (bodyAccld s c x).Keeps s := keeps_accMem ..

theorem keeps_bodyAccst (s : State) (c : Cur) (x : Ctx) : (bodyAccst s c x).Keeps s := keeps_accMem ..

theorem keeps_bodyJob (s : State) (c : Cur) (x : Ctx) : (bodyJob s c x).Keeps s := by
  unfold bodyJob
  dsimp only
  split
  · trivial
  · trivial
  split
  · trivial
  · refine keeps_withCards fun t l => ?_
    exact keeps_holdOr (by simp only [State.contents_readRegs, State.contents_foldl, State.contents_receive, implies_true])

theorem keeps_bodyJobq (s : State) (c : Cur) (x : Ctx) : (bodyJobq s c x).Keeps s := by
  unfold bodyJobq
  dsimp only
  split
  · trivial
  split
  · trivial
  split
  · trivial
  split
  · trivial
  split
  · trivial
  split
  · trivial
  · refine keeps_withCards fun t l => ?_
    exact keeps_holdOr (by simp only [State.contents_retire, State.contents_receiveAll, State.contents_addOp])

theorem keeps_bodyWaitc (s : State) (c : Cur) (x : Ctx) : (bodyWaitc s c x).Keeps s := by
  unfold bodyWaitc
  split <;> simp only [keeps_done, keeps_hold, State.contents_mk, State.contents_eta, State.contents_loupeCover]

theorem keeps_bodyBara (s : State) (c : Cur) (x : Ctx) : (bodyBara s c x).Keeps s := by
  unfold bodyBara
  split <;> simp only [keeps_done, keeps_hold, State.contents_mk, State.contents_eta, State.contents_arrived]

theorem keeps_waitBar {s t : State} (h : t.contents = s.contents) (c : Cur) (x : Ctx) : (waitBar t c x).Keeps s := by
  unfold waitBar
  dsimp only
  split
  · simp only [keeps_done, State.contents_acquire, State.contents_loupeWait, State.contents_mk, State.contents_eta, h]
  · exact h

theorem keeps_bodyBars (s : State) (c : Cur) (x : Ctx) : (bodyBars s c x).Keeps s := by
  unfold bodyBars
  split
  · exact keeps_waitBar rfl c x
  split
  · trivial
  dsimp only
  split
  · exact State.contents_arrived ..
  · exact keeps_waitBar (by simp only [State.contents_mk, State.contents_eta, State.contents_arrived]) _ x

theorem keeps_bodyDrain (s : State) (c : Cur) (x : Ctx) : (bodyDrain s c x).Keeps s := by
  simp only [bodyDrain]
  repeat' split
  all_goals simp only [keeps_done, keeps_wait, keeps_hold, State.contents_mk, State.contents_eta, State.contents_acquire, State.contents_loupeFence,
    State.contents_leaveDrain, State.contents_askDrain, State.contents_dropServed, State.contents_mapSplit]

theorem keeps_rshareDone {s t : State} (h : t.contents = s.contents) (c : Cur) (x : Ctx) : (rshareDone t c x).Keeps s := h

theorem keeps_bodyRshare (s : State) (c : Cur) (x : Ctx) : (bodyRshare s c x).Keeps s := by
  unfold bodyRshare
  split
  · split <;> rfl
  · have h : ∀ (p : Prop) [Decidable p] n, (if p then s.printFor c.blk n else s).contents = s.contents := fun p _ n => by
      simp only [State.contents_ite, State.contents_printFor, ite_self]
    exact keeps_ite (keeps_rshareDone (h ..) _ x) (h ..)

theorem keeps_bodyLaunch (s : State) (c : Cur) (x : Ctx) : (bodyLaunch s c x).Keeps s := by
  unfold bodyLaunch
  extract_lets depth
  split
  · trivial
  split
  · trivial
  · refine keeps_withPlaces fun t l => ?_
    dsimp only
    repeat' split
    all_goals simp only [keeps_fault, keeps_hold, keeps_done, State.contents_addOp]

theorem keeps_bodyChwait (s : State) (c : Cur) (x : Ctx) : (bodyChwait s c x).Keeps s := by
  unfold bodyChwait
  split <;> simp only [keeps_done, keeps_hold, State.contents_sweepChwait, State.contents_addOp]

theorem keeps_bodyEread (s : State) (c : Cur) (x : Ctx) : (bodyEread s c x).Keeps s := by
  unfold bodyEread
  split <;> simp only [keeps_booked, State.contents_mk, State.contents_eta, State.contents_bookIssue, State.contents_mapSplit]

theorem keeps_bodyRdpr (s : State) (c : Cur) (x : Ctx) : (bodyRdpr s c x).Keeps s := by
  simp only [bodyRdpr]
  repeat' split
  all_goals simp only [keeps_fault, keeps_doneWith]

theorem keeps_parked (s : State) (c : Cur) (done : Dword × Bool × Bool × Bool) : (parked s c done).Keeps s := rfl

theorem keeps_bodyPrdone (s : State) (c : Cur) (x : Ctx) : (bodyPrdone s c x).Keeps s := by
  simp only [bodyPrdone]
  repeat' split
  all_goals simp only [keeps_fault, keeps_parked]

theorem keeps_bodyTlbinv (s : State) (c : Cur) (x : Ctx) : (bodyTlbinv s c x).Keeps s := by
  simp only [bodyTlbinv]
  repeat' split
  all_goals simp only [keeps_done, keeps_wait, keeps_fault, State.contents_mk, State.contents_eta]

end Res

end Sys2Proof.Machine
end

section
/-! What an instruction writes as it issues: nothing, but for the record of a fault of translation in its function's ring (R187, R287). -/
namespace Sys2Proof.Machine

/-! ## The function of the split that issues -/

/-- The function of the block of the split that issues. -/
def State.curFn (s : State) : Option Nat := s.cur.map (·.blk.fn)

namespace State

theorem SameSeat.readRow (s : State) (b : Block) (a : SpillArea) (wid n : Nat) : s.SameSeat (s.readRow b a wid n).1 := by
  unfold State.readRow
  dsimp only
  split
  · split
    · exact refl s
    · exact scrubWords ..
  split
  · exact refl s
  · refine pairFold (fun x p => ?_) _ (s, some ([], []))
    obtain ⟨t, o⟩ := x
    have h := place t b.core b.fn b.child p.1 needR
    dsimp only
    generalize t.place b.core b.fn b.child p.1 needR = r at h ⊢
    obtain ⟨u, e⟩ := r
    cases o with
    | none => exact h
    | some _ => cases e with
      | error _ => exact h
      | ok k =>
        obtain ⟨sp, key⟩ := k
        cases sp
        case mem => exact h.trans (l1Bytes ..)
        all_goals exact h.trans (scrub ..)

theorem SameSeat.fill (s : State) (b : Block) (a : SpillArea) (wid : Nat) (ps : SlotParts) (l : List (Nat × Nat)) (sp : Split) :
    s.SameSeat (s.fill b a wid ps l sp).1 := by
  refine pairFold (fun x e => ?_) _ (s, sp)
  have h := readRow x.1 b a wid e.2
  split
  all_goals next hp => rw [hp] at h; exact h

theorem curFn_of_sameSeat {s t : State} (h : s.SameSeat t) : t.curFn = s.curFn := by
  have k := congrArg (Option.map Prod.fst) h
  simpa only [seat, curFn, Option.map_map, Function.comp_def] using k

theorem curFn_foldl {α : Type} {f : State → α → State} (hf : ∀ s a, (f s a).curFn = s.curFn) (l : List α) (s : State) :
    (l.foldl f s).curFn = s.curFn := by
  induction l generalizing s with
  | nil => rfl
  | cons a l ih => rw [List.foldl_cons, ih, hf]

theorem curFn_logErr (s : State) (fn : Nat) (r : ErrRec) (ue : Bool) : (s.logErr fn r ue).curFn = s.curFn := rfl

theorem curFn_readRegs (s : State) (act : Mask) (regs : List RegId) : (s.readRegs act regs).curFn = s.curFn := by
  unfold State.readRegs
  split
  · rfl
  split
  · rfl
  · next c hc _ =>
    dsimp only
    refine (curFn_foldl (fun _ _ => curFn_logErr ..) _ _).trans ?_
    split <;> simp only [curFn, hc, Option.map_some, countCE]

theorem curFn_prepare (s : State) (x : Ctx) : (s.prepare x).curFn = s.curFn := by
  unfold State.prepare
  split
  · rfl
  · next c hc =>
    refine (curFn_readRegs ..).trans ?_
    simp only [curFn, Option.map_map, Function.comp_def]
    generalize (if (s.unitSlots c x).isEmpty = true then [] else _) = l
    cases l.isEmpty
    · exact curFn_of_sameSeat (SameSeat.fill ..)
    · rfl

/-! ## The record of a fault -/

/-- Where the next record of a function's ring lies (R286). -/
def recordAddr (s : State) (fn : Nat) : Nat :=
  (s.cfgReg fn 0xE00).toNat / 4096 * 4096 + 32 * ((s.cfgReg fn 0xE0C).toNat % s.xfCount fn)

/-- From one state to another nothing of memory changes but the next record of a function's ring, where it has a ring. -/
structure RecordOnly (fn : Nat) (s t : State) : Prop where
  cscr : t.cscr = s.cscr
  cscrPoison : t.cscrPoison = s.cscrPoison
  mem : s.xfCount fn = 0 → t.mem = s.mem
  byte : ∀ a, a < s.recordAddr fn ∨ s.recordAddr fn + 32 ≤ a → Memory.byte t.mem a = Memory.byte s.mem a

theorem mem_of_contents {s t : State} (h : t.contents = s.contents) : t.mem = s.mem := congrArg (·.1) h
theorem cscr_of_contents {s t : State} (h : t.contents = s.contents) : t.cscr = s.cscr := congrArg (·.2.2.1) h
theorem cscrPoison_of_contents {s t : State} (h : t.contents = s.contents) : t.cscrPoison = s.cscrPoison := congrArg (·.2.2.2) h

theorem RecordOnly.of_contents {s t : State} (h : t.contents = s.contents) (fn : Nat) : s.RecordOnly fn t where
  cscr := cscr_of_contents h
  cscrPoison := cscrPoison_of_contents h
  mem _ := mem_of_contents h
  byte _ _ := by rw [mem_of_contents h]

/-- A state that holds the same in memory, with the same configuration, may stand before. -/
theorem RecordOnly.from {s t u : State} {fn : Nat} (h : t.contents = s.contents) (hc : t.cfg = s.cfg) (k : t.RecordOnly fn u) :
    s.RecordOnly fn u := by
  have hreg : ∀ off, t.cfgReg fn off = s.cfgReg fn off := fun off => by unfold cfgReg; rw [hc]
  have hcount : t.xfCount fn = s.xfCount fn := by unfold xfCount; rw [hreg]
  have haddr : t.recordAddr fn = s.recordAddr fn := by unfold recordAddr; rw [hreg, hreg, hcount]
  obtain ⟨hcscr, hpoison, hmem, hbyte⟩ := k
  rw [hcount, mem_of_contents h] at hmem
  rw [haddr, mem_of_contents h] at hbyte
  exact ⟨hcscr.trans (cscr_of_contents h), hpoison.trans (cscrPoison_of_contents h), hmem, hbyte⟩

theorem storeAt_mem_cscrPoison (s : State) (fn a : Nat) (bs : List Byte) (who : ErrRec) :
    (s.storeAt fn .mem a bs who).cscrPoison = s.cscrPoison := by
  have h := (Calm.rewrite s fn .mem a bs.length).cscrPoison
  unfold State.storeAt
  dsimp only
  generalize s.rewrite fn .mem a bs.length = t at h ⊢
  split
  · exact h
  · have k := (Calm.touch { t with mem := Memory.write t.mem a bs, memPoison := poisonStore t.memPoison a bs.length } fn (who.flags % 8) a
      bs.length true).cscrPoison
    split
    · exact ((Calm.logErr ..).cscrPoison.trans k).trans h
    · exact k.trans h

theorem recordOnly_xlateFault {s : State} {c : Cur} {passes va kind : Nat} {x : XFail} {info : Nat} {deliver : State → State}
    (h : ∀ t, (deliver t).contents = t.contents) : s.RecordOnly c.blk.fn (s.xlateFault c passes va kind x info deliver) := by
  unfold State.xlateFault
  dsimp only
  split
  · exact .of_contents (h s) _
  · next hn =>
    split
    · exact .of_contents (by simp only [contents_mk, contents_eta]) _
    ·
      have hlen : ∀ va pc grid block token wid kind x child, (xfRecord va pc grid block token wid kind x child).length = 32 := by
        intros; rfl
      obtain ⟨hmem, hcscr⟩ := SameBytes.storeAt_mem s c.blk.fn (s.recordAddr c.blk.fn) (xfRecord va c.split.pc
        (((s.gridOf c.blk).map (·.rcd.number.toNat)).getD 0) c.blk.index (s.freeToken c.blk.fn) c.wave.wid kind x c.blk.child) {}
      refine ⟨hcscr, storeAt_mem_cscrPoison .., fun h0 => absurd h0 hn, fun a ha => (congrArg (Memory.byte · a) hmem).trans ?_⟩
      dsimp only
      split
      · rfl
      · exact Memory.byte_write_of_outside _ (by rw [hlen]; exact ha)

/-! ## The issue -/

theorem recordOnly_slotStop {s t : State} {c : Cur} {passes op : Nat} {slots : List (Nat × Bool)}
    (h : s.slotStop c passes op slots = some t) : s.RecordOnly c.blk.fn t := by
  unfold State.slotStop at h
  obtain ⟨b, -, rfl⟩ := Option.map_eq_some_iff.1 h
  cases b with
  | none => exact .of_contents (contents_spillAbort ..) _
  | some p => exact recordOnly_xlateFault fun t => contents_spillAbort ..

theorem contents_bookIssue_finish (s : State) (c : Cur) (passes : Nat) (ev : List (Ev × Nat)) (pc : Dword) :
    ((s.bookIssue c passes ev).finish pc).contents = s.contents := (contents_finish ..).trans (contents_bookIssue ..)

theorem recordOnly_conclude {s : State} {c : Cur} {passes words : Nat} {r : Res} (h : r.Keeps s) :
    s.RecordOnly c.blk.fn (s.conclude c passes words r) := by
  cases r with
  | done t ev => exact .of_contents ((contents_bookIssue_finish ..).trans h) _
  | jump t ev pc => exact .of_contents ((contents_bookIssue_finish ..).trans h) _
  | trap t ev code info =>
    unfold State.conclude
    dsimp only
    split
    · exact .of_contents ((contents_bookIssue_finish ..).trans h) _
    · exact .of_contents ((contents_deliver ..).trans ((contents_bookIssue_finish ..).trans h)) _
  | gone t ev => exact .of_contents (by simp only [State.conclude, contents_mk, contents_eta, contents_bookIssue]; exact h) _
  | forked t ev pc => exact .of_contents (by simp only [State.conclude, contents_mk, contents_eta, contents_bookIssue]; exact h) _
  | booked t => exact .of_contents ((contents_finish ..).trans h) _
  | fault code info => exact .of_contents (contents_faulted ..) _
  | faultIn t code info => exact .of_contents ((contents_faulted ..).trans h) _
  | xlate t va kind x info => exact .from h.1 h.2 (recordOnly_xlateFault fun u => contents_faulted ..)
  | hold => exact .of_contents (contents_heldAt ..) _
  | holdIn w => exact .of_contents (contents_heldAt ..) _
  | wait t ev => exact .of_contents ((contents_waits ..).trans ((contents_bookIssue t c passes ev).trans h)) _

theorem cfg_burst (s : State) (c : Cur) : (s.burst c).cfg = s.cfg := by
  unfold State.burst; dsimp only; split <;> rfl

theorem recordOnly_runs {s : State} {c : Cur} {passes op words : Nat} {x : Ctx} {body : State → Cur → Ctx → Res}
    (h : ∀ s c x, (body s c x).Keeps s) : s.RecordOnly c.blk.fn (s.runs c passes op words x body) := by
  unfold State.runs
  dsimp only
  split
  · exact .of_contents (contents_faulted ..) _
  split
  · exact .of_contents ((contents_heldAt ..).trans (contents_askBurst ..)) _
  split
  · next hs =>
    split at hs
    · exact recordOnly_slotStop hs
    · exact recordOnly_slotStop hs
    · exact nomatch hs
  · refine recordOnly_conclude (.of_contents ?_ ?_ (h ..))
    · simp only [contents_ite, contents_burst, contents_mk, contents_eta, ite_self]
    · split
      · rfl
      · exact cfg_burst ..

theorem recordOnly_issueOp {s t : State} {c : Cur} {op : Nat} {f : Form} {spec : Nat → Spec} {body : State → Cur → Ctx → Res}
    (h : ∀ s c x, (body s c x).Keeps s) (hc : s.cur = some c) (ht : s.issueOp op f spec body = .next t) : s.RecordOnly c.blk.fn t := by
  unfold State.issueOp at ht
  rw [hc] at ht
  cases ht
  unfold State.issueBy
  dsimp only
  split
  · exact .of_contents (contents_faulted ..) _
  split
  · exact .of_contents (contents_faulted ..) _
  split
  · exact .of_contents (contents_faulted ..) _
  · exact .of_contents (contents_heldAt ..) _
  · next x _ =>
    split
    · next hs => exact recordOnly_slotStop hs
    split
    · exact .of_contents rfl _
    · next d hd =>
      have hfn : d.blk.fn = c.blk.fn := by
        have k := curFn_prepare s x
        simp only [curFn, hd, hc, Option.map_some] at k
        exact Option.some.inj k
      exact .from (contents_prepare s x) (Calm.prepare s x).cfg (hfn ▸ recordOnly_runs h)

end State

/-! ## Every instruction -/

/-- An instruction goes through the issue with an effect that keeps memory. -/
def EffectKeeps (i : Instr) : Prop :=
  ∃ op f body, (∀ s, ∃ spec, exec i s = s.issueOp op f spec body) ∧ ∀ s c x, (body s c x).Keeps s

theorem EffectKeeps.of_body {i : Instr} {op : Nat} {f : Form} {spec : State → Nat → Spec}
    {body : State → Cur → Ctx → Res} (he : ∀ s, exec i s = s.issueOp op f (spec s) body) (h : ∀ s c x, (body s c x).Keeps s) :
    EffectKeeps i :=
  ⟨op, f, body, fun s => ⟨spec s, he s⟩, h⟩

open Res in
/-- The effect of every instruction keeps memory, but for WRPR and SHEET; an opcode without an instruction has none. -/
theorem effectKeeps_of_form {i : Instr} {op : BitVec 9} {f : Form} (h : opcodeForm i = some (op, f)) :
    EffectKeeps i ∨ (∃ op f, i = .illegalOpcode op f) ∨ (∃ op f, i = .reservedOpcode op f) ∨ (∃ f, i = .wrpr f) ∨
      (∃ f, i = .sheet f) ∨ ∃ f, i = .sheetLong f := by
  cases i
  case kmov => exact .inl (.of_body (fun _ => rfl) keeps_bodyKmov)
  case rdsr => exact .inl (.of_body (fun _ => rfl) keeps_bodyRdsr)
  case bra | braLong | ret | retLong => exact .inl (.of_body (fun _ => rfl) keeps_bodyBra)
  case brc => exact .inl (.of_body (fun _ => rfl) keeps_bodyBrc)
  case call | callLong => exact .inl (.of_body (fun _ => rfl) keeps_bodyCall)
  case split => exact .inl (.of_body (fun _ => rfl) (keeps_bodySplit _))
  case join | joinLong => exact .inl (.of_body (fun _ => rfl) (keeps_bodyJoin _))
  case exit | exitLong => exact .inl (.of_body (fun _ => rfl) (keeps_bodyExit _))
  case tret | tretLong => exact .inl (.of_body (fun _ => rfl) keeps_bodyTret)
  case bkpt | bkptLong => exact .inl (.of_body (fun _ => rfl) keeps_bodyBkpt)
  case sleep | sleepLong => exact .inl (.of_body (fun _ => rfl) (keeps_bodySleep _))
  case ld | ldLong => exact .inl (.of_body (fun _ => rfl) keeps_bodyLd)
  case st | stLong => exact .inl (.of_body (fun _ => rfl) keeps_bodySt)
  case atom | atomr | cas => exact .inl (.of_body (fun _ => rfl) (keeps_bodyAtomic _ _))
  case pref | prefLong => exact .inl (.of_body (fun _ => rfl) keeps_bodyPref)
  case cwb | cwbLong => exact .inl (.of_body (fun _ => rfl) keeps_bodyCwb)
  case fence | fenceLong => exact .inl (.of_body (fun _ => rfl) keeps_bodyFence)
  case lds => exact .inl (.of_body (fun _ => rfl) keeps_bodyLds)
  case sts => exact .inl (.of_body (fun _ => rfl) keeps_bodySts)
  case atoms => exact .inl (.of_body (fun _ => rfl) keeps_bodyAtoms)
  case ldrs => exact .inl (.of_body (fun _ => rfl) (keeps_gangAccess fun blk m => keeps_scrLoad blk m 3 .rload))
  case strs => exact .inl (.of_body (fun _ => rfl) (keeps_gangAccess fun blk m => keeps_scrStore blk m 3 .rstore))
  case waitc | waitcLong => exact .inl (.of_body (fun _ => rfl) keeps_bodyWaitc)
  case bara | baraLong => exact .inl (.of_body (fun _ => rfl) keeps_bodyBara)
  case barw | barwLong => exact .inl (.of_body (fun _ => rfl) fun s => keeps_waitBar (Eq.refl s.contents))
  case bars | barsLong => exact .inl (.of_body (fun _ => rfl) keeps_bodyBars)
  case drain | drainLong => exact .inl (.of_body (fun _ => rfl) keeps_bodyDrain)
  case tdset => exact .inl (.of_body (fun _ => rfl) keeps_bodyTdset)
  case mma => exact .inl (.of_body (fun _ => rfl) keeps_bodyMma)
  case accz => exact .inl (.of_body (fun _ => rfl) keeps_bodyAccz)
  case accrd => exact .inl (.of_body (fun _ => rfl) keeps_bodyAccrd)
  case accwr => exact .inl (.of_body (fun _ => rfl) keeps_bodyAccwr)
  case accld => exact .inl (.of_body (fun _ => rfl) keeps_bodyAccld)
  case accst => exact .inl (.of_body (fun _ => rfl) keeps_bodyAccst)
  case job => exact .inl (.of_body (fun _ => rfl) keeps_bodyJob)
  case jobq => exact .inl (.of_body (fun _ => rfl) keeps_bodyJobq)
  case objreg => exact .inl (.of_body (fun _ => rfl) keeps_bodyObjreg)
  case objfree | objfreeLong => exact .inl (.of_body (fun _ => rfl) keeps_bodyObjfree)
  case comb => exact .inl (.of_body (fun _ => rfl) keeps_bodyComb)
  case cbatch | cbatchLong => exact .inl (.of_body (fun _ => rfl) keeps_bodyCbatch)
  case carg | cargLong => exact .inl (.of_body (fun _ => rfl) keeps_bodyCarg)
  case creply | creplyLong => exact .inl (.of_body (fun _ => rfl) keeps_bodyCreply)
  case cend | cendLong => exact .inl (.of_body (fun _ => rfl) keeps_bodyCend)
  case rshare | rshareLong => exact .inl (.of_body (fun _ => rfl) keeps_bodyRshare)
  case launch | launchLong => exact .inl (.of_body (fun _ => rfl) keeps_bodyLaunch)
  case chwait | chwaitLong => exact .inl (.of_body (fun _ => rfl) keeps_bodyChwait)
  case eread | ereadLong => exact .inl (.of_body (fun _ => rfl) keeps_bodyEread)
  case rdpr => exact .inl (.of_body (fun _ => rfl) keeps_bodyRdpr)
  case prdone | prdoneLong => exact .inl (.of_body (fun _ => rfl) keeps_bodyPrdone)
  case tlbinv | tlbinvLong => exact .inl (.of_body (fun _ => rfl) keeps_bodyTlbinv)
  case wrpr f => exact .inr (.inr (.inr (.inl ⟨f, rfl⟩)))
  case sheet f => exact .inr (.inr (.inr (.inr (.inl ⟨f, rfl⟩))))
  case sheetLong f => exact .inr (.inr (.inr (.inr (.inr ⟨f, rfl⟩))))
  case illegalOpcode op f => exact .inr (.inl ⟨op, f, rfl⟩)
  case reservedOpcode op f => exact .inr (.inr (.inl ⟨op, f, rfl⟩))
  case nop | nopLong | iadd | iaddLong | isub | isubLong | imul | imulLong | imulh | imulhLong | imad | imin | iminLong | imax | imaxLong |
    iabs | ineg | inegLong | iaddc | andBits | andBitsLong | orBits | orBitsLong | xorBits | xorBitsLong | andn | andnLong | notBits |
    notBitsLong | shl | shlLong | shr | shrLong | sar | sarLong | rotl | rotlLong | bfx | bfi | popc | popcLong | clz | clzLong | brev |
    brevLong | prmt | lea | icmp | sel | fadd | faddLong | fsub | fsubLong | fmul | fmulLong | ffma | fmin | fminLong | fmax |
    fmaxLong | fcmp | frcp | frcpLong | frsq | frsqLong | fsqrt | fsqrtLong | fexp2 | fexp2Long | flog2 | flog2Long | ftanh |
    ftanhLong | fsigm | fsigmLong | frnd | frndLong | fscale | fscaleLong | fclass | fdiv | fdivLong | padd | paddLong | pmul |
    pmulLong | pfma | pmax | pmaxLong | pmin | pminLong | pdot2 | cvt | mxq | mxd | pack | unpk | shfl | shflLong | bcast | bcastLong |
    vote | voteLong | wred | wredLong | wscan | wscanLong | matchLanes | matchLanesLong | kand | kor | kxor | knot | kpop | kffs | mov |
    movLong | movl | movlLong | wrsr | xset | xsetLong | xadd | xaddLong | yield | yieldLong | trap | trapLong | tdget | rquery |
    rqueryLong | tarm | tarmLong | ctxsv | ctxsvLong =>
    exact .inl (.of_body (fun _ => rfl) fun _ _ _ => rfl)
  all_goals exact nomatch h

/-! ## Outcomes -/

/-- Where an outcome goes on, its state holds in memory what an earlier one holds. -/
def KeepsTo (s : State) : Host.Outcome State Fault Refusal → Prop
  | .next t => t.contents = s.contents
  | _ => True

theorem keepsTo_next {s t : State} : KeepsTo s (.next t) ↔ t.contents = s.contents := Iff.rfl

theorem KeepsTo.contents {s t : State} {o : Host.Outcome State Fault Refusal} (h : KeepsTo s o) (ht : o = .next t) :
    t.contents = s.contents := by
  subst ht; exact h

theorem keepsTo_execIllegalOpcode (op : BitVec 9) (f : Form) (s : State) : KeepsTo s (execIllegalOpcode op f s) := by
  unfold execIllegalOpcode
  split
  · rfl
  · exact State.contents_faulted ..

theorem keepsTo_execReservedOpcode (op : BitVec 9) (f : Form) (s : State) : KeepsTo s (execReservedOpcode op f s) := by
  unfold execReservedOpcode
  split
  · rfl
  split
  · exact State.contents_faulted ..
  · exact (State.contents_blockStop ..).trans (State.contents_bookFor ..)

/-- Settles O55: the effect of every such instruction keeps memory, and what its issue adds but for that writes at most the record of a fault. -/
theorem issueKeepsMemory : Obligations.IssueKeepsMemory := by
  unfold Obligations.IssueKeepsMemory
  intro i op f s c t hf hop hc ht
  have hr : s.RecordOnly c.blk.fn t := by
    rcases effectKeeps_of_form hf with ⟨n, g, body, he, hb⟩ | ⟨o, g, rfl⟩ | ⟨o, g, rfl⟩ | ⟨g, rfl⟩ | ⟨g, rfl⟩ | ⟨g, rfl⟩
    · obtain ⟨spec, hs⟩ := he s
      exact State.recordOnly_issueOp hb hc (hs.symm.trans ht)
    · exact .of_contents ((keepsTo_execIllegalOpcode ..).contents ht) _
    · exact .of_contents ((keepsTo_execReservedOpcode ..).contents ht) _
    all_goals cases hf; exact absurd hop (by decide)
  exact ⟨hr.cscr, hr.cscrPoison, hr.mem, hr.byte⟩

end Sys2Proof.Machine
end

section
/-! What writes memory and cluster scratch keeps them in canonical form (notes/assumptions/2.md): the performance of stores and atomics,
jobs and Lathe operations, the package's stores, saves and resets, and what hosts write (R187, R190, R213, R218, R264–R267, R386, R418). -/
namespace Sys2Proof.Machine
namespace State

/-- A state is in canonical form where it holds what one in canonical form holds. -/
theorem memOk_of {s t : State} (k : t.contents = s.contents) (h : s.memOk) : t.memOk := by
  unfold memOk; rw [mem_of_contents k, cscr_of_contents k]; exact h

theorem memOk_ite {s t : State} {p : Prop} [Decidable p] (hs : s.memOk) (ht : t.memOk) : (if p then s else t).memOk := by
  split
  · exact hs
  · exact ht

theorem memOk_pairFold {α β : Type} {f : State × β → α → State × β} (hf : ∀ x a, x.1.memOk → (f x a).1.memOk) (l : List α)
    {x : State × β} (h : x.1.memOk) : (l.foldl f x).1.memOk := by
  induction l generalizing x with
  | nil => exact h
  | cons a l ih => exact ih (hf x a h)

/-! ## Stores, write-backs and atomics (R187, R190, R269) -/

theorem memOk_performStore {s : State} {o : Op} {i : Item} {bad : Bool} (h : s.memOk) : (s.performStore o i bad).memOk := by
  unfold performStore
  split
  · exact memOk_of (by simp only [contents_ite, contents_logOp, contents_bookTrip, ite_self]) h
  · refine memOk_ite (memOk_of (contents_l1Redo ..) (memOk_of (contents_l1Store ..) ?put)) ?put
    refine memOk_ite (memOk_poisonAt ?evicted) ?evicted
    refine memOk_ite (memOk_of (contents_evictFirst ..) ?stored) ?stored
    exact memOk_storeAt (memOk_of (contents_bookMoved ..) h)

theorem memOk_performGroups {id : Nat} {lanes : Mask} {bad : Bool} {l : List (Item × List Nat)} :
    ∀ {s : State} {held : List (Item × List Nat)}, s.memOk → (performGroups id lanes bad s held l).memOk := by
  induction l with
  | nil => exact fun h => h
  | cons p rest ih =>
    intro s held h
    unfold performGroups
    split
    · exact h
    split
    · refine ih (memOk_of (contents_didLanes ..) ?_)
      split
      · exact memOk_performStore (memOk_of (contents_loupeLanes ..) h)
      · exact memOk_of (contents_performCwb ..) h
      · exact h
    · exact ih h

theorem memOk_performStores {s : State} {id : Nat} {lanes : Mask} {bad : Bool} (h : s.memOk) : (s.performStores id lanes bad).memOk := by
  unfold performStores
  split
  · exact h
  · exact memOk_ite (memOk_performGroups h) h

theorem memOk_performAtomic {s : State} {id lane : Nat} {bad : Bool} (h : s.memOk) : (s.performAtomic id lane bad).memOk := by
  unfold performAtomic
  split
  · exact h
  split
  · dsimp only
    split
    · exact h
    · refine memOk_of (contents_didLanes ..) ?_
      split
      · refine memOk_of ?_ h
        have hf : ∀ (l : List Nat) (x : State × List (Nat × Nat)), (l.foldl (fun (acc : State × List (Nat × Nat)) l =>
            (acc.1.takeFree.1, acc.2 ++ [(l, acc.1.takeFree.2.toNat)])) x).1.contents = x.1.contents := fun l x =>
          contents_pairFold (fun x _ => by exact contents_takeFree x.1) l x
        simp only [contents_deliverOld, contents_ite, contents_logOp, ite_self]
        exact (hf ..).trans ((contents_bookTrip ..).trans (contents_loupeLanes ..))
      · refine memOk_ite (memOk_of (contents_deliverOld ..) (memOk_of (contents_logOp ..) ?read)) ?_
        · refine memOk_ite (memOk_of (contents_l1Drop ..) (memOk_of (contents_touch ..) ?scrubbed)) ?scrubbed
          exact memOk_of (contents_scrub ..) (memOk_of (contents_bookAtom ..) (memOk_of (contents_bookMoved ..)
            (memOk_of (contents_loupeLanes ..) h)))
        · exact memOk_ite (memOk_of (contents_deliverOld ..) (memOk_of (contents_logOp ..) (memOk_poisonAt ?read)))
            (memOk_of (contents_deliverOld ..) (memOk_storeAt ?read))
  · exact h

theorem memOk_advance {s : State} {id : Nat} {perform : State → State} (hp : ∀ t, t.memOk → (perform t).memOk) (h : s.memOk) :
    (s.advance id perform).memOk := by
  unfold advance
  split
  · exact h
  · exact memOk_ite (memOk_of (contents_reachPort ..) h) (hp s h)

/-! ## Jobs and Lathe operations (R213, R218) -/

theorem memOk_writeItem {s : State} {o : Op} {atom : Option (Nat × Nat × Word)} {ahead : Bool} {i : Item} (h : s.memOk) :
    (s.writeItem o atom ahead i).memOk := by
  unfold writeItem
  split
  · exact memOk_of (contents_childWrite ..) h
  split
  · exact memOk_of (by simp only [contents_ite, contents_logOp, contents_takeFree, contents_bookTrip, ite_self]) h
  · refine memOk_ite (memOk_of (contents_l1Redo ..) (memOk_of (contents_l1Store ..) ?put)) ?put
    refine memOk_ite (memOk_poisonAt ?evicted) ?evicted
    exact memOk_ite (memOk_of (contents_evictFirst ..) (memOk_storeAt h)) (memOk_storeAt h)
  · have hs : ∀ sp, (((s.bookAtom o i).scrub o.fn sp i.addr i.bytes)).memOk := fun sp =>
      memOk_of ((contents_scrub ..).trans (contents_bookAtom ..)) h
    refine memOk_ite (memOk_of (contents_logOp ..) (memOk_poisonAt (hs _))) (memOk_ite (memOk_of (contents_logOp ..) (hs _)) ?_)
    exact memOk_ite (memOk_of (contents_l1Drop ..) (memOk_storeAt (hs _))) (memOk_storeAt (hs _))

theorem memOk_writeGlobal {s : State} {o : Op} {pages : List (Nat × Nat × Nat)} {atom : Option (Nat × Nat × Word)} {ahead : Bool} {va : Nat}
    {bs : List Byte} {bad : Bool} (h : s.memOk) : (s.writeGlobal o pages atom ahead va bs bad).memOk := by
  refine memOk_foldl (fun t p ht => ?_) _ h
  split
  · exact ht
  · exact memOk_writeItem ht

theorem memOk_accstSteps {n : Nat} {o : Op} {t ty rnd : Nat} {g : Dword} {pitch mode : Nat} {pages : List (Nat × Nat × Nat)} {s : State}
    (h : s.memOk) : (accstSteps n s o t ty rnd g pitch mode pages).memOk := by
  induction n generalizing s with
  | zero => exact h
  | succ n ih =>
    unfold accstSteps
    dsimp only
    split
    · exact h
    split
    · split
      · exact h
      · refine ih (memOk_of (contents_mapOp ..) (memOk_writeGlobal (memOk_of ?_ h)))
        simp only [contents_ite, contents_logOp, contents_scrubWords, ite_self]
    · exact ih (memOk_of (contents_mapOp ..) h)

theorem memOk_latheWork {s : State} {o : Op} {steps : List (Nat × Nat)} (h : s.memOk) : (s.latheWork o steps).memOk := by
  unfold latheWork
  split
  · exact memOk_accstSteps h
  · exact memOk_foldl (fun t p ht => memOk_ite ht (memOk_of (contents_elemStep ..) ht)) _ h

theorem memOk_gatherFault {s : State} {o : Op} {b : Block} {row va : Nat} {x : XFail} (h : s.memOk) : (s.gatherFault o b row va x).memOk := by
  unfold gatherFault
  split
  · exact h
  · exact memOk_of (by simp only [contents_mk, contents_eta, contents_setCfg]; rfl) (memOk_storeAt h)

theorem memOk_gatherRow {s : State} {o : Op} {c : Card} {r : Nat} (h : s.memOk) : (s.gatherRow o c r).1.memOk := by
  unfold gatherRow
  split
  · exact h
  split
  · exact h
  dsimp only
  have hs : (s.scrub o.fn (.scr o.blk (refBuf c.w7.toNat)) (refOff c.w7.toNat + 4 * r) 4).memOk := memOk_of (contents_scrub ..) h
  generalize s.scrub o.fn (.scr o.blk (refBuf c.w7.toNat)) (refOff c.w7.toNat + 4 * r) 4 = t at hs ⊢
  split
  · exact memOk_of (contents_fixRow ..) hs
  · next b _ =>
    generalize (c.g.toNat + _ * c.gp) % 2 ^ 64 = va
    have hk := memOk_of (Calm.translateRange t b needR false (pagesOf va (va + c.rb)) va (va + c.rb)).contents hs
    split
    · next u pages hp =>
      rw [hp] at hk
      refine memOk_of ?_ hk
      split <;> simp only [contents_fixRow, contents_logOp, contents_bookCore]
    · next u x hp =>
      rw [hp] at hk
      split
      · exact memOk_of (by simp only [contents_fixRow, contents_logOp, contents_bookCore]) hk
      · exact memOk_gatherFault hk
    · next hp =>
      rw [hp] at hk
      exact memOk_of (by simp only [contents_fixRow, contents_logOp, contents_bookCore]) hk

theorem memOk_storeScr {s : State} {o : Op} {blk buf rel : Nat} {bs : List Byte} {bad : Bool} (h : s.memOk) :
    (s.storeScr o blk buf rel bs bad).memOk := memOk_ite (memOk_poisonAt (memOk_storeAt h)) (memOk_storeAt h)

theorem memOk_jobUnit {s : State} {o : Op} {c : Card} {ahead : Bool} {r k : Nat} (h : s.memOk) : (s.jobUnit o c ahead r k).memOk := by
  have hscr : ∀ a n, (s.jobScr o c a n).1.memOk := fun _ _ => memOk_of (contents_jobScr ..) h
  have hglobal : ∀ a n, (s.jobGlobal o c a n).1.memOk := fun _ _ => memOk_of (contents_jobGlobal ..) h
  unfold jobUnit
  dsimp only
  split
  · split
    · split
      · exact h
      · exact memOk_writeGlobal (hscr ..)
    · split
      · exact h
      · exact memOk_storeScr (hglobal ..)
  · split
    · split
      · exact memOk_ite (hglobal ..) (memOk_storeScr (hglobal ..))
      · exact hglobal ..
    · exact h
  · split
    · exact h
    · split
      · exact memOk_storeScr h
      · exact memOk_storeScr (memOk_of ((contents_logRead ..).trans (contents_readGlobal ..)) h)
  · split
    · exact memOk_writeGlobal (hscr ..)
    · exact memOk_storeScr (hglobal ..)
  · exact memOk_writeGlobal (hscr ..)
  · split
    · exact h
    · exact memOk_storeScr h

theorem memOk_jobSteps {n : Nat} {id : Nat} {c : Card} {s : State} (h : s.memOk) : (jobSteps n s id c).memOk := by
  induction n generalizing s with
  | zero => exact h
  | succ n ih =>
    unfold jobSteps
    split
    · exact h
    dsimp only
    split
    · exact h
    · next o _ _ =>
      have hr : (if c.kind = 3 then s.gatherRow o c (o.moved / max 1 c.perRow) else (s, true)).1.memOk := by
        split
        · exact memOk_gatherRow h
        · exact h
      generalize (if c.kind = 3 then s.gatherRow o c (o.moved / max 1 c.perRow) else (s, true)) = row at hr ⊢
      exact memOk_ite hr (ih (memOk_of (contents_mapOp ..) (memOk_jobUnit hr)))

/-! ## The package's stores (R341, R345, R409) -/

theorem memOk_signal {s : State} {g : Grid} (h : s.memOk) : (s.signal g).memOk := by
  unfold signal
  split
  · exact h
  dsimp only
  have hw : ∀ va, (s.devWalk g.fn 0 va).memOk := fun _ => memOk_devWalk h
  split
  · exact memOk_of (contents_logErr ..) (hw _)
  split
  · exact memOk_of (contents_logErr ..) (hw _)
  split
  · exact memOk_of (contents_logErr ..) (hw _)
  · exact memOk_storeAt (memOk_of (contents_scrub ..) (hw _))

theorem memOk_writeCompletion {s : State} {g : Grid} {a : AbortInfo} (h : s.memOk) : (s.writeCompletion g a).memOk := by
  unfold writeCompletion
  dsimp only
  split
  · exact h
  · have hr : (if g.rcd.cpl.toNat % 32 = 0 then s.devStore g.fn g.child g.rcd.cpl.toNat (completionBytes a) else (s, false)).1.memOk := by
      split
      · exact memOk_devStore h
      · exact h
    exact memOk_ite hr (memOk_of (contents_logErr ..) hr)

theorem memOk_takeGrid {s : State} {g : Grid} {b : List Byte} {prio : Nat} (h : s.memOk) : (s.takeGrid g b prio).memOk := by
  have hl : ∀ l, (s.launchReads g.fn g.child b l).memOk := fun _ => memOk_of (contents_launchReads ..) h
  unfold takeGrid
  dsimp only
  split
  · exact memOk_signal (memOk_writeCompletion (memOk_of (by simp only [contents_mk, contents_eta]; rfl) (hl _)))
  · refine memOk_of ?_ (hl (s.checkLaunch g.fn g.child b).1)
    simp only [contents_retest, contents_usePrint, contents_foldl, contents_lockPage, contents_mk, contents_eta, implies_true]

theorem memOk_readLaunch {s : State} {o : Op} {d : Dst} (h : s.memOk) : (s.readLaunch o d).memOk := by
  unfold readLaunch
  split
  · dsimp only
    refine memOk_ite (memOk_of ?_ h) (memOk_ite (memOk_of ?_ h) (memOk_ite (memOk_of ?_ h) (memOk_takeGrid (memOk_of ?_ h))))
    all_goals
      simp only [contents_launched, contents_countUE, contents_mk, contents_eta, contents_mapBlock, contents_touch, contents_scrub]
  · exact h

theorem memOk_takeRecord {s : State} {fn q : Nat} (h : s.memOk) : (s.takeRecord fn q).memOk := by
  unfold takeRecord
  dsimp only
  have hr : ∀ off v va, ((s.setCfg fn off v).readRange fn 0 va 128).memOk := fun _ _ _ =>
    memOk_of ((contents_readRange ..).trans (contents_setCfg ..)) h
  split
  · exact memOk_of (contents_logErr ..) (hr ..)
  · exact memOk_takeGrid (hr ..)

theorem memOk_loupeReport {s : State} {g : Grid} (h : s.memOk) : (s.loupeReport g).memOk := by
  unfold loupeReport
  split
  · exact h
  · exact memOk_foldl (fun t i ht => memOk_ite (memOk_devStore ht) (memOk_of (contents_logErr ..) (memOk_devStore ht))) _ h

theorem memOk_retireGrid {s : State} {g : Grid} (h : s.memOk) : (s.retireGrid g).memOk := by
  unfold retireGrid
  refine memOk_of (contents_sweepBinds ..) (memOk_of (contents_unlock ..) (memOk_of (contents_mapGrid ..) ?_))
  split
  · exact memOk_of (by simp only [contents_mk, contents_eta]; rfl) (memOk_loupeReport h)
  · exact memOk_signal (memOk_writeCompletion (memOk_loupeReport h))

/-! ## Saves (R270, R386) -/

theorem memOk_saveCore {s : State} {core fn child : Nat} (h : s.memOk) : (s.saveCore core fn child).memOk := by
  unfold saveCore
  dsimp only
  split
  · exact h
  · refine memOk_of ((contents_settleStops ..).trans (contents_bookCore ..)) (memOk_ite (memOk_of ?_ h) (memOk_imageOut (memOk_of ?_ h)))
    all_goals
      simp only [contents_mk, contents_eta, contents_foldl, contents_saveBlock, contents_forceGangs, contents_ite, contents_passTime,
        ite_self, implies_true]

theorem memOk_restoreBlock {s : State} {b : Block} {core q0 : Nat} (h : s.memOk) : (s.restoreBlock b core q0).memOk := by
  have ho : (if b.elsewhere core = true then s.imageOut b.fn b.child else s).memOk := memOk_ite (memOk_imageOut h) h
  unfold restoreBlock
  dsimp only
  refine memOk_of ?_ ho
  simp only [contents_ite, contents_gridAbort, contents_mk, contents_eta, contents_sweepDarkroom, contents_l1Clear, contents_mapBlock,
    contents_occupy, contents_printFor, ite_self]

theorem memOk_restoreGang {s : State} {b : Block} {cores paid : List Nat} (h : s.memOk) : (s.restoreGang b cores paid).1.memOk := by
  unfold restoreGang
  split
  · exact h
  dsimp only
  split
  · exact memOk_of (contents_foldl (fun _ _ => contents_bookCore ..) _ _) (memOk_foldl (fun t p ht => memOk_restoreBlock ht) _ h)
  · exact h

theorem memOk_swapCore {s : State} {core : Nat} (h : s.memOk) : (s.swapCore core).memOk := by
  refine memOk_pairFold (fun x id hx => ?_) _ (memOk_foldl (fun t p ht => memOk_saveCore ht) _ h)
  split
  · exact memOk_restoreGang hx
  · exact hx

/-! ## Resets (R418, R420) -/

theorem memOk_warmDomain {s : State} (h : s.memOk) : s.warmDomain.memOk := ⟨h.1, rfl⟩

theorem memOk_warmReset {s : State} {cause : Nat} (h : s.memOk) : (s.warmReset cause).memOk :=
  memOk_of (contents_bringUp ..) (memOk_warmDomain (memOk_of (contents_foldl (fun _ _ => contents_persistSheet ..) _ _) h))

theorem memOk_coldDomain (s : State) : s.coldDomain.memOk := ⟨rfl, rfl⟩

theorem memOk_endReset {s : State} {fn : Nat} (h : s.memOk) : (s.endReset fn).memOk := by
  have hd : ((List.range 48).foldl (fun s cl => s.scratchDrop fn cl 0)
      (((s.objs.filter (·.fn = fn)).foldl freeObject s).clearCfg fn)).memOk := by
    refine memOk_foldl (fun t cl ht => memOk_scratchDrop ht) _ (memOk_of ?_ h)
    simp only [contents_clearCfg, contents_foldl, contents_freeObject, implies_true]
  unfold endReset
  refine memOk_of ((contents_foldl (fun t c => ?_) _ _).trans ?_) hd
  · simp only [contents_ite, contents_setPartState, ite_self]
  · simp only [contents_mk, contents_eta]

/-! ## What privileged registers and hosts write (R264–R267, R368, R378) -/

theorem memOk_shrunk {s : State} {fn cl : Nat} (h : s.memOk) : (s.shrunk fn cl).memOk := memOk_scratchDrop (s := s) h

end State

/-- What comes of a write of a privileged register is in canonical form. -/
def PrWrite.memOk : PrWrite → Prop
  | .done s | .wait s => s.memOk
  | .refused => True

namespace State

theorem memOk_setScrw {s : State} {fn cl n : Nat} (h : s.memOk) : (s.setScrw fn cl n).memOk := by
  unfold setScrw
  dsimp only
  split
  · have hs : (s.shrink fn cl n).memOk := memOk_of (contents_shrink ..) h
    split
    · exact hs
    · exact memOk_shrunk hs
  split
  · exact h
  · have hs : (if spGet 0 s.shrinking (64 * fn + cl) ≠ 0 then s.shrunk fn cl else s).memOk := memOk_ite (memOk_shrunk h) h
    exact memOk_of (by simp only [contents_putScrw, contents_waysLeft]) hs

theorem memOk_writeWays {s : State} {fn cl v : Nat} (h : s.memOk) : (s.writeWays fn cl v).memOk := by
  have hs : ∀ n, (s.setScrw fn cl n).memOk := fun n => memOk_setScrw h
  unfold writeWays
  split
  · trivial
  dsimp only
  split
  · next t hr =>
    have ht : t.memOk := by
      split at hr
      · cases hr; exact h
      · have k := hs ((((s.setPr 0x830 fn 0 cl (BitVec.ofNat 64 v)).setPr 0x840 fn 0 cl (BitVec.ofNat 64 v)).clampScrw fn cl (s.scrw fn cl)))
        rw [hr] at k
        exact k
    refine memOk_of ?_ ht
    simp only [contents_setPr, contents_waysLeft, contents_passTime]
  · split
    · exact h
    · exact hs _

theorem memOk_writeHomemode {s : State} {v : Nat} (h : s.memOk) : (s.writeHomemode v).memOk := by
  unfold writeHomemode
  dsimp only
  split
  · trivial
  generalize (if spGet 0 s.flipping _ = 0 then _ else _) = first
  split
  · exact memOk_of (contents_mk ..) h
  · refine memOk_of ?_ h
    simp only [contents_mk, contents_eta, contents_l1ClearRange, contents_writeBack]

theorem memOk_writePool {s : State} {pool v : Nat} (h : s.memOk) : (s.writePool pool v).memOk := by
  unfold writePool
  split
  · trivial
  · exact memOk_of ((contents_leaveF0 ..).trans (contents_setPr ..)) h

theorem memOk_command {s : State} {fn child cmd : Nat} (h : s.memOk) : (s.command fn child cmd).memOk := by
  unfold command
  dsimp only
  split
  · trivial
  split
  · exact memOk_of (contents_activate ..) h
  split
  · exact memOk_of (contents_setPartState ..) h
  split
  · exact memOk_of ((contents_settleStops ..).trans ((contents_signalPreempt ..).trans (contents_setPartState ..))) h
  split
  · exact memOk_of (contents_quiesce ..) h
  split
  · exact memOk_of (contents_destroy ..) h
  · trivial

theorem memOk_writePr {s : State} {n v : Nat} {t : PrSel} (h : s.memOk) : (s.writePr n t v).memOk := by
  have hs : (if payerRegs.contains n then s.passTime else s).memOk := memOk_ite (memOk_of (contents_passTime ..) h) h
  unfold writePr
  dsimp only
  generalize (if payerRegs.contains n = true then s.passTime else s) = u at hs ⊢
  have hput : ∀ fn child, (PrWrite.done (u.setPr n fn child t.inst (BitVec.ofNat 64 v))).memOk := fun _ _ => memOk_of (contents_setPr ..) hs
  have hif : ∀ {p : Prop} [Decidable p] {r : PrWrite}, r.memOk → (if p then r else .refused).memOk := fun {p} _ {r} hr => by
    split
    · exact hr
    · trivial
  -- The cases in the order of the registers in `writePr`: six is the child's fraction (0x824), seven the quota (0x825), twelve the
  -- children's masks (0x82A), thirteen the command (0x82C), fifteen to seventeen ways, waypart and pool, nineteen the home mode (0x860).
  split
  case h_6 => exact hif (memOk_of ((contents_writeQuota ..).trans (contents_setPr ..)) hs)
  case h_7 => exact hif (memOk_of (contents_writeQuota ..) hs)
  case h_12 =>
    split
    · trivial
    · exact hput _ _
  case h_13 => exact hif (memOk_command hs)
  case h_15 => exact memOk_writeWays hs
  case h_16 => exact memOk_setScrw hs
  case h_17 => exact memOk_writePool hs
  case h_19 => exact memOk_writeHomemode hs
  case h_1 | h_2 | h_3 | h_4 | h_5 | h_8 | h_14 | h_20 => exact hif (hput _ _)
  all_goals exact hput _ _

theorem memOk_settle {s : State} {n v : Nat} {t : PrSel} {r : PrWrite} (h : s.memOk) (hr : r.memOk) : (s.settle n t v r).memOk := by
  cases r with
  | done t => exact memOk_of (contents_mk ..) hr
  | wait t => exact memOk_of (contents_mk ..) hr
  | refused => exact memOk_of (by simp only [settle, contents_praError, contents_logRefused, contents_mk, contents_eta]) h

end State
end Sys2Proof.Machine
end

section
/-! Events that write neither memory nor cluster scratch, said once: each leaves both as they were. -/
namespace Sys2Proof.Machine

namespace State

theorem keepsTo_execCombPacketAdmit (s : State) : KeepsTo s (execCombPacketAdmit s) := by
  simp only [execCombPacketAdmit]
  repeat' split
  all_goals simp only [keepsTo_next, contents_unfocus, contents_sendComb, contents_takeIn, contents_setChuck]

theorem keepsTo_execBatchStart (s : State) : KeepsTo s (execBatchStart s) := by
  simp only [execBatchStart]
  repeat' split
  all_goals simp only [keepsTo_next, contents_mk, contents_eta, contents_unfocus, contents_usePrint, contents_setChuck]

theorem keepsTo_execMethodBudgetExpiry (s : State) : KeepsTo s (execMethodBudgetExpiry s) := by
  simp only [execMethodBudgetExpiry]
  repeat' split
  all_goals simp only [keepsTo_next, contents_focus, contents_batchAbort]

theorem keepsTo_execCombComplete (s : State) : KeepsTo s (execCombComplete s) := by
  simp only [execCombComplete]
  repeat' split
  all_goals simp only [keepsTo_next, contents_foldl, implies_true, contents_unfocus, contents_finishComb, contents_remoteAnswers,
    contents_deliverTo, contents_complete, contents_freeObject]

theorem keepsTo_execHangReport (s : State) : KeepsTo s (execHangReport s) := by
  simp only [execHangReport]
  split <;> simp only [keepsTo_next, contents_ite, ite_self, contents_focus, contents_takeHang, contents_hangReported]

theorem keepsTo_execSleepExpiry (s : State) : KeepsTo s (execSleepExpiry s) := by
  simp only [execSleepExpiry, keepsTo_next, contents_mapSplitAt, contents_unfocus]

theorem keepsTo_execBurstEnd (s : State) : KeepsTo s (execBurstEnd s) := by
  simp only [execBurstEnd, keepsTo_next, contents_unfocus, contents_setCluster]

theorem keepsTo_execCurrentGrant (s : State) : KeepsTo s (execCurrentGrant s) := by
  simp only [execCurrentGrant]
  repeat' split
  all_goals simp only [keepsTo_next, contents_unfocus, contents_setCluster, contents_mapOp]

theorem keepsTo_execLoadComplete (s : State) : KeepsTo s (execLoadComplete s) := by
  simp only [execLoadComplete, keepsTo_next, contents_performLoads, contents_unfocus]

theorem keepsTo_execXfRespReplay (s : State) : KeepsTo s (execXfRespReplay s) := by
  simp only [execXfRespReplay, keepsTo_next, contents_xfReplay, contents_unfocus]

theorem keepsTo_execXfRespDeliver (s : State) : KeepsTo s (execXfRespDeliver s) := by
  simp only [execXfRespDeliver, keepsTo_next, contents_xfDeliver, contents_unfocus]

theorem keepsTo_execDrainComplete (s : State) : KeepsTo s (execDrainComplete s) := by
  simp only [execDrainComplete]
  repeat' split
  all_goals simp only [keepsTo_next, contents_mk, contents_eta, contents_unfocus, contents_nextDrain]

theorem keepsTo_execFabricDrainAck (s : State) : KeepsTo s (execFabricDrainAck s) := by
  simp only [execFabricDrainAck, keepsTo_next, contents_mk, contents_eta, contents_unfocus]

theorem keepsTo_execQTailDoorbell (s : State) : KeepsTo s (execQTailDoorbell s) := by
  simp only [execQTailDoorbell, keepsTo_next, contents_ite, ite_self, contents_unfocus, contents_doorbell]

theorem keepsTo_execWaitRetest (s : State) : KeepsTo s (execWaitRetest s) := by
  simp only [execWaitRetest, keepsTo_next, contents_retest, contents_unfocus]

theorem keepsTo_execPriorityAging (s : State) : KeepsTo s (execPriorityAging s) := by
  simp only [execPriorityAging, keepsTo_next, contents_mapGrid, contents_unfocus]

theorem keepsTo_execLaunchAggregate (s : State) : KeepsTo s (execLaunchAggregate s) := by
  simp only [execLaunchAggregate]
  repeat' split
  all_goals simp only [keepsTo_next, contents_unfocus, contents_mapGrid]

theorem keepsTo_execBindRecordInstall (s : State) : KeepsTo s (execBindRecordInstall s) := by
  simp only [execBindRecordInstall]
  repeat' split
  all_goals simp only [keepsTo_next, contents_mk, contents_eta, contents_unfocus, contents_printAsked, contents_discard]

theorem keepsTo_execBindShareRewrite (s : State) : KeepsTo s (execBindShareRewrite s) := by
  simp only [execBindShareRewrite]
  repeat' split
  all_goals simp only [keepsTo_next, contents_mk, contents_eta, contents_unfocus, contents_discard, contents_printAsked, contents_mapWaves]

theorem keepsTo_execBindWithdraw (s : State) : KeepsTo s (execBindWithdraw s) := by
  simp only [execBindWithdraw, keepsTo_next, contents_mk, contents_eta, contents_unfocus, contents_sweepBinds]

theorem keepsTo_execBlockDispatch (s : State) : KeepsTo s (execBlockDispatch s) := by
  simp only [execBlockDispatch]
  repeat' split
  all_goals simp only [keepsTo_next, contents_foldl, implies_true, contents_unfocus, contents_placeBlock, contents_usePrint]

theorem keepsTo_execBlockRetire (s : State) : KeepsTo s (execBlockRetire s) := by
  simp only [execBlockRetire]
  split <;> simp only [keepsTo_next, contents_ite, ite_self, contents_unfocus, contents_retireBlock]

theorem keepsTo_execGangRetire (s : State) : KeepsTo s (execGangRetire s) := by
  simp only [execGangRetire]
  split <;> simp only [keepsTo_next, contents_ite, ite_self, contents_foldl, implies_true, contents_unfocus, contents_retireBlock]

theorem keepsTo_execCodePageVerify (s : State) : KeepsTo s (execCodePageVerify s) := by
  simp only [execCodePageVerify]
  repeat' split
  all_goals simp only [keepsTo_next, contents_focus, contents_book, contents_verifyPages, contents_gridAbort, contents_mapGrid, contents_lockPage]

theorem keepsTo_execRebind (s : State) : KeepsTo s (execRebind s) := by
  simp only [execRebind]
  repeat' split
  all_goals simp only [keepsTo_next, contents_unfocus, contents_mapWave, contents_printFor]

theorem keepsTo_execForcedGrowth (s : State) : KeepsTo s (execForcedGrowth s) := by
  simp only [execForcedGrowth]
  split <;> simp only [keepsTo_next, contents_unfocus, contents_lowerShares, contents_mapWave, contents_printFor]

theorem keepsTo_execTurnAdvance (s : State) : KeepsTo s (execTurnAdvance s) := by
  simp only [execTurnAdvance]
  repeat' split
  all_goals simp only [keepsTo_next, contents_unfocus, contents_releaseAll, contents_mapGrid]

theorem keepsTo_execPowerGood (s : State) : KeepsTo s (execPowerGood s) := by
  simp only [execPowerGood, keepsTo_next, contents_ite, ite_self, contents_unfocus, contents_bringUp]

theorem keepsTo_execQuotaDelivery (s : State) : KeepsTo s (execQuotaDelivery s) := by
  simp only [execQuotaDelivery]
  split <;> simp only [keepsTo_next, contents_focus, contents_takeQuota]

theorem keepsTo_execPreemptDelivery (s : State) : KeepsTo s (execPreemptDelivery s) := by
  simp only [execPreemptDelivery]
  split <;> simp only [keepsTo_next, contents_focus, contents_takePreempt]

theorem keepsTo_execThrottleDelivery (s : State) : KeepsTo s (execThrottleDelivery s) := by
  simp only [execThrottleDelivery]
  split <;> simp only [keepsTo_next, contents_focus, contents_takeThrottle]

theorem keepsTo_execHandlerBudgetOverrun (s : State) : KeepsTo s (execHandlerBudgetOverrun s) := by
  simp only [execHandlerBudgetOverrun]
  split <;> simp only [keepsTo_next, contents_ite, ite_self, contents_unfocus, contents_mapBlock]

theorem keepsTo_execPoolSliceEnd (s : State) : KeepsTo s (execPoolSliceEnd s) := by
  simp only [execPoolSliceEnd]
  split <;> simp only [keepsTo_next, contents_mk, contents_eta, contents_passTime, contents_unfocus, contents_preemptWhere]

theorem keepsTo_execClusterReassign (s : State) : KeepsTo s (execClusterReassign s) := by
  simp only [execClusterReassign]
  split <;> simp only [keepsTo_next, contents_passTime, contents_unfocus, contents_preemptWhere, contents_setCluster]

/-- Time's passing enters by its rule alone: unfolded, it is too large a term to compare. -/
theorem keepsTo_execClassChangeDone (s : State) : KeepsTo s (execClassChangeDone s) := by
  have hp : ∀ s : State, s.passTime.contents = s.contents := contents_passTime
  generalize hf : execClassChangeDone = f
  delta execClassChangeDone at hf
  generalize State.passTime = p at hf hp
  subst hf
  have h : (p s.unfocus).contents = s.contents := (hp _).trans (contents_unfocus s)
  dsimp only
  split
  · exact h
  · rw [keepsTo_next, contents_ite, contents_setCluster, ite_self, h]

theorem keepsTo_execBudgetChange (s : State) : KeepsTo s (execBudgetChange s) := by
  simp only [execBudgetChange, keepsTo_next, contents_ite, ite_self, contents_unfocus, contents_setBudget]

theorem keepsTo_execClockGate (s : State) : KeepsTo s (execClockGate s) := by
  simp only [execClockGate, keepsTo_next, contents_ite, ite_self, contents_unfocus, contents_setGate]

theorem keepsTo_execPowerGate (s : State) : KeepsTo s (execPowerGate s) := by
  simp only [execPowerGate, keepsTo_next, contents_ite, ite_self, contents_unfocus, contents_setGate]

theorem keepsTo_execCoreWake (s : State) : KeepsTo s (execCoreWake s) := by
  simp only [execCoreWake, keepsTo_next, contents_ite, ite_self, contents_unfocus, contents_setGate]

theorem keepsTo_execCalibrationEpoch (s : State) : KeepsTo s (execCalibrationEpoch s) := by
  simp only [execCalibrationEpoch, keepsTo_next, contents_mk, contents_eta, contents_foldl, implies_true, contents_passTime, contents_unfocus,
    contents_calibrate, contents_setPr]

theorem keepsTo_execPeriodicSheet (s : State) : KeepsTo s (execPeriodicSheet s) := by
  simp only [execPeriodicSheet, keepsTo_next, contents_ite, ite_self, contents_foldl, implies_true, contents_unfocus, contents_persistSheet]

theorem keepsTo_execPraDataRead (s : State) : KeepsTo s (execPraDataRead s) := by
  simp only [execPraDataRead]
  repeat' split
  all_goals simp only [keepsTo_next, contents_mk, contents_eta, contents_unfocus, contents_praError]

theorem keepsTo_execDescRead (s : State) : KeepsTo s (execDescRead s) := by
  simp only [execDescRead, keepsTo_next, contents_ite, ite_self, contents_unfocus, contents_send, contents_opRefused]

theorem keepsTo_execQuoteRecord (s : State) : KeepsTo s (execQuoteRecord s) := by
  simp only [execQuoteRecord, keepsTo_next, contents_ite, ite_self, contents_unfocus, contents_send, contents_passTime, contents_opRefused]

theorem keepsTo_execFnhost (s : State) : KeepsTo s (execFnhost s) := by
  simp only [execFnhost]
  repeat' split
  all_goals simp only [keepsTo_next, contents_mk, contents_eta, contents_unfocus, contents_send, contents_opRefused]

theorem keepsTo_execWindowWrite (s : State) : KeepsTo s (execWindowWrite s) := by
  simp only [execWindowWrite]
  repeat' split
  all_goals simp only [keepsTo_next, contents_mk, contents_eta, contents_unfocus, contents_opRefused, contents_send]

theorem keepsTo_execExportWrite (s : State) : KeepsTo s (execExportWrite s) := by
  simp only [execExportWrite]
  repeat' split
  all_goals simp only [keepsTo_next, contents_mk, contents_eta, contents_unfocus, contents_opRefused, contents_send]

theorem keepsTo_execFabricDrainMarker (s : State) : KeepsTo s (execFabricDrainMarker s) := by
  simp only [execFabricDrainMarker]
  repeat' split
  all_goals simp only [keepsTo_next, contents_mk, contents_eta, contents_unfocus, contents_ackMarker]

theorem keepsTo_execFabricPortDown (s : State) : KeepsTo s (execFabricPortDown s) := by
  simp only [execFabricPortDown]
  split <;> simp only [keepsTo_next, contents_mk, contents_eta, contents_unfocus, contents_logErr]

theorem keepsTo_execCxlLinkFail (s : State) : KeepsTo s (execCxlLinkFail s) := by
  simp only [execCxlLinkFail]
  split <;> simp only [keepsTo_next, contents_mk, contents_eta, contents_unfocus, contents_logErr]

theorem keepsTo_execImagePush (s : State) : KeepsTo s (execImagePush s) := by
  simp only [execImagePush]
  repeat' split
  all_goals simp only [keepsTo_next, contents_unfocus, contents_opRefused, contents_send, contents_flashed, contents_bringUp]

theorem keepsTo_execHandoff (s : State) : KeepsTo s (execHandoff s) := by
  simp only [execHandoff]
  repeat' split
  all_goals simp only [keepsTo_next, contents_unfocus, contents_opRefused, contents_featureAbort, contents_send, contents_handOver]

theorem keepsTo_execHandoffTimeout (s : State) : KeepsTo s (execHandoffTimeout s) := by
  simp only [execHandoffTimeout]
  split <;> simp only [keepsTo_next, contents_ite, ite_self, contents_unfocus, contents_featureAbort]

theorem keepsTo_execHandoffRetireReport (s : State) : KeepsTo s (execHandoffRetireReport s) := by
  simp only [execHandoffRetireReport]
  repeat' split
  all_goals simp only [keepsTo_next, contents_unfocus, contents_mapGrid]

theorem keepsTo_execChadyPortResume (s : State) : KeepsTo s (execChadyPortResume s) := by
  simp only [execChadyPortResume, keepsTo_next, contents_mapWave, contents_unfocus]

theorem keepsTo_execChadyPortWrite (s : State) : KeepsTo s (execChadyPortWrite s) := by
  simp only [execChadyPortWrite]
  repeat' split
  all_goals simp only [keepsTo_next, contents_mk, contents_eta, contents_unfocus, contents_portWrites, contents_portShows]

theorem keepsTo_execLatheOpStart (s : State) : KeepsTo s (execLatheOpStart s) := by
  simp only [execLatheOpStart]
  split <;> simp only [keepsTo_next, contents_ite, ite_self, contents_unfocus, contents_startHeavy]

theorem keepsTo_execAccrdComplete (s : State) : KeepsTo s (execAccrdComplete s) := by
  simp only [execAccrdComplete]
  split <;> simp only [keepsTo_next, contents_ite, ite_self, contents_foldl, implies_true, contents_unfocus, contents_didLanes, contents_accItem]

theorem keepsTo_execJobStart (s : State) : KeepsTo s (execJobStart s) := by
  simp only [execJobStart]
  split <;> simp only [keepsTo_next, contents_ite, ite_self, contents_unfocus, contents_startHeavy]

end State

end Sys2Proof.Machine
end

section
/-! Every step keeps memory in canonical form (notes/assumptions/2.md): an instruction's issue, whatever its effect is, every event, an error
that arises, and what follows a move. -/
namespace Sys2Proof.Machine
namespace State

/-! ## What hosts write and other devices access (R264–R267, R378, R430) -/

theorem memOk_commanded {s : State} {cmd : Nat} (h : s.memOk) : (s.commanded cmd).memOk := memOk_ite (memOk_settle h (memOk_command h)) h

theorem memOk_hostWrites {s : State} {n v : Nat} {t : PrSel} (h : s.memOk) : (s.hostWrites n t v).memOk :=
  memOk_ite (memOk_settle h (memOk_writePr h)) h

theorem memOk_hostSheet {s : State} {fn : Nat} (h : s.memOk) : (s.hostSheet fn).memOk := by
  have hw : ∀ va, (s.devWalk fn 0 va).memOk := fun _ => memOk_devWalk h
  unfold hostSheet
  dsimp only
  split
  · refine memOk_ite (memOk_of (contents_logErr ..) (hw _)) (memOk_of (contents_setCfg ..) (memOk_storeAt ?_))
    exact memOk_of (contents_closeSheet ..) (hw _)
  · exact memOk_of (contents_logErr ..) (hw _)

theorem memOk_writeCfg {s : State} {fn off v : Nat} (h : s.memOk) : (s.writeCfg fn off v).memOk := by
  have hset : ∀ x, (s.setCfg fn off x).memOk := fun _ => memOk_of (contents_setCfg ..) h
  unfold writeCfg
  dsimp only
  refine memOk_ite (hset _) (memOk_ite (hset _) (memOk_ite (hset _) (memOk_ite ?answer (memOk_ite (hset _) (memOk_ite ?queue
    (memOk_ite ?waypart (memOk_ite (hset _) (memOk_ite (hset _) (memOk_ite (memOk_ite (memOk_hostSheet h) h) (memOk_ite (hset _)
    (memOk_ite (memOk_ite (hset _) h) h)))))))))))
  case answer =>
    exact memOk_ite (memOk_of (contents_logErr ..) h) (memOk_ite (memOk_of (contents_xfDeliver ..) h) (memOk_of (contents_xfReplay ..) h))
  case queue => exact memOk_of (contents_writeQueue ..) h
  case waypart => exact memOk_settle h (memOk_setScrw h)

theorem memOk_remoteAccess {s : State} {r : RemoteReq} (h : s.memOk) : (s.remoteAccess r).memOk := by
  unfold remoteAccess
  extract_lets u t
  have hu : u.memOk := memOk_of (contents_bookFlit ..) h
  have ht : t.memOk := by
    simp only [t]
    split
    · exact memOk_devWalk hu
    · exact hu
  clear_value t
  split
  · exact memOk_of (contents_remoteRefused ..) ht
  · next a _ =>
    dsimp only
    have hr : ((t.scrub r.tfn .mem a r.bytes).touch r.tfn 0 a r.bytes false).memOk :=
      memOk_of ((contents_touch ..).trans (contents_scrub ..)) ht
    split
    · exact memOk_of (contents_remoteAnswer ..) (memOk_ite (memOk_of (contents_logPoison ..) hr) hr)
    · exact memOk_of (contents_remoteAnswer ..) (memOk_storeAt ht)
    · exact memOk_of ((contents_remoteAnswer ..).trans (contents_remoteCwb ..)) ht
    · have hk : ∀ sl, (((t.scrub r.tfn .mem a r.bytes).touch r.tfn 0 a r.bytes false).bookSlice r.tfn 0 sl [(.homeatom, 1)]).memOk := fun _ =>
        memOk_of (contents_bookSlice ..) hr
      exact memOk_ite (memOk_of ((contents_remoteAnswer ..).trans (contents_logPoison ..)) (hk _))
        (memOk_of (contents_remoteAnswer ..) (memOk_storeAt (hk _)))

/-! ## An instruction's issue -/

theorem memOk_xlateFault {s : State} {c : Cur} {passes va kind : Nat} {x : XFail} {info : Nat} {deliver : State → State}
    (hd : ∀ t, (deliver t).contents = t.contents) (h : s.memOk) : (s.xlateFault c passes va kind x info deliver).memOk := by
  unfold xlateFault
  dsimp only
  refine memOk_ite (memOk_of (hd s) h) (memOk_ite (memOk_of (contents_mk ..) h) ?_)
  exact memOk_of (by simp only [contents_mk, contents_eta, contents_setCfg]; rfl) (memOk_storeAt h)

theorem memOk_slotStop {s t : State} {c : Cur} {passes op : Nat} {slots : List (Nat × Bool)} (h : s.memOk)
    (ht : s.slotStop c passes op slots = some t) : t.memOk := by
  unfold slotStop at ht
  obtain ⟨b, -, rfl⟩ := Option.map_eq_some_iff.1 ht
  cases b with
  | none => exact memOk_of (contents_spillAbort ..) h
  | some p => exact memOk_xlateFault (fun t => contents_spillAbort ..) h

end State

/-- The states that come of an instruction's effect are in canonical form. -/
def Res.MemOk : Res → Prop
  | .done t _ | .jump t _ _ | .trap t _ _ _ | .gone t _ | .forked t _ _ | .booked t | .faultIn t _ _ | .wait t _ | .xlate t _ _ _ _ => t.memOk
  | .fault _ _ | .hold | .holdIn _ => True

theorem Res.Keeps.memOk {s : State} {r : Res} (h : r.Keeps s) (hs : s.memOk) : r.MemOk := by
  cases r
  case xlate => exact State.memOk_of h.1 hs
  case fault | hold | holdIn => trivial
  all_goals exact State.memOk_of h hs

namespace State

theorem memOk_conclude {s : State} {c : Cur} {passes words : Nat} {r : Res} (h : s.memOk) (hr : r.MemOk) :
    (s.conclude c passes words r).memOk := by
  cases r with
  | done t ev => exact memOk_of (contents_bookIssue_finish ..) hr
  | jump t ev pc => exact memOk_of (contents_bookIssue_finish ..) hr
  | trap t ev code info =>
    unfold conclude
    dsimp only
    split
    · exact memOk_of (contents_bookIssue_finish ..) hr
    · exact memOk_of ((contents_deliver ..).trans (contents_bookIssue_finish ..)) hr
  | gone t ev => exact memOk_of (by simp only [conclude, contents_mk, contents_eta, contents_bookIssue]) hr
  | forked t ev pc => exact memOk_of (by simp only [conclude, contents_mk, contents_eta, contents_bookIssue]) hr
  | booked t => exact memOk_of (contents_finish ..) hr
  | fault code info => exact memOk_of (contents_faulted ..) h
  | faultIn t code info => exact memOk_of (contents_faulted ..) hr
  | xlate t va kind x info => exact memOk_xlateFault (fun u => contents_faulted ..) hr
  | hold => exact memOk_of (contents_heldAt ..) h
  | holdIn w => exact memOk_of (contents_heldAt ..) h
  | wait t ev => exact memOk_of ((contents_waits ..).trans (contents_bookIssue ..)) hr

theorem memOk_runs {s : State} {c : Cur} {passes op words : Nat} {x : Ctx} {body : State → Cur → Ctx → Res}
    (hb : ∀ s c x, s.memOk → (body s c x).MemOk) (h : s.memOk) : (s.runs c passes op words x body).memOk := by
  unfold runs
  dsimp only
  split
  · exact memOk_of (contents_faulted ..) h
  split
  · exact memOk_of ((contents_heldAt ..).trans (contents_askBurst ..)) h
  split
  · next ht =>
    split at ht
    · exact memOk_slotStop h ht
    · exact memOk_slotStop h ht
    · exact nomatch ht
  · exact memOk_conclude h (hb _ _ _ (memOk_ite h (memOk_of (contents_burst ..) h)))

theorem memOk_issueOp {s t : State} {op : Nat} {f : Form} {spec : Nat → Spec} {body : State → Cur → Ctx → Res}
    (hb : ∀ s c x, s.memOk → (body s c x).MemOk) (h : s.memOk) (ht : s.issueOp op f spec body = .next t) : t.memOk := by
  unfold issueOp at ht
  split at ht
  · cases ht; exact h
  cases ht
  unfold issueBy
  dsimp only
  split
  · exact memOk_of (contents_faulted ..) h
  split
  · exact memOk_of (contents_faulted ..) h
  split
  · exact memOk_of (contents_faulted ..) h
  · exact memOk_of (contents_heldAt ..) h
  split
  · next hs => exact memOk_slotStop h hs
  split
  · exact h
  · exact memOk_runs hb (memOk_of (contents_prepare ..) h)

/-! ## WRPR and SHEET (R366, R377) -/

theorem memOk_bodyWrpr {s : State} {c : Cur} {x : Ctx} (h : s.memOk) : (bodyWrpr s c x).MemOk := by
  unfold bodyWrpr
  dsimp only
  split
  · trivial
  · next t _ =>
    have hw := fun v => memOk_writePr (n := x.d.sregNum) (v := v) (t := t) (s := { s with cur := some c }) h
    split
    · next hr => have k := hw (x.vA c.split 0 % (if x.aWide then 2 ^ 64 else 2 ^ 32)); rw [hr] at k; exact k
    · next hr => have k := hw (x.vA c.split 0 % (if x.aWide then 2 ^ 64 else 2 ^ 32)); rw [hr] at k; exact k
    · exact memOk_of (contents_logRefused ..) h

theorem memOk_bodySheet {s : State} {c : Cur} {x : Ctx} (h : s.memOk) : (bodySheet s c x).MemOk := by
  have hw : (s.devWalk c.blk.fn c.blk.child (x.vA c.split 0)).memOk := memOk_devWalk h
  unfold bodySheet
  dsimp only
  split
  · trivial
  split
  · trivial
  split
  · exact hw
  split
  · exact hw
  split
  · exact hw
  split
  · exact h
  · exact memOk_storeAt (memOk_of (by simp only [contents_closeSheet, contents_bookIssue, contents_mk, contents_eta]) hw)

/-! ## Errors that arise (R177, R276) -/

theorem memOk_spoilWord {s : State} {w : Word8} (h : s.memOk) : (s.spoilWord w).memOk := by
  cases w <;> exact h

theorem memOk_upsetBy {s : State} {u : Upset} {hard : Bool} (h : s.memOk) : (s.upsetBy u hard).memOk := by
  have hword : ∀ w, (s.upsetWord w hard).memOk := fun w =>
    memOk_ite h (memOk_ite (memOk_spoilWord (s := { s with soft := s.soft.filter (· ≠ w) }) h) (memOk_ite h h))
  cases u with
  | reg blk wid sid key lane => exact memOk_of (contents_upsetReg ..) h
  | word w => exact hword w
  | l1 core line => exact hword (.l1 core line)
  | slice line word =>
    unfold upsetBy upsetSlice
    dsimp only
    split
    · exact h
    · exact memOk_ite (memOk_of (contents_countCE ..) h) (memOk_ite (memOk_spoilWord h) h)
  | tag line =>
    unfold upsetBy upsetTag
    dsimp only
    split
    · exact h
    · exact memOk_ite (memOk_of (contents_countCE ..) h) (memOk_of (contents_mk ..) (memOk_ite (memOk_poisonAt h) h))
  | control blk wid => exact memOk_of (contents_upsetControl ..) h
  | image slot => exact memOk_of (contents_upsetImage ..) h
  | gangPath blk => exact memOk_of (contents_upsetGang ..) h
  | cluster cl fn => exact memOk_of (contents_upsetCluster ..) h
  | chuck slice i => exact memOk_of (contents_upsetChuck ..) h

theorem memOk_upset {s : State} {u : Upset} {hard : Bool} (h : s.memOk) : (s.upset u hard).memOk :=
  memOk_ite (memOk_unfocus h) (memOk_upsetBy (memOk_unfocus h))

end State

/-! ## Every event -/

/-- Where an outcome goes on, its state is in canonical form. -/
def GoesOnOk : Host.Outcome State Fault Refusal → Prop
  | .next t => t.memOk
  | _ => True

theorem GoesOnOk.memOk {t : State} {o : Host.Outcome State Fault Refusal} (h : GoesOnOk o) (ht : o = .next t) : t.memOk := by
  subst ht; exact h

theorem KeepsTo.goesOnOk {s : State} {o : Host.Outcome State Fault Refusal} (k : KeepsTo s o) (h : s.memOk) : GoesOnOk o := by
  cases o with
  | next t => exact State.memOk_of k h
  | fault e => trivial
  | refused r => trivial

namespace State

theorem goesOnOk_execStorePerformed {s : State} (h : s.memOk) : GoesOnOk (execStorePerformed s) :=
  memOk_advance (fun _ ht => memOk_performStores ht) (memOk_unfocus h)

theorem goesOnOk_execAtomicPerformed {s : State} (h : s.memOk) : GoesOnOk (execAtomicPerformed s) :=
  memOk_advance (fun _ ht => memOk_performAtomic ht) (memOk_unfocus h)

theorem goesOnOk_execLatheOpComplete {s : State} (h : s.memOk) : GoesOnOk (execLatheOpComplete s) := by
  have hu := memOk_unfocus h
  unfold execLatheOpComplete
  dsimp only
  split
  · exact hu
  split
  · exact hu
  split
  · exact memOk_latheWork hu
  · exact memOk_ite (memOk_of ((contents_completeHeavy ..).trans (contents_lathePlaces ..)) (memOk_latheWork hu))
      (memOk_of (contents_markWorked ..) (memOk_latheWork hu))

theorem goesOnOk_execJobComplete {s : State} (h : s.memOk) : GoesOnOk (execJobComplete s) := by
  have hu := memOk_unfocus h
  unfold execJobComplete
  dsimp only
  split
  · exact hu
  split
  · split
    · exact hu
    split
    · exact memOk_jobSteps hu
    · exact memOk_ite (memOk_of ((contents_completeHeavy ..).trans (contents_cardPlaces ..)) (memOk_jobSteps hu))
        (memOk_of (contents_markWorked ..) (memOk_jobSteps hu))
  · exact hu

theorem goesOnOk_execTranslationWalk {s : State} (h : s.memOk) : GoesOnOk (execTranslationWalk s) := by
  have hw : (s.unfocus.walked s.arg.fn s.arg.child s.arg.va.toNat).memOk := memOk_of (contents_walked ..) (memOk_unfocus h)
  unfold execTranslationWalk
  dsimp only
  split
  · exact memOk_of (contents_foldl (fun _ _ => contents_cache ..) _ _) hw
  split
  · exact memOk_focus hw
  split
  · exact memOk_xlateFault (fun t => contents_deliver ..) (memOk_focus hw)
  · exact memOk_focus hw

theorem goesOnOk_execRecordAdmit {s : State} (h : s.memOk) : GoesOnOk (execRecordAdmit s) := by
  have hu := memOk_unfocus h
  unfold execRecordAdmit
  dsimp only
  split
  · split
    · exact hu
    split
    · exact memOk_ite (memOk_of (contents_sweepChwait ..) (memOk_readLaunch hu)) hu
    · exact hu
  · exact memOk_ite (memOk_takeRecord hu) hu

theorem goesOnOk_execGridRetire {s : State} (h : s.memOk) : GoesOnOk (execGridRetire s) := by
  have hu := memOk_unfocus h
  unfold execGridRetire
  dsimp only
  split
  · exact hu
  split
  · exact hu
  split
  · exact memOk_of (contents_askDrain ..) hu
  split
  · exact hu
  · exact memOk_of (contents_sweepChwait ..) (memOk_foldl (fun t g ht => memOk_retireGrid ht) _ (memOk_of (contents_leaveDrain ..) hu))

theorem goesOnOk_execBlockSave {s : State} (h : s.memOk) : GoesOnOk (execBlockSave s) := by
  have hu := memOk_unfocus h
  unfold execBlockSave
  dsimp only
  split
  · exact hu
  · exact memOk_ite (memOk_saveCore hu) hu

theorem goesOnOk_execBlockRestore {s : State} (h : s.memOk) : GoesOnOk (execBlockRestore s) := by
  have hu := memOk_unfocus h
  unfold execBlockRestore
  dsimp only
  split
  · exact hu
  · exact memOk_restoreGang hu

theorem goesOnOk_execDieTempChange {s : State} (h : s.memOk) : GoesOnOk (execDieTempChange s) := by
  have hu := memOk_unfocus h
  unfold execDieTempChange
  dsimp only
  split
  · exact hu
  · refine memOk_ite (memOk_warmReset ?budgets) ?budgets
    exact memOk_foldl (fun t cl ht => memOk_of (contents_setBudget ..) ht) _ (memOk_of (contents_mk ..) hu)

theorem goesOnOk_execConfigRegisterWrite {s : State} (h : s.memOk) : GoesOnOk (execConfigRegisterWrite s) := by
  have hu := memOk_unfocus h
  unfold execConfigRegisterWrite
  dsimp only
  split
  · exact hu
  split
  · split
    · exact memOk_of (contents_praError ..) hu
    split
    · exact memOk_of (contents_praError ..) hu
    · exact memOk_settle hu (memOk_writePr hu)
  · exact memOk_writeCfg hu

theorem goesOnOk_execPraDataWrite {s : State} (h : s.memOk) : GoesOnOk (execPraDataWrite s) := by
  have hu := memOk_unfocus h
  unfold execPraDataWrite
  dsimp only
  split
  · exact hu
  split
  · exact memOk_of (contents_praError ..) hu
  split
  · exact memOk_of (contents_praError ..) hu
  · exact memOk_settle hu (memOk_writePr hu)

theorem goesOnOk_execRemoteAccessArrival {s : State} (h : s.memOk) : GoesOnOk (execRemoteAccessArrival s) := by
  have hu := memOk_unfocus h
  unfold execRemoteAccessArrival
  dsimp only
  split
  · exact hu
  · exact memOk_ite (memOk_of (contents_remoteComb ..) hu) (memOk_remoteAccess hu)

theorem goesOnOk_execRemoteTimeout {s : State} (h : s.memOk) : GoesOnOk (execRemoteTimeout s) := by
  have hu := memOk_unfocus h
  unfold execRemoteTimeout
  dsimp only
  split
  · exact hu
  split
  · exact memOk_of (contents_performLoads ..) hu
  · exact memOk_performStores hu
  · exact memOk_performStores hu
  · exact memOk_foldl (fun t i ht => memOk_performAtomic ht) _ hu
  · split
    · show State.memOk _
      split
      · exact memOk_of ((contents_finishComb ..).trans (contents_remoteAnswers ..)) hu
      · exact memOk_of (contents_remoteAnswers ..) hu
    · exact hu
  · exact hu

theorem goesOnOk_execDieLinkDown {s : State} (h : s.memOk) : GoesOnOk (execDieLinkDown s) := by
  have hu := memOk_unfocus h
  unfold execDieLinkDown
  dsimp only
  split
  · exact hu
  · have hl : ∀ (x : State) hw, x.memOk → State.memOk { x with hw } := fun _ _ hx => hx
    exact memOk_ite (hl _ _ (memOk_of (contents_logErr ..) hu)) (memOk_warmReset (hl _ _ (memOk_of (contents_logErr ..) hu)))

theorem goesOnOk_execFunctionReset {s : State} (h : s.memOk) : GoesOnOk (execFunctionReset s) := by
  have hu := memOk_unfocus h
  unfold execFunctionReset
  dsimp only
  split
  · exact hu
  · refine memOk_ite (memOk_endReset ?begun) ?begun
    exact memOk_ite hu (memOk_of (contents_beginReset ..) hu)

theorem goesOnOk_execHandoffArrival {s : State} (h : s.memOk) : GoesOnOk (execHandoffArrival s) := by
  have hu := memOk_unfocus h
  unfold execHandoffArrival
  dsimp only
  split
  · exact hu
  split
  · exact memOk_of (contents_send ..) hu
  · exact memOk_of (contents_mapGrid ..) (memOk_takeGrid hu)

theorem goesOnOk_execQuiesce {s : State} (h : s.memOk) : GoesOnOk (execQuiesce s) :=
  memOk_ite (memOk_of (contents_quiesceOn ..) (memOk_unfocus h)) (memOk_commanded (memOk_unfocus h))

/-- An event keeps memory in canonical form. -/
theorem goesOnOk_exec_event {i : Instr} {s : State} (hi : opcodeForm i = none) (h : s.memOk) : GoesOnOk (exec i s) := by
  have hu := memOk_unfocus h
  cases i
  case hangReport => exact (keepsTo_execHangReport s).goesOnOk h
  case sleepExpiry => exact (keepsTo_execSleepExpiry s).goesOnOk h
  case burstEnd => exact (keepsTo_execBurstEnd s).goesOnOk h
  case currentGrant => exact (keepsTo_execCurrentGrant s).goesOnOk h
  case loadComplete => exact (keepsTo_execLoadComplete s).goesOnOk h
  case storePerformed => exact goesOnOk_execStorePerformed h
  case atomicPerformed => exact goesOnOk_execAtomicPerformed h
  case latheOpStart => exact (keepsTo_execLatheOpStart s).goesOnOk h
  case latheOpComplete => exact goesOnOk_execLatheOpComplete h
  case accrdComplete => exact (keepsTo_execAccrdComplete s).goesOnOk h
  case jobStart => exact (keepsTo_execJobStart s).goesOnOk h
  case jobComplete => exact goesOnOk_execJobComplete h
  case translationWalk => exact goesOnOk_execTranslationWalk h
  case xfRespReplay => exact (keepsTo_execXfRespReplay s).goesOnOk h
  case xfRespDeliver => exact (keepsTo_execXfRespDeliver s).goesOnOk h
  case combPacketAdmit => exact (keepsTo_execCombPacketAdmit s).goesOnOk h
  case batchStart => exact (keepsTo_execBatchStart s).goesOnOk h
  case methodBudgetExpiry => exact (keepsTo_execMethodBudgetExpiry s).goesOnOk h
  case combComplete => exact (keepsTo_execCombComplete s).goesOnOk h
  case drainComplete => exact (keepsTo_execDrainComplete s).goesOnOk h
  case fabricDrainAck => exact (keepsTo_execFabricDrainAck s).goesOnOk h
  case qTailDoorbell => exact (keepsTo_execQTailDoorbell s).goesOnOk h
  case recordAdmit => exact goesOnOk_execRecordAdmit h
  case waitRetest => exact (keepsTo_execWaitRetest s).goesOnOk h
  case priorityAging => exact (keepsTo_execPriorityAging s).goesOnOk h
  case launchAggregate => exact (keepsTo_execLaunchAggregate s).goesOnOk h
  case bindRecordInstall => exact (keepsTo_execBindRecordInstall s).goesOnOk h
  case bindShareRewrite => exact (keepsTo_execBindShareRewrite s).goesOnOk h
  case bindWithdraw => exact (keepsTo_execBindWithdraw s).goesOnOk h
  case blockDispatch => exact (keepsTo_execBlockDispatch s).goesOnOk h
  case blockRetire => exact (keepsTo_execBlockRetire s).goesOnOk h
  case gangRetire => exact (keepsTo_execGangRetire s).goesOnOk h
  case gridRetire => exact goesOnOk_execGridRetire h
  case codePageVerify => exact (keepsTo_execCodePageVerify s).goesOnOk h
  case rebind => exact (keepsTo_execRebind s).goesOnOk h
  case forcedGrowth => exact (keepsTo_execForcedGrowth s).goesOnOk h
  case turnAdvance => exact (keepsTo_execTurnAdvance s).goesOnOk h
  case quotaDelivery => exact (keepsTo_execQuotaDelivery s).goesOnOk h
  case preemptDelivery => exact (keepsTo_execPreemptDelivery s).goesOnOk h
  case throttleDelivery => exact (keepsTo_execThrottleDelivery s).goesOnOk h
  case handlerBudgetOverrun => exact (keepsTo_execHandlerBudgetOverrun s).goesOnOk h
  case blockSave => exact goesOnOk_execBlockSave h
  case blockRestore => exact goesOnOk_execBlockRestore h
  case poolSliceEnd => exact (keepsTo_execPoolSliceEnd s).goesOnOk h
  case clusterReassign => exact (keepsTo_execClusterReassign s).goesOnOk h
  case classChangeDone => exact (keepsTo_execClassChangeDone s).goesOnOk h
  case budgetChange => exact (keepsTo_execBudgetChange s).goesOnOk h
  case dieTempChange => exact goesOnOk_execDieTempChange h
  case clockGate => exact (keepsTo_execClockGate s).goesOnOk h
  case powerGate => exact (keepsTo_execPowerGate s).goesOnOk h
  case coreWake => exact (keepsTo_execCoreWake s).goesOnOk h
  case calibrationEpoch => exact (keepsTo_execCalibrationEpoch s).goesOnOk h
  case periodicSheet => exact (keepsTo_execPeriodicSheet s).goesOnOk h
  case quiesce => exact goesOnOk_execQuiesce h
  case praDataRead => exact (keepsTo_execPraDataRead s).goesOnOk h
  case praDataWrite => exact goesOnOk_execPraDataWrite h
  case configRegisterWrite => exact goesOnOk_execConfigRegisterWrite h
  case descRead => exact (keepsTo_execDescRead s).goesOnOk h
  case quoteRecord => exact (keepsTo_execQuoteRecord s).goesOnOk h
  case fnhost => exact (keepsTo_execFnhost s).goesOnOk h
  case windowWrite => exact (keepsTo_execWindowWrite s).goesOnOk h
  case exportWrite => exact (keepsTo_execExportWrite s).goesOnOk h
  case handoff => exact (keepsTo_execHandoff s).goesOnOk h
  case imagePush => exact (keepsTo_execImagePush s).goesOnOk h
  case handoffTimeout => exact (keepsTo_execHandoffTimeout s).goesOnOk h
  case remoteAccessArrival => exact goesOnOk_execRemoteAccessArrival h
  case remoteTimeout => exact goesOnOk_execRemoteTimeout h
  case dieLinkDown => exact goesOnOk_execDieLinkDown h
  case fabricPortDown => exact (keepsTo_execFabricPortDown s).goesOnOk h
  case cxlLinkFail => exact (keepsTo_execCxlLinkFail s).goesOnOk h
  case powerGood => exact (keepsTo_execPowerGood s).goesOnOk h
  case functionReset => exact goesOnOk_execFunctionReset h
  case chadyPortResume => exact (keepsTo_execChadyPortResume s).goesOnOk h
  case chadyPortWrite => exact (keepsTo_execChadyPortWrite s).goesOnOk h
  case fabricDrainMarker => exact (keepsTo_execFabricDrainMarker s).goesOnOk h
  case handoffArrival => exact goesOnOk_execHandoffArrival h
  case handoffRetireReport => exact (keepsTo_execHandoffRetireReport s).goesOnOk h
  case darkroomSwap => exact memOk_swapCore hu
  case shReq => exact memOk_ite (memOk_hostSheet hu) hu
  case activate | resume | stopPartition | destroy => exact memOk_commanded hu
  case pmQuotaWrite | homemodeWrite | ccWaypartWrite | pmWaysWrite | poolClWrite => exact memOk_hostWrites hu
  case coldPowerLoss => exact memOk_ite (memOk_coldDomain _) hu
  case warmReset | headstockWatchdog => exact memOk_ite (memOk_warmReset hu) hu
  all_goals exact nomatch hi

/-- An instruction keeps memory in canonical form as it issues. -/
theorem memOk_exec_issue {i : Instr} {op : BitVec 9} {f : Form} {s t : State} (hi : opcodeForm i = some (op, f)) (h : s.memOk)
    (ht : exec i s = .next t) : t.memOk := by
  rcases effectKeeps_of_form hi with ⟨n, g, body, he, hb⟩ | ⟨o, g, rfl⟩ | ⟨o, g, rfl⟩ | ⟨g, rfl⟩ | ⟨g, rfl⟩ | ⟨g, rfl⟩
  · obtain ⟨spec, hs⟩ := he s
    exact memOk_issueOp (fun s c x hs => (hb s c x).memOk hs) h (hs.symm.trans ht)
  · exact memOk_of ((keepsTo_execIllegalOpcode ..).contents ht) h
  · exact memOk_of ((keepsTo_execReservedOpcode ..).contents ht) h
  · exact memOk_issueOp (fun _ _ _ hs => memOk_bodyWrpr hs) h ht
  · exact memOk_issueOp (fun _ _ _ hs => memOk_bodySheet hs) h ht
  · exact memOk_issueOp (fun _ _ _ hs => memOk_bodySheet hs) h ht

theorem memOk_exec {i : Instr} {s t : State} (h : s.memOk) (ht : exec i s = .next t) : t.memOk := by
  cases hi : opcodeForm i with
  | none => exact (goesOnOk_exec_event hi h).memOk ht
  | some p => exact memOk_exec_issue hi h ht

/-! ## A move (R33, R162, R240, R443) -/

theorem goesOnOk_exec {i : Instr} {s : State} (h : s.memOk) : GoesOnOk (exec i s) := by
  cases he : exec i s with
  | next t => exact memOk_exec h he
  | fault e => trivial
  | refused r => trivial

theorem goesOnOk_after {f : State → State} {o : Host.Outcome State Fault Refusal} (hf : ∀ t, t.memOk → (f t).memOk) (h : GoesOnOk o) :
    GoesOnOk (Machine.after f o) := by
  cases o with
  | next t => exact hf t h
  | fault e => trivial
  | refused r => trivial

theorem memOk_wake {s : State} (h : s.memOk) : s.wake.memOk := memOk_of (contents_wake s) h

theorem goesOnOk_happens {s : State} {i : Instr} {arg : EvArg} (h : s.memOk) : GoesOnOk (s.happens i arg) :=
  goesOnOk_after (fun _ ht => memOk_wake ht) (goesOnOk_exec (s := { s.unfocus with arg }) (memOk_unfocus h))

theorem goesOnOk_fetched {s : State} {c : Cur} {r : Fetched} (h : s.memOk) : GoesOnOk (s.fetched c r) := by
  unfold fetched
  split
  · split
    · exact h
    · exact goesOnOk_after (fun t ht => memOk_of (contents_issuedBy ..) ht) (goesOnOk_exec h)
  · exact h
  · exact memOk_wake (memOk_of (contents_deliver ..) h)
  · dsimp only
    show State.memOk _
    split
    · exact memOk_of (contents_batchAbort ..) h
    · exact memOk_of (contents_gridAbort ..) h
  · exact memOk_xlateFault (fun t => contents_deliver ..) h
  · exact h

theorem memOk_loadFields {c : Cur} {l : List Par} {s : State} (h : s.memOk) : (s.loadFields c l).memOk := by
  induction l generalizing s c with
  | nil => exact memOk_of (contents_mk ..) (memOk_of (contents_bookCore ..) h)
  | cons p rest ih =>
    have hp := memOk_of (contents_readParam s c.blk p) h
    unfold loadFields
    split
    · next hr =>
      rw [hr] at hp
      dsimp only
      split
      · exact memOk_xlateFault (fun t => contents_gridAbort ..) hp
      · exact memOk_of (contents_gridAbort ..) hp
    · next hr =>
      rw [hr] at hp
      exact ih (memOk_ite (memOk_of (contents_logErr ..) hp) hp)

theorem goesOnOk_boundary {s : State} {c : Cur} (h : s.memOk) : GoesOnOk (s.boundary c) := by
  unfold boundary
  split
  · exact goesOnOk_happens h
  split
  · exact h
  split
  · exact memOk_ite (memOk_loadFields h) h
  · exact goesOnOk_fetched (memOk_of (contents_fetch ..) h)

theorem goesOnOk_issueMove {s : State} {blk wid sid : Nat} (h : s.memOk) : GoesOnOk (s.issueMove blk wid sid) := by
  have hf : (s.focus blk wid sid).memOk := memOk_focus h
  unfold issueMove
  dsimp only
  split
  · exact hf
  · exact goesOnOk_boundary hf

theorem goesOnOk_firstOf {s : State} {l : List (Instr × EvArg)} {o : Host.Outcome State Fault Refusal} (h : s.memOk)
    (ho : s.firstOf l = some o) : GoesOnOk o := by
  induction l with
  | nil => exact nomatch ho
  | cons p rest ih =>
    have he : GoesOnOk (exec p.1 { s with arg := p.2 }) := goesOnOk_exec h
    unfold firstOf at ho
    split at ho
    · next hn =>
      rw [hn] at he
      split at ho
      · exact ih ho
      · cases ho; exact memOk_wake he
    · cases ho; exact he

theorem goesOnOk_issuePick {s : State} {strict : Bool} {o : Host.Outcome State Fault Refusal} (h : s.memOk)
    (ho : s.issuePick strict = some o) : GoesOnOk o := by
  obtain ⟨w, -, rfl⟩ := Option.map_eq_some_iff.1 ho
  exact goesOnOk_issueMove h

theorem goesOnOk_issueFirst {s : State} (h : s.memOk) : GoesOnOk s.issueFirst := by
  unfold issueFirst
  split
  · next ho => exact goesOnOk_issuePick h ho
  split
  · next ho => exact goesOnOk_firstOf h ho
  · cases ho : s.issuePick false with
    | none => exact h
    | some o => exact goesOnOk_issuePick h ho

theorem goesOnOk_choose {s : State} (h : s.memOk) : GoesOnOk s.choose := by
  have hu := memOk_unfocus h
  unfold choose
  dsimp only
  split
  · split
    · next ho => exact goesOnOk_firstOf hu ho
    · exact goesOnOk_issueFirst hu
  · exact goesOnOk_issueFirst hu

theorem memOk_followed {s t : State} (h : s.memOk) (ht : t.memOk) : (s.followed t).memOk := by
  unfold followed
  cases he : s.entryStop t with
  | none => exact memOk_spills ht
  | some u =>
    unfold entryStop at he
    split at he
    · exact nomatch he
    · obtain ⟨x, -, hx⟩ := Option.bind_eq_some_iff.1 he
      split at hx
      · exact memOk_slotStop (memOk_focus (s := { s with agenda := t.agenda }) h) hx
      · exact nomatch hx

theorem goesOnOk_move {s : State} (h : s.memOk) : GoesOnOk s.move := by
  refine goesOnOk_after (fun t ht => memOk_followed h ht) ?_
  split
  · exact goesOnOk_happens h
  · exact goesOnOk_issueMove h
  · exact memOk_wake (memOk_upset h)
  · exact goesOnOk_choose h

end State

/-- Settles O48: memory stays in canonical form through whatever moves, an event, an issue or an error that arises, and through what follows it. -/
theorem stepKeepsMemoryCanonical : Obligations.StepKeepsMemoryCanonical :=
  fun _ _ h ht => (State.goesOnOk_move h).memOk ht

end Sys2Proof.Machine
end

section
/-! The tile and matrix instructions (R207–R215, R401). -/
namespace Sys2Proof.Machine

/-! ## TDSET -/

/-- Whether an operand names a buffer. -/
def Opnd.isSym : Opnd → Bool
  | .sym _ => true
  | _ => false

theorem Opnd.isSym_iff (o : Opnd) : o.isSym = true ↔ ∃ n, o = .sym n := by
  cases o <;> simp [isSym]

/-- The k-blocks of a row that TDSET's C names: one where it is `zero`. -/
def Ctx.kblocks (x : Ctx) (sp : Split) : Nat := if x.c = .zero then 1 else x.vC sp 0 % 2 ^ 32

/-- The rows of a descriptor of TDSET's role. -/
def tdRows (m : Nat) : Nat := if tdRole m then 128 else 96

/-- TDSET's descriptor in its register, and the operation on `mma` that is complete as it issues. -/
def State.described (s : State) (c : Cur) (x : Ctx) : State :=
  let v := descValue (tdRole x.m) (tdFmt x.m) (x.kblocks c.split) x.a.symNum (if 12 ≤ tdFmt x.m then x.b.symNum else 0xFFFF)
  (({ s with cur := some { c with split := c.split.land (.td x.d.unitNum) [(0, BitVec.ofNat 64 v)] } } : State).addOp
    { heavyOp 5 .instant [] [] with complete := true }).retire

/-- A descriptor whose blocks, scales and buffers pass R208 is written. -/
theorem bodyTdset_of_fits {s : State} {c : Cur} {x : Ctx} (hk : 1 ≤ x.kblocks c.split ∧ x.kblocks c.split ≤ 8)
    (hb : (∃ n, x.b = .sym n) ↔ 12 ≤ tdFmt x.m)
    (ha : 128 ≤ (((s.kernelOf c.blk).bufs[x.a.symNum]?).map (·.align)).getD 0)
    (hn : tdRows x.m * x.kblocks c.split * blockBytes (tdFmt x.m) ≤ (((s.kernelOf c.blk).bufs[x.a.symNum]?).map (·.size)).getD 0)
    (hs : 12 ≤ tdFmt x.m → tdRows x.m * x.kblocks c.split ≤ (((s.kernelOf c.blk).bufs[x.b.symNum]?).map (·.size)).getD 0)
    (hf : s.pathFull c 5 = false) : bodyTdset s c x = .done (s.described c x) [(.td, 1)] := by
  have blocks : ¬ (x.kblocks c.split < 1 ∨ 8 < x.kblocks c.split) := by omega
  have scales : ¬ x.b.isSym ≠ decide (12 ≤ tdFmt x.m) := by
    rw [not_not, Bool.eq_iff_iff, Opnd.isSym_iff, hb, decide_eq_true_iff]
  have data : ¬ ((((s.kernelOf c.blk).bufs[x.a.symNum]?).map (·.align)).getD 0 < 128 ∨
      (((s.kernelOf c.blk).bufs[x.a.symNum]?).map (·.size)).getD 0 < tdRows x.m * x.kblocks c.split * blockBytes (tdFmt x.m)) := by
    omega
  have scale : ¬ (decide (12 ≤ tdFmt x.m) = true ∧
      (((s.kernelOf c.blk).bufs[x.b.symNum]?).map (·.size)).getD 0 < tdRows x.m * x.kblocks c.split) := by
    rintro ⟨hm, hlt⟩
    exact absurd (hs (of_decide_eq_true hm)) (Nat.not_le.2 hlt)
  refine (if_neg blocks).trans ((if_neg scales).trans ((if_neg data).trans ((if_neg scale).trans ?_)))
  simp only [hf, Bool.false_eq_true, if_false, State.described, decide_eq_true_eq]
  rfl

/-! ## MMA -/

/-- An MMA of the descriptors that a split reads, with its MODE, as the scheduler receives it. -/
def State.mmaOp (s : State) (blk : Nat) (sp : Split) (x : Ctx) : Op :=
  let da := sp.desc x.a.unitNum
  let db := sp.desc x.b.unitNum
  heavyOp 5 (.mma x.d.unitNum da db (BitVec.ofNat 32 x.mode)) (tileRange x.d.unitNum :: (s.descRanges blk da ++ s.descRanges blk db))
    [tileRange x.d.unitNum]

/-- An MMA of two valid descriptors that fit each other is received. -/
theorem bodyMma_of_pair {s : State} {c : Cur} {x : Ctx} {sp : Split} {rate : Nat} (hsp : c.split = sp)
    (hr : kstepOf (sp.desc x.a.unitNum).fmt (sp.desc x.b.unitNum).fmt = some rate)
    (hva : (sp.desc x.a.unitNum).valid = true) (hvb : (sp.desc x.b.unitNum).valid = true)
    (hra : (sp.desc x.a.unitNum).role = false) (hrb : (sp.desc x.b.unitNum).role = true)
    (hk : (sp.desc x.a.unitNum).kb = (sp.desc x.b.unitNum).kb) (hf : s.pathFull c 5 = false) :
    bodyMma s c x = .done (s.receive (s.mmaOp c.blk.id sp x)) [(kstepEv rate, 32 * (sp.desc x.a.unitNum).kb)] := by
  subst hsp
  simp [bodyMma, hr, hva, hvb, hra, hrb, hk, hf, State.mmaOp]

/-! ## ACCZ, ACCRD and ACCWR -/

theorem bodyAccz_of_free {s : State} {c : Cur} {x : Ctx} (hf : s.pathFull c 5 = false) :
    bodyAccz s c x = .done (s.receive (heavyOp 5 (.accz x.d.unitNum) [] [tileRange x.d.unitNum])) [(.acctile, 1)] :=
  if_neg (by simp [hf])

@[simp] theorem Ctx.length_elems (x : Ctx) (sp : Split) : (x.elems sp).length = x.lanes.length := List.length_map _

theorem Ctx.isEmpty_elems {x : Ctx} (sp : Split) : (x.elems sp).isEmpty = x.lanes.isEmpty := List.isEmpty_map

/-- Where each lane's element is in the tile, none is found outside it. -/
theorem Ctx.find_outside_of_inTile {x : Ctx} {sp : Split} (h : ∀ p ∈ x.elems sp, p.2.1 < 96 ∧ p.2.2 < 128) :
    ((x.elems sp).find? fun p => 96 ≤ p.2.1 || 128 ≤ p.2.2) = none := by
  simpa using h

theorem bodyAccrd_of_no_lanes {s : State} {c : Cur} {x : Ctx} (h : x.lanes = []) : bodyAccrd s c x = .done s [] :=
  if_pos (by simp [Ctx.isEmpty_elems, h])

/-- A read of elements of the tile, none poisoned, is in flight. -/
theorem bodyAccrd_of_inTile {s : State} {c : Cur} {x : Ctx} (hl : x.lanes ≠ [])
    (ht : ∀ p ∈ x.elems c.split, p.2.1 < 96 ∧ p.2.2 < 128) (hf : s.pathFull c 5 = false)
    (hp : ∀ p ∈ x.elems c.split, spGet false c.blk.tilePoison (elemKey x.a.unitNum p.2.1 p.2.2) = false) :
    bodyAccrd s c x = .done (s.addOp (accOp (.accrd x.a.unitNum (dstOf x.d false)) x.a.unitNum (x.elems c.split) fun _ => 0))
      [(.accrw, x.lanes.length)] := by
  have clean : ((x.elems c.split).find? fun p => spGet false c.blk.tilePoison (elemKey x.a.unitNum p.2.1 p.2.2)) = none := by
    simpa using hp
  refine (if_neg (by simpa [Ctx.isEmpty_elems] using hl)).trans ?_
  simp only [Ctx.find_outside_of_inTile ht, clean, hf, Bool.false_eq_true, if_false, Ctx.length_elems]

theorem bodyAccwr_of_no_lanes {s : State} {c : Cur} {x : Ctx} (h : x.lanes = []) : bodyAccwr s c x = .done s [] :=
  if_pos (by simp [Ctx.isEmpty_elems, h])

/-- A write of elements of the tile is in flight. -/
theorem bodyAccwr_of_inTile {s : State} {c : Cur} {x : Ctx} (hl : x.lanes ≠ [])
    (ht : ∀ p ∈ x.elems c.split, p.2.1 < 96 ∧ p.2.2 < 128) (hf : s.pathFull c 5 = false) :
    bodyAccwr s c x = .done (s.addOp (accOp (.accwr x.d.unitNum) x.d.unitNum (x.elems c.split) fun n => BitVec.ofNat 64 (x.vA c.split n)))
      [(.accrw, x.lanes.length)] := by
  refine (if_neg (by simpa [Ctx.isEmpty_elems] using hl)).trans ?_
  simp only [Ctx.find_outside_of_inTile ht, hf, Bool.false_eq_true, if_false, Ctx.length_elems]

/-! ## ACCLD and ACCST -/

/-- The bytes from a matrix's first to its last. -/
def Ctx.accLen (x : Ctx) (sp : Split) : Nat := 95 * (x.vB sp 0 % 2 ^ 32) + 128 * accBytes (Mod.type x.m)

/-- An ACCLD or ACCST with the translations of its matrix, and the entries that its rows will make in staging. -/
def State.accStaged (s : State) (wr : Bool) (kind : Nat → Dword → Nat → Word → List (Nat × Nat × Nat) → OpKind) (blk : Block)
    (sp : Split) (x : Ctx) (pages : List (Nat × Nat × Nat)) : Op × List (Space × Nat) :=
  let a := x.vA sp 0
  let b := x.vB sp 0 % 2 ^ 32
  let tile := [tileRange x.d.unitNum]
  let hull := [globalRange a (x.accLen sp)]
  s.staging blk (if wr then (List.range 96).map fun r => (a + r * b, 128 * accBytes (Mod.type x.m)) else []) pages
    { heavyOp 5 (kind x.d.unitNum (BitVec.ofNat 64 a) b (BitVec.ofNat 32 x.mode) pages) (if wr then tile else hull)
      (if wr then hull else tile) with pol := max 2 (Mod.pol x.m) }

/-- A matrix that is aligned, in range and translated is received, where staging has room for its rows or needs none. -/
theorem accMem_of_translated {wr : Bool} (kind : Nat → Dword → Nat → Word → List (Nat × Nat × Nat) → OpKind) {s t : State} {c : Cur}
    {x : Ctx} {sp : Split} {pages : List (Nat × Nat × Nat)} {stop : Nat} (hsp : c.split = sp) (hstop : x.vA sp 0 + x.accLen sp = stop)
    (ha : x.vA sp 0 % accBytes (Mod.type x.m) = 0) (hb : x.vB sp 0 % 2 ^ 32 % accBytes (Mod.type x.m) = 0)
    (hr : s.rangeScan c.blk (pagesOf (x.vA sp 0) stop) (x.vA sp 0) stop = none)
    (ht : s.translateRange c.blk (if wr then needW else needR) wr (pagesOf (x.vA sp 0) stop) (x.vA sp 0) stop = (t, .ok pages))
    (hf : t.pathFull c 5 = false)
    (hs : t.ahead c.blk = true → t.stageFull c.blk (t.accStaged wr kind c.blk sp x pages).2 = false) :
    accMem wr kind s c x = .done (t.receive (t.accStaged wr kind c.blk sp x pages).1)
      [(.accline, rowLines (x.vA sp 0) 96 (x.vB sp 0 % 2 ^ 32) (128 * accBytes (Mod.type x.m)))] := by
  subst hsp hstop
  have room : ¬ (t.pathFull c 5 || (t.ahead c.blk && t.stageFull c.blk (t.accStaged wr kind c.blk c.split x pages).2)) = true := by
    cases h : t.ahead c.blk
    · simp [hf]
    · simp [hf, hs h]
  refine (if_neg (not_not.2 ha)).trans ((if_neg (not_not.2 hb)).trans ?_)
  simp only [Ctx.accLen] at hr ht
  simp only [hr, ht]
  exact if_neg room

/-! ## The instructions -/

/-- Settles O28: what each body does once its checks pass and its path has room. -/
theorem latheInstructionsComplete : Obligations.LatheInstructionsComplete := by
  unfold Obligations.LatheInstructionsComplete
  refine ⟨fun f => ?tdset, fun f => ?tdget, fun f => ?mma, fun f => ?accz, fun f => ⟨?accrdEmpty, ?accrd⟩, fun f => ⟨?accwrEmpty, ?accwr⟩,
    fun f => ?accld, fun f => ?accst⟩
  case tdset =>
    exact completes_of_body (t := State.described) (fun _ => rfl) fun s c x ⟨hk1, hk8, hb, ha, hn, hs, hf⟩ =>
      bodyTdset_of_fits ⟨hk1, hk8⟩ hb ha hn hs hf
  case tdget => exact leaves_of_body (fun _ => rfl) (fun _ _ _ => rfl) fun c x => by rw [Cur.counted_split]
  case mma =>
    exact fun s c x rate h hr hva hvb hra hrb hk hf =>
      exec_of_done (fun _ => rfl) h (bodyMma_of_pair (Cur.counted_split c) hr hva hvb hra hrb hk hf)
  case accz => exact completes_of_body (fun _ => rfl) fun s c x hf => bodyAccz_of_free hf
  case accrdEmpty => exact completes_of_body (fun _ => rfl) fun s c x hl => bodyAccrd_of_no_lanes hl
  case accrd => exact completes_of_body (fun _ => rfl) fun s c x ⟨hl, ht, hf, hp⟩ => bodyAccrd_of_inTile hl ht hf hp
  case accwrEmpty => exact completes_of_body (fun _ => rfl) fun s c x hl => bodyAccwr_of_no_lanes hl
  case accwr => exact completes_of_body (fun _ => rfl) fun s c x ⟨hl, ht, hf⟩ => bodyAccwr_of_inTile hl ht hf
  case accld =>
    exact fun s c x t pages h ha hb hr ht hf hs => exec_of_done (fun _ => rfl) h
      (accMem_of_translated (fun t g p mode pages => .accld t (Mod.type x.m) g p mode pages) (Cur.counted_split c) rfl ha hb hr ht hf hs)
  case accst =>
    exact fun s c x t pages h ha hb hr ht hf hs => exec_of_done (fun _ => rfl) h
      (accMem_of_translated (fun t g p mode pages => .accst t (Mod.type x.m) (Mod.rnd x.m) g p mode pages) (Cur.counted_split c) rfl ha hb hr ht
        hf hs)

end Sys2Proof.Machine
end

section
/-! JOB and JOBQ (R219–R222, R401). -/
namespace Sys2Proof.Machine

/-! ## The checks of cards -/

/-- The cards of a list pass the checks that R222 makes of each: gang, alignment and range. -/
def State.CardsPass (s : State) (c : Cur) (cards : List Card) : Prop :=
  ∀ p ∈ cards.zipIdx, p.1.gangDefect (s.gangSize c.blk) p.2 = none ∧ p.1.alignDefect p.2 = none ∧ s.cardRange c.blk p.1 p.2 = none

/-- Cards that pass, and whose pages are translated, are handed on. -/
theorem withCards_of_pass {s t : State} {c : Cur} {cards l : List Card} (h : s.CardsPass c cards)
    (ht : s.cardsPages c.blk 0 cards = (t, .ok l)) (go : State → List Card → Res) : withCards s c cards go = go t l := by
  have gang : (cards.zipIdx.findSome? fun p => p.1.gangDefect (s.gangSize c.blk) p.2) = none :=
    List.findSome?_eq_none_iff.2 fun p hp => (h p hp).1
  have align : (cards.zipIdx.findSome? fun p => p.1.alignDefect p.2) = none := List.findSome?_eq_none_iff.2 fun p hp => (h p hp).2.1
  have range : (cards.zipIdx.findSome? fun p => s.cardRange c.blk p.1 p.2) = none := List.findSome?_eq_none_iff.2 fun p hp => (h p hp).2.2
  simp only [withCards, gang, align, range, ht]

/-- Where the path has room, and staging too before the turn, nothing holds cards at their instruction. -/
theorem State.cards_not_held {t : State} {c : Cur} {ops : List (Op × List (Space × Nat))} (hf : t.pathFull c 4 = false)
    (hs : t.ahead c.blk = true → t.stageFull c.blk (ops.flatMap (·.2)) = false) :
    (t.pathFull c 4 || t.cardsWait c.blk ops) = false := by
  cases h : t.ahead c.blk
  · simp [hf, cardsWait, h]
  · simp [hf, cardsWait, h, hs h]

/-! ## JOB -/

/-- The scalars of a card that follow its first, which JOB's B names. -/
def Ctx.restOf (x : Ctx) (size : Nat) : List Nat := (List.range (size - 1)).map (x.b.scalNum + 1 + ·)

/-- The words of a card that JOB reads of a split's scalars. -/
def Ctx.jobWords (x : Ctx) (sp : Split) (size : Nat) : List Word :=
  (List.range size).map fun n => (sp.read (.scal (x.b.scalNum + n)) 0).setWidth 32

/-- A card of scalars that passes its checks is received. -/
theorem bodyJob_of_card {s t : State} {c : Cur} {x : Ctx} {sp : Split} {size : Nat} {cards : List Card} (hsp : c.split = sp)
    (hsize : cardSize [BitVec.ofNat 32 (x.vB sp 0)] = size) (hhead : headDefect [BitVec.ofNat 32 (x.vB sp 0)] = none)
    (h63 : x.b.scalNum + size - 1 ≤ 63) (hscal : x.b.scalNum + size - 1 < (s.kernelOf c.blk).nscal)
    (hread : s.scalExc c x.mode (x.restOf size) = none)
    (hcard : cardDefect (s.kernelOf c.blk).nbuf (Mod.own x.m) 0 false true (x.jobWords sp size) = none)
    (hpass : s.CardsPass c [cardOf (x.jobWords sp size) x.a.symNum (x.vC sp 0 % 2 ^ 32) x.mode])
    (ht : s.cardsPages c.blk 0 [cardOf (x.jobWords sp size) x.a.symNum (x.vC sp 0 % 2 ^ 32) x.mode] = (t, .ok cards))
    (hf : t.pathFull c 4 = false)
    (hs : t.ahead c.blk = true → t.stageFull c.blk ((cards.map (t.cardOp c.blk 4)).flatMap (·.2)) = false) :
    bodyJob s c x = .done (((cards.map (t.cardOp c.blk 4)).foldl (fun s o => s.receive o.1) t).readRegs x.act
      ((List.range (size - 1)).map fun n => .scal (x.b.scalNum + 1 + n))) (cards.flatMap (t.cardEvents c.blk)) := by
  subst hsp hsize
  have fits : (decide (x.b.scalNum + cardSize [BitVec.ofNat 32 (x.vB c.split 0)] - 1 ≤ 63) &&
      decide (x.b.scalNum + cardSize [BitVec.ofNat 32 (x.vB c.split 0)] - 1 < (s.kernelOf c.blk).nscal)) = true := by
    simp [h63, hscal]
  simp only [Ctx.restOf, Ctx.jobWords] at hread hcard hpass ht
  simp only [bodyJob, fits, hhead, Option.isNone_none, Bool.and_self, if_true, hread, hcard, withCards_of_pass hpass ht,
    State.cards_not_held hf hs, Bool.false_eq_true, if_false]

/-! ## JOBQ -/

/-- The cards that JOBQ reads of slots. -/
def cardsOf (mode : Nat) (slots : List (List Word × Bool)) : List Card :=
  slots.map fun p => cardOf p.1 (refBuf (cw p.1 6)) (refOff (cw p.1 6)) mode

/-- A list of cards on the path of jobs, complete as it issues where it names none. -/
def State.jobListOp (t : State) (cards : List Card) : Op :=
  { heavyOp 4 (.jobList (cards.zipIdx.map fun p => t.nextOp + 1 + p.2)) [] [] with complete := cards.isEmpty }

/-- A list of slots whose cards pass their checks is received, every card with it. -/
theorem bodyJobq_of_slots {s t : State} {c : Cur} {x : Ctx} {sp : Split} {j n : Nat} {slots : List (List Word × Bool)} {cards : List Card}
    (hsp : c.split = sp) (hj : x.vC sp 0 % 2 ^ 32 = j) (hn : x.vB sp 0 % 2 ^ 32 = n)
    (hslots : ((List.range n).map fun m => s.slotWords c.blk.id x.a.symNum j m) = slots)
    (h64 : n ≤ 64) (halign : j % 64 = 0)
    (hfit : n ≠ 0 → j + 64 * n ≤ (((s.kernelOf c.blk).bufs[x.a.symNum]?).map (·.size)).getD 0) (hp : s.scrPending c = false)
    (hclean : ∀ p ∈ slots, p.2 = false)
    (hcard : ∀ p ∈ slots.zipIdx, cardDefect (s.kernelOf c.blk).nbuf 0 p.2 true true p.1.1 = none)
    (hpass : s.CardsPass c (cardsOf x.mode slots)) (ht : s.cardsPages c.blk 0 (cardsOf x.mode slots) = (t, .ok cards))
    (hf : t.pathFull c 4 = false)
    (hs : t.ahead c.blk = true → t.stageFull c.blk ((cards.map (t.cardOp c.blk 7)).flatMap (·.2)) = false) :
    bodyJobq s c x = .done (((t.addOp (t.jobListOp cards)).receiveAll ((cards.map (t.cardOp c.blk 7)).map (·.1))).retire)
      (cards.flatMap (t.cardEvents c.blk)) := by
  subst hsp hj hn hslots
  have fits : ¬ (x.vB c.split 0 % 2 ^ 32 ≠ 0 ∧ (((s.kernelOf c.blk).bufs[x.a.symNum]?).map (·.size)).getD 0 <
      x.vC c.split 0 % 2 ^ 32 + 64 * (x.vB c.split 0 % 2 ^ 32)) := fun ⟨h0, hlt⟩ => absurd (hfit h0) (Nat.not_le.2 hlt)
  refine (if_neg (Nat.not_lt.2 h64)).trans ((if_neg (not_not.2 halign)).trans ((if_neg fits).trans ((if_neg (by simp [hp])).trans ?_)))
  generalize (List.range (x.vB c.split 0 % 2 ^ 32)).map (fun m => s.slotWords c.blk.id x.a.symNum (x.vC c.split 0 % 2 ^ 32) m) = slots at *
  have clean : (slots.zipIdx.find? (·.1.2)) = none :=
    List.find?_eq_none.2 fun p hp => by simp [hclean p.1 (List.fst_mem_of_mem_zipIdx hp)]
  have named : (slots.zipIdx.findSome? fun p => cardDefect (s.kernelOf c.blk).nbuf 0 p.2 true true p.1.1) = none :=
    List.findSome?_eq_none_iff.2 hcard
  simp only [clean, named]
  refine (withCards_of_pass hpass ht _).trans ?_
  exact if_neg (by simp [State.cards_not_held hf hs])

/-! ## The instructions -/

/-- Settles O29: the checks of a card, or of each of a list, lead to its receipt. -/
theorem jobInstructionsComplete : Obligations.JobInstructionsComplete := by
  unfold Obligations.JobInstructionsComplete
  refine ⟨fun f => ?job, fun f => ?jobq⟩
  case job =>
    exact fun s c x t cards h hhead h63 hscal hread hcard hpass ht hf hs =>
      exec_of_done (fun _ => rfl) h (bodyJob_of_card (Cur.counted_split c) rfl hhead h63 hscal hread hcard hpass ht hf hs)
  case jobq =>
    exact fun s c x t cards h h64 halign hfit hp hclean hcard hpass ht hf hs =>
      exec_of_done (fun _ => rfl) h (bodyJobq_of_slots (Cur.counted_split c) rfl rfl rfl h64 halign hfit hp hclean hcard hpass ht hf hs)

end Sys2Proof.Machine
end

section
/-! Steps of the Lathe, the job engine, the Chucks and the executors (R206, R212, R215, R218, R226, R302, R305, R307, R309, R315). -/
namespace Sys2Proof.Machine

/-! ## Starts -/

/-- A released operation that no fence holds back asks for current, or starts once it is granted. -/
theorem State.startHeavy_of_released {s : State} {o : Op} (hc : o.complete = false) (hr : o.released ≠ none) (hf : s.jobFenced o = false) :
    s.startHeavy o = if o.stage = 0 then s.ask o else if o.stage = 2 then s.mapOp o.id fun p => { p with stage := 3 } else s := by
  simp [startHeavy, hc, hr, hf]

/-! ## Work on the Lathe -/

/-- The operation on the Lathe once the step's work is done: it completes, or its part in it ends. -/
theorem exec_latheOpComplete {s : State} {o p : Op} (ho : s.unfocus.op? s.arg.op = some o) (hk : o.kind.isLathe = true)
    (hs : o.stage = 3) (hc : o.complete = false) {t : State} (ht : s.unfocus.latheWork o s.arg.steps = t) (hp : t.op? o.id = some p) :
    exec .latheOpComplete s =
      .next (if t.latheDone p then (t.lathePlaces p).completeHeavy p else t.markWorked p p.latheWorked) := by
  have due : (!o.kind.isLathe || decide (o.stage ≠ 3) || o.complete) = false := by simp [hk, hs, hc]
  simp only [exec, execLatheOpComplete, State.unfocus_arg, ho, due, Bool.false_eq_true, if_false, ht, hp]

/-! ## Jobs -/

/-- A running card once the step's units are moved: it completes, or its part in it ends. -/
theorem exec_jobComplete {s : State} {o p : Op} {card : Card} (ho : s.unfocus.op? s.arg.op = some o) (hk : o.kind = .job card)
    (hs : o.stage = 3) (hc : o.complete = false) {t : State}
    (ht : State.jobSteps (if s.arg.units = 0 then card.units else s.arg.units) s.unfocus o.id card = t) (hp : t.op? o.id = some p) :
    exec .jobComplete s = .next (if card.units ≤ p.moved ∧ t.ownStaged p = false then (t.cardPlaces p card).completeHeavy p
      else t.markWorked p (card.units ≤ p.moved)) := by
  have due : (decide (o.stage ≠ 3) || o.complete) = false := by simp [hs, hc]
  simp only [exec, execJobComplete, State.unfocus_arg, ho, hk, due, Bool.false_eq_true, if_false, ht, hp, Bool.and_eq_true,
    decide_eq_true_eq, Bool.not_eq_true']

/-! ## Admission -/

theorem Chuck.nextIn_iff {k : Chuck} {p : Packet} :
    k.nextIn p = true ↔ ∀ q ∈ k.ingress.takeWhile (·.id ≠ p.id), q.fn = p.fn → ∀ x ∈ q.srcs, x ∉ p.srcs := by
  simp [nextIn, imp_iff_not_or]

theorem State.chuckRoom_iff {s : State} {k : Chuck} {p : Packet} :
    s.chuckRoom k p = true ↔ (s.chuckHeld k).length + p.reqs.length ≤ 256 ∧
      ((s.chuckHeld k).filter (·.fn = p.fn)).length + p.reqs.length ≤ 128 := by
  simp [chuckRoom]

/-- A packet to an object that takes requests is admitted whole. -/
theorem State.takeIn_of_open {s : State} {slice : Nat} {p : Packet} {obj : Obj} (ho : s.objOf p.fn p.oid = some obj)
    (hp : obj.poisoned = false) (hf : obj.freeing = false) :
    s.takeIn slice p = (s.loupePacket p).setChuck slice
      { (s.loupePacket p).chuck slice with admitted := ((s.loupePacket p).chuck slice).admitted ++ p.reqs } := by
  simp only [takeIn, ho, hp, hf, Bool.false_eq_true, if_false]

/-- A packet that is the next of its sources reaches a Chuck that has room for it. -/
theorem exec_combPacketAdmit {s : State} {p : Packet} (hp : (s.unfocus.chuck s.arg.cluster).ingress.find? (·.id = s.arg.op) = some p)
    (hn : (s.unfocus.chuck s.arg.cluster).nextIn p = true) (hr : s.unfocus.chuckRoom (s.unfocus.chuck s.arg.cluster) p = true) :
    exec .combPacketAdmit s = .next ((s.unfocus.setChuck s.arg.cluster { s.unfocus.chuck s.arg.cluster with
      ingress := (s.unfocus.chuck s.arg.cluster).ingress.filter (·.id ≠ p.id) }).takeIn s.arg.cluster p) := by
  simp only [exec, execCombPacketAdmit, State.unfocus_arg, hp, hn, hr, and_self, if_true]

/-! ## Batches -/

/-- A key set to what is not the default reads as set, also in a map that is not in canonical form. -/
theorem spGet_spSet_self {α : Type} [DecidableEq α] {d x : α} (h : x ≠ d) (m : Sp α) (a : Nat) : spGet d (spSet d m a x) a = x := by
  induction m with
  | nil => simp [spSet, spGet, h]
  | cons e m ih =>
    obtain ⟨k, v⟩ := e
    unfold spSet
    split
    · simp [spGet]
    · split
      · simp [spGet]
      · next hk => simp [spGet, Ne.symm hk, ih]

/-- A Chuck that runs a batch, once set, is the one read. -/
theorem State.chuck_setChuck_of_running {k : Chuck} {n : Nat} (h : k.running = some n) (s : State) (slice : Nat) :
    (s.setChuck slice k).chuck slice = k :=
  spGet_spSet_self (fun hk => by rw [hk] at h; cases h) _ _

@[simp] theorem State.usePrint_blocks (s : State) (fn child : Nat) (k : Kernel) (share waves : Nat) :
    (s.usePrint fn child k share waves).blocks = s.blocks := by
  unfold usePrint
  split <;> rfl

@[simp] theorem State.usePrint_nextBlk (s : State) (fn child : Nat) (k : Kernel) (share waves : Nat) :
    (s.usePrint fn child k share waves).nextBlk = s.nextBlk := by
  unfold usePrint
  split <;> rfl

/-- No seed of a generator changes where a split stands. -/
theorem Split.sets_rseed_pc (l : List (Nat × Dword)) (sp : Split) : (sp.sets .rseed l).pc = sp.pc := by
  induction l generalizing sp with
  | nil => rfl
  | cons p l ih =>
    refine (ih _).trans ?_
    unfold Split.set
    by_cases hi : p.1 = 128 <;> simp only [hi, if_true, if_false] <;> rfl

/-- The one split of a batch's wave stands at the method's entry. -/
theorem methodWave_pcs (b : Block) (k : Kernel) (n : Nat) : (methodWave b k n).splits.map (·.pc) = [k.entry] :=
  congrArg (fun pc => [pc]) (Split.sets_rseed_pc _ _)

/-- The function in turn at a Chuck: the first after the one served last that has a request there. -/
def Chuck.inTurn (k : Chuck) : Option Nat := ((List.range 8).map fun i => (k.lastFn + 1 + i) % 8).find? fun f => k.admitted.any (·.fn = f)

/-- The requests that a batch takes: up to 64 of one object, in the order of their admission. -/
def Chuck.batchOf (k : Chuck) (fn slot : Nat) : List CombReq := (k.admitted.filter fun q => q.fn = fn && q.slot = slot).take 64

/-- A Chuck that starts a batch has given it its requests. -/
def Chuck.starts (k : Chuck) (id fn : Nat) (reqs : List CombReq) : Chuck :=
  { k with admitted := k.admitted.filter fun q => !reqs.contains q, running := some id, lastFn := fn }

/-- The block of a batch, without its wave. -/
def State.batchShell (s : State) (slice fn slot : Nat) (o : Obj) (reqs : List CombReq) : Block :=
  { id := s.nextBlk, grid := 0, fn, child := o.child, index := 0, core := 384 + slice, baseShare := o.kernel.demand
    method := some { slice, fn, slot, reqs, energy := s.meter fn slice [(.chuck, reqs.length)] } }

/-- The block of a batch, with the one wave that serves its requests. -/
def State.batchBlock (s : State) (slice fn slot : Nat) (o : Obj) (reqs : List CombReq) : Block :=
  { s.batchShell slice fn slot o reqs with waves := [methodWave (s.batchShell slice fn slot o reqs) o.kernel reqs.length] }

/-- An idle executor starts a batch of the object that the oldest request of the function in turn names. -/
theorem exec_batchStart {s : State} {fn : Nat} {q : CombReq} {o : Obj} {k : Chuck} (hk : s.unfocus.chuck s.arg.cluster = k)
    (hidle : k.running = none) (hfn : k.inTurn = some fn) (hq : k.admitted.find? (·.fn = fn) = some q)
    (ho : s.unfocus.obj? fn q.slot = some o) {u : State} (hu : s.unfocus.usePrint fn o.child o.kernel o.kernel.demand 1 = u) :
    exec .batchStart s = .next (({ u with
      nextBlk := u.nextBlk + 1
      blocks := u.blocks ++ [u.batchBlock s.arg.cluster fn q.slot o (k.batchOf fn q.slot)] } : State).setChuck s.arg.cluster
        (k.starts u.nextBlk fn (k.batchOf fn q.slot))) := by
  subst hu
  unfold Chuck.inTurn at hfn
  simp only [exec, execBatchStart, State.unfocus_arg, hk, hidle, hfn, hq, ho, Option.isSome_none, Bool.false_eq_true, if_false]
  rfl

/-- A batch that has issued its 4,096 instructions aborts. -/
theorem exec_methodBudgetExpiry {s : State} {c : Cur} {m : Method} (hc : (s.focus s.arg.blk 0 s.arg.sid).cur = some c)
    (hm : c.blk.method = some m) (h : 4096 ≤ m.issued) :
    exec .methodBudgetExpiry s = .next ((s.focus s.arg.blk 0 s.arg.sid).batchAbort c.blk m Fc.method c.split.pc) := by
  have spent : c.blk.spent = true := by simp [Block.spent, hm, h]
  simp only [exec, execMethodBudgetExpiry, hc, hm, spent, if_true]

/-! ## Completion -/

/-- A COMB whose lanes all have their answers. -/
theorem exec_combComplete_of_comb {s : State} {o : Op} {d : Option Dst} {k id : Nat} {rep sent : Bool} {reqs : List CombReq}
    {answers : List (Nat × Bool × Dword)} (ho : s.unfocus.op? s.arg.op = some o) (hc : o.complete = false) (hs : o.staged = false)
    (hk : o.kind = .comb d k id rep reqs sent answers) (hl : answers.length = reqs.length) :
    exec .combComplete s = .next (s.unfocus.finishComb o) := by
  simp only [exec, execCombComplete, State.unfocus_arg, ho, hc, hs, Bool.or_self, hk, hl, Bool.false_eq_true, if_false, if_true]

/-- An OBJFREE of an object that has no request left. -/
theorem exec_combComplete_of_objfree {s : State} {o : Op} {fn id : Nat} {obj : Obj} (ho : s.unfocus.op? s.arg.op = some o)
    (hc : o.complete = false) (hs : o.staged = false) (hk : o.kind = .objfree fn id) (hobj : s.unfocus.objOf fn id = some obj)
    (hb : s.unfocus.objectBusy obj = false) : exec .combComplete s = .next ((s.unfocus.freeObject obj).complete o.id) := by
  simp only [exec, execCombComplete, State.unfocus_arg, ho, hc, hs, Bool.or_self, hk, hobj, hb, Bool.false_eq_true, if_false]

/-- The argument words of a CARG reach the lanes of its destination. -/
def State.cargDelivered (s : State) (o : Op) (d : Option Dst) : State :=
  o.items.foldl (fun t i => match d with | some d => t.deliverTo o d i.lane i.data false | none => t) s

theorem exec_combComplete_of_carg {s : State} {o : Op} {d : Option Dst} (ho : s.unfocus.op? s.arg.op = some o) (hc : o.complete = false)
    (hs : o.staged = false) (hk : o.kind = .carg d) : exec .combComplete s = .next ((s.unfocus.cargDelivered o d).complete o.id) := by
  simp only [exec, execCombComplete, State.unfocus_arg, ho, hc, hs, Bool.or_self, hk, Bool.false_eq_true, if_false]
  rfl

theorem exec_combComplete_of_objreg {s : State} {o : Op} {d : Dst} {v : Dword} (ho : s.unfocus.op? s.arg.op = some o)
    (hc : o.complete = false) (hs : o.staged = false) (hk : o.kind = .objreg d v) :
    exec .combComplete s = .next ((s.unfocus.deliverTo o d 0 v false).complete o.id) := by
  simp only [exec, execCombComplete, State.unfocus_arg, ho, hc, hs, Bool.or_self, hk, Bool.false_eq_true, if_false]

/-- Settles O36: each step by the lemma that says what it does where it is due. -/
theorem latheJobAndCombiningEventsHappen : Obligations.LatheJobAndCombiningEventsHappen := by
  unfold Obligations.LatheJobAndCombiningEventsHappen
  refine ⟨⟨fun s o ho ⟨hk, hl, hc, hr, hf⟩ => ?latheStart, fun s o ho ⟨hk, hc, hr, hf⟩ => ?jobStart,
      fun s o p ho hk hs hc hp => exec_latheOpComplete ho hk hs hc rfl hp, fun s o ho ⟨hc, hk⟩ => ?accrd,
      fun s o p card ho hk hs hc hp => exec_jobComplete ho hk hs hc rfl hp⟩,
    fun s p obj hp hn h256 h128 ho hpois hfree => ?admission, fun s fn q o hidle hfn hq ho => ?batch,
    fun s c m hc hm h => exec_methodBudgetExpiry hc hm h, fun s o ho ⟨hc, hs, d, k, id, rep, reqs, sent, answers, hk, hl⟩ => ?comb,
    fun s o ho ⟨hc, hs, fn, id, obj, hk, hobj, hb⟩ => ?objfree, fun s o d ho hk hc hs => ?carg, fun s o d v ho hk hc hs => ?objreg⟩
  case latheStart =>
    have due : (o.kind.isLathe && s.unfocus.latheFree o) = true := by simp [hk, hl]
    simp only [exec, execLatheOpStart, State.unfocus_arg, ho, due, if_true, State.startHeavy_of_released hc hr hf]
  case jobStart => simp only [exec, execJobStart, State.unfocus_arg, ho, hk, if_true, State.startHeavy_of_released hc hr hf]
  case accrd =>
    rcases hk with ⟨n, d, hk⟩ | ⟨n, hk⟩ <;>
      simp only [exec, execAccrdComplete, State.unfocus_arg, ho, hk, hc, Bool.not_false, Bool.and_self, if_true]
  case admission =>
    refine (exec_combPacketAdmit hp (Chuck.nextIn_iff.2 hn) (State.chuckRoom_iff.2 ⟨h256, h128⟩)).trans ?_
    exact congrArg Host.Outcome.next (State.takeIn_of_open ho hpois hfree)
  case batch =>
    refine ⟨_, exec_batchStart rfl hidle hfn hq ho rfl, ?_⟩
    rw [State.chuck_setChuck_of_running rfl]
    refine ⟨congrArg some (State.usePrint_nextBlk ..), rfl, rfl, _, congrArg (· ++ _) (State.usePrint_blocks ..), State.usePrint_nextBlk ..,
      rfl, rfl, congrArg (fun l => [l]) (methodWave_pcs ..)⟩
  case comb => exact exec_combComplete_of_comb ho hc hs hk hl
  case objfree =>
    refine (exec_combComplete_of_objfree ho hc hs hk hobj hb).trans ?_
    simp only [hk, hobj]
  case carg => exact exec_combComplete_of_carg ho hc hs hk
  case objreg => exact exec_combComplete_of_objreg ho hc hs hk

end Sys2Proof.Machine
end

section
/-! REBIND (R247): the wave that its data name moves to the share it wants. The model finds that wave, and then changes every wave under its
number, each to the share that this one itself wants. -/
namespace Sys2Proof.Machine

/-! ## One wave changed -/

@[simp] theorem State.unfocus_cur (s : State) : s.unfocus.cur = none := by
  unfold State.unfocus
  split
  · assumption
  · rfl

@[simp] theorem State.usePrint_cur (s : State) (fn child : Nat) (k : Kernel) (share waves : Nat) :
    (s.usePrint fn child k share waves).cur = s.cur := by
  unfold State.usePrint
  split <;> rfl

/-- Where no split issues, two changes of a wave agree just where they agree on each wave under its number. -/
theorem State.mapWave_eq_iff {s : State} (hc : s.cur = none) {blk wid : Nat} {f g : Wave → Wave} :
    s.mapWave blk wid f = s.mapWave blk wid g ↔ ∀ b ∈ s.blocks, b.id = blk → ∀ w ∈ b.waves, w.wid = wid → f w = g w := by
  constructor
  · intro h b hb hid w hw hwid
    have hblocks := List.map_inj_left.1 (congrArg State.blocks h) b hb
    simp only [hid, decide_true, if_true] at hblocks
    have hwave := List.map_inj_left.1 (congrArg Block.waves hblocks) w hw
    simpa only [hwid, if_true] using hwave
  · intro h
    have hblocks : (s.mapWave blk wid f).blocks = (s.mapWave blk wid g).blocks := by
      refine List.map_congr_left fun b hb => ?_
      by_cases hid : b.id = blk
      · have hwaves : b.waves.map (fun w => if w.wid = wid then f w else w) = b.waves.map fun w => if w.wid = wid then g w else w :=
          List.map_congr_left fun w hw => ite_congr rfl (h b hb hid w hw) fun _ => rfl
        simp only [hwaves]
      · simp only [hid, decide_false, Bool.false_eq_true, if_false]
    change ({ s with blocks := (s.mapWave blk wid f).blocks, cur := s.cur.map _ } : State) =
      { s with blocks := (s.mapWave blk wid g).blocks, cur := s.cur.map _ }
    rw [hblocks, hc, Option.map_none, Option.map_none]

/-- Two shares that a wave is rebound to are told apart. -/
theorem Wave.rebound_inj {w : Wave} {m n : Nat} : w.rebound m = w.rebound n ↔ m = n :=
  ⟨congrArg Wave.share, congrArg w.rebound⟩

/-! ## REBIND -/

theorem State.rebindDue_iff {s : State} {b : Block} {w : Wave} :
    s.rebindDue b w = true ↔ b.phase = .resident ∧ b.method = none ∧ w.wanted ≠ w.share ∧ s.shareFits b w = true := by
  simp [rebindDue, and_assoc]

/-- What REBIND does where it is due: each wave under the number moves to the share that it wants itself. -/
theorem exec_rebind_of_due {s : State} {b : Block} {w : Wave} (hb : s.unfocus.block? s.arg.blk = some b)
    (hw : b.waves.find? (·.wid = s.arg.wid) = some w) (hd : s.unfocus.rebindDue b w = true)
    (hs : ∀ sp ∈ w.splits, s.unfocus.pausable b sp = true) :
    exec .rebind s = .next ((s.unfocus.printFor b w.wanted).mapWave b.id w.wid fun x => x.rebound x.wanted) := by
  have hall : w.splits.all (s.unfocus.pausable b) = true := List.all_eq_true.2 hs
  simp only [exec, execRebind, State.unfocus_arg, hb, hw, hd, hall, Bool.and_self, if_true]

/-- Where it is due, REBIND is a move to the share that the found wave wants just where every wave under its number wants that share; so it is
where no two blocks, and no two waves of a block, share a number. -/
theorem exec_rebind_to_found_iff {s : State} {b : Block} {w : Wave} (hb : s.unfocus.block? s.arg.blk = some b)
    (hw : b.waves.find? (·.wid = s.arg.wid) = some w) (hd : s.unfocus.rebindDue b w = true)
    (hs : ∀ sp ∈ w.splits, s.unfocus.pausable b sp = true) :
    exec .rebind s = .next ((s.unfocus.printFor b w.wanted).mapWave b.id w.wid fun x => x.rebound w.wanted) ↔
      ∀ b' ∈ s.unfocus.blocks, b'.id = b.id → ∀ x ∈ b'.waves, x.wid = w.wid → x.wanted = w.wanted := by
  have hcur : (s.unfocus.printFor b w.wanted).cur = none := (State.usePrint_cur ..).trans s.unfocus_cur
  have hblocks : (s.unfocus.printFor b w.wanted).blocks = s.unfocus.blocks := State.usePrint_blocks ..
  rw [exec_rebind_of_due hb hw hd hs, Host.Outcome.next.injEq, State.mapWave_eq_iff hcur, hblocks]
  simp only [Wave.rebound_inj]

/-! ## The refuting state -/

/-- A wave that wants less than it has, and one under the same number that does not. -/
def shrinkingWave : Wave := { wid := 0, width := 32, share := 256, wanted := 2, splits := [probeSplit] }
def contentWave : Wave := { shrinkingWave with wanted := 256 }

/-- A block that holds both. -/
def twinBlock : Block := { probeBlock 0 0 with waves := [shrinkingWave, contentWave] }
def twinState : State := { grids := [probeGrid 0], blocks := [twinBlock] }

/-- Refutes O39: REBIND is stated to move what it finds to the share that the wave found wants, and the model moves every wave under that
number to the share that this one itself wants. In a block with two waves of one number the second keeps its 256 registers, where the
statement has it move to the first one's 2. -/
theorem not_enlargerAndRetirementEventsHappen : ¬ Obligations.EnlargerAndRetirementEventsHappen := by
  unfold Obligations.EnlargerAndRetirementEventsHappen
  rintro ⟨⟨-, hrebind, -⟩, -⟩
  have hb : twinState.unfocus.block? twinState.arg.blk = some twinBlock := by decide
  have hw : twinBlock.waves.find? (·.wid = twinState.arg.wid) = some shrinkingWave := by decide
  have hd : twinState.unfocus.rebindDue twinBlock shrinkingWave = true := by decide
  have hs : ∀ sp ∈ shrinkingWave.splits, twinState.unfocus.pausable twinBlock sp = true := by decide
  obtain ⟨hphase, hm, hne, hfits⟩ := State.rebindDue_iff.1 hd
  have hsame := (exec_rebind_to_found_iff hb hw hd hs).1 (hrebind twinState twinBlock shrinkingWave hb hw hphase hm hne hfits hs)
  exact absurd (hsame twinBlock (List.mem_singleton.2 rfl) rfl contentWave (.tail _ (.head _)) rfl) (by decide)

end Sys2Proof.Machine
end

section
/-! Static power booked as time passes leaves all but the accounts and the marks of a crossing (R373), and with them the data of the step. -/
namespace Sys2Proof.Machine

namespace State.Calm

theorem tally (s : State) (fn child rail units : Nat) : s.Calm (s.tally fn child rail units) := ⟨rfl, rfl⟩

theorem bookStatic (s : State) (fn child rail units : Nat) : s.Calm (s.bookStatic fn child rail units) := by
  unfold State.bookStatic
  split
  · exact refl s
  · exact (bookUnits ..).trans (tally ..)

theorem bookChannels (s : State) (ns f die : Nat) : s.Calm (s.bookChannels ns f die) :=
  (bookStatic ..).trans (foldl (fun _ _ => bookStatic ..) _ _)

theorem bookCores (s : State) (ns : Nat) : s.Calm (s.bookCores ns) := by
  refine foldl (fun t c => ?_) _ s
  split
  · exact book ..
  · exact refl t

theorem bookSlices (s : State) (ns : Nat) : s.Calm (s.bookSlices ns) :=
  foldl (fun t _ => foldl (fun _ _ => book ..) _ t) _ s

theorem bookTime (s : State) (ns : Nat) : s.Calm (s.bookTime ns) :=
  ((bookCores s ns).trans (bookSlices ..)).trans (foldl (fun t _ => foldl (fun _ _ => bookChannels ..) _ t) _ _)

end State.Calm

/-- Time that passes moves the clock, and leaves all but the accounts and the marks of a crossing besides. -/
theorem State.passTime_calm (s : State) : ∃ t hw, s.Calm t ∧ s.passTime = { t with hw } := by
  obtain ⟨hw, h⟩ := s.passTime_eq
  exact ⟨_, hw, (State.Calm.takeFree s).trans (State.Calm.bookTime ..), h⟩

@[simp] theorem State.passTime_arg (s : State) : s.passTime.arg = s.arg := by
  obtain ⟨t, hw, ht, h⟩ := s.passTime_calm
  rw [h]
  exact ht.arg

end Sys2Proof.Machine
end

section
/-! Saves, restores, darkroom swaps and the slices of pools (R270, R364, R386–R388). -/
namespace Sys2Proof.Machine

/-! ## Saves -/

/-- The blocks of a partition on a core that are to be saved. -/
def State.dueOn (s : State) (core fn child : Nat) : List Block :=
  (s.coreBlocks core).filter fun b => b.fn = fn && b.child = child && s.saveReady b

/-- The state in which a core's image is written: time passes first where the save may change who pays for the core. -/
def State.beforeSave (s : State) (core : Nat) : State :=
  if (s.poolOf (core / 8)).isSome = true ∨ (s.clusterOf (core / 8)).changing.isSome = true then s.passTime else s

/-- Blocks saved as one image, in a slot or in the save area. -/
def State.saveBlocks (s : State) (l : List Block) (slot : Option Nat) : State :=
  l.foldl (fun t b => t.saveBlock (b.imageKind (s.forcedSave b)) slot (s.saves + 1) b) (s.forceGangs l)

/-- An image of a partition's blocks on a core kept in a slot, or written to the save area, and charged. -/
def State.keepImage (s : State) (l : List Block) (core fn child : Nat) (slot : Option Nat) : State :=
  let t := s.saveBlocks l slot
  let t := { t with
    saves := s.saves + 1
    darkroom := match slot with
      | some n => spSet 0 t.darkroom n (8 * fn + child + 1)
      | none => t.darkroom }
  let t := if slot.isSome then t else t.imageOut fn child
  (t.bookCore fn child core [(.darkroom, 886)]).settleStops fn

theorem State.keepImage_of_slot {slot : Option Nat} {n : Nat} (hn : slot = some n) (s : State) (l : List Block) (core fn child : Nat) :
    s.keepImage l core fn child slot =
      (({ s.saveBlocks l slot with
        saves := s.saves + 1, darkroom := spSet 0 (s.saveBlocks l slot).darkroom n (8 * fn + child + 1) } : State).bookCore fn child core
          [(.darkroom, 886)]).settleStops fn := by
  subst hn
  rfl

theorem State.keepImage_of_no_slot {slot : Option Nat} (hn : slot = none) (s : State) (l : List Block) (core fn child : Nat) :
    s.keepImage l core fn child slot =
      ((({ s.saveBlocks l slot with saves := s.saves + 1 } : State).imageOut fn child).bookCore fn child core [(.darkroom, 886)]).settleStops
        fn := by
  subst hn
  rfl

/-- Where blocks of a partition on a core are to be saved, their image is kept. -/
theorem State.saveCore_of_due {s : State} {core fn child : Nat} (hl : s.dueOn core fn child ≠ []) :
    s.saveCore core fn child = let r := s.beforeSave core
      r.keepImage (s.dueOn core fn child) core fn child (r.slotFor core fn child) :=
  (if_neg fun h => hl (List.isEmpty_iff.1 h)).trans rfl

/-- A block that is to be saved is one of those of its partition on its core. -/
theorem State.mem_dueOn {s : State} {id : Nat} {b : Block} (hb : s.block? id = some b) (hr : s.saveReady b = true) :
    b ∈ s.dueOn b.core b.fn b.child := by
  have hall : b ∈ s.allBlocks := List.mem_append_left _ (List.mem_of_find?_eq_some hb)
  have hready := hr
  simp only [State.saveReady, Bool.and_eq_true, decide_eq_true_eq] at hr
  obtain ⟨⟨⟨⟨hm, hp⟩, -⟩, -⟩, -⟩ := hr
  simp [State.dueOn, State.coreBlocks, hall, hm, hp, hready]

/-- BLOCK_SAVE where the block that its data name is to be saved. -/
theorem exec_blockSave {s : State} {b : Block} (hb : s.unfocus.block? s.arg.blk = some b) (hr : s.unfocus.saveReady b = true) :
    exec .blockSave s = .next (s.unfocus.saveCore b.core b.fn b.child) := by
  simp only [exec, execBlockSave, State.unfocus_arg, hb, hr, if_true]

/-! ## Restores -/

theorem gangCores_single (core : Nat) : gangCores [core] = true := by
  simp [gangCores, List.eraseDups_cons]

/-- A gang, or a block of none, whose images are closed comes back where the cores can take it, and the restore of each core is charged. -/
theorem State.restoreGang_of_fits {s : State} {b : Block} {g : Grid} {l : List Block} {cores qs : List Nat} (hg : s.gridOf b = some g)
    (hl : s.gangOf b = l) (hsaved : ∀ x ∈ l, x.isSaved = true ∧ s.aimedAt x = false) (hlen : l.length = cores.length)
    (hcores : gangCores cores = true) (hturn : g.kernel.det = true → ∃ x ∈ l, x.index = g.turn)
    (hfits : (l.zip cores).map (fun p => s.restoreFits g p.1 p.2) = qs.map some) (hactive : s.partState b.fn b.child = 1)
    (hover : s.over b.fn 0 = false) (hown : s.over b.fn b.child = false) (habort : g.abort = none) :
    (s.restoreGang b cores []).1 = cores.foldl (fun t c => t.bookCore b.fn b.child c [(.darkroom, 886)])
      (((l.zip cores).zip qs).foldl (fun t p => t.restoreBlock p.1.1 p.1.2 p.2) s) := by
  have hclosed : l.all (fun x => x.isSaved && !s.aimedAt x) = true := by simpa using hsaved
  have hfirst : (!g.kernel.det || l.any (·.index = g.turn) ||
      !(s.blocks.any fun x => x.grid = g.handle && x.method.isNone && x.isSaved && x.index = g.turn)) = true := by
    cases hd : g.kernel.det with
    | false => rfl
    | true =>
      have hany : l.any (·.index = g.turn) = true := by simpa using hturn hd
      rw [hany]
      rfl
  have hsome : (qs.map some).all Option.isSome = true := by simp
  unfold State.restoreGang
  simp only [hg, hl, hfits, hclosed, hlen, hcores, hsome, hfirst, hactive, hover, hown, habort, Option.isNone_none, decide_true, Bool.not_false,
    Bool.true_or, Bool.and_self, if_true]
  refine Eq.trans (congrArg (List.foldl _ _) (List.filter_eq_self.2 fun c _ => by simp)) (congrArg (fun t => cores.foldl _ t) ?_)
  rw [List.zip_map_right, List.foldl_map]
  rfl

/-- BLOCK_RESTORE: a block without a gang goes to the core named, a gang's members to those listed. -/
theorem exec_blockRestore {s : State} {b : Block} (hb : s.unfocus.block? s.arg.blk = some b) :
    exec .blockRestore s =
      .next (s.unfocus.restoreGang b (if s.unfocus.gangSize b = 1 then [s.arg.core] else s.arg.blocks) []).1 := by
  simp only [exec, execBlockRestore, State.unfocus_arg, hb]

/-- DARKROOM_SWAP: the saves first, and then what lay in the slots before them. -/
theorem exec_darkroomSwap (s : State) : exec .darkroomSwap s = .next (s.unfocus.swapCore s.arg.core) := by
  simp only [exec, execDarkroomSwap, State.unfocus_arg]

/-! ## Pools -/

/-- The member whose turn it is has work. -/
theorem State.hasWork_of_nextMember {s : State} {p i : Nat} (h : s.nextMember p = some i) :
    ∃ m, (s.poolMembers p)[i]? = some m ∧ s.hasWork m = true := by
  have hany := List.find?_some h
  simpa [Option.any_eq_true] using hany

theorem State.nextTurn_of_nextMember {s : State} {p i : Nat} (h : s.nextMember p = some i) : s.nextTurn p = 2 * i + 1 := by
  simp only [State.nextTurn, h]

/-- POOL_SLICE_END of a resident member: it is signalled to leave, and the turn passes. -/
theorem exec_poolSliceEnd_of_resident {s : State} {i : Nat} {m : Nat × Nat} (hi : s.unfocus.passTime.nextMember s.arg.pool = some i)
    (hm : s.unfocus.passTime.residentMember s.arg.pool = some m) :
    exec .poolSliceEnd s = .next (let r := s.unfocus.passTime
      let t := r.preemptWhere fun b => b.fn = m.1 && b.child = m.2 && r.poolOf (b.core / 8) = some s.arg.pool
      { t with poolTurn := spSet 0 t.poolTurn s.arg.pool (2 * i + 1) }) := by
  simp only [exec, execPoolSliceEnd, State.passTime_arg, State.unfocus_arg, hm, State.nextTurn_of_nextMember hi]

/-- POOL_SLICE_END where no member is resident: the next one's slice begins. -/
theorem exec_poolSliceEnd_of_idle {s : State} {i : Nat} (hi : s.unfocus.passTime.nextMember s.arg.pool = some i)
    (hm : s.unfocus.passTime.residentMember s.arg.pool = none) :
    exec .poolSliceEnd s = .next (let r := s.unfocus.passTime
      { r with poolTurn := spSet 0 r.poolTurn s.arg.pool (2 * i + 1) }) := by
  simp only [exec, execPoolSliceEnd, State.passTime_arg, State.unfocus_arg, hm, State.nextTurn_of_nextMember hi]

/-- Settles O41: the image of a core's blocks kept, a gang restored where it fits, and the turn of a pool passed. -/
theorem saveEventsHappen : Obligations.SaveEventsHappen := by
  unfold Obligations.SaveEventsHappen
  refine ⟨fun s b hb hr => ?save, fun s b g q hb hg hsize hgang hsaved haimed hturn hfits hact hover hown habort => ?single,
    fun s b g qs hb hg hsize hsaved hlen hcores hturn hfits hact hover hown habort => ?gang, exec_darkroomSwap,
    fun s i m hi hm => exec_poolSliceEnd_of_resident hi hm, fun s i hi hm => exec_poolSliceEnd_of_idle hi hm,
    fun s p i h => State.hasWork_of_nextMember h⟩
  case save =>
    have hdue : s.unfocus.dueOn b.core b.fn b.child ≠ [] := List.ne_nil_of_mem (State.mem_dueOn hb hr)
    have hsave := (exec_blockSave hb hr).trans (congrArg Host.Outcome.next (State.saveCore_of_due hdue))
    exact ⟨fun n hn => hsave.trans (congrArg Host.Outcome.next (State.keepImage_of_slot hn ..)),
      fun hn => hsave.trans (congrArg Host.Outcome.next (State.keepImage_of_no_slot hn ..))⟩
  case single =>
    rw [exec_blockRestore hb, if_pos hsize]
    refine congrArg Host.Outcome.next
      ((State.restoreGang_of_fits (qs := [q]) hg hgang ?_ rfl (gangCores_single _) ?_ ?_ hact hover hown habort).trans rfl)
    · simp [hsaved, haimed]
    · simpa using hturn
    · simp [hfits]
  case gang =>
    rw [exec_blockRestore hb, if_neg (by omega)]
    exact congrArg Host.Outcome.next (State.restoreGang_of_fits hg rfl hsaved hlen hcores hturn hfits hact hover hown habort)

end Sys2Proof.Machine
end

section
/-! What the privileged registers read as after one is written, where the keys of their map rise (R368). -/
namespace Sys2Proof.Machine

/-- The keys of a map rise. -/
def SpRising {α : Type} (m : Sp α) : Prop := (m.map (·.1)).Pairwise (· < ·)

theorem SpRising.cons_iff {α : Type} {e : Nat × α} {m : Sp α} : SpRising (e :: m) ↔ (∀ f ∈ m, e.1 < f.1) ∧ SpRising m := by
  simp [SpRising]

section
variable {α : Type} [DecidableEq α] {d x : α} {a k : Nat} {m : Sp α}

/-- A key set leaves the first entry of every other key. -/
theorem find?_spSet_of_ne (h : k ≠ a) : (spSet d m a x).find? (fun e => e.1 = k) = m.find? fun e => e.1 = k := by
  induction m with
  | nil => unfold spSet; split <;> simp [Ne.symm h]
  | cons e m ih =>
    obtain ⟨j, v⟩ := e
    unfold spSet
    split_ifs with hlt hx heq hx
    · rfl
    · simp [List.find?_cons, Ne.symm h]
    · simp [← heq, Ne.symm h]
    · simp [← heq, Ne.symm h]
    · simp [List.find?_cons, ih]

/-- Every entry of a map with a key set was there before, or is the key's. -/
theorem eq_or_mem_of_mem_spSet {e : Nat × α} (h : e ∈ spSet d m a x) : e.1 = a ∨ e ∈ m := by
  induction m with
  | nil =>
    unfold spSet at h
    split at h <;> simp_all
  | cons f m ih =>
    obtain ⟨j, v⟩ := f
    unfold spSet at h
    split_ifs at h with hlt hx heq hx
    · exact .inr h
    · rcases List.mem_cons.1 h with rfl | h
      · exact .inl rfl
      · exact .inr h
    · exact .inr (List.mem_cons_of_mem _ h)
    · rcases List.mem_cons.1 h with rfl | h
      · exact .inl rfl
      · exact .inr (List.mem_cons_of_mem _ h)
    · rcases List.mem_cons.1 h with rfl | h
      · exact .inr (List.mem_cons_self ..)
      · exact (ih h).imp_right (List.mem_cons_of_mem _)

/-- The keys rise still once one is set. -/
theorem SpRising.spSet (h : SpRising m) : SpRising (spSet d m a x) := by
  induction m with
  | nil => unfold Machine.spSet; split <;> simp [SpRising]
  | cons e m ih =>
    obtain ⟨j, v⟩ := e
    obtain ⟨hj, hm⟩ := cons_iff.1 h
    unfold Machine.spSet
    split_ifs with hlt hx heq hx
    · exact h
    · refine cons_iff.2 ⟨fun f hf => ?_, h⟩
      rcases List.mem_cons.1 hf with rfl | hf
      · exact hlt
      · exact hlt.trans (hj f hf)
    · exact hm
    · exact cons_iff.2 ⟨fun f hf => heq ▸ hj f hf, hm⟩
    · refine cons_iff.2 ⟨fun f hf => ?_, ih hm⟩
      rcases eq_or_mem_of_mem_spSet hf with rfl | hf
      · exact show j < f.1 by omega
      · exact hj f hf

/-- Where the keys rise, a key set reads as it was set. -/
theorem SpRising.find?_spSet (h : SpRising m) :
    ((Machine.spSet d m a x).find? fun e => e.1 = a).elim d (·.2) = x := by
  induction m with
  | nil => unfold Machine.spSet; split <;> simp_all
  | cons e m ih =>
    obtain ⟨j, v⟩ := e
    obtain ⟨hj, hm⟩ := cons_iff.1 h
    have absent : a ≤ j → m.find? (fun e => e.1 = a) = none := fun ha =>
      List.find?_eq_none.2 fun f hf => by
        have := hj f hf
        simp only [decide_eq_true_eq]
        omega
    unfold Machine.spSet
    split_ifs with hlt hx heq hx
    · rw [List.find?_cons_of_neg (by simp; omega), absent (by omega)]
      exact hx.symm
    · simp
    · rw [absent (by omega)]
      exact hx.symm
    · simp
    · rw [List.find?_cons_of_neg (by simp; omega)]
      exact ih hm

end

/-- A privileged register written leaves every other. -/
theorem State.pr_setPr_of_ne {s : State} {reg fn child inst reg' fn' child' inst' : Nat} {v : Dword}
    (h : prKey reg fn child inst ≠ prKey reg' fn' child' inst') : (s.setPr reg' fn' child' inst' v).pr reg fn child inst = s.pr reg fn child inst :=
  congrArg (fun e => e.elim (prReset reg fn child) (·.2)) (find?_spSet_of_ne h)

/-- Where the registers' keys rise, one written reads as it was written. -/
theorem State.pr_setPr_self {s : State} (h : SpRising s.preg) (reg fn child inst : Nat) (v : Dword) :
    (s.setPr reg fn child inst v).pr reg fn child inst = v :=
  h.find?_spSet

end Sys2Proof.Machine
end

section
/-! Calibration, sheets, class changes, budgets, temperatures and gates (R272, R273, R275, R372–R374, R379, R389, R416, R417). -/
namespace Sys2Proof.Machine

/-! ## Calibration -/

/-- The first rails calibrated. -/
def State.calibrateTo (s : State) (rails : List Int) (n : Nat) : State := (List.range n).foldl (fun t r => t.calibrate rails r) s

theorem State.calibrateTo_succ (s : State) (rails : List Int) (n : Nat) :
    s.calibrateTo rails (n + 1) = (s.calibrateTo rails n).calibrate rails n := by
  simp [State.calibrateTo, List.range_succ]

/-- The calibration of a rail writes its factor, and may take a free value. -/
theorem State.calibrate_eq (s : State) (rails : List Int) (r : Nat) :
    ∃ v fresh, s.calibrate rails r = { s.setPr 0x865 0 0 r v with fresh } ∧
      (spGet 0 s.booked r ≠ 0 → v = BitVec.ofNat 64 (factorOf ((rails[r]?).getD 0 + spGet 0 s.booked r) (spGet 0 s.booked r))) := by
  unfold State.calibrate
  dsimp only
  split
  next h => exact ⟨_, _, rfl, fun hb => absurd h hb⟩
  next h => exact ⟨_, _, rfl, fun _ => rfl⟩

/-- Calibration changes registers and the count of free values alone. -/
theorem State.calibrateTo_eq (s : State) (rails : List Int) (n : Nat) : ∃ preg fresh, s.calibrateTo rails n = { s with preg, fresh } := by
  induction n with
  | zero => exact ⟨_, _, rfl⟩
  | succ n ih =>
    obtain ⟨preg, fresh, h⟩ := ih
    obtain ⟨v, fresh', h', -⟩ := ({ s with preg, fresh } : State).calibrate_eq rails n
    exact ⟨_, fresh', by rw [State.calibrateTo_succ, h, h']; rfl⟩

theorem State.calibrateTo_booked (s : State) (rails : List Int) (n : Nat) : (s.calibrateTo rails n).booked = s.booked := by
  obtain ⟨_, _, h⟩ := s.calibrateTo_eq rails n
  rw [h]

/-- Calibration writes no register but the rails' factors. -/
theorem State.calibrateTo_pr_of_ne {s : State} {rails : List Int} {n reg fn child inst : Nat}
    (h : ∀ r, r < n → prKey reg fn child inst ≠ prKey 0x865 0 0 r) : (s.calibrateTo rails n).pr reg fn child inst = s.pr reg fn child inst := by
  induction n with
  | zero => rfl
  | succ n ih =>
    obtain ⟨v, fresh, hc, -⟩ := (s.calibrateTo rails n).calibrate_eq rails n
    rw [State.calibrateTo_succ, hc]
    exact (State.pr_setPr_of_ne (h n n.lt_succ_self)).trans (ih fun r hr => h r (Nat.lt_succ_of_lt hr))

/-- The keys of the registers rise through a calibration. -/
theorem State.calibrateTo_rising {s : State} (h : SpRising s.preg) (rails : List Int) (n : Nat) : SpRising (s.calibrateTo rails n).preg := by
  induction n with
  | zero => exact h
  | succ n ih =>
    obtain ⟨v, fresh, hc, -⟩ := (s.calibrateTo rails n).calibrate_eq rails n
    rw [State.calibrateTo_succ, hc]
    exact ih.spSet

/-- The factor that a rail with bookings takes. -/
theorem State.calibrateTo_factor {s : State} (h : SpRising s.preg) (rails : List Int) {n r : Nat} (hr : r < n) (hb : spGet 0 s.booked r ≠ 0) :
    (s.calibrateTo rails n).pr 0x865 0 0 r =
      BitVec.ofNat 64 (factorOf ((rails[r]?).getD 0 + spGet 0 s.booked r) (spGet 0 s.booked r)) := by
  induction n with
  | zero => exact absurd hr r.not_lt_zero
  | succ n ih =>
    obtain ⟨v, fresh, hc, hv⟩ := (s.calibrateTo rails n).calibrate_eq rails n
    rw [State.calibrateTo_succ, hc]
    rcases Nat.lt_succ_iff_lt_or_eq.1 hr with hlt | rfl
    · refine Eq.trans (State.pr_setPr_of_ne ?_) (ih hlt)
      simp only [prKey]
      omega
    · rw [State.calibrateTo_booked] at hv
      exact (State.pr_setPr_self (State.calibrateTo_rising h rails r) ..).trans (hv hb)

/-- What the rails measured beyond what was booked on them; none measures less than nothing. -/
def State.measured (s : State) (rails : List Int) : List Int :=
  (List.range 16).map fun r => max (-((spGet 0 s.booked r : Nat) : Int)) ((rails[r]?).getD 0)

theorem State.measured_getD (s : State) (rails : List Int) {r : Nat} (h : r < 16) :
    ((s.measured rails)[r]?).getD 0 = max (-((spGet 0 s.booked r : Nat) : Int)) ((rails[r]?).getD 0) := by
  simp [State.measured, h]

/-- The state in which CALEPOCH rises: the rails calibrated, and the rest of what they measured booked to the house account. -/
def State.epochEnds (s : State) (rails : List Int) : State :=
  let t := s.calibrateTo (s.measured rails) 16
  { t with house := t.house + (s.measured rails).foldl (· + ·) 0 - ((spGet 0 t.booked nominalKey : Nat) : Int), booked := [] }

theorem exec_calibrationEpoch (s : State) : exec .calibrationEpoch s =
    .next ((s.unfocus.passTime.epochEnds s.arg.rails).setPr 0x864 0 0 0 (s.unfocus.passTime.pr 0x864 0 0 0 + 1)) := by
  have hepoch : (s.unfocus.passTime.calibrateTo (s.unfocus.passTime.measured s.arg.rails) 16).pr 0x864 0 0 0 =
      s.unfocus.passTime.pr 0x864 0 0 0 :=
    State.calibrateTo_pr_of_ne fun r _ => by
      simp only [prKey]
      omega
  rw [← hepoch]
  simp only [exec, execCalibrationEpoch, State.passTime_arg, State.unfocus_arg, State.epochEnds, State.measured, State.calibrateTo]

/-- What the end of an epoch leaves: nothing booked, the counters as they were, and the rest in the house account. -/
theorem State.epochEnds_accounts (s : State) (rails : List Int) : (s.epochEnds rails).booked = [] ∧ (s.epochEnds rails).counters = s.counters ∧
    (s.epochEnds rails).house = s.house + (s.measured rails).foldl (· + ·) 0 - ((spGet 0 s.booked nominalKey : Nat) : Int) := by
  obtain ⟨preg, fresh, h⟩ := s.calibrateTo_eq (s.measured rails) 16
  unfold State.epochEnds
  rw [h]
  exact ⟨rfl, rfl, rfl⟩

theorem State.epochEnds_pr (s : State) (rails : List Int) (reg fn child inst : Nat) :
    (s.epochEnds rails).pr reg fn child inst = (s.calibrateTo (s.measured rails) 16).pr reg fn child inst := by
  unfold State.epochEnds
  generalize s.calibrateTo (s.measured rails) 16 = t
  rfl

/-- The factor of a rail for the next epoch. -/
theorem State.epochEnds_factor {s : State} (h : SpRising s.preg) (rails : List Int) {r : Nat} (hr : r < 16) (hb : spGet 0 s.booked r ≠ 0) :
    (s.epochEnds rails).pr 0x865 0 0 r = BitVec.ofNat 64
      (factorOf (max (-((spGet 0 s.booked r : Nat) : Int)) ((rails[r]?).getD 0) + spGet 0 s.booked r) (spGet 0 s.booked r)) := by
  rw [State.epochEnds_pr, State.calibrateTo_factor h _ hr hb, State.measured_getD s rails hr]

/-! ## Sheets -/

/-- The partitions that are not absent, in function and child order. -/
def State.keptPartitions (s : State) : List (Nat × Nat) :=
  ((List.range 8).flatMap fun f => (List.range 5).map fun c => (f, c)).filter fun p => decide (s.partState p.1 p.2 ≠ 0)

/-- PERIODIC_SHEET: theirs, and the house account's. -/
theorem exec_periodicSheet {s : State} (h : s.unfocus.awake = true) : exec .periodicSheet s =
    .next ((s.unfocus.keptPartitions ++ [(7, 7)]).foldl (fun (t : State) (p : Nat × Nat) => t.persistSheet p.1 p.2 0) s.unfocus) := by
  simp only [exec, execPeriodicSheet, h, if_true, State.keptPartitions]

theorem exec_shReq {s : State} (h : s.unfocus.awake = true) (hf : s.arg.fn < 8) : exec .shReq s = .next (s.unfocus.hostSheet s.arg.fn) := by
  simp only [exec, execShReq, State.unfocus_arg, h, hf, and_self, if_true]

/-- A host's request of a sheet that can be written where it names. -/
theorem State.hostSheet_of_place {s : State} {fn f c va a : Nat} (hva : (s.cfgReg fn 0x2100).toNat = va)
    (hsel : (s.devWalk fn 0 va).sheetSel fn = some (f, c)) (halign : va % 256 = 0)
    (hplace : (s.devWalk fn 0 va).devPlace fn 0 va needW = some (.mem, a)) (hlock : (s.devWalk fn 0 va).locked a = false) :
    s.hostSheet fn = let t := (s.devWalk fn 0 va).closeSheet f c 1
      (t.1.storeAt fn .mem a t.2).setCfg fn 0x2110 (BitVec.ofNat 64 (65536 * ((spGet {} t.1.sheets (8 * f + c)).seq % 65536))) := by
  subst hva
  have hfits : ¬ ((s.cfgReg fn 0x2100).toNat % 256 ≠ 0 ∨ Space.mem ≠ .mem ∨ (s.devWalk fn 0 (s.cfgReg fn 0x2100).toNat).locked a = true) := by
    simp [halign, hlock]
  simp only [State.hostSheet, hsel, hplace, if_neg hfits]

/-! ## Classes -/

theorem exec_clusterReassign {s : State} (hcl : s.arg.cluster < 48) (hcls : s.arg.cls < 3)
    (hk : (s.unfocus.passTime.clusterOf s.arg.cluster).changing = none) :
    exec .clusterReassign s = .next (let r := s.unfocus.passTime
      (r.setCluster s.arg.cluster { r.clusterOf s.arg.cluster with changing := some s.arg.cls }).preemptWhere
        fun b => b.core / 8 = s.arg.cluster) := by
  have hopen : ¬ (48 ≤ s.arg.cluster ∨ 3 ≤ s.arg.cls ∨ (s.unfocus.passTime.clusterOf s.arg.cluster).changing.isSome = true) := by
    rw [hk]
    simp [hcl, hcls]
  simp only [exec, execClusterReassign, State.passTime_arg, State.unfocus_arg, if_neg hopen]

theorem exec_classChangeDone {s : State} {v : Nat} (hv : (s.unfocus.passTime.clusterOf s.arg.cluster).changing = some v)
    (hleft : ∀ j, j < 8 → s.unfocus.passTime.coreBlocks (8 * s.arg.cluster + j) = []) :
    exec .classChangeDone s = .next (let r := s.unfocus.passTime
      r.setCluster s.arg.cluster { r.clusterOf s.arg.cluster with cls := v, changing := none }) := by
  have harg : s.unfocus.passTime.arg = s.arg := by simp
  change execClassChangeDone s = _
  rw [execClassChangeDone]
  generalize s.unfocus.passTime = r at hv hleft harg ⊢
  have hempty : ((List.range 8).all fun j => (r.coreBlocks (8 * s.arg.cluster + j)).isEmpty) = true := by simpa using hleft
  simp only [harg, hv, hempty, if_true]

/-! ## Budgets and temperatures -/

/-- A budget on the same side of full as before: nothing begins or ends. -/
theorem State.setBudget_of_same {s : State} {cl v : Nat} (h : (s.clusterOf cl).budget < 4096 ↔ min v 4096 < 4096) :
    s.setBudget cl v = s.setCluster cl { s.clusterOf cl with budget := min v 4096 } :=
  if_pos (decide_eq_decide.2 h)

/-- A budget with which throttling begins or ends: the armed blocks there have an event. -/
theorem State.setBudget_of_other {s : State} {cl v : Nat} (h : ¬((s.clusterOf cl).budget < 4096 ↔ min v 4096 < 4096)) :
    s.setBudget cl v =
      let t := s.setCluster cl { s.clusterOf cl with budget := min v 4096 }
      { t with blocks := t.blocks.map fun b =>
        if b.core / 8 = cl ∧ b.method = none ∧ b.phase = .resident ∧ b.armed then b.throttleEvent (decide (min v 4096 < 4096)) else b } :=
  if_neg fun hd => h (decide_eq_decide.1 hd)

theorem exec_budgetChange {s : State} (hcl : s.arg.cluster < 48) :
    exec .budgetChange s = .next (s.unfocus.setBudget s.arg.cluster (min s.arg.budget (s.unfocus.budgetCap s.arg.cluster))) := by
  simp only [exec, execBudgetChange, State.unfocus_arg, hcl, if_true]

/-- The budgets of clusters set as the temperatures allow. -/
def State.capBudgets (s : State) (l : List Nat) : State := l.foldl (fun t cl => t.setBudget cl (t.budgetCap cl)) s

/-- The temperatures of a die and the inlet taken. -/
def State.warmed (s : State) (die : Nat) (temp inlet : Int) : State :=
  { s with hw := { s.hw with temp := spSet 0 s.hw.temp die temp, inlet } }

/-- The clusters whose budgets a change of temperature sets: the die's, and all where the inlet passes 40 °C. -/
def State.heated (s : State) (die : Nat) (inlet : Int) : List Nat :=
  if 640 < s.hw.inlet ↔ 640 < inlet then (List.range 48).filter fun cl => cl / 12 = die else List.range 48

theorem State.filter_heated (s : State) (die : Nat) (inlet : Int) :
    ((List.range 48).filter fun cl => decide (decide (640 < s.hw.inlet) ≠ decide (640 < inlet)) || cl / 12 = die) = s.heated die inlet := by
  unfold State.heated
  split
  next h => simp [h]
  next h => exact List.filter_eq_self.2 fun cl _ => by simp [h]

/-- DIE_TEMP_CHANGE: the budgets set, and at 115 °C a warm reset. -/
theorem exec_dieTempChange {s : State} (hdie : s.arg.die < 4) :
    exec .dieTempChange s = .next (
      let t := (s.unfocus.warmed s.arg.die s.arg.temp16 s.arg.inlet16).capBudgets (s.unfocus.heated s.arg.die s.arg.inlet16)
      if 1840 ≤ s.arg.temp16 ∧ t.awake = true then t.warmReset 2 else t) := by
  rw [← s.unfocus_arg] at hdie ⊢
  simp only [exec, execDieTempChange, if_neg (Nat.not_le.2 hdie), State.filter_heated, Bool.and_eq_true, decide_eq_true_eq]
  rfl

/-! ## Gates -/

theorem exec_clockGate {s : State} (hp : s.unfocus.present s.arg.core = true) (hg : spGet 0 s.unfocus.hw.gate s.arg.core = 0)
    (hr : ∀ q, q < 4 → s.unfocus.readyIn s.arg.core q = []) : exec .clockGate s = .next (s.unfocus.setGate s.arg.core 1) := by
  have hidle : ((List.range 4).all fun q => (s.unfocus.readyIn s.arg.core q).isEmpty) = true := by simpa using hr
  simp only [exec, execClockGate, State.unfocus_arg, hp, hg, hidle, and_self, if_true]

theorem exec_powerGate {s : State} (hp : s.unfocus.present s.arg.core = true) (hb : s.unfocus.coreBlocks s.arg.core = []) :
    exec .powerGate s = .next (s.unfocus.setGate s.arg.core 2) := by
  simp only [exec, execPowerGate, State.unfocus_arg, hp, hb, List.isEmpty_nil, and_self, if_true]

theorem exec_coreWake {s : State} (hg : spGet 0 s.unfocus.hw.gate s.arg.core = 2) :
    exec .coreWake s = .next (s.unfocus.setGate s.arg.core 0) := by
  simp only [exec, execCoreWake, State.unfocus_arg, hg, if_true]

/-- The budget at a temperature (R417). -/
theorem budgetAt_cases (temp inlet : Int) : (640 < inlet ∨ 1680 ≤ temp → budgetAt temp inlet = 1024) ∧
    (inlet ≤ 640 → temp < 1520 → budgetAt temp inlet = 4096) ∧
    (inlet ≤ 640 → 1520 ≤ temp → temp < 1680 → budgetAt temp inlet = 4096 - 256 * ((temp.toNat - 1520) / 16)) := by
  unfold budgetAt
  refine ⟨fun h => if_pos h, fun hi ht => ?_, fun hi hl ht => ?_⟩
  · rw [if_neg (by omega), if_pos ht]
  · rw [if_neg (by omega), if_neg (by omega)]

/-- Settles O42: the epoch's end rail by rail, and each other step's equation where it is due. -/
theorem accountAndPowerEventsHappen : Obligations.AccountAndPowerEventsHappen := by
  unfold Obligations.AccountAndPowerEventsHappen
  refine ⟨⟨fun s => ?epoch, fun s h => exec_periodicSheet h, fun s f c a h hf => ?request⟩,
    fun s hcl hcls hk => exec_clusterReassign hcl hcls hk, fun s v hv hleft => exec_classChangeDone hv hleft, fun s hcl => ?budget,
    fun s hdie => ?temperature, budgetAt_cases, fun s hp hg hr => exec_clockGate hp hg hr, fun s hp hb => exec_powerGate hp hb,
    fun s hg => exec_coreWake hg⟩
  case epoch =>
    obtain ⟨hbooked, hcounters, hhouse⟩ := s.unfocus.passTime.epochEnds_accounts s.arg.rails
    exact ⟨_, exec_calibrationEpoch s, hbooked, hcounters, hhouse, fun hrise r hr hb => State.epochEnds_factor hrise s.arg.rails hr hb⟩
  case request =>
    intro r va u hsel halign hplace hlock t
    rw [exec_shReq h hf]
    exact congrArg Host.Outcome.next (State.hostSheet_of_place rfl hsel halign hplace hlock)
  case budget =>
    rw [exec_budgetChange hcl]
    exact ⟨fun h => congrArg Host.Outcome.next (State.setBudget_of_same h), fun h => congrArg Host.Outcome.next (State.setBudget_of_other h)⟩
  case temperature =>
    rw [exec_dieTempChange hdie]
    refine ⟨fun ht h => ?_, fun ht h => ?_, fun ht h ha => ?_, fun ht h ha => ?_⟩
    all_goals simp only [State.heated, h, if_true, if_false]
    · exact congrArg Host.Outcome.next (if_neg fun hd => absurd hd.1 (Int.not_le.2 ht))
    · exact congrArg Host.Outcome.next (if_neg fun hd => absurd hd.1 (Int.not_le.2 ht))
    · exact congrArg Host.Outcome.next (if_pos ⟨ht, ha⟩)
    · exact congrArg Host.Outcome.next (if_pos ⟨ht, ha⟩)

end Sys2Proof.Machine
end

section
/-! Commands of partitions, and the hosts' accesses to registers (R264–R266, R280, R359, R365, R367, R369, R390, R393). -/
namespace Sys2Proof.Machine

/-! ## What comes of a write -/

/-- No write of a register waits any more. -/
def State.waitOver (s : State) (e : Nat × Nat × Nat × Dword) : State := { s with hostWaits := s.hostWaits.filter fun x => !sameWrite x e }

theorem State.settle_done (s u : State) (n : Nat) (t : PrSel) (v : Nat) :
    s.settle n t v (.done u) = u.waitOver (n, t.fn, t.inst, BitVec.ofNat 64 v) := rfl

theorem State.settle_wait (s u : State) (n : Nat) (t : PrSel) (v : Nat) :
    s.settle n t v (.wait u) = { u with hostWaits := keepWrite u.hostWaits (n, t.fn, t.inst, BitVec.ofNat 64 v) } := rfl

theorem State.settle_refused (s : State) (n : Nat) (t : PrSel) (v : Nat) :
    s.settle n t v .refused = ((s.waitOver (n, t.fn, t.inst, BitVec.ofNat 64 v)).logRefused n).praError := rfl

/-- What a write comes to is what its own outcome comes to. -/
theorem State.next_settle_congr {r r' : PrWrite} (h : r = r') (s : State) (n : Nat) (t : PrSel) (v : Nat) :
    (Host.Outcome.next (s.settle n t v r) : Host.Outcome State Fault Refusal) = .next (s.settle n t v r') := by
  rw [h]

theorem ofNat_toNat_dword (v : Dword) : BitVec.ofNat 64 v.toNat = v := by
  rw [BitVec.ofNat_toNat, BitVec.setWidth_eq]

/-! ## Commands -/

/-- A command given to a partition of a device that is up. -/
theorem State.commanded_of_given {s : State} (ha : s.awake = true) (hf : s.arg.fn < 8) (hc : s.arg.child ≤ 4) (cmd : Nat) :
    s.commanded cmd = s.settle 0x82C ⟨0, true, s.arg.fn, s.arg.child⟩ cmd (s.command s.arg.fn s.arg.child cmd) :=
  if_pos ⟨ha, hf, hc⟩

theorem State.commanded_done {s u : State} {cmd : Nat} (ha : s.awake = true) (hf : s.arg.fn < 8) (hc : s.arg.child ≤ 4)
    (h : s.command s.arg.fn s.arg.child cmd = .done u) : s.commanded cmd = u.waitOver (0x82C, s.arg.fn, 0, BitVec.ofNat 64 cmd) := by
  rw [State.commanded_of_given ha hf hc, h, State.settle_done]

/-- The states in which a partition accepts a command (R365). -/
def commandStates : Nat → List Nat
  | 1 => [0, 4]
  | 2 => [3]
  | 3 => [1]
  | 4 => [1, 3]
  | 5 => [4]
  | _ => []

section
variable {s : State} {fn child : Nat}

theorem State.command_activate (hown : fn = 0 → child ≠ 0) (hst : s.partState fn child = 0 ∨ s.partState fn child = 4)
    (hok : s.configOk fn child = true) : s.command fn child 1 = .done (s.activate fn child) := by
  simp [State.command, not_and.2 hown, hst, hok]

theorem State.command_resume (hown : fn = 0 → child ≠ 0) (hst : s.partState fn child = 3)
    (hq : s.aboveQuota fn child (s.counter fn child).toNat = false) : s.command fn child 2 = .done (s.setPartState fn child 1) := by
  simp [State.command, not_and.2 hown, hst, hq]

theorem State.command_stop (hown : fn = 0 → child ≠ 0) (hst : s.partState fn child = 1) :
    s.command fn child 3 = .done (((s.setPartState fn child 2).signalPreempt fn child).settleStops fn) := by
  simp [State.command, not_and.2 hown, hst]

theorem State.command_quiesce (hown : fn = 0 → child ≠ 0) (hst : s.partState fn child = 1 ∨ s.partState fn child = 3) :
    s.command fn child 4 = .done (s.quiesce fn child) := by
  simp [State.command, not_and.2 hown, hst]

theorem State.command_destroy (hown : fn = 0 → child ≠ 0) (hst : s.partState fn child = 4) :
    s.command fn child 5 = .done (s.destroy fn child) := by
  simp [State.command, not_and.2 hown, hst]

/-- F0's own partition takes no command, and another none in a state that does not accept it. -/
theorem State.command_refused {cmd : Nat} (h : fn = 0 ∧ child = 0 ∨ s.partState fn child ∉ commandStates cmd) :
    s.command fn child cmd = .refused := by
  unfold State.command
  dsimp only
  split_ifs with hown h1 h2 h3 h4 h5
  · rfl
  all_goals replace h := h.resolve_left hown
  · obtain ⟨rfl, hst, -⟩ := h1
    exact absurd (by simpa [commandStates] using hst) h
  · obtain ⟨rfl, hst, -⟩ := h2
    exact absurd (by simp [commandStates, hst]) h
  · obtain ⟨rfl, hst⟩ := h3
    exact absurd (by simp [commandStates, hst]) h
  · obtain ⟨rfl, hst⟩ := h4
    exact absurd (by simpa [commandStates] using hst) h
  · obtain ⟨rfl, hst⟩ := h5
    exact absurd (by simp [commandStates, hst]) h
  · rfl

/-- A quiesce whose grids have retired asks for its drain. -/
theorem State.quiesceOn_asks (hq : s.quiescing.contains (fn, child) = true) (ho : s.openGrids fn child = [])
    (hd : s.drainFor fn child (quiesceDrainer fn child) = none) :
    s.quiesceOn fn child = (s.askDrain fn child 6 0 (quiesceDrainer fn child)).1 := by
  simp only [State.quiesceOn, hq, ho, hd, Bool.not_true, List.isEmpty_nil, Bool.or_self, Bool.false_eq_true, if_false]

/-- A quiesce whose drain is done persists the sheet. -/
theorem State.quiesceOn_persists {d : Drain} (hq : s.quiescing.contains (fn, child) = true) (ho : s.openGrids fn child = [])
    (hd : s.drainFor fn child (quiesceDrainer fn child) = some d) (hdone : d.done = true) :
    s.quiesceOn fn child =
      let t := (s.leaveDrain d (quiesceDrainer fn child)).persistSheet fn child 2
      { t.setPartState fn child 4 with quiescing := t.quiescing.filter (· ≠ (fn, child)) } := by
  simp only [State.quiesceOn, hq, ho, hd, hdone, Bool.not_true, List.isEmpty_nil, Bool.or_self, Bool.false_eq_true, if_false]

end

theorem exec_quiesce_of_command {s : State} (h : s.unfocus.quiescing.contains (s.unfocus.arg.fn, s.unfocus.arg.child) = false) :
    exec .quiesce s = .next (s.unfocus.commanded 4) :=
  congrArg Host.Outcome.next (if_neg (by rw [h]; decide))

theorem exec_quiesce_of_begun {s : State} (h : s.unfocus.quiescing.contains (s.unfocus.arg.fn, s.unfocus.arg.child) = true) :
    exec .quiesce s = .next (s.unfocus.quiesceOn s.unfocus.arg.fn s.unfocus.arg.child) :=
  congrArg Host.Outcome.next (if_pos h)

/-- The steps that give commands, with the states that accept them. -/
def commandSteps : List (Instr × Nat × List Nat) :=
  [(.activate, 1, [0, 4]), (.resume, 2, [3]), (.stopPartition, 3, [1]), (.quiesce, 4, [1, 3]), (.destroy, 5, [4])]

theorem exec_of_commandSteps {i : Instr} {n : Nat} {ok : List Nat} (h : (i, n, ok) ∈ commandSteps) {s : State}
    (hq : n = 4 → s.unfocus.quiescing.contains (s.unfocus.arg.fn, s.unfocus.arg.child) = false) :
    ok = commandStates n ∧ exec i s = .next (s.unfocus.commanded n) := by
  simp only [commandSteps, List.mem_cons, List.not_mem_nil, or_false, Prod.mk.injEq] at h
  rcases h with ⟨rfl, rfl, rfl⟩ | ⟨rfl, rfl, rfl⟩ | ⟨rfl, rfl, rfl⟩ | ⟨rfl, rfl, rfl⟩ | ⟨rfl, rfl, rfl⟩
  · exact ⟨rfl, rfl⟩
  · exact ⟨rfl, rfl⟩
  · exact ⟨rfl, rfl⟩
  · exact ⟨rfl, exec_quiesce_of_command (hq rfl)⟩
  · exact ⟨rfl, rfl⟩

/-! ## Registers of F0's host -/

/-- A write of an instance that a register has, for a partition that there is. -/
theorem State.hostWrites_of_given {s : State} {n : Nat} {t : PrSel} (ha : s.awake = true) (hf : t.fn < 8) (hc : t.child ≤ 4)
    (hi : t.inst < ((prInfo n).map (·.insts)).getD 0) (v : Nat) : s.hostWrites n t v = s.settle n t v (s.writePr n t v) :=
  if_pos ⟨ha, hf, hc, hi⟩

theorem exec_pmQuotaWrite {s : State} (ha : s.unfocus.awake = true) (hf : s.unfocus.arg.fn < 8) (hc : s.unfocus.arg.child ≤ 4) :
    exec .pmQuotaWrite s = .next (s.unfocus.settle 0x825 ⟨0, true, s.unfocus.arg.fn, s.unfocus.arg.child⟩ s.unfocus.arg.value.toNat
      (if s.unfocus.arg.child = 0 then .done (s.unfocus.writeQuota s.unfocus.arg.fn s.unfocus.arg.value) else .refused)) := by
  refine congrArg Host.Outcome.next ((State.hostWrites_of_given ha hf hc Nat.one_pos _).trans (congrArg (State.settle _ _ _ _) ?_))
  change (if s.unfocus.arg.child = 0 then PrWrite.done (s.unfocus.writeQuota _ (BitVec.ofNat 64 s.unfocus.arg.value.toNat)) else .refused) = _
  rw [ofNat_toNat_dword]

theorem exec_homemodeWrite {s : State} (ha : s.unfocus.awake = true) : exec .homemodeWrite s =
    .next (s.unfocus.settle 0x860 ⟨0, true, 0, 0⟩ s.arg.value.toNat (s.unfocus.writeHomemode s.arg.value.toNat)) := by
  rw [← s.unfocus_arg]
  exact congrArg Host.Outcome.next (State.hostWrites_of_given ha (by decide) (by decide) Nat.one_pos _)

/-- What a write of CC_WAYPART sets a carve-out to: the value's low word clamped. -/
theorem exec_ccWaypartWrite {s : State} (ha : s.unfocus.awake = true) (hf : s.arg.fn < 8) (hcl : s.arg.cluster < 48) :
    exec .ccWaypartWrite s = .next (let v := s.arg.value.toNat % 2 ^ 32
      s.unfocus.settle 0x841 ⟨s.arg.cluster, true, s.arg.fn, 0⟩ v
        (s.unfocus.setScrw s.arg.fn s.arg.cluster (s.unfocus.clampScrw s.arg.fn s.arg.cluster v))) := by
  rw [← s.unfocus_arg] at hf hcl ⊢
  exact congrArg Host.Outcome.next (State.hostWrites_of_given ha hf (Nat.zero_le 4) hcl _)

theorem exec_pmWaysWrite {s : State} (ha : s.unfocus.awake = true) (hf : s.arg.fn < 8) (hcl : s.arg.cluster < 48) :
    exec .pmWaysWrite s = .next (let v := s.arg.value.toNat % 2 ^ 32
      s.unfocus.settle 0x830 ⟨s.arg.cluster, true, s.arg.fn, 0⟩ v (s.unfocus.writeWays s.arg.fn s.arg.cluster v)) := by
  rw [← s.unfocus_arg] at hf hcl ⊢
  exact congrArg Host.Outcome.next (State.hostWrites_of_given ha hf (Nat.zero_le 4) hcl _)

/-- A pool's clusters are checked once the time until then has passed. -/
theorem exec_poolClWrite {s : State} (ha : s.unfocus.awake = true) (hp : s.arg.pool < 8) :
    exec .poolClWrite s = .next (s.unfocus.settle 0x850 ⟨s.arg.pool, true, 0, 0⟩ s.arg.value.toNat
      (s.unfocus.passTime.writePool s.arg.pool s.arg.value.toNat)) := by
  rw [← s.unfocus_arg] at hp ⊢
  exact congrArg Host.Outcome.next (State.hostWrites_of_given ha (Nat.succ_pos 7) (Nat.zero_le 4) hp _)

/-! ## Home modes (R280, R302) -/

/-- Whether accesses sent before now to a granule are still to be performed. -/
theorem State.granuleBusy_iff {s : State} {g : Nat} : s.granuleBusy g (s.nextOp + 1) = true ↔
    ∃ o ∈ s.ops, o.staged = false ∧ o.key < s.nextOp ∧ ∃ i ∈ o.undone, i.space = .mem ∧ i.addr / 65536 = g := by
  simp [State.granuleBusy, and_assoc]

/-- A granule's home mode changed: its lines are written back and leave. -/
def State.flipGranule (s : State) (g : Nat) (near : Bool) : State :=
  let t := (s.writeBack .modeflip fun x => 128 * x.line / 65536 = g).l1ClearRange (g * 65536) 65536
  { t with near := spSet false t.near g near, flipping := spSet 0 t.flipping g 0 }

/-- A home mode written to a granule that is not being changed, and holds no object: it waits for the accesses sent before. -/
theorem State.writeHomemode_of_accepted {s : State} {v : Nat} (hz : fld v 62 26 = 0) (hd : v % 2 ^ 26 * 65536 < dramTop)
    (hf : spGet 0 s.flipping (v % 2 ^ 26) = 0) (ho : s.objectIn (v % 2 ^ 26) = false) :
    s.writeHomemode v = if s.granuleBusy (v % 2 ^ 26) (s.nextOp + 1) then
        .wait { s with flipping := spSet 0 s.flipping (v % 2 ^ 26) (2 * (s.nextOp + 1) + b2n (bit v 63)) }
      else .done (s.flipGranule (v % 2 ^ 26) (bit v 63)) := by
  have haccept : ¬ (fld v 62 26 ≠ 0 ∨ dramTop ≤ v % 2 ^ 26 * 65536 ∨
      s.objectIn (v % 2 ^ 26) = true ∧ spGet 0 s.flipping (v % 2 ^ 26) = 0) := by
    rintro (h | h | ⟨h, -⟩)
    · exact h hz
    · exact absurd hd (Nat.not_lt.2 h)
    · rw [ho] at h
      exact absurd h (by decide)
  simp only [State.writeHomemode, if_neg haccept, if_pos hf]
  rfl

/-! ## Carve-outs of scratch (R265, R266) -/

section
variable {s : State} {fn cl n : Nat}

/-- A carve-out that grows, or stays as it is. -/
theorem State.setScrw_grow (hw : spGet 0 s.shrinking (64 * fn + cl) = 0) (h : s.scrw fn cl ≤ n) :
    s.setScrw fn cl n = .done ((s.waysLeft (s.putScrw fn cl n) fn cl).putScrw fn cl n) := by
  simp [State.setScrw, hw, Nat.not_lt.2 h]

/-- One that shrinks, once nothing that it surrenders is in use. -/
theorem State.setScrw_shrink (h : n < s.scrw fn cl) : s.setScrw fn cl n =
    if (s.shrink fn cl n).scratchBusy fn cl n then .wait (s.shrink fn cl n) else .done ((s.shrink fn cl n).shrunk fn cl) :=
  if_pos (.inl h)

/-- A function's ways set that overlap no other's, where its carve-out fits them and does not shrink. -/
theorem State.writeWays_of_free {v : Nat} (hv : v < 2 ^ 21) (hl : fld v 20 16 ≤ 16)
    (hfree : ∀ f, f < 8 → f ≠ fn → (s.pr 0x840 f 0 cl).toNat % 2 ^ 16 &&& (v % 2 ^ 16) = 0)
    (hfits : ((s.setPr 0x830 fn 0 cl (BitVec.ofNat 64 v)).setPr 0x840 fn 0 cl (BitVec.ofNat 64 v)).clampScrw fn cl (s.scrw fn cl) =
      s.scrw fn cl) (hw : spGet 0 s.shrinking (64 * fn + cl) = 0) :
    s.writeWays fn cl v =
      let set := fun (t : State) => (t.setPr 0x830 fn 0 cl (BitVec.ofNat 64 v)).setPr 0x840 fn 0 cl (BitVec.ofNat 64 v)
      .done (set (s.passTime.waysLeft (set s.passTime) fn cl)) := by
  have haccept : ¬ (2 ^ 21 ≤ v ∨ 16 < fld v 20 16 ∨
      (List.range 8).any (fun f => f ≠ fn && (s.pr 0x840 f 0 cl).toNat % 2 ^ 16 &&& (v % 2 ^ 16) ≠ 0) = true) := by
    rintro (h | h | h)
    · omega
    · omega
    · obtain ⟨f, hf, h⟩ := List.any_eq_true.1 h
      simp only [Bool.and_eq_true, decide_eq_true_eq] at h
      exact h.2 (hfree f (List.mem_range.1 hf) h.1)
  simp only [State.writeWays, if_neg haccept, hfits, hw, and_self, if_true]

end

/-! ## Pools (R390, R446) -/

theorem mem_clustersIn {v cl : Nat} : cl ∈ clustersIn v ↔ cl < 48 ∧ bit v cl = true := by
  simp [clustersIn]

/-- Clusters given to a pool: none is another pool's, another function's of F1–F7, or in part a child's of F0. -/
theorem State.writePool_of_free {s : State} {pool v : Nat} (hv : v < 2 ^ 48)
    (hfree : ∀ cl, cl < 48 → bit v cl = true → s.f0ChildIn cl = false ∧ (∀ p, s.poolOf cl = some p → p = pool) ∧
      ∀ f, 1 ≤ f → f < 8 → s.partState f 0 = 0 ∨ inSet (s.pr 0x820 f 0 0) cl = false) :
    s.writePool pool v = .done ((s.setPr 0x850 0 0 pool (BitVec.ofNat 64 v)).leaveF0 v) := by
  refine if_neg ?_
  rintro (h | h)
  · omega
  obtain ⟨cl, hcl, h⟩ := List.any_eq_true.1 h
  obtain ⟨hlt, hbit⟩ := mem_clustersIn.1 hcl
  obtain ⟨hchild, hpool, howner⟩ := hfree cl hlt hbit
  simp only [Bool.or_eq_true] at h
  rcases h with (h | h) | h
  · rw [hchild] at h
    exact absurd h (by decide)
  · obtain ⟨p, hp, hne⟩ := Option.any_eq_true .. |>.1 h
    exact absurd (hpool p hp) (of_decide_eq_true hne)
  · obtain ⟨f, hf, h⟩ := List.any_eq_true.1 h
    simp only [Bool.and_eq_true, decide_eq_true_eq] at h
    have hrange := (by decide : ∀ f ∈ [1, 2, 3, 4, 5, 6, 7], 1 ≤ f ∧ f < 8) f hf
    rcases howner f hrange.1 hrange.2 with h0 | h0
    · exact h.1 h0
    · rw [h0] at h
      exact absurd h.2 (by decide)

/-! ## The privileged access block (R367) -/

theorem exec_praDataRead {s : State} {t : PrSel} (ha : s.unfocus.awake = true)
    (hr : ((prInfo s.unfocus.praNum).map (·.canRead)).getD false = true)
    (ht : prTarget f0Caller s.unfocus.praNum s.unfocus.praSel false = .ok t) :
    exec .praDataRead s = .next (let r := s.unfocus
      { r with out := r.out ++ [⟨"PRA_DATA", r.hw.f0Host, leBytes 8 (r.readPr f0Caller r.praNum t)⟩] }) := by
  simp only [exec, execPraDataRead, ha, hr, ht, Bool.not_true, Bool.false_eq_true, if_false]

theorem exec_praDataRead_of_none {s : State} (ha : s.unfocus.awake = true)
    (hr : ((prInfo s.unfocus.praNum).map (·.canRead)).getD false = false) : exec .praDataRead s = .next s.unfocus.praError := by
  simp only [exec, execPraDataRead, ha, hr, Bool.not_true, Bool.not_false, Bool.false_eq_true, if_false, if_true]

/-- What PRA_DATA's value is cut to: the width of the register named. -/
def State.praValue (s : State) (v : Nat) : Nat := v % (if ((prInfo s.praNum).map (·.wide)).getD false then 2 ^ 64 else 2 ^ 32)

theorem exec_praDataWrite {s : State} {t : PrSel} (ha : s.unfocus.awake = true)
    (hw : ((prInfo s.unfocus.praNum).map (·.canWrite)).getD false = true)
    (ht : prTarget f0Caller s.unfocus.praNum s.unfocus.praSel true = .ok t) :
    exec .praDataWrite s = .next (let r := s.unfocus
      let v := r.praValue s.arg.value.toNat
      r.settle r.praNum t v (r.writePr r.praNum t v)) := by
  simp only [exec, execPraDataWrite, State.unfocus_arg, ha, hw, ht, Bool.not_true, Bool.false_eq_true, if_false, State.praValue]

theorem exec_praDataWrite_of_none {s : State} (ha : s.unfocus.awake = true)
    (hw : ((prInfo s.unfocus.praNum).map (·.canWrite)).getD false = false) : exec .praDataWrite s = .next s.unfocus.praError := by
  simp only [exec, execPraDataWrite, ha, hw, Bool.not_true, Bool.not_false, Bool.false_eq_true, if_false, if_true]

/-- The save area's base and size and the root of the page tables are 64 bits wide, and take every value. -/
theorem State.writePr_wide {n : Nat} (hn : n ∈ [0x827, 0x828, 0x829]) (s : State) (t : PrSel) (v : Nat) :
    s.writePr n t v = .done (s.setPr n t.fn t.child t.inst (BitVec.ofNat 64 v)) ∧ ((prInfo n).map (·.wide)).getD false = true := by
  simp only [List.mem_cons, List.not_mem_nil, or_false] at hn
  rcases hn with rfl | rfl | rfl
  · exact ⟨rfl, rfl⟩
  · exact ⟨rfl, rfl⟩
  · exact ⟨rfl, rfl⟩

/-! ## Configuration registers (R359, R369) -/

/-- The adapter of an access is the function's host, or F0's, of which the latter alone may name a privileged register. -/
theorem State.cfg_given {s : State} (ha : s.awake = true) (hf : s.arg.fn < 8)
    (hh : s.isF0 s.arg.adapter = true ∨ s.arg.tag = false ∧ s.isHost s.arg.fn s.arg.adapter = true) :
    ¬ ((!s.awake) = true ∨ 8 ≤ s.arg.fn ∨ (!(s.isF0 s.arg.adapter || (!s.arg.tag && s.isHost s.arg.fn s.arg.adapter))) = true) := by
  have hallowed : (s.isF0 s.arg.adapter || (!s.arg.tag && s.isHost s.arg.fn s.arg.adapter)) = true := by simpa using hh
  rw [ha, hallowed]
  simpa using hf

theorem exec_configRegisterWrite_of_host {s : State} (ha : s.unfocus.awake = true) (hf : s.unfocus.arg.fn < 8) (ht : s.unfocus.arg.tag = false)
    (hh : s.unfocus.isF0 s.unfocus.arg.adapter = true ∨ s.unfocus.isHost s.unfocus.arg.fn s.unfocus.arg.adapter = true) :
    exec .configRegisterWrite s =
      .next (s.unfocus.writeCfg s.unfocus.arg.fn s.unfocus.arg.offset s.unfocus.arg.value.toNat) := by
  simp only [exec, execConfigRegisterWrite, if_neg (State.cfg_given ha hf (hh.imp_right fun h => ⟨ht, h⟩))]
  simp only [ht, Bool.false_eq_true, if_false]

theorem exec_configRegisterWrite_of_tag {s : State} {t : PrSel} (ha : s.unfocus.awake = true) (hf : s.arg.fn < 8) (ht : s.arg.tag = true)
    (hh : s.unfocus.isF0 s.arg.adapter = true) (hw : ((prInfo s.arg.offset).map (·.canWrite)).getD false = true)
    (hs : prTarget f0Caller s.arg.offset (s.arg.value2.toNat % 2 ^ 32) true = .ok t) :
    exec .configRegisterWrite s = .next (s.unfocus.settle s.arg.offset t s.arg.value.toNat
      (s.unfocus.writePr s.arg.offset t s.arg.value.toNat)) := by
  rw [← s.unfocus_arg] at hf ht hh hw hs ⊢
  simp only [exec, execConfigRegisterWrite, if_neg (State.cfg_given ha hf (.inl hh))]
  simp only [ht, hw, hs, Bool.not_true, Bool.false_eq_true, if_false, if_true]

/-- Settles O43: what each command and each register's write comes to where it is accepted, and what `settle` makes of that. -/
theorem commandsAndHostWritesHappen : Obligations.CommandsAndHostWritesHappen := by
  unfold Obligations.CommandsAndHostWritesHappen
  refine ⟨⟨fun s ⟨⟨ha, hf, hc, hown⟩, hst, hok⟩ => ?activate, fun s ⟨⟨ha, hf, hc, hown⟩, hst, hq⟩ => ?resume,
      fun s ⟨⟨ha, hf, hc, hown⟩, hst⟩ => ?stop, fun s ⟨⟨ha, hf, hc, hown⟩, hst, hq⟩ => ?quiesce, fun s ⟨hq, ho, hd⟩ => ?asks,
      fun s d hq ho hd hdone => ?persists, fun s ⟨⟨ha, hf, hc, hown⟩, hst⟩ => ?destroy, fun i n ok hi s ⟨ha, hf, hc, hst, hq⟩ => ?refused⟩,
    fun s ⟨⟨ha, hf⟩, hc⟩ => ?quota, fun s ⟨⟨ha, hf⟩, hlo, hhi⟩ => ?childQuota, fun s ha => ?homemode, fun s ha hf hcl hw => ?waypart,
    fun s ha hf hcl hv hl => ?ways, fun s ha hp hv => ?pool, fun s t ha hr ht => exec_praDataRead ha hr ht, fun s t ha hw ht => ?praWrite,
    fun s ⟨ha, hr⟩ => exec_praDataRead_of_none ha hr, fun s ⟨ha, hw⟩ => exec_praDataWrite_of_none ha hw,
    fun s ⟨⟨ha, hf⟩, ht, hh⟩ => exec_configRegisterWrite_of_host ha hf ht hh, fun s t u ha hf ht hh hw hs hu => ?tagged⟩
  case activate => exact congrArg Host.Outcome.next (State.commanded_done ha hf hc (State.command_activate hown hst hok))
  case resume => exact congrArg Host.Outcome.next (State.commanded_done ha hf hc (State.command_resume hown hst hq))
  case stop => exact congrArg Host.Outcome.next (State.commanded_done ha hf hc (State.command_stop hown hst))
  case quiesce =>
    exact (exec_quiesce_of_command hq).trans (congrArg Host.Outcome.next (State.commanded_done ha hf hc (State.command_quiesce hown hst)))
  case asks => exact (exec_quiesce_of_begun hq).trans (congrArg Host.Outcome.next (State.quiesceOn_asks hq ho hd))
  case persists =>
    rw [← s.unfocus_arg] at hq ho hd ⊢
    exact (exec_quiesce_of_begun hq).trans (congrArg Host.Outcome.next (State.quiesceOn_persists hq ho hd hdone))
  case destroy => exact congrArg Host.Outcome.next (State.commanded_done ha hf hc (State.command_destroy hown hst))
  case refused =>
    obtain ⟨rfl, hexec⟩ := exec_of_commandSteps hi hq
    rw [hexec, State.commanded_of_given ha hf hc, State.command_refused hst]
    rfl
  case quota =>
    rw [exec_pmQuotaWrite ha hf (hc.trans_le (Nat.zero_le 4)), if_pos hc, State.settle_done, ofNat_toNat_dword]
    rfl
  case childQuota =>
    rw [exec_pmQuotaWrite ha hf hhi, if_neg (Nat.ne_of_gt hlo), State.settle_refused, ofNat_toNat_dword]
    rfl
  case homemode =>
    intro r g hz hd hf ho busy
    rw [exec_homemodeWrite ha, State.writeHomemode_of_accepted hz hd hf ho]
    refine ⟨fun h => ?_, fun h => ?_⟩
    · rw [if_neg (mt State.granuleBusy_iff.1 h), State.settle_done, ofNat_toNat_dword]
      rfl
    · rw [if_pos (State.granuleBusy_iff.2 h), State.settle_wait, ofNat_toNat_dword]
  case waypart =>
    intro r n done t
    rw [exec_ccWaypartWrite ha hf hcl]
    refine ⟨fun h => ?_, fun h hb => ?_, fun h hb => ?_⟩
    · exact State.next_settle_congr (State.setScrw_grow hw h) ..
    · exact State.next_settle_congr ((State.setScrw_shrink h).trans (if_neg (by rw [hb]; decide))) ..
    · exact State.next_settle_congr ((State.setScrw_shrink h).trans (if_pos hb)) ..
  case ways =>
    intro r hfree set hfits hw u
    rw [exec_pmWaysWrite ha hf hcl]
    exact State.next_settle_congr (State.writeWays_of_free hv hl hfree hfits hw) ..
  case pool =>
    intro r hfree
    rw [exec_poolClWrite ha hp, State.writePool_of_free hv hfree, State.settle_done, ofNat_toNat_dword]
    rfl
  case praWrite =>
    intro r wide v w done
    rw [exec_praDataWrite ha hw ht]
    refine ⟨fun u hu => State.next_settle_congr hu .., fun u hu => State.next_settle_congr hu .., fun hu => State.next_settle_congr hu ..,
      fun hn => ?_⟩
    · obtain ⟨hdone, hwide⟩ := State.writePr_wide hn r t v
      have hv : BitVec.ofNat 64 v = s.arg.value := by
        simp only [v, wide, hwide, if_true, Nat.mod_eq_of_lt s.arg.value.isLt, ofNat_toNat_dword]
      change Host.Outcome.next (r.settle r.praNum t v (r.writePr r.praNum t v)) = Host.Outcome.next
        ((r.setPr r.praNum t.fn t.child t.inst s.arg.value).waitOver (r.praNum, t.fn, t.inst, BitVec.ofNat 64 v))
      rw [hdone, State.settle_done, hv]
  case tagged =>
    rw [exec_configRegisterWrite_of_tag ha hf ht hh hw hs, hu, State.settle_done, ofNat_toNat_dword]
    rfl

end Sys2Proof.Machine
end

section
/-! What reset leaves (R264, R368, R418, R421, R446). -/
namespace Sys2Proof.Machine

/-- The registers whose reset value is not zero everywhere (R368, R264, R446). -/
def presetRegs : List Nat := [0x808, 0x825, 0x826, 0x82B, 0x840, 0x865]

/-- Every other register's reset value is zero. -/
theorem prReset_eq_zero {reg : Nat} (h : reg ∉ presetRegs) (fn child : Nat) : prReset reg fn child = 0 := by
  unfold prReset
  split
  case h_7 => rfl
  all_goals exact absurd (by decide) h

/-- After reset no privileged register has been written: each reads as its reset value. -/
theorem State.reset_pr (reg fn child inst : Nat) : State.reset.pr reg fn child inst = prReset reg fn child := rfl

/-- After reset F0's own partition alone is not absent. -/
theorem State.reset_partState (fn child : Nat) : State.reset.partState fn child = if fn = 0 ∧ child = 0 then 1 else 0 := by
  rw [State.partState, State.reset_pr, prReset]
  split <;> rfl

/-- Settles O50: registers read as their reset values, and nothing else is listed in the state after reset. -/
theorem resetState : Obligations.ResetState := by
  unfold Obligations.ResetState
  refine ⟨fun _ _ _ => ⟨rfl, rfl, rfl, rfl⟩, fun reg hreg fn child _ => prReset_eq_zero (reg := reg) ?plain fn child,
    State.reset_partState 0 0, fun fn child _ _ h => ?absent, fun fn child inst => State.reset_pr 0x840 fn child inst,
    fun _ _ => rfl, fun _ _ => rfl, fun _ _ => rfl, fun _ _ _ => rfl, fun _ => rfl, rfl, rfl, rfl, rfl, rfl, rfl⟩
  case plain =>
    revert reg
    decide
  case absent => rw [State.reset_partState, if_neg (by omega)]

end Sys2Proof.Machine
end

section
/-! RDPR, WRPR, PRDONE, CTXSV, TLBINV and SHEET (R289, R366–R368, R377, R384). -/
namespace Sys2Proof.Machine

/-! ## RDPR -/

/-- The split with a privileged register's value in D: a scalar, or the pair from it on. -/
def Split.landPr (sp : Split) (x : Ctx) (v : Nat) : Split :=
  let low := sp.landScal x.d v
  match x.d with
  | .scal d => if x.dWide then low.landScal (.scal (d + 1)) (v / 2 ^ 32) else low
  | _ => low

theorem bodyRdpr_of_ok {s : State} {c : Cur} {x : Ctx} {t : PrSel} (h : prTarget c.caller x.a.sregNum (x.vB c.split 0 % 2 ^ 32) false = .ok t) :
    bodyRdpr s c x = doneWith s c (c.split.landPr x (s.readPr c.caller x.a.sregNum t)) [(.sreg, 1)] := by
  simp only [bodyRdpr, h]
  rfl

theorem bodyRdpr_of_error {s : State} {c : Cur} {x : Ctx} {r : Nat}
    (h : prTarget c.caller x.a.sregNum (x.vB c.split 0 % 2 ^ 32) false = .error r) :
    bodyRdpr s c x = .fault Fc.access (accessInfo 0x100 r) := by
  simp only [bodyRdpr, h]

/-! ## WRPR -/

/-- What a WRPR comes to, from what its write comes to: it completes, waits, or is logged and faults (R368, R369). -/
def PrWrite.wrprRes (s : State) (n : Nat) : PrWrite → Res
  | .done r => .done r [(.sreg, 1)]
  | .wait r => .wait r [(.sreg, 1)]
  | .refused => .faultIn (s.logRefused n) Fc.access (accessInfo 0x101 8)

/-- A WRPR of a register that is the caller's, from the state in which it takes effect. -/
theorem bodyWrpr_of_ok {s : State} {c : Cur} {x : Ctx} {t : PrSel}
    (h : prTarget c.counted.caller x.d.sregNum (x.vB c.split 0 % 2 ^ 32) true = .ok t) :
    bodyWrpr (s.ready c x) c.counted x =
      ((s.ready c x).writePr x.d.sregNum t (x.vA c.split 0 % (if x.aWide then 2 ^ 64 else 2 ^ 32))).wrprRes (s.ready c x) x.d.sregNum := by
  simp only [bodyWrpr, Cur.counted_split, h, State.ready_with_cur]
  rfl

/-! ## PRDONE and CTXSV -/

/-- Counting an instruction and making its operands ready leave the kernel of the block that issues. -/
theorem State.ready_kernelOf_counted (s : State) (c : Cur) (x : Ctx) : (s.ready c x).kernelOf c.counted.blk = s.kernelOf c.blk := by
  have hr (b : Block) : (s.ready c x).kernelOf b = s.kernelOf b := by
    simp only [State.kernelOf, State.obj?, State.grid?, State.ready_objs, State.ready_grids]
  rw [hr]
  unfold Cur.counted
  split
  · rfl
  · cases h : c.blk.method <;> simp only [State.kernelOf, h, Option.map_none, Option.map_some]

/-- The PC that a PRDONE resumes at: its operand's, or the one recorded where that is `zero`. -/
def Cur.resumePc (c : Cur) (x : Ctx) : Dword :=
  match x.a with
  | .zero => (c.wave.pre.map (·.pc)).getD c.split.pc
  | _ => BitVec.ofNat 64 (x.vA c.split 0)

theorem Cur.resumePc_of_zero {x : Ctx} (h : x.a = .zero) (c : Cur) : c.resumePc x = (c.wave.pre.map (·.pc)).getD c.split.pc := by
  simp only [Cur.resumePc, h]

theorem Cur.resumePc_of_ne_zero {x : Ctx} (h : x.a ≠ .zero) (c : Cur) : c.resumePc x = BitVec.ofNat 64 (x.vA c.split 0) := by
  unfold Cur.resumePc
  split
  · contradiction
  · rfl

theorem Cur.counted_resumePc (c : Cur) (x : Ctx) : c.counted.resumePc x = c.resumePc x := by
  simp only [Cur.resumePc, Cur.counted_pre, Cur.counted_split]

theorem bodyPrdone_eq (s : State) (c : Cur) (x : Ctx) :
    bodyPrdone s c x =
      if x.a ≠ .zero ∧ !(s.kernelOf c.blk).targetOk (c.resumePc x) then .fault Fc.branchAlign (c.resumePc x).toNat
      else parked s c (c.resumePc x, bit (Mod.own x.m) 0, bit (Mod.own x.m) 1, false) := rfl

/-- A PRDONE parks its split at the resume PC, which is a valid target if it is the operand's. -/
theorem bodyPrdone_of_targetOk {s : State} {c : Cur} {x : Ctx} (h : x.a ≠ .zero → (s.kernelOf c.blk).targetOk (c.resumePc x) = true) :
    bodyPrdone s c x = parked s c (c.resumePc x, bit (Mod.own x.m) 0, bit (Mod.own x.m) 1, false) := by
  rw [bodyPrdone_eq, if_neg]
  rintro ⟨hz, hbad⟩
  simp [h hz] at hbad

/-- The state with the split that issues parked, and what its wave asks of the save. -/
def State.park (s : State) (c : Cur) (done : Dword × Bool × Bool × Bool) : State :=
  { s with cur := some { c with
    wave := { c.wave with pre := c.wave.pre.map fun p => { p with done := some done } }
    split := { (c.issued s.tick).split with run := .prParked } } }

theorem parked_eq_gone (s : State) (c : Cur) (done : Dword × Bool × Bool × Bool) : parked s c done = .gone (s.park c done) [(.ctl, 1)] := rfl

/-! ## TLBINV -/

/-- What a TLBINV names. -/
def Cur.tlbTarget (c : Cur) (x : Ctx) : TlbTarget :=
  let n := x.vB c.split 0 % 2 ^ 32
  if Mod.own x.m = 2 then ⟨n % 8, fld n 5 3, none⟩
  else ⟨c.blk.fn, c.blk.child, if Mod.own x.m = 0 then some (x.vA c.split 0) else none⟩

theorem Cur.counted_tlbTarget (c : Cur) (x : Ctx) : c.counted.tlbTarget x = c.tlbTarget x := by
  simp only [Cur.tlbTarget, Cur.counted_split, Cur.counted_fn, Cur.counted_child]

/-- A TLBINV whose selector names a partition waits for what is in flight, or drops what it names. -/
theorem bodyTlbinv_of_named {s : State} {c : Cur} {x : Ctx}
    (h : Mod.own x.m = 2 → c.wave.level = 2 ∧ x.vB c.split 0 % 2 ^ 32 < 64 ∧ fld (x.vB c.split 0 % 2 ^ 32) 5 3 ≤ 4) :
    bodyTlbinv s c x =
      if s.ops.any (s.usesNamed (c.tlbTarget x)) then .wait s [(.tlbinv, 1)]
      else .done { s with tlb := s.tlb.filter fun e => !(c.tlbTarget x).names e } [(.tlbinv, 1)] := by
  have hlevel : ¬ (Mod.own x.m = 2 ∧ c.wave.level ≠ 2) := fun hn => hn.2 (h hn.1).1
  have hsel : ¬ (Mod.own x.m = 2 ∧ (64 ≤ x.vB c.split 0 % 2 ^ 32 ∨ 4 < fld (x.vB c.split 0 % 2 ^ 32) 5 3)) := by
    rintro ⟨hm, hb⟩
    obtain ⟨-, hlt, hle⟩ := h hm
    omega
  simp only [bodyTlbinv, if_neg hlevel, if_neg hsel]
  rfl

/-! ## SHEET -/

/-- The window of an account closed, and the signed sheet stored at an address, from the state that the walk left. -/
def State.sheetAt (s : State) (c : Cur) (fn child a : Nat) : State :=
  let signed := (s.bookIssue c 1 [(.sheet, 1)]).closeSheet fn child 1
  signed.1.storeAt c.blk.fn .mem a signed.2

/-- A SHEET of an account that is the caller's, at an aligned place that may be written, once what it releases is performed. -/
theorem bodySheet_of_placed {s : State} {c : Cur} {x : Ctx} {fn child a : Nat}
    (ht : sheetTarget c.caller (x.vB c.split 0 % 2 ^ 32) = .ok (fn, child)) (ha : x.vA c.split 0 % 256 = 0)
    (hp : s.devPlace c.blk.fn c.blk.child (x.vA c.split 0) needW = some (.mem, a)) (hl : s.locked a = false)
    (hr : s.released c.blk c.wave.wid (· = c.split.sid) (s.before c) 6 = true) :
    bodySheet s c x = .booked
      (({ s.devWalk c.blk.fn c.blk.child (x.vA c.split 0) with cur := some c } : State).sheetAt c fn child a) := by
  simp only [bodySheet, ht, ha, hp, hl, hr, ne_eq, not_true_eq_false, Bool.not_true, Bool.false_eq_true, if_false]
  rfl

/-- Counting the instruction that issues changes no sheet. -/
theorem State.sheetAt_counted (s : State) (c : Cur) (fn child a : Nat) : s.sheetAt c.counted fn child a = s.sheetAt c fn child a := by
  simp only [State.sheetAt, State.bookIssue_counted, Cur.counted_fn]

/-! ## The instructions -/

/-- An instruction that parks its split. -/
theorem exec_of_parked {s : State} {c : Cur} {op : Nat} {f : Form} {spec : Nat → Spec} {x : Ctx} {i : Instr}
    {done : Dword × Bool × Bool × Bool} {body : State → Cur → Ctx → Res} (he : ∀ s, exec i s = s.issueOp op f spec body)
    (h : Issues s c op f spec x) (hb : body (s.ready c x) c.counted x = parked (s.ready c x) c.counted done) :
    exec i s = .next (((s.ready c x).park c.counted done).dealt s.tick c f spec [(.ctl, 1)]) :=
  exec_of_gone he h (hb.trans (parked_eq_gone ..))

/-- PRDONE in either form. -/
theorem exec_prdone {i : Instr} {f : Form} (he : ∀ s, exec i s = s.issueOp 0x102 f specPrdone bodyPrdone) {s : State} {c : Cur} {x : Ctx}
    (hi : Issues s c 0x102 f specPrdone x) (h : x.a ≠ .zero → (s.kernelOf c.blk).targetOk (c.resumePc x) = true) :
    exec i s = .next (((s.ready c x).park c.counted (c.resumePc x, bit (Mod.own x.m) 0, bit (Mod.own x.m) 1, false)).dealt s.tick c f
      specPrdone [(.ctl, 1)]) := by
  have hb := bodyPrdone_of_targetOk (s := s.ready c x) (c := c.counted) (x := x)
  rw [State.ready_kernelOf_counted, Cur.counted_resumePc] at hb
  exact exec_of_parked he hi (hb h)

/-- TLBINV in either form. -/
theorem exec_tlbinv {i : Instr} {f : Form} (he : ∀ s, exec i s = s.issueOp 0x104 f specTlbinv bodyTlbinv) {s : State} {c : Cur} {x : Ctx}
    (hi : Issues s c 0x104 f specTlbinv x)
    (h : Mod.own x.m = 2 → c.wave.level = 2 ∧ x.vB c.split 0 % 2 ^ 32 < 64 ∧ fld (x.vB c.split 0 % 2 ^ 32) 5 3 ≤ 4) :
    let r := s.ready c x
    ((∀ o ∈ r.ops, r.usesNamed (c.tlbTarget x) o = false) →
      exec i s = .next (({ r with tlb := r.tlb.filter fun e => !(c.tlbTarget x).names e } : State).ended c f specTlbinv [(.tlbinv, 1)]
        (c.next f))) ∧
    ((∃ o ∈ r.ops, r.usesNamed (c.tlbTarget x) o = true) → exec i s = .next (r.waiting c f specTlbinv [(.tlbinv, 1)])) := by
  intro r
  have hb := bodyTlbinv_of_named (s := r) (c := c.counted) (x := x) (by rwa [Cur.counted_split, Cur.counted_level])
  rw [Cur.counted_tlbTarget] at hb
  refine ⟨fun hfree => exec_of_done he hi (hb.trans (if_neg ?_)), fun hused => exec_of_wait he hi (hb.trans (if_pos ?_))⟩
  · simpa using hfree
  · simpa using hused

/-- SHEET in either form. -/
theorem exec_sheet {i : Instr} {f : Form} (he : ∀ s, exec i s = s.issueOp 0x105 f specSheet bodySheet) {s : State} {c : Cur} {x : Ctx}
    {fn child a : Nat} (hi : Issues s c 0x105 f specSheet x)
    (ht : sheetTarget c.counted.caller (x.vB c.split 0 % 2 ^ 32) = .ok (fn, child)) (ha : x.vA c.split 0 % 256 = 0)
    (hp : (s.ready c x).devPlace c.blk.fn c.blk.child (x.vA c.split 0) needW = some (.mem, a)) (hl : (s.ready c x).locked a = false)
    (hr : (s.ready c x).released c.counted.blk c.wave.wid (· = c.split.sid) ((s.ready c x).before c.counted) 6 = true) :
    exec i s = .next ((({ (s.ready c x).devWalk c.blk.fn c.blk.child (x.vA c.split 0) with cur := some c.counted } : State).sheetAt c
      fn child a).finish (c.next f)) := by
  have hb := bodySheet_of_placed (s := s.ready c x) (c := c.counted) (x := x) (fn := fn) (child := child) (a := a)
  simp only [Cur.counted_split, Cur.counted_fn, Cur.counted_child, Cur.counted_wid, State.sheetAt_counted] at hb
  exact exec_of_body' he hi (hb ht ha hp hl hr) rfl

/-- Settles O33: what each body does under its conditions, from the split as counted. -/
theorem privilegedInstructionsComplete : Obligations.PrivilegedInstructionsComplete := by
  unfold Obligations.PrivilegedInstructionsComplete
  refine ⟨fun f => ⟨fun s c x t hi ht => ?rdpr, fun s c x r hi hr => ?rdprRefused⟩, fun f s c x t hi ht => ?wrpr, ?prdone, ?ctxsv, ?tlbinv,
    ?sheet⟩
  case rdpr =>
    have hb := bodyRdpr_of_ok (s := s.ready c x) (c := c.counted) (x := x) (t := t)
    rw [Cur.counted_split] at hb
    exact exec_of_doneWith (fun _ => rfl) hi (hb ht)
  case rdprRefused =>
    rw [← Cur.counted_split c] at hr
    exact exec_of_body' (fun _ => rfl) hi (bodyRdpr_of_error hr) rfl
  case wrpr =>
    intro w
    have hb := bodyWrpr_of_ok (s := s) ht
    refine ⟨fun r hw => ?_, fun r hw => ?_, fun hw => ?_⟩
    · exact exec_of_done (fun _ => rfl) hi (hb.trans (congrArg _ hw))
    · exact exec_of_wait (fun _ => rfl) hi (hb.trans (congrArg _ hw))
    · exact exec_of_body' (fun _ => rfl) hi (hb.trans (congrArg _ hw)) rfl
  case prdone =>
    refine both_of_issueOp (fun _ _ => rfl) (fun _ _ => rfl) fun i f he s c x hi => ⟨fun hz => ?_, fun hz ht => ?_⟩
    · rw [← Cur.resumePc_of_zero hz]
      exact exec_prdone he hi fun hn => absurd hz hn
    · rw [← Cur.resumePc_of_ne_zero hz] at ht ⊢
      exact exec_prdone he hi fun _ => ht
  case ctxsv =>
    refine both_of_issueOp (fun _ _ => rfl) (fun _ _ => rfl) fun i f he s c x hi => ?_
    rw [← Cur.counted_pre, ← Cur.counted_split]
    exact exec_of_parked he hi rfl
  case tlbinv =>
    refine both_of_issueOp (fun _ _ => rfl) (fun _ _ => rfl) fun i f he => ?_
    intro s c x hi n named r h
    exact exec_tlbinv he hi h
  case sheet =>
    refine both_of_issueOp (fun _ _ => rfl) (fun _ _ => rfl) fun i f he => ?_
    intro s c x fn child a hi r va ht ha hp hl hr walked signed
    exact exec_sheet he hi ht ha hp hl hr

end Sys2Proof.Machine
end

section
/-! CBATCH, CARG, CREPLY and CEND, the instructions of a method (R314, R315). -/
namespace Sys2Proof.Machine

/-! ## CBATCH -/

/-- The fact of a batch that a CBATCH names, in its D: the count of requests, the mask of their lanes, the object's base, or its size. -/
def Split.landBatch (sp : Split) (x : Ctx) (m : Method) (o : Obj) : Split :=
  match x.d, Mod.sub x.m with
  | .scal d, 0 => sp.land (.scal d) [(0, BitVec.ofNat 64 m.reqs.length)]
  | .mask d, 1 => sp.land (.mask d) ((List.range x.w).map fun n => (n, if n < m.reqs.length then 1 else 0))
  | .scal d, 2 => (sp.land (.scal d) [(0, o.base &&& 0xFFFFFFFF#64)]).land (.scal (d + 1)) [(0, o.base >>> 32)]
  | .scal d, _ => sp.land (.scal d) [(0, BitVec.ofNat 64 o.size)]
  | _, _ => sp

theorem bodyCbatch_of_batch {s : State} {c : Cur} {x : Ctx} {m : Method} {o : Obj} (hb : s.batchOf c = some (m, o))
    (hf : s.pathFull c 6 = false) :
    bodyCbatch s c x = .done ({ s with cur := some { c with split := c.split.landBatch x m o } } : State).cmbDone [] := by
  simp only [bodyCbatch, hb, hf, Bool.false_eq_true, if_false]
  rfl

/-! ## CARG -/

/-- The word that a CARG takes from the argument of a lane's request: 32 or 64 bits, from the word that its field names. -/
def Ctx.argWord (x : Ctx) (m : Method) (o : Obj) (n : Nat) : Nat :=
  ((m.reqs[n]?).map (argOf o)).getD 0 / 2 ^ (32 * Mod.sub x.m) % 2 ^ (if Mod.mtype x.m = 8 then 64 else 32)

/-- A CARG in flight: a word of each active lane's argument, on its way to D. -/
def Ctx.cargOp (x : Ctx) (m : Method) (o : Obj) : Op :=
  { cmbOp (.carg (dstOf x.d x.dWide)) with
    items := x.lanes.map fun n => { lane := n, space := .tile, addr := 0, bytes := 0, data := BitVec.ofNat 64 (x.argWord m o n) } }

theorem bodyCarg_of_no_lanes {s : State} {c : Cur} {x : Ctx} (hl : x.lanes = []) : bodyCarg s c x = .done s [] := by
  unfold bodyCarg
  split
  · rfl
  · rw [hl, List.isEmpty_nil, if_pos rfl]

theorem bodyCarg_of_batch {s : State} {c : Cur} {x : Ctx} {m : Method} {o : Obj} (hb : s.batchOf c = some (m, o)) (hl : x.lanes ≠ [])
    (hf : s.pathFull c 6 = false) : bodyCarg s c x = .done (s.addOp (x.cargOp m o)) [] := by
  simp only [bodyCarg, hb, hf, List.isEmpty_iff, hl, Bool.false_eq_true, if_false]
  rfl

/-! ## CREPLY -/

/-- The replies of a batch once a CREPLY has given those of its active lanes, of REPB bytes each; none where REPB is 0. -/
def Method.replied (m : Method) (sp : Split) (x : Ctx) (o : Obj) : Method :=
  let l := x.lanes.map fun n => (n, BitVec.ofNat 64 (x.vA sp n % 2 ^ (if Mod.mtype x.m = 8 then 64 else 32) % 2 ^ (8 * o.repb)))
  { m with replies := if o.repb = 0 then m.replies else spSets 0 m.replies l }

/-- The split that issues, with another batch in its block. -/
def State.inBatch (s : State) (c : Cur) (m : Method) : State := { s with cur := some { c with blk := { c.blk with method := some m } } }

theorem bodyCreply_of_no_lanes {s : State} {c : Cur} {x : Ctx} (hl : x.lanes = []) : bodyCreply s c x = .done s [] := by
  unfold bodyCreply
  split
  · rfl
  · rw [hl, List.isEmpty_nil, if_pos rfl]

theorem bodyCreply_of_batch {s : State} {c : Cur} {x : Ctx} {m : Method} {o : Obj} (hb : s.batchOf c = some (m, o)) (hl : x.lanes ≠ [])
    (hf : s.pathFull c 6 = false) :
    bodyCreply s c x = .done (s.inBatch c (m.replied c.split x o)).cmbDone [] := by
  simp only [bodyCreply, hb, hf, List.isEmpty_iff, hl, Bool.false_eq_true, if_false]
  rfl

/-! ## CEND -/

/-- Every request of a batch answered with its reply, in increasing lane. -/
def State.repliesSent (s : State) (m : Method) : State :=
  m.reqs.zipIdx.foldl (fun s q => s.answer q.1 true (spGet 0 m.replies q.2)) s

/-- The end of a batch by its CEND: the replies are sent, and their energy is the batch's. -/
def State.batchServed (s : State) (c : Cur) (m : Method) : State :=
  (s.repliesSent m).endBatch c.blk m (m.energy + s.meter m.fn m.slice [(.cmbreply, m.reqs.length)])

/-- A CEND of a method with nothing in flight, `m` its batch with the CEND's own issue booked to it. -/
theorem bodyCend_of_idle {s : State} {c : Cur} {x : Ctx} {m : Method} (hm : c.blk.method.isSome = true) (ho : ∀ o ∈ s.ops, o.blk ≠ c.blk.id)
    (hr : (({ s with cur := some c } : State).bookFor c.blk [(.issue, 1)]).cur.bind (·.blk.method) = some m) :
    bodyCend s c x = .gone ((({ s with cur := some c } : State).bookFor c.blk [(.issue, 1)]).batchServed c m) [] := by
  obtain ⟨m0, hm0⟩ := Option.isSome_iff_exists.1 hm
  have hops : (s.ops.any fun o => o.blk = c.blk.id) = false := by simpa using ho
  simp only [bodyCend, hm0, hops, hr, Bool.false_eq_true, if_false]
  rfl

/-! ## The instructions -/

/-- Settles O31: what each body does where nothing holds it back, from the split as counted. -/
theorem methodInstructionsComplete : Obligations.MethodInstructionsComplete := by
  unfold Obligations.MethodInstructionsComplete
  refine ⟨?cbatch, ?carg, ?creply, ?cend⟩
  case cbatch =>
    refine both_of_issueOp (fun _ _ => rfl) (fun _ _ => rfl) fun i f he s c x m o hi hb hf => ?_
    have hd := bodyCbatch_of_batch (x := x) hb hf
    rw [Cur.counted_split] at hd
    exact exec_of_done he hi hd
  case carg =>
    refine both_of_issueOp (fun _ _ => rfl) (fun _ _ => rfl) fun i f he s c x m o hi hb => ⟨fun hl => ?_, fun hl hf => ?_⟩
    · exact exec_of_done he hi (bodyCarg_of_no_lanes hl)
    · exact exec_of_done he hi (bodyCarg_of_batch hb hl hf)
  case creply =>
    refine both_of_issueOp (fun _ _ => rfl) (fun _ _ => rfl) fun i f he s c x m o hi hb => ⟨fun hl => ?_, fun hl hf => ?_⟩
    · exact exec_of_done he hi (bodyCreply_of_no_lanes hl)
    · have hd := bodyCreply_of_batch hb hl hf
      rw [Cur.counted_split] at hd
      exact exec_of_done he hi hd
  case cend =>
    refine both_of_issueOp (fun _ _ => rfl) (fun _ _ => rfl) fun i f he => ?_
    rintro s c x hi hm ho r m rfl hr
    have hd := bodyCend_of_idle (s := s.ready c x) (c := c.counted) (x := x) (by rwa [Cur.counted_method_isSome])
      (by rwa [State.ready_ops, Cur.counted_id]) hr
    exact exec_of_gone he hi hd

end Sys2Proof.Machine
end

section
/-! Energy counters (R375): what one booking makes of them. -/
namespace Sys2Proof.Machine

/-- A counter once units are booked on it: 96 bits, saturating. -/
def raised (n units : Nat) : Nat := min (n + units) (2 ^ 96 - 1)

theorem raised_toNat (n units : Nat) : (BitVec.ofNat 96 (raised n units)).toNat = raised n units := by
  rw [BitVec.toNat_ofNat, Nat.mod_eq_of_lt]
  unfold raised
  omega

/-- A counter of 96 bits is not above its largest value, so that no booking lowers it. -/
theorem le_raised (v : BitVec 96) (units : Nat) : v ≤ BitVec.ofNat 96 (raised v.toNat units) := by
  rw [BitVec.le_def, raised_toNat, raised]
  have := v.isLt
  omega

/-- A bump raises the counter that it names. -/
theorem State.bump_counter_same {s : State} (h : s.CountersWf) (fn child units : Nat) :
    spGet 0 (s.bump fn child units).counters (8 * fn + child) =
      BitVec.ofNat 96 (raised (spGet 0 s.counters (8 * fn + child)).toNat units) := by
  rw [State.bump_counters, spGet_spSet h, if_pos rfl]
  rfl

/-- A bump leaves every counter that it does not name. -/
theorem State.bump_counter_of_ne {fn child key : Nat} (h : key ≠ 8 * fn + child) (s : State) (units : Nat) :
    spGet 0 (s.bump fn child units).counters key = spGet 0 s.counters key := by
  rw [State.bump_counters, spGet_spSet_of_ne h]

/-- What a booking makes of each counter: the partition's and its level-1 partition's are raised, and no other. -/
theorem State.bookUnits_counter {s : State} (h : s.CountersWf) (fn child units key : Nat) :
    spGet 0 (s.bookUnits fn child units).counters key =
      if key = 8 * fn + child ∨ key = 8 * fn then BitVec.ofNat 96 (raised (spGet 0 s.counters key).toNat units)
      else spGet 0 s.counters key := by
  unfold State.bookUnits
  split_ifs with hc hk hk
  · obtain rfl : key = 8 * fn + 0 := by omega
    exact State.bump_counter_same h ..
  · exact State.bump_counter_of_ne (by omega) ..
  · by_cases hl : key = 8 * fn + 0
    · subst hl
      rw [State.bump_counter_same (h.bump ..), State.bump_counter_of_ne (by omega)]
    · obtain rfl : key = 8 * fn + child := by omega
      rw [State.bump_counter_of_ne hl, State.bump_counter_same h]
  · rw [State.bump_counter_of_ne (by omega), State.bump_counter_of_ne (by omega)]

/-- Settles O60: each counter by `State.bookUnits_counter`. -/
theorem countersOnlyRise : Obligations.CountersOnlyRise := by
  unfold Obligations.CountersOnlyRise
  refine ⟨fun s fn child units h _ => ⟨?own, ?level1, fun key hown hlevel1 => ?other, fun key => ?rises⟩, fun s => rfl⟩
  case own => rw [State.bookUnits_counter h, if_pos (.inl rfl), raised_toNat, raised]
  case level1 => rw [State.bookUnits_counter h, if_pos (.inr rfl), raised_toNat, raised]
  case other => rw [State.bookUnits_counter h, if_neg (not_or.2 ⟨hown, hlevel1⟩)]
  case rises =>
    rw [State.bookUnits_counter h]
    split
    · exact le_raised ..
    · exact BitVec.le_refl _

/-- Settles O49: reset lists nothing in either memory. -/
theorem resetMemoryCanonical : Obligations.ResetMemoryCanonical := by
  obtain ⟨hmem, hcscr⟩ := State.reset_mem
  unfold Obligations.ResetMemoryCanonical State.memOk
  rw [hmem, hcscr]
  exact ⟨Memory.wf_nil, Memory.wf_nil⟩

end Sys2Proof.Machine
end

section
/-! Queues: doorbells, records admitted, and launches merged (R338, R339, R343, R344, R349, R351). -/
namespace Sys2Proof.Machine

/-! ## Records -/

/-- A store to Q_TAIL of a device that is up. -/
theorem exec_qTailDoorbell {s : State} (h : s.unfocus.awake = true) :
    exec .qTailDoorbell s = .next (s.unfocus.doorbell s.unfocus.arg.fn s.unfocus.arg.q (s.unfocus.arg.value.toNat % 2 ^ 32)) := by
  simp only [exec, execQTailDoorbell, h, if_true]

/-- The record at Q_HEAD of a queue from which Tailstock takes one now. -/
theorem exec_recordAdmit_of_queue {s : State} (ht : s.unfocus.arg.tag = false)
    (hd : s.unfocus.queueDue s.unfocus.arg.fn s.unfocus.arg.q = true) :
    exec .recordAdmit s = .next (s.unfocus.takeRecord s.unfocus.arg.fn s.unfocus.arg.q) := by
  simp only [exec, execRecordAdmit, ht, hd, Bool.false_eq_true, if_false, if_true]

/-- The record of a LAUNCH that may be read now. -/
theorem exec_recordAdmit_of_launch {s : State} {o : Op} {d : Dst} {v : Dword} (ht : s.arg.tag = true) (ho : s.unfocus.op? s.arg.op = some o)
    (hk : o.kind = .launch d v) (hd : s.unfocus.launchDue o = true) :
    exec .recordAdmit s = .next (s.unfocus.readLaunch o d).sweepChwait := by
  simp only [exec, execRecordAdmit, State.unfocus_arg, ht, ho, hk, hd, if_true]

/-! ## Readiness -/

theorem exec_waitRetest (s : State) : exec .waitRetest s = .next (s.unfocus.retest s.unfocus.arg.grid) := by
  rw [State.unfocus_arg]
  rfl

/-- A ready grid of which no block has been dispatched rises by one priority. -/
theorem exec_priorityAging (s : State) : exec .priorityAging s = .next (s.unfocus.mapGrid s.unfocus.arg.grid fun g =>
    if g.ready ∧ g.dispatched.isEmpty ∧ g.status.isNone then { g with prio := min 3 (g.prio + 1) } else g) := by
  rw [State.unfocus_arg]
  rfl

/-! ## Merging -/

/-- Two launches that have begun nothing and have one key: the later becomes a member of what the earlier leads. -/
theorem exec_launchAggregate {s : State} {a b : Grid} (ha : s.unfocus.grid? s.arg.grid = some a) (hb : s.unfocus.grid? s.arg.other = some b)
    (horder : a.handle < b.handle) (hfresh : a.fresh = true ∧ b.fresh = true) (hmerge : a.mergeable = true ∧ b.mergeable = true)
    (hkey : a.mergeKey = b.mergeKey) (hroom : (s.unfocus.mergedWith a.handle).length + 1 < 64) (halone : s.unfocus.mergedWith b.handle = []) :
    exec .launchAggregate s = .next (s.unfocus.mapGrid b.handle fun g => { g with lead := some a.handle }) := by
  obtain ⟨hfa, hfb⟩ := hfresh
  obtain ⟨hma, hmb⟩ := hmerge
  simp only [exec, execLaunchAggregate, State.unfocus_arg, ha, hb, horder, hfa, hfb, hma, hmb, hkey, hroom, halone, List.isEmpty_nil, and_self,
    if_true]

/-- Settles O37: each step's equation where it is due; the tests of waits and the aging of priorities have no condition. -/
theorem queueEventsHappen : Obligations.QueueEventsHappen := by
  unfold Obligations.QueueEventsHappen
  exact ⟨fun s h => exec_qTailDoorbell h, fun s ⟨ht, hd⟩ => exec_recordAdmit_of_queue ht hd,
    fun s o d v ho ht hk hd => exec_recordAdmit_of_launch ht ho hk hd, fun s _ => exec_waitRetest s, fun s _ => exec_priorityAging s,
    fun s a b ha hb horder hfa hfb hma hmb hkey hroom halone =>
      exec_launchAggregate ha hb horder ⟨hfa, hfb⟩ ⟨hma, hmb⟩ hkey hroom halone⟩

end Sys2Proof.Machine
end

section
/-! Bind records, and the dispatch of blocks (R344, R346, R347, R405). -/
namespace Sys2Proof.Machine

/-! ## Bind records -/

/-- A record that Tailstock writes: one of the shipped policy is of the grid that the policy chooses. -/
def State.bindChosen (s : State) : Prop := s.arg.tag = true → s.policyGrid = some s.arg.bind.grid

/-- A slot's record installed. -/
def State.install (s : State) (cluster slot : Nat) (w : BindWords) : State :=
  { s with binds := s.binds ++ [{ cluster, slot, words := w }], lastBound := w.fn }

/-- A record that Tailstock writes is installed where it passes Headstock's checks, and discarded where it does not. -/
theorem exec_bindRecordInstall_of_chosen {s : State} (hc : s.unfocus.bindChosen) :
    exec .bindRecordInstall s = .next (let r := s.unfocus
      let t := r.printAsked r.arg.bind
      if t.bindOk r.arg.cluster r.arg.slot r.arg.bind = true then t.install r.arg.cluster r.arg.slot r.arg.bind
      else r.discard r.arg.bind) := by
  have hgo : ¬(s.unfocus.arg.tag = true ∧ s.unfocus.policyGrid ≠ some s.unfocus.arg.bind.grid) := by
    simpa only [State.bindChosen, not_and, not_not] using hc
  simp only [exec, execBindRecordInstall, if_neg hgo, State.install, apply_ite Host.Outcome.next]

/-- The shipped policy writes no record of another grid than the one that it chooses. -/
theorem exec_bindRecordInstall_of_not_chosen {s : State} (hc : ¬s.unfocus.bindChosen) : exec .bindRecordInstall s = .next s.unfocus := by
  simp only [exec, execBindRecordInstall, if_pos (Classical.not_imp.1 hc)]

/-! ## Shares -/

theorem exec_bindShareRewrite_of_no_slot {s : State} (h : s.unfocus.bind? s.unfocus.arg.cluster s.unfocus.arg.slot = none) :
    exec .bindShareRewrite s = .next (s.unfocus.discard s.unfocus.arg.bind) := by
  simp only [exec, execBindShareRewrite, h]

/-- A slot's record written anew, and its share what the slot's waves want. -/
def State.reshare (s : State) (d : Bind) (w : BindWords) : State :=
  let t := s.mapWaves d.holds fun x => { x with wanted := w.share }
  { t with
    binds := s.binds.map fun e => if e = d then { d with words := w } else e
    blocks := t.blocks.map fun b => if d.holds b then { b with baseShare := w.share } else b }

theorem exec_bindShareRewrite_of_share {s : State} {d : Bind} {g : Grid} (hd : s.unfocus.bind? s.arg.cluster s.arg.slot = some d)
    (hg : s.unfocus.grid? s.arg.bind.grid = some g)
    (hs : (s.unfocus.printAsked s.arg.bind).sharesOnly d g.kernel s.arg.bind = true) :
    exec .bindShareRewrite s = .next ((s.unfocus.printAsked s.arg.bind).reshare d s.arg.bind) := by
  simp only [exec, execBindShareRewrite, State.unfocus_arg, hd, hg, Option.map_some, Option.getD_some, hs, Bool.not_true, Bool.false_eq_true,
    if_false, State.reshare]

/-- A record written over an installed one that differs in its share, in the kernel's range, and at most in the print that it names. -/
theorem State.sharesOnly_iff {s : State} {d : Bind} {k : Kernel} {w : BindWords} :
    s.sharesOnly d k w = true ↔ d.withdrawn = false ∧ k.shareOk w.share = true ∧
      { w with share := d.words.share, print := d.words.print } = d.words ∧
      (w.print = d.words.print ∨ s.printHeld w.fn k w.share w.print = true) := by
  simp only [State.sharesOnly, Bool.and_eq_true, Bool.or_eq_true, Bool.not_eq_true', decide_eq_true_eq, and_assoc]

/-! ## Dispatch -/

/-- What a block of a slot asks of a core. -/
def Grid.needOf (g : Grid) (d : Bind) : Need := ⟨g.kernel, g.rcd.waves, g.rcd.tiles, d.words.share⟩

/-- A slot's cores that can take a block now, each with the quarter of its first wave. -/
def State.openCores (s : State) (g : Grid) (d : Bind) : List (Nat × Nat) :=
  (coreList d.words d.cluster).filterMap fun c =>
    if s.coreOpen g.fn g.child c then (s.grant c (g.needOf d)).map fun q => (c, q) else none

/-- A deterministic grid's block is in turn once each before it is dispatched, or given away; any other grid's is. -/
theorem Grid.inTurn_iff {g : Grid} {i : Nat} : g.inTurn i = true ↔
    (g.kernel.det = true → ∀ j, j < i → spGet false g.dispatched j = true ∨ spGet false g.withdrawnBlocks j = true) := by
  simp only [Grid.inTurn, Bool.or_eq_true, Bool.not_eq_true', List.all_eq_true, List.mem_range, ← Bool.not_eq_true, imp_iff_not_or]

/-- The next block of a slot, or gang, placed on the first cores that can take it. -/
theorem exec_blockDispatch {s : State} {d : Bind} {g : Grid} {i : Nat} (hd : s.unfocus.bind? s.arg.cluster s.arg.slot = some d)
    (hg : s.unfocus.grid? d.words.grid = some g) (hi : nextBlockOf g d = some i) (hw : d.withdrawn = false)
    (hdisp : s.unfocus.dispatches g = true) (hcls : s.unfocus.classOk d.cluster d.words.cls = true)
    (hch : (s.unfocus.clusterOf d.cluster).changing = none) (hcores : g.kernel.gang ≤ (s.unfocus.openCores g d).length)
    (hloupe : s.unfocus.loupeRoom g g.kernel.gang = true) (hturn : g.inTurn i = true) :
    exec .blockDispatch s = .next (((s.unfocus.openCores g d).take g.kernel.gang).zipIdx.foldl
      (fun t p => t.placeBlock g (i + p.2) p.1.1 p.1.2 d.words.share d.place)
      (s.unfocus.usePrint g.fn g.child g.kernel d.words.share g.rcd.waves)) := by
  have hfew : decide ((s.unfocus.openCores g d).length < g.kernel.gang) = false := decide_eq_false (Nat.not_lt.2 hcores)
  unfold State.openCores Grid.needOf at hfew ⊢
  simp only [exec, execBlockDispatch, State.unfocus_arg, hd, hg, hi, hw, hdisp, hcls, hch, hfew, hloupe, hturn, Option.isSome_none,
    Bool.not_true, Bool.or_self, Bool.false_eq_true, if_false]

/-- Settles O38: a record's two fates and the policy's refusal, a share's rewrite, and a dispatch, each by its equation. -/
theorem bindEventsHappen : Obligations.BindEventsHappen := by
  unfold Obligations.BindEventsHappen
  refine ⟨fun s ⟨hc, hok⟩ => ?installed, fun s ⟨hc, hbad⟩ => ?discarded, fun s h => exec_bindRecordInstall_of_not_chosen h,
    fun s h => exec_bindShareRewrite_of_no_slot h, fun s d g hd hw hsame hg hshare hprint => ?reshared, fun s _ => rfl,
    fun s d g i hd hg hi hw hdisp hcls hch hcores hloupe hturn => ?dispatched⟩
  case installed => exact (exec_bindRecordInstall_of_chosen hc).trans (congrArg Host.Outcome.next (if_pos hok))
  case discarded =>
    exact (exec_bindRecordInstall_of_chosen hc).trans (congrArg Host.Outcome.next (if_neg (ne_true_of_eq_false hbad)))
  case reshared => exact exec_bindShareRewrite_of_share hd hg (State.sharesOnly_iff.2 ⟨hw, hshare, hsame, hprint⟩)
  case dispatched => exact exec_blockDispatch hd hg hi hw hdisp hcls hch hcores hloupe (Grid.inTurn_iff.2 hturn)

end Sys2Proof.Machine
end

section
/-! Requests of adapters, and recovery (R422, R426, R427, R429–R431, R440). -/
namespace Sys2Proof.Machine

/-! ## Who asks -/

/-- Whether an adapter may write a function's windows and exports: the function's host, or F0's. -/
def State.administers (s : State) (fn adapter : Nat) : Bool := s.isHost fn adapter || s.isF0 adapter

theorem State.administers_iff {s : State} {fn adapter : Nat} :
    s.administers fn adapter = true ↔ s.isHost fn adapter = true ∨ s.isF0 adapter = true := Bool.or_eq_true_iff

/-- The host of function 0 is F0's, so that of an adapter that is not F0's host only the other functions are to be asked. -/
theorem State.administers_eq_false {s : State} {fn adapter : Nat} (hf : s.isF0 adapter = false)
    (h : 1 ≤ fn → s.isHost fn adapter = false) : s.administers fn adapter = false := by
  have hhost : s.isHost fn adapter = false := by
    rcases Nat.eq_zero_or_pos fn with rfl | hpos
    · exact hf
    · exact h hpos
  rw [State.administers, hhost, hf, Bool.or_self]

/-! ## Records -/

theorem exec_descRead {s : State} (ha : s.unfocus.awake = true) (hh : s.unfocus.anyHost s.unfocus.arg.adapter = true) :
    exec .descRead s = .next (s.unfocus.send "DESC" s.unfocus.arg.adapter s.unfocus.description) := by
  simp only [exec, execDescRead, ha, hh, Bool.not_true, Bool.false_eq_true, if_false, if_true]

theorem exec_quoteRecord {s : State} (ha : s.unfocus.awake = true) (hh : s.unfocus.anyHost s.unfocus.arg.adapter = true) :
    exec .quoteRecord s = .next (s.unfocus.passTime.send "QUOTE" s.unfocus.arg.adapter
      (s.unfocus.passTime.quote s.unfocus.arg.nonce ++ Config.certificate)) := by
  simp only [exec, execQuoteRecord, ha, hh, Bool.not_true, Bool.false_eq_true, if_false, if_true]

/-! ## Bindings -/

/-- Whether FNHOST may be carried out: F0's host binds an adapter to one of F1–F7. -/
def State.mayBind (s : State) : Prop :=
  s.isF0 s.arg.adapter = true ∧ 1 ≤ s.arg.fn ∧ s.arg.fn ≤ 7 ∧ s.arg.value.toNat < 4096

theorem exec_fnhost_of_bindable {s : State} (ha : s.unfocus.awake = true) (h : s.unfocus.mayBind) :
    exec .fnhost s = .next (let r := s.unfocus
      ({ r with hw := { r.hw with hosts := spSet 0 r.hw.hosts r.arg.fn (r.arg.value.toNat + 1) } } : State).send "FNHOST" r.arg.adapter []) := by
  unfold State.mayBind at h
  simp only [exec, execFnhost, ha, if_pos h, Bool.not_true, Bool.false_eq_true, if_false]

theorem exec_fnhost_of_not_bindable {s : State} (ha : s.unfocus.awake = true) (h : ¬s.unfocus.mayBind) :
    exec .fnhost s = .next (s.unfocus.opRefused s.unfocus.arg.adapter) := by
  unfold State.mayBind at h
  simp only [exec, execFnhost, ha, if_neg h, Bool.not_true, Bool.false_eq_true, if_false]

/-! ## Windows -/

/-- Whether a request to write a window's entry is within the limits, and the adapter's to make. -/
def State.windowOk (s : State) : Prop :=
  s.administers s.arg.fn s.arg.adapter = true ∧ s.arg.fn < 8 ∧ 1 ≤ s.arg.entry ∧ s.arg.entry ≤ 127

/-- The model's test of such a request is whether it is not. -/
theorem State.not_windowOk_iff {s : State} : ¬s.windowOk ↔
    (!(s.isHost s.arg.fn s.arg.adapter || s.isF0 s.arg.adapter)) = true ∨ 8 ≤ s.arg.fn ∨ s.arg.entry < 1 ∨ 127 < s.arg.entry := by
  simp only [State.windowOk, State.administers, not_and_or, Bool.not_eq_true', Bool.not_eq_true, Nat.not_lt, Nat.not_le]

theorem exec_windowWrite_of_idle {s : State} (ha : s.unfocus.awake = true) (h : s.unfocus.windowOk)
    (hb : s.unfocus.windowBusy s.unfocus.arg.fn s.unfocus.arg.entry = false) :
    exec .windowWrite s = .next (let r := s.unfocus
      ({ r with windows := spSet 0 r.windows (128 * r.arg.fn + r.arg.entry) (r.arg.value &&& 0x8000000000007FFF#64) } : State).send
        "WINDOW" r.arg.adapter []) := by
  simp only [exec, execWindowWrite, ha, if_neg (mt State.not_windowOk_iff.2 (not_not.2 h)), hb, Bool.not_true, Bool.false_eq_true, if_false]

theorem exec_windowWrite_of_not_ok {s : State} (ha : s.unfocus.awake = true) (h : ¬s.unfocus.windowOk) :
    exec .windowWrite s = .next (s.unfocus.opRefused s.unfocus.arg.adapter) := by
  simp only [exec, execWindowWrite, ha, if_pos (State.not_windowOk_iff.1 h), Bool.not_true, Bool.false_eq_true, if_false]

/-! ## Exports -/

/-- Whether a request to write one of the exports is within the limits, and the adapter's to make. -/
def State.exportOk (s : State) : Prop :=
  s.administers s.arg.fn s.arg.adapter = true ∧ s.arg.fn < 8 ∧ s.arg.entry ≤ 63 ∧ s.arg.value.toNat % 2 ^ 19 ≤ 262144

/-- The model's test of such a request is whether it is not. -/
theorem State.not_exportOk_iff {s : State} : ¬s.exportOk ↔
    (!(s.isHost s.arg.fn s.arg.adapter || s.isF0 s.arg.adapter)) = true ∨ 8 ≤ s.arg.fn ∨ 63 < s.arg.entry ∨
      262144 < s.arg.value.toNat % 2 ^ 19 := by
  simp only [State.exportOk, State.administers, not_and_or, Bool.not_eq_true', Bool.not_eq_true, Nat.not_lt, Nat.not_le]

theorem exec_exportWrite_of_idle {s : State} (ha : s.unfocus.awake = true) (h : s.unfocus.exportOk)
    (hb : s.unfocus.exportBusy s.unfocus.arg.fn s.unfocus.arg.entry = false) :
    exec .exportWrite s = .next (let r := s.unfocus
      let key := 128 * r.arg.fn + 2 * r.arg.entry
      ({ r with exports := spSet 0 (spSet 0 r.exports key (r.arg.value &&& 0xFFFFF0000007FFFF#64)) (key + 1)
                             (r.arg.value2 &&& 0x000FFFFFFFFF0000#64) } : State).send "EXPORT" r.arg.adapter []) := by
  simp only [exec, execExportWrite, ha, if_neg (mt State.not_exportOk_iff.2 (not_not.2 h)), hb, Bool.not_true, Bool.false_eq_true, if_false]

theorem exec_exportWrite_of_not_ok {s : State} (ha : s.unfocus.awake = true) (h : ¬s.unfocus.exportOk) :
    exec .exportWrite s = .next (s.unfocus.opRefused s.unfocus.arg.adapter) := by
  simp only [exec, execExportWrite, ha, if_pos (State.not_exportOk_iff.1 h), Bool.not_true, Bool.false_eq_true, if_false]

/-! ## Recovery -/

/-- A push on port 0 to a device in recovery, with which its flash is bootable. -/
theorem exec_imagePush {s : State} (hp : s.unfocus.hw.powered = true) (hr : s.unfocus.hw.running = false) (hport : s.unfocus.arg.port = 0)
    (hb : ((s.unfocus.flashed s.unfocus.arg.push).send "IMAGE" s.unfocus.arg.adapter []).bootable = true) :
    exec .imagePush s = .next (((s.unfocus.flashed s.unfocus.arg.push).send "IMAGE" s.unfocus.arg.adapter []).bringUp 4) := by
  simp only [exec, execImagePush, hp, hr, hport, hb, Bool.not_true, Bool.false_eq_true, ne_eq, not_true_eq_false, if_false, if_true]

end Sys2Proof.Machine
end

section
/-! Hand-off of grids, and what adapters' requests and hand-offs come to (R438, R439). -/
namespace Sys2Proof.Machine

/-! ## At the source -/

theorem exec_handoff {s : State} {g : Grid} (ha : s.unfocus.awake = true) (hg : s.unfocus.grid? s.unfocus.arg.grid = some g)
    (hf : s.unfocus.isF0 s.unfocus.arg.adapter = true) (hb : s.unfocus.handoffBad g = false) (ht : s.unfocus.arg.tag = false) :
    exec .handoff s = .next (let r := s.unfocus
      (r.handOver g r.arg.dev r.arg.other r.arg.q).send "HANDED_OFF" r.arg.adapter []) := by
  simp only [exec, execHandoff, ha, hg, hf, hb, ht, Bool.not_true, Bool.false_eq_true, or_self, if_false]

theorem exec_handoffTimeout {s : State} {g : Grid} (hg : s.unfocus.grid? s.unfocus.arg.grid = some g) (hs : g.status = none) :
    exec .handoffTimeout s = .next (s.unfocus.featureAbort g) := by
  simp only [exec, execHandoffTimeout, hg, hs, Option.isNone_none, if_true]

/-! ## At the target -/

/-- The grid of a record that arrives in a queue, before its checks. -/
def State.arrivingGrid (s : State) (fn q : Nat) : Grid :=
  { handle := 0, fn, child := s.routeOf fn q, queue := some q, level := b2n (bit (s.pr 0x809 fn 0 0).toNat q), fromHandoff := some false }

/-- A grid confined to the blocks listed: every other is given away. -/
def Grid.confined (g : Grid) (blocks : List Nat) : Grid :=
  { g with withdrawnBlocks := ((List.range g.rcd.blocks).filter fun i => !blocks.contains i).foldl (fun m i => spSet false m i true) [] }

/-- A record that arrives in a queue of an active or a stopped partition: refused with the reason that its checks give, or admitted for the
blocks listed. -/
theorem exec_handoffArrival {s : State} (ha : s.unfocus.awake = true) (hf : s.arg.fn < 8) (hq : s.arg.q < 64)
    (hen : bit (s.unfocus.pr 0x82A s.arg.fn 0 0).toNat s.arg.q = true) {child : Nat} (hchild : s.unfocus.routeOf s.arg.fn s.arg.q = child)
    (hp : s.unfocus.partState s.arg.fn child = 1 ∨ s.unfocus.partState s.arg.fn child = 3) :
    exec .handoffArrival s = .next (match (s.unfocus.checkLaunch s.arg.fn child s.arg.bytes).2 with
      | .error r => s.unfocus.send "HANDOFF_REFUSED" s.arg.dev (leBytes 4 r)
      | .ok _ => (s.unfocus.takeGrid (s.unfocus.arrivingGrid s.arg.fn s.arg.q) s.arg.bytes
          ((s.unfocus.cfgReg s.arg.fn (qReg s.arg.q 0xC)).toNat % 4)).mapGrid s.unfocus.nextGrid fun g => g.confined s.arg.blocks) := by
  subst hchild
  have hopen : (decide (s.unfocus.partState s.arg.fn (s.unfocus.routeOf s.arg.fn s.arg.q) = 1) ||
      decide (s.unfocus.partState s.arg.fn (s.unfocus.routeOf s.arg.fn s.arg.q) = 3)) = true := by simpa using hp
  have hgo : ¬((!s.unfocus.awake) = true ∨ 8 ≤ s.arg.fn ∨ 64 ≤ s.arg.q) := by simp [ha, hf, hq]
  simp only [exec, execHandoffArrival, State.unfocus_arg, if_neg hgo, hen, hopen, Bool.and_self, if_true]
  generalize (s.unfocus.checkLaunch s.arg.fn (s.unfocus.routeOf s.arg.fn s.arg.q) s.arg.bytes).2 = r
  cases r <;> rfl

/-- The source's report taken: its outcome is the grid's where it is an error, and the grid has none of its own. -/
def Grid.reported (g : Grid) (a : AbortInfo) : Grid :=
  { g with fromHandoff := some true, abort := if g.abort = none ∧ a.status ≠ 0 then some a else g.abort }

theorem exec_handoffRetireReport {s : State} {g : Grid} (hg : s.unfocus.grid? s.unfocus.arg.grid = some g)
    (hf : g.fromHandoff = some false) (hb : ∀ b ∈ s.unfocus.allBlocks, b.grid = g.handle → b.method ≠ none)
    (hr : g.abort ≠ none ∨ g.retired.length + g.withdrawnBlocks.length = g.rcd.blocks) :
    exec .handoffRetireReport s = .next (s.unfocus.mapGrid g.handle fun p => p.reported (outcomeOf s.unfocus.arg.bytes)) := by
  have hgone : (s.unfocus.allBlocks.any fun b => decide (b.grid = g.handle) && b.method.isNone) = false := by simpa using hb
  have hlisted : (g.abort.isSome || decide (g.retired.length + g.withdrawnBlocks.length = g.rcd.blocks)) = true := by
    simpa [Option.isSome_iff_ne_none] using hr
  simp only [exec, execHandoffRetireReport, hg, hf, hgone, hlisted, Bool.not_false, Bool.and_self, Bool.not_true, Bool.false_eq_true, ne_eq,
    not_true_eq_false, or_self, if_false, Option.isNone_iff_eq_none, Grid.reported]

/-- Settles O44: each request carried out or refused, and each step of a hand-off, by its equation. -/
theorem packageAndHandoffEventsHappen : Obligations.PackageAndHandoffEventsHappen := by
  unfold Obligations.PackageAndHandoffEventsHappen
  refine ⟨⟨fun s ⟨ha, hh⟩ => exec_descRead ha hh, fun s ⟨ha, hh⟩ => exec_quoteRecord ha hh, fun s ⟨ha, h⟩ => exec_fnhost_of_bindable ha h,
    fun s ⟨ha, hh, hf, h1, h127, hb⟩ => exec_windowWrite_of_idle ha ⟨State.administers_iff.2 hh, hf, h1, h127⟩ hb,
    fun s ⟨ha, hh, hf, h63, hpages, hb⟩ => exec_exportWrite_of_idle ha ⟨State.administers_iff.2 hh, hf, h63, hpages⟩ hb,
    fun s ⟨ha, hpages⟩ => ?tooLarge, fun s ⟨hp, hr, hport, hb⟩ => exec_imagePush hp hr hport hb, fun s ha hf => ⟨fun hh => ?notHost, ?notF0⟩⟩,
    fun s g hg ⟨ha, hf, hb, ht⟩ => ?handoff, fun s g hg hs => ?timeout, fun s ha hf hq hen => ?arrival,
    fun s g hg ⟨hf, hb, hr⟩ => ?report⟩
  case tooLarge => exact exec_exportWrite_of_not_ok ha fun ⟨_, _, _, hle⟩ => Nat.not_lt.2 hle hpages
  case notHost =>
    rw [← s.unfocus_arg] at hf hh ⊢
    have hnot := State.administers_eq_false hf hh
    exact ⟨exec_windowWrite_of_not_ok ha fun ⟨hadm, _⟩ => ne_true_of_eq_false hnot hadm,
      exec_exportWrite_of_not_ok ha fun ⟨hadm, _⟩ => ne_true_of_eq_false hnot hadm⟩
  case notF0 =>
    rw [← s.unfocus_arg] at hf ⊢
    exact exec_fnhost_of_not_bindable ha fun ⟨hF0, _⟩ => ne_true_of_eq_false hf hF0
  case handoff => exact exec_handoff ha (by rwa [State.unfocus_arg]) hf hb ht
  case timeout => exact exec_handoffTimeout (by rwa [State.unfocus_arg]) hs
  case arrival =>
    intro child level t hp
    rw [exec_handoffArrival ha hf hq hen rfl hp]
    generalize (s.unfocus.checkLaunch s.arg.fn child s.arg.bytes).2 = r
    cases r <;> rfl
  case report => exact exec_handoffRetireReport (by rwa [State.unfocus_arg]) hf hb hr

end Sys2Proof.Machine
end

section
/-! Accesses of other devices, and links that fail (R413, R430, R432, R433, R435–R437). -/
namespace Sys2Proof.Machine

/-! ## Accesses that arrive -/

section
variable {s : State} (ha : s.unfocus.awake = true) (hf : s.unfocus.arg.remote.tfn < 8)
include ha hf

/-- A request for one of the eight functions, at a device that is up: a COMB packet, or an access. -/
theorem exec_remoteAccessArrival : exec .remoteAccessArrival s =
    .next (if s.arg.remote.kind = 3 then s.unfocus.remoteComb s.arg else s.unfocus.remoteAccess s.arg.remote) := by
  have hgo : ¬((!s.unfocus.awake) = true ∨ 8 ≤ s.unfocus.arg.remote.tfn) := not_or.2 ⟨by rw [ha]; decide, Nat.not_le.2 hf⟩
  rw [← s.unfocus_arg]
  exact if_neg hgo

theorem exec_remoteAccessArrival_of_access (hk : s.arg.remote.kind ≠ 3) {t : State} (h : s.unfocus.remoteAccess s.arg.remote = t) :
    exec .remoteAccessArrival s = .next t := by
  rw [exec_remoteAccessArrival ha hf, if_neg hk, h]

theorem exec_remoteAccessArrival_of_comb (hk : s.arg.remote.kind = 3) :
    exec .remoteAccessArrival s = .next (s.unfocus.remoteComb s.arg) := by
  rw [exec_remoteAccessArrival ha hf, if_pos hk]

end

section
variable {s : State} {r : RemoteReq} {va a : Nat}

/-- The package's walk for an access whose entry serves it. -/
def State.walkedFor (s : State) (r : RemoteReq) (va : Nat) : State := (s.bookFlit r.tfn 0).devWalk r.tfn 0 va

/-- The reads at an access's home: what is correctable there is written back corrected, and the line is touched. -/
def State.readFor (s : State) (r : RemoteReq) (a : Nat) : State := (s.scrub r.tfn .mem a r.bytes).touch r.tfn 0 a r.bytes false

/-- What no entry serves has no place. -/
theorem State.exported_of_no_va (h : s.exportedVa r = none) : s.exported r = none := by
  rw [State.exported, h]
  rfl

theorem State.remoteAccess_of_no_va (h : (s.bookFlit r.tfn 0).exportedVa r = none) :
    s.remoteAccess r = (s.bookFlit r.tfn 0).remoteRefused r := by
  simp only [State.remoteAccess, h, State.exported_of_no_va h]

theorem State.remoteAccess_of_no_place (h : (s.bookFlit r.tfn 0).exportedVa r = some va) (hp : (s.walkedFor r va).exported r = none) :
    s.remoteAccess r = (s.walkedFor r va).remoteRefused r := by
  unfold State.walkedFor at hp ⊢
  simp only [State.remoteAccess, h, hp]

variable (h : (s.bookFlit r.tfn 0).exportedVa r = some va) {u : State} (hu : s.walkedFor r va = u) (hp : u.exported r = some a)
include h hu hp

/-- A load answered with the bytes at its place, as an error where they are poisoned. -/
theorem State.remoteAccess_of_load (hk : r.kind = 0) {old : List Byte × Bool} (ho : u.fetchAt .mem a r.bytes = old) :
    s.remoteAccess r =
      (if old.2 then (u.readFor r a).logPoison r.tfn a else u.readFor r a).remoteAnswer r old.2 [ofLe old.1] := by
  unfold State.walkedFor at hu
  simp only [State.remoteAccess, h, hu, hp, hk, ho, State.readFor]

theorem State.remoteAccess_of_store (hk : r.kind = 1) :
    s.remoteAccess r = (u.storeAt r.tfn .mem a (leBytes r.bytes r.data.toNat)).remoteAnswer r false [] := by
  unfold State.walkedFor at hu
  simp only [State.remoteAccess, h, hu, hp, hk]

theorem State.remoteAccess_of_cwb (hk : r.kind = 4) : s.remoteAccess r = (u.remoteCwb r a).remoteAnswer r false [] := by
  unfold State.walkedFor at hu
  simp only [State.remoteAccess, h, hu, hp, hk]

/-- An atomic's group performed in order on the word at its place; a poisoned one is left as it is, and answered with an error. -/
theorem State.remoteAccess_of_atomic (hk : r.kind = 2) {old : List Byte × Bool} (ho : u.fetchAt .mem a r.bytes = old) :
    s.remoteAccess r =
      let t := (u.readFor r a).bookSlice r.tfn 0 (u.homeOf a) [(.homeatom, 1)]
      if old.2 then (t.logPoison r.tfn a).remoteAnswer r true []
      else
        let w := applyLanes r.aop r.ty r.mode.toNat (remoteGroup r) (ofLe old.1)
        (t.storeAt r.tfn .mem a (leBytes r.bytes w.1)).remoteAnswer r false (w.2.map (·.2)) := by
  unfold State.walkedFor at hu
  simp only [State.remoteAccess, h, hu, hp, hk, ho, State.readFor]

end

/-! ## COMB packets that arrive -/

/-- A COMB packet that entry 0 and the table admit is queued at the ingress of its object's home, under a number of its own. -/
theorem State.remoteComb_of_admitted {s : State} {e : EvArg} {u : State} {o : Obj}
    (hu : ({ s.bookFlit e.remote.tfn 0 with nextOp := s.nextOp + 1 } : State) = u)
    (hsrc : u.sourceOk e.remote.tfn 0 e.remote.dev e.remote.srcFn = true) (hcomb : bit (u.exportWord e.remote.tfn 0 0) 60 = true)
    (ho : u.objOf e.remote.tfn (e.remote.offset % 2 ^ 24) = some o) :
    s.remoteComb e =
      let num := remoteBase + s.nextOp
      let id := e.remote.offset % 2 ^ 24
      let k := u.chuck (u.homeOf o.pa)
      u.setChuck (u.homeOf o.pa)
        { k with ingress := k.ingress ++ [⟨num, e.remote.tfn, id, remoteReqs e (id % 4096) num, [remoteBase + e.remote.dev]⟩] } := by
  simp only [State.remoteComb, hu, hsrc, hcomb, ho, Bool.and_self, Bool.not_true, Bool.false_eq_true, if_false]

/-! ## Answers that do not come -/

/-- The lanes of what an operation has in a window and no answer has come for. -/
def Op.remoteLanes (o : Op) : Mask := maskOf ((o.undone.filter (·.space = .remote)).map (·.lane))

theorem exec_remoteTimeout_of_store {s : State} {o : Op} (ho : s.unfocus.op? s.arg.op = some o) (hk : o.kind = .store) :
    exec .remoteTimeout s = .next (s.unfocus.performStores o.id o.remoteLanes true) := by
  simp only [exec, execRemoteTimeout, State.unfocus_arg, ho, hk, Op.remoteLanes]

theorem exec_remoteTimeout_of_load {s : State} {o : Op} {ty : Nat} {d : Option Dst} (ho : s.unfocus.op? s.arg.op = some o)
    (hk : o.kind = .load ty d) : exec .remoteTimeout s = .next (s.unfocus.performLoads o.id o.remoteLanes true) := by
  simp only [exec, execRemoteTimeout, State.unfocus_arg, ho, hk, Op.remoteLanes]

/-! ## Links and expanders -/

/-- A die pair's link logged and marked down. -/
def State.cutLink (s : State) (p : Nat) : State :=
  { s.logErr 0 { code := 0x71, info := BitVec.ofNat 64 p } with hw := { s.hw with linksDown := s.hw.linksDown ++ [p] } }

/-- A link that goes down; where a die is reached no more, the device resets with cause 5. -/
theorem exec_dieLinkDown {s : State} (hp : s.unfocus.arg.port < 6) (hd : s.unfocus.hw.linksDown.contains s.unfocus.arg.port = false)
    (ha : s.unfocus.awake = true) :
    exec .dieLinkDown s = .next (let t := s.unfocus.cutLink s.unfocus.arg.port
      if (reached t.hw.linksDown 3 [0]).length = 4 then t else t.warmReset 5) := by
  have hgo : ¬(6 ≤ s.unfocus.arg.port ∨ s.unfocus.hw.linksDown.contains s.unfocus.arg.port = true ∨ (!s.unfocus.awake) = true) :=
    not_or.2 ⟨Nat.not_le.2 hp, not_or.2 ⟨ne_true_of_eq_false hd, by rw [ha]; decide⟩⟩
  exact if_neg hgo

theorem exec_fabricPortDown {s : State} (hp : s.unfocus.arg.port < 8)
    (hd : s.unfocus.hw.portsDown.contains s.unfocus.arg.port = false) :
    exec .fabricPortDown s = .next (let r := s.unfocus
      { r.logErr 0 { code := 0x71, info := BitVec.ofNat 64 r.arg.port } with
        hw := { r.hw with portsDown := r.hw.portsDown ++ [r.arg.port] } }) := by
  have hgo : ¬(8 ≤ s.unfocus.arg.port ∨ s.unfocus.hw.portsDown.contains s.unfocus.arg.port = true) :=
    not_or.2 ⟨Nat.not_le.2 hp, ne_true_of_eq_false hd⟩
  exact if_neg hgo

theorem exec_cxlLinkFail {s : State} (hd : s.unfocus.hw.cxlDown.contains s.unfocus.arg.port = false)
    (he : ∃ e ∈ s.unfocus.hw.cxl, e.1 = s.unfocus.arg.port) :
    exec .cxlLinkFail s = .next (let r := s.unfocus
      { r.logErr 0 { code := 0x71, info := BitVec.ofNat 64 r.arg.port } with
        hw := { r.hw with cxlDown := r.hw.cxlDown ++ [r.arg.port] } }) := by
  have hthere : (s.unfocus.hw.cxl.any fun e => e.1 = s.unfocus.arg.port) = true := by
    rw [List.any_eq_true]
    simpa only [decide_eq_true_eq] using he
  have hgo : ¬(s.unfocus.hw.cxlDown.contains s.unfocus.arg.port = true ∨
      (!(s.unfocus.hw.cxl.any fun e => e.1 = s.unfocus.arg.port)) = true) :=
    not_or.2 ⟨ne_true_of_eq_false hd, by rw [hthere]; decide⟩
  exact if_neg hgo

/-- Settles O45: an access by the entry that serves it, or does not, and by its kind, and each failure by its equation. -/
theorem fabricEventsHappen : Obligations.FabricEventsHappen := by
  unfold Obligations.FabricEventsHappen
  intro due come
  refine ⟨fun s va a ⟨ha, hf⟩ hva => ?admitted, fun s ⟨ha, hf⟩ hk hva => ?unserved, fun s va ⟨ha, hf⟩ hk hva => ?unmapped,
    fun s o ⟨ha, hf⟩ hk => ?comb, fun s o ho hk => exec_remoteTimeout_of_store ho hk,
    fun s o ho ⟨ty, d, hk⟩ => exec_remoteTimeout_of_load ho hk,
    fun s ⟨hp, hd, ha⟩ => exec_dieLinkDown hp hd ha, fun s ⟨hp, hd⟩ => exec_fabricPortDown hp hd, fun s ⟨hd, he⟩ => exec_cxlLinkFail hd he⟩
  case admitted =>
    intro r u hp read old
    have arrives {t : State} (hk : r.kind ≠ 3) (h : s.unfocus.remoteAccess r = t) : exec .remoteAccessArrival s = .next t :=
      exec_remoteAccessArrival_of_access ha hf hk h
    refine ⟨fun hk hclean => ?load, fun hk hbad => ?loadPoisoned, fun hk => ?store, fun hk => ?cwb, fun hk hclean => ?atomic,
      fun hk hbad => ?atomicPoisoned⟩
    case load =>
      refine arrives (by omega) ((State.remoteAccess_of_load hva rfl hp hk (old := old) rfl).trans ?_)
      rw [hclean]
      rfl
    case loadPoisoned =>
      refine arrives (by omega) ((State.remoteAccess_of_load hva rfl hp hk (old := old) rfl).trans ?_)
      rw [hbad]
      rfl
    case store => exact arrives (by omega) (State.remoteAccess_of_store hva rfl hp hk)
    case cwb => exact arrives (by omega) (State.remoteAccess_of_cwb hva rfl hp hk)
    case atomic => exact arrives (by omega) ((State.remoteAccess_of_atomic hva rfl hp hk rfl).trans (if_neg (ne_true_of_eq_false hclean)))
    case atomicPoisoned => exact arrives (by omega) ((State.remoteAccess_of_atomic hva rfl hp hk rfl).trans (if_pos hbad))
  case unserved => exact exec_remoteAccessArrival_of_access ha hf hk (State.remoteAccess_of_no_va hva)
  case unmapped => exact fun hp => exec_remoteAccessArrival_of_access ha hf hk (State.remoteAccess_of_no_place hva hp)
  case comb =>
    intro r u hsrc hcomb ho k num
    rw [exec_remoteAccessArrival_of_comb ha hf hk, State.remoteComb_of_admitted rfl hsrc hcomb ho]

end Sys2Proof.Machine
end
